-- ==== Sys2Proof/Word.lean ====
section
/-! DEFINITION. The widths of the Pyrnus P9's words and their plainest arithmetic (spec/00 R2). -/
namespace Sys2Proof

/-- One byte of memory. -/
abbrev Byte := BitVec 8
/-- One Sniuth instruction word (R48). -/
abbrev Word := BitVec 32
/-- One S register, one address (R94, R222). -/
abbrev DWord := BitVec 64
/-- The bits of a capability, without its tag (R167). -/
abbrev CapBits := BitVec 128

end Sys2Proof
end

