-- ==== Sys2Proof/Config.lean ====
section
/-! DEFINITION. What the spec leaves open: the free values (log 5), without bodies, and the constants of the part. -/
namespace Sys2Proof.Config

/-- A free choice among the members of a set that the spec names, applied to State.fresh (log 5). -/
opaque freePick : Nat → Nat

/-- A free value where the spec gives an effect and states no value, applied to State.fresh (log 5). -/
opaque freeValue : Nat → BitVec 64

/-- R10: alcoves of the device. -/
def alcoves : Nat := 768
/-- R13: wave slots of an alcove. -/
def waveSlots : Nat := 16
/-- R12: wings. -/
def wings : Nat := 256
/-- R198: pages of 4 KiB in one scratch bank. -/
def pagesPerBank : Nat := 24
/-- R21: the value NOJOIN. -/
def noJoin : BitVec 64 := 0xFFFF_FFFF_FFFF_FFFF
/-- R306: instructions that may still issue after a halt broadcast. -/
def skidLimit : Nat := 24
/-- R202: the largest value of an in-flight counter. -/
def counterMax : Nat := 65535
/-- R411: budget units of one stack in one window. -/
def stackCapacity : Nat := 937500
/-- R425: the threshold of an element's count of corrected errors, applied to the element's key (`elemKey`). -/
opaque correctedLimit : Nat → Nat
/-- R410: a world key, applied to State.fresh. -/
opaque worldKey : Nat → BitVec 512

/-- R318, R413: the bytes of the alcove contexts of an image, whose encoding the spec does not give, applied to its number. -/
opaque contextBytes : Nat → List (BitVec 8)

/-- R10: DRAM stacks. -/
def dramStacks : Nat := 24
/-- R15: the bytes of DRAM. -/
def dramBytes : Nat := 2304 * 2 ^ 30

end Sys2Proof.Config
end

