-- ==== Sys2Proof/Syntax.lean ====
section
/-! DEFINITION. The instructions and steps of the device: one constructor for each row of spec/opcode_table.json. -/
namespace Sys2Proof

/-- What the model keeps of the header of a host message (R418): the association that carried it, the
requester's TOKEN, the key generation and the target wing. OPCODE is the constructor's. -/
structure HostHdr where
  assoc : Nat
  token : BitVec 32
  kgen  : BitVec 2
  wing  : BitVec 8
  len   : BitVec 32 := 0
  deriving DecidableEq, Repr, Inhabited

/-- A world's quotas as the quota command carries them (R412, R404). -/
structure QuotaSpec where
  l2q    : Nat
  l2p    : Nat
  budget : Nat
  msp    : List (BitVec 16)
  deriving DecidableEq, Repr, Inhabited

/-- One node of a graph-create command (R419, 0x14): capabilities travel as images without tags. -/
structure NodeSpec where
  recSize  : Nat
  count    : Nat
  capacity : Nat
  timer    : Nat
  prio     : Nat
  idem     : Bool
  code     : BitVec 128
  args     : BitVec 128
  supv     : BitVec 128
  seed     : BitVec 64
  dixb     : BitVec 64
  geom     : BitVec 64
  res      : BitVec 64
  privsz   : BitVec 32
  deriving DecidableEq, Repr, Inhabited

/-- A pool region of a bind command (R337): party, record kind, region base (IPA) and CAP. -/
structure PoolSpec where
  party : Bool
  kind  : Nat
  base  : BitVec 48
  cap   : Nat
  deriving DecidableEq, Repr, Inhabited

/-- The payload of the bind command (R334, R419 0x16). `wing0` is to take role 0 and `wing1` role 1. -/
structure BindSpec where
  wing0   : Nat
  wing1   : Nat
  pools   : List PoolSpec
  firstId : BitVec 40
  timeout : BitVec 16
  reveal0 : Bool
  reveal1 : Bool
  deriving DecidableEq, Repr, Inhabited

/-- The trigger events that a snapshot-arm command chooses (R426). -/
structure ArmSpec where
  program : Bool
  causes  : List (BitVec 8)
  reset   : Bool
  uncorr  : Bool
  deriving DecidableEq, Repr, Inhabited

/-- The kinds of Ballast (R19, R425). -/
inductive SpareKind where
  | core | l2Slice | dram | linkLane
  deriving DecidableEq, Repr, Inhabited

/-- One constructor for each row of the opcode table. A word instruction carries the fields of its word,
`sw` being the switch marker of bit [31] (R48); a row without a word carries what its event names. -/
inductive Instr where
  /-- SETM, R99. -/
  | setm (sw : Bool) (h : Bool) (i : BitVec 16)
  /-- SETMS, R100. -/
  | setms (sw : Bool) (a : BitVec 7)
  /-- GETM, R101. -/
  | getm (sw : Bool) (d : BitVec 7)
  /-- NOP, R102. -/
  | nop (sw : Bool)
  /-- BRA, R103. -/
  | bra (sw : Bool) (j : BitVec 23)
  /-- BRP, R28. -/
  | brp (sw : Bool) (p : BitVec 3) (n : Bool) (j : BitVec 19)
  /-- SJOIN, R105. -/
  | sjoin (sw : Bool) (j : BitVec 23)
  /-- JOIN, R28. -/
  | join (sw : Bool)
  /-- CALL, R110. -/
  | call (sw : Bool) (j : BitVec 23)
  /-- RET, R111. -/
  | ret (sw : Bool) (a : BitVec 7)
  /-- JMPC, R112. -/
  | jmpc (sw : Bool) (a : BitVec 7)
  /-- JMPC_LINK, R112. -/
  | jmpcLink (sw : Bool) (d : BitVec 7) (a : BitVec 7)
  /-- EXIT, R28. -/
  | exit (sw : Bool)
  /-- YIELD, R104. -/
  | yield (sw : Bool)
  /-- SADD, R113. -/
  | sadd (sw : Bool) (d : BitVec 7) (a : BitVec 7) (b : BitVec 7) (i : Bool)
  /-- SSUB, R113. -/
  | ssub (sw : Bool) (d : BitVec 7) (a : BitVec 7) (b : BitVec 7) (i : Bool)
  /-- SMUL, R113. -/
  | smul (sw : Bool) (d : BitVec 7) (a : BitVec 7) (b : BitVec 7) (i : Bool)
  /-- SMULH, R113. -/
  | smulh (sw : Bool) (d : BitVec 7) (a : BitVec 7) (b : BitVec 7) (i : Bool) (u : Bool)
  /-- SAND, R113. -/
  | sand (sw : Bool) (d : BitVec 7) (a : BitVec 7) (b : BitVec 7) (i : Bool)
  /-- SOR, R113. -/
  | sor (sw : Bool) (d : BitVec 7) (a : BitVec 7) (b : BitVec 7) (i : Bool)
  /-- SXOR, R113. -/
  | sxor (sw : Bool) (d : BitVec 7) (a : BitVec 7) (b : BitVec 7) (i : Bool)
  /-- SSHL, R113. -/
  | sshl (sw : Bool) (d : BitVec 7) (a : BitVec 7) (b : BitVec 7) (i : Bool)
  /-- SSHR, R113. -/
  | sshr (sw : Bool) (d : BitVec 7) (a : BitVec 7) (b : BitVec 7) (i : Bool)
  /-- SSRA, R113. -/
  | ssra (sw : Bool) (d : BitVec 7) (a : BitVec 7) (b : BitVec 7) (i : Bool)
  /-- SMIN, R113. -/
  | smin (sw : Bool) (d : BitVec 7) (a : BitVec 7) (b : BitVec 7) (i : Bool) (u : Bool)
  /-- SMAX, R113. -/
  | smax (sw : Bool) (d : BitVec 7) (a : BitVec 7) (b : BitVec 7) (i : Bool) (u : Bool)
  /-- SCMP, R114. -/
  | scmp (sw : Bool) (c : BitVec 4) (p : BitVec 3) (a : BitVec 7) (b : BitVec 7) (i : Bool) (u : Bool)
  /-- SSEL, R115. -/
  | ssel (sw : Bool) (d : BitVec 7) (a : BitVec 7) (b : BitVec 7)
  /-- SBFX, R116. -/
  | sbfx (sw : Bool) (d : BitVec 7) (a : BitVec 7) (b : BitVec 7) (x : Bool)
  /-- SPOPC, R117. -/
  | spopc (sw : Bool) (d : BitVec 7) (a : BitVec 7)
  /-- SPOPC_P, R117. -/
  | spopcP (sw : Bool) (d : BitVec 7) (a : BitVec 7)
  /-- SMOVI, R118. -/
  | smovi (sw : Bool) (d : BitVec 7) (i : BitVec 16)
  /-- SLUI, R118. -/
  | slui (sw : Bool) (d : BitVec 7) (i : BitVec 16)
  /-- PAND, R119. -/
  | pand (sw : Bool) (d : BitVec 7) (a : BitVec 7) (b : BitVec 7)
  /-- POR, R119. -/
  | por (sw : Bool) (d : BitVec 7) (a : BitVec 7) (b : BitVec 7)
  /-- PXOR, R119. -/
  | pxor (sw : Bool) (d : BitVec 7) (a : BitVec 7) (b : BitVec 7)
  /-- PNOT, R119. -/
  | pnot (sw : Bool) (d : BitVec 7) (a : BitVec 7)
  /-- PMOV, R119. -/
  | pmov (sw : Bool) (d : BitVec 7) (a : BitVec 7)
  /-- PMOV_FROM_S, R119. -/
  | pmovFromS (sw : Bool) (d : BitVec 7) (a : BitVec 7)
  /-- PMOV_TO_S, R119. -/
  | pmovToS (sw : Bool) (d : BitVec 7) (a : BitVec 7)
  /-- PMOV_MASK, R119. -/
  | pmovMask (sw : Bool) (d : BitVec 7)
  /-- VADD, R144. -/
  | vadd (sw : Bool) (d : BitVec 7) (a : BitVec 7) (b : BitVec 7) (i : Bool)
  /-- VSUB, R144. -/
  | vsub (sw : Bool) (d : BitVec 7) (a : BitVec 7) (b : BitVec 7) (i : Bool)
  /-- VMUL, R144. -/
  | vmul (sw : Bool) (d : BitVec 7) (a : BitVec 7) (b : BitVec 7) (i : Bool)
  /-- VMULH, R144. -/
  | vmulh (sw : Bool) (d : BitVec 7) (a : BitVec 7) (b : BitVec 7) (i : Bool)
  /-- VMAD, R144. -/
  | vmad (sw : Bool) (d : BitVec 7) (a : BitVec 7) (b : BitVec 7) (i : Bool)
  /-- VMIN, R145. -/
  | vmin (sw : Bool) (d : BitVec 7) (a : BitVec 7) (b : BitVec 7) (i : Bool)
  /-- VMAX, R145. -/
  | vmax (sw : Bool) (d : BitVec 7) (a : BitVec 7) (b : BitVec 7) (i : Bool)
  /-- VABS, R145. -/
  | vabs (sw : Bool) (d : BitVec 7) (a : BitVec 7)
  /-- VNEG, R145. -/
  | vneg (sw : Bool) (d : BitVec 7) (a : BitVec 7)
  /-- VAND, R146. -/
  | vand (sw : Bool) (d : BitVec 7) (a : BitVec 7) (b : BitVec 7) (i : Bool)
  /-- VOR, R146. -/
  | vor (sw : Bool) (d : BitVec 7) (a : BitVec 7) (b : BitVec 7) (i : Bool)
  /-- VXOR, R146. -/
  | vxor (sw : Bool) (d : BitVec 7) (a : BitVec 7) (b : BitVec 7) (i : Bool)
  /-- VNOT, R146. -/
  | vnot (sw : Bool) (d : BitVec 7) (a : BitVec 7)
  /-- VSHL, R146. -/
  | vshl (sw : Bool) (d : BitVec 7) (a : BitVec 7) (b : BitVec 7) (i : Bool)
  /-- VSHR, R146. -/
  | vshr (sw : Bool) (d : BitVec 7) (a : BitVec 7) (b : BitVec 7) (i : Bool)
  /-- VSRA, R146. -/
  | vsra (sw : Bool) (d : BitVec 7) (a : BitVec 7) (b : BitVec 7) (i : Bool)
  /-- VCMP, R147. -/
  | vcmp (sw : Bool) (c : BitVec 4) (p : BitVec 3) (a : BitVec 7) (b : BitVec 7) (i : Bool)
  /-- VSEL, R148. -/
  | vsel (sw : Bool) (d : BitVec 7) (a : BitVec 7) (b : BitVec 7) (i : Bool)
  /-- VMOV, R148. -/
  | vmov (sw : Bool) (d : BitVec 7) (a : BitVec 7)
  /-- VMOV_IMM, R148. -/
  | vmovImm (sw : Bool) (d : BitVec 7) (b : BitVec 7)
  /-- VMOVS, R149. -/
  | vmovs (sw : Bool) (d : BitVec 7) (a : BitVec 7)
  /-- VMOVS_TO_S, R149. -/
  | vmovsToS (sw : Bool) (d : BitVec 7) (a : BitVec 7)
  /-- VLID, R149. -/
  | vlid (sw : Bool) (d : BitVec 7) (g : Bool)
  /-- VCLZ, R150. -/
  | vclz (sw : Bool) (d : BitVec 7) (a : BitVec 7)
  /-- VPOPC, R150. -/
  | vpopc (sw : Bool) (d : BitVec 7) (a : BitVec 7)
  /-- VDIV, R151. -/
  | vdiv (sw : Bool) (d : BitVec 7) (a : BitVec 7) (b : BitVec 7) (i : Bool)
  /-- VRCP, R152. -/
  | vrcp (sw : Bool) (d : BitVec 7) (a : BitVec 7)
  /-- VRSQ, R152. -/
  | vrsq (sw : Bool) (d : BitVec 7) (a : BitVec 7)
  /-- VEX2, R152. -/
  | vex2 (sw : Bool) (d : BitVec 7) (a : BitVec 7)
  /-- VLG2, R152. -/
  | vlg2 (sw : Bool) (d : BitVec 7) (a : BitVec 7)
  /-- VSQRT, R152. -/
  | vsqrt (sw : Bool) (d : BitVec 7) (a : BitVec 7)
  /-- VCVT, R153. -/
  | vcvt (sw : Bool) (d : BitVec 7) (a : BitVec 7)
  /-- VPACK, R154. -/
  | vpack (sw : Bool) (d : BitVec 7) (a : BitVec 7) (b : BitVec 7) (h : Bool)
  /-- VUNPK, R155. -/
  | vunpk (sw : Bool) (d : BitVec 7) (a : BitVec 7) (g : BitVec 7)
  /-- VQNT, R156. -/
  | vqnt (sw : Bool) (d : BitVec 7) (a : BitVec 7) (b : BitVec 7)
  /-- VDQNT, R157. -/
  | vdqnt (sw : Bool) (d : BitVec 7) (a : BitVec 7) (b : BitVec 7)
  /-- VCBK, R158. -/
  | vcbk (sw : Bool) (d : BitVec 7) (a : BitVec 7) (b : BitVec 7)
  /-- VRNG, R159. -/
  | vrng (sw : Bool) (d : BitVec 7) (b : BitVec 7) (i : Bool)
  /-- RSEED, R160. -/
  | rseed (sw : Bool) (d : BitVec 7) (a : BitVec 7)
  /-- VSHFL, R162. -/
  | vshfl (sw : Bool) (d : BitVec 7) (a : BitVec 7) (b : BitVec 7) (i : Bool)
  /-- VBFLY, R162. -/
  | vbfly (sw : Bool) (d : BitVec 7) (a : BitVec 7) (b : BitVec 7)
  /-- VBALL, R163. -/
  | vball (sw : Bool) (d : BitVec 7) (a : BitVec 7)
  /-- VANY, R163. -/
  | vany (sw : Bool) (d : BitVec 7) (a : BitVec 7)
  /-- VALL, R163. -/
  | vall (sw : Bool) (d : BitVec 7) (a : BitVec 7)
  /-- VSCAN, R164. -/
  | vscan (sw : Bool) (d : BitVec 7) (a : BitVec 7) (x : Bool)
  /-- VMXIX, R165. -/
  | vmxix (sw : Bool) (d : BitVec 7) (a : BitVec 7) (b : BitVec 7)
  /-- VMXIX_C, R165. -/
  | vmxixC (sw : Bool) (d : BitVec 7) (a : BitVec 7) (b : BitVec 7)
  /-- VMXIX_D, R165. -/
  | vmxixD (sw : Bool) (d : BitVec 7) (a : BitVec 7)
  /-- VREDS, R166. -/
  | vreds (sw : Bool) (d : BitVec 7) (a : BitVec 7) (x : Bool)
  /-- CGETA, R188. -/
  | cgeta (sw : Bool) (d : BitVec 7) (a : BitVec 7)
  /-- CGETB, R188. -/
  | cgetb (sw : Bool) (d : BitVec 7) (a : BitVec 7)
  /-- CGETL, R188. -/
  | cgetl (sw : Bool) (d : BitVec 7) (a : BitVec 7)
  /-- CGETP, R188. -/
  | cgetp (sw : Bool) (d : BitVec 7) (a : BitVec 7)
  /-- CGETT, R188. -/
  | cgett (sw : Bool) (d : BitVec 7) (a : BitVec 7)
  /-- CSETA, R189. -/
  | cseta (sw : Bool) (d : BitVec 7) (a : BitVec 7) (b : BitVec 7) (x : Bool)
  /-- CINC, R189. -/
  | cinc (sw : Bool) (d : BitVec 7) (a : BitVec 7) (i : BitVec 9)
  /-- CSETB, R190. -/
  | csetb (sw : Bool) (d : BitVec 7) (a : BitVec 7) (b : BitVec 7) (x : Bool)
  /-- CPRUNE, R191. -/
  | cprune (sw : Bool) (d : BitVec 7) (a : BitVec 7) (b : BitVec 7)
  /-- CSEAL, R192. -/
  | cseal (sw : Bool) (d : BitVec 7) (a : BitVec 7) (b : BitVec 7)
  /-- CUNSL, R192. -/
  | cunsl (sw : Bool) (d : BitVec 7) (a : BitVec 7) (b : BitVec 7)
  /-- CMOV, R193. -/
  | cmov (sw : Bool) (d : BitVec 7) (a : BitVec 7)
  /-- CMOV_S, R193. -/
  | cmovS (sw : Bool) (d : BitVec 7) (a : BitVec 7)
  /-- CMOV_FROM_VC, R193. -/
  | cmovFromVc (sw : Bool) (d : BitVec 7) (a : BitVec 7)
  /-- CMOV_TO_VC, R193. -/
  | cmovToVc (sw : Bool) (d : BitVec 7) (a : BitVec 7)
  /-- CMOV_VC, R193. -/
  | cmovVc (sw : Bool) (d : BitVec 7) (a : BitVec 7)
  /-- CTEST, R194. -/
  | ctest (sw : Bool) (d : BitVec 7) (a : BitVec 7) (b : BitVec 7)
  /-- CLDC, R195. -/
  | cldc (sw : Bool) (t : BitVec 7) (c : BitVec 5) (o : BitVec 7) (i : BitVec 4)
  /-- CSTC, R195. -/
  | cstc (sw : Bool) (t : BitVec 7) (c : BitVec 5) (o : BitVec 7) (i : BitVec 4)
  /-- VCLD, R196. -/
  | vcld (sw : Bool) (t : BitVec 7) (c : BitVec 5) (o : BitVec 7) (i : BitVec 4)
  /-- VCST, R196. -/
  | vcst (sw : Bool) (t : BitVec 7) (c : BitVec 5) (o : BitVec 7) (i : BitVec 4)
  /-- LD, R211. -/
  | ld (sw : Bool) (t : BitVec 7) (c : BitVec 5) (o : BitVec 7) (i : BitVec 4)
  /-- ST, R211. -/
  | st (sw : Bool) (t : BitVec 7) (c : BitVec 5) (o : BitVec 7) (i : BitVec 4)
  /-- LDU, R211. -/
  | ldu (sw : Bool) (t : BitVec 7) (c : BitVec 5) (o : BitVec 7) (i : BitVec 4)
  /-- STU, R211. -/
  | stu (sw : Bool) (t : BitVec 7) (c : BitVec 5) (o : BitVec 7) (i : BitVec 4)
  /-- LDS, R212. -/
  | lds (sw : Bool) (t : BitVec 7) (c : BitVec 5) (o : BitVec 7) (i : BitVec 4)
  /-- STS, R212. -/
  | sts (sw : Bool) (t : BitVec 7) (c : BitVec 5) (o : BitVec 7) (i : BitVec 4)
  /-- GATH, R215. -/
  | gath (sw : Bool) (t : BitVec 7) (c : BitVec 5) (o : BitVec 7) (i : BitVec 4)
  /-- SCAT, R215. -/
  | scat (sw : Bool) (t : BitVec 7) (c : BitVec 5) (o : BitVec 7) (i : BitVec 4)
  /-- PREF, R214. -/
  | pref (sw : Bool) (t : BitVec 7) (c : BitVec 5) (o : BitVec 7) (i : BitVec 4)
  /-- LDAC, R213. -/
  | ldac (sw : Bool) (t : BitVec 7) (c : BitVec 5) (o : BitVec 7) (e : BitVec 3)
  /-- STRL, R213. -/
  | strl (sw : Bool) (t : BitVec 7) (c : BitVec 5) (o : BitVec 7) (e : BitVec 3)
  /-- WAITC, R220. -/
  | waitc (sw : Bool) (d : BitVec 7) (a : BitVec 7) (b : BitVec 7) (i : Bool)
  /-- RDCNT, R220. -/
  | rdcnt (sw : Bool) (d : BitVec 7) (a : BitVec 7) (e : Bool)
  /-- TCPY, R217. -/
  | tcpy (sw : Bool) (t : BitVec 7) (c : BitVec 5) (o : BitVec 7) (i : BitVec 4)
  /-- BCPY, R218. -/
  | bcpy (sw : Bool) (t : BitVec 7) (c : BitVec 5) (o : BitVec 7)
  /-- PUBL, R219. -/
  | publ (sw : Bool) (t : BitVec 7) (c : BitVec 5) (o : BitVec 7)
  /-- FORK, R221. -/
  | fork (sw : Bool) (p : BitVec 3) (j : BitVec 19)
  /-- RDVZ, R221. -/
  | rdvz (sw : Bool) (p : BitVec 3)
  /-- ENDE, R221. -/
  | ende (sw : Bool)
  /-- AADD, R260. -/
  | aadd (sw : Bool) (t : BitVec 7) (c : BitVec 5) (o : BitVec 7) (e : BitVec 3) (q : Bool)
  /-- AMIN, R260. -/
  | amin (sw : Bool) (t : BitVec 7) (c : BitVec 5) (o : BitVec 7) (e : BitVec 3) (q : Bool)
  /-- AMAX, R260. -/
  | amax (sw : Bool) (t : BitVec 7) (c : BitVec 5) (o : BitVec 7) (e : BitVec 3) (q : Bool)
  /-- AAND, R260. -/
  | aand (sw : Bool) (t : BitVec 7) (c : BitVec 5) (o : BitVec 7) (e : BitVec 3) (q : Bool)
  /-- AOR, R260. -/
  | aor (sw : Bool) (t : BitVec 7) (c : BitVec 5) (o : BitVec 7) (e : BitVec 3) (q : Bool)
  /-- AXOR, R260. -/
  | axor (sw : Bool) (t : BitVec 7) (c : BitVec 5) (o : BitVec 7) (e : BitVec 3) (q : Bool)
  /-- AXCHG, R260. -/
  | axchg (sw : Bool) (t : BitVec 7) (c : BitVec 5) (o : BitVec 7) (e : BitVec 3) (q : Bool)
  /-- ACAS, R261. -/
  | acas (sw : Bool) (t : BitVec 7) (c : BitVec 5) (o : BitVec 7) (e : BitVec 3) (q : Bool)
  /-- AMXIX, R262. -/
  | amxix (sw : Bool) (t : BitVec 7) (c : BitVec 5) (o : BitVec 7) (e : BitVec 3) (q : Bool)
  /-- AXADD, R263. -/
  | axadd (sw : Bool) (t : BitVec 7) (c : BitVec 5) (o : BitVec 7) (e : BitVec 3) (q : Bool)
  /-- AXRD, R264. -/
  | axrd (sw : Bool) (t : BitVec 7) (c : BitVec 5) (o : BitVec 7) (e : BitVec 3) (q : Bool)
  /-- DQPSH, R267. -/
  | dqpsh (sw : Bool) (t : BitVec 7) (c : BitVec 5) (o : BitVec 7) (e : BitVec 3) (q : Bool)
  /-- DQPOP, R267. -/
  | dqpop (sw : Bool) (t : BitVec 7) (c : BitVec 5) (o : BitVec 7) (e : BitVec 3) (q : Bool)
  /-- DQSTL, R267. -/
  | dqstl (sw : Bool) (t : BitVec 7) (c : BitVec 5) (o : BitVec 7) (e : BitVec 3) (q : Bool)
  /-- BARI, R269. -/
  | bari (sw : Bool) (t : BitVec 7) (c : BitVec 5) (o : BitVec 7)
  /-- BARA, R269. -/
  | bara (sw : Bool) (t : BitVec 7) (c : BitVec 5) (o : BitVec 7)
  /-- BARW, R269. -/
  | barw (sw : Bool) (t : BitVec 7) (c : BitVec 5) (o : BitVec 7)
  /-- BARX, R269. -/
  | barx (sw : Bool) (t : BitVec 7) (c : BitVec 5) (o : BitVec 7)
  /-- MCLM, R294. -/
  | mclm (sw : Bool) (r : BitVec 7)
  /-- MCLM_T, R294. -/
  | mclmT (sw : Bool) (n : BitVec 3) (r : BitVec 7)
  /-- MRLS, R294. -/
  | mrls (sw : Bool) (r : BitVec 7)
  /-- MLDO, R295. -/
  | mldo (sw : Bool) (t : BitVec 7) (c : BitVec 5) (o : BitVec 7) (b : Bool)
  /-- MMA, R296. -/
  | mma (sw : Bool) (n : BitVec 3) (a : BitVec 4) (b : BitVec 4) (k : BitVec 3) (g : BitVec 2)
  /-- MZERO, R297. -/
  | mzero (sw : Bool) (n : BitVec 3)
  /-- MZERO_F, R297. -/
  | mzeroF (sw : Bool) (n : BitVec 3)
  /-- MZERO_T, R297. -/
  | mzeroT (sw : Bool)
  /-- MRDA, R298. -/
  | mrda (sw : Bool) (n : BitVec 3) (r : BitVec 7) (q : BitVec 2)
  /-- MWRA, R298. -/
  | mwra (sw : Bool) (n : BitVec 3) (r : BitVec 7) (q : BitVec 2)
  /-- MDRN, R300. -/
  | mdrn (sw : Bool) (n : BitVec 3) (a : BitVec 4) (r : BitVec 7) (z : Bool) (f : Bool)
  /-- TLDP, R301. -/
  | tldp (sw : Bool) (t : BitVec 7) (c : BitVec 5) (o : BitVec 7) (i : BitVec 4)
  /-- MSCL, R299. -/
  | mscl (sw : Bool) (n : BitVec 3) (r : BitVec 7)
  /-- MCAB, R302. -/
  | mcab (sw : Bool) (c : BitVec 5) (o : BitVec 7) (i : BitVec 4)
  /-- ACCSV, R303. -/
  | accsv (sw : Bool) (t : BitVec 7) (c : BitVec 5) (o : BitVec 7) (i : BitVec 4)
  /-- ACCRS, R303. -/
  | accrs (sw : Bool) (t : BitVec 7) (c : BitVec 5) (o : BitVec 7) (i : BitVec 4)
  /-- MSTAT, R304. -/
  | mstat (sw : Bool) (d : BitVec 7)
  /-- SHTRP, R350. -/
  | shtrp (sw : Bool) (d : BitVec 7) (a : BitVec 7) (b : BitVec 7)
  /-- SHOPN, R350. -/
  | shopn (sw : Bool) (a : BitVec 7) (b : BitVec 7) (r : Bool)
  /-- SHRCV, R350. -/
  | shrcv (sw : Bool) (d : BitVec 7) (b : BitVec 7) (r : Bool)
  /-- SHMUL, R349. -/
  | shmul (sw : Bool) (d : BitVec 7) (a : BitVec 7) (b : BitVec 7)
  /-- SHTRC, R351. -/
  | shtrc (sw : Bool) (d : BitVec 7) (a : BitVec 7) (f : BitVec 7)
  /-- SHBTR, R352. -/
  | shbtr (sw : Bool) (d : BitVec 7) (a : BitVec 7) (b : BitVec 7)
  /-- SHCMP, R353. -/
  | shcmp (sw : Bool) (d : BitVec 7) (a : BitVec 7) (b : BitVec 7)
  /-- SHRVL, R354. -/
  | shrvl (sw : Bool) (a : BitVec 7) (b : BitVec 7)
  /-- SHRVL_R, R354. -/
  | shrvlR (sw : Bool) (d : BitVec 7) (a : BitVec 7) (b : BitVec 7)
  /-- SHDEAL, R356. -/
  | shdeal (sw : Bool) (t : BitVec 7) (c : BitVec 5) (o : BitVec 7)
  /-- SHSTA, R357. -/
  | shsta (sw : Bool) (d : BitVec 7) (a : BitVec 7) (k : BitVec 7)
  /-- SHDSC, R358. -/
  | shdsc (sw : Bool) (d : BitVec 7) (a : BitVec 7) (b : BitVec 7)
  /-- SHMMA, R355. -/
  | shmma (sw : Bool) (n : BitVec 3) (a : BitVec 4) (b : BitVec 4) (r : BitVec 7)
  /-- RCPDEF, R378. -/
  | rcpdef (sw : Bool) (t : BitVec 7) (c : BitVec 5) (o : BitVec 7) (b : Bool)
  /-- RCPPIN, R379. -/
  | rcppin (sw : Bool) (d : BitVec 7) (a : BitVec 7)
  /-- RCPUNP, R379. -/
  | rcpunp (sw : Bool) (d : BitVec 7) (a : BitVec 7)
  /-- RCPDRP, R379. -/
  | rcpdrp (sw : Bool) (d : BitVec 7) (a : BitVec 7)
  /-- RCPDRP_R, R379. -/
  | rcpdrpR (sw : Bool) (d : BitVec 7) (a : BitVec 7)
  /-- RCPQRY, R379. -/
  | rcpqry (sw : Bool) (d : BitVec 7) (a : BitVec 7)
  /-- ENQ, R397. -/
  | enq (sw : Bool) (t : BitVec 7) (c : BitVec 5) (o : BitVec 7) (i : BitVec 4)
  /-- ENQA, R398. -/
  | enqa (sw : Bool) (t : BitVec 7) (c : BitVec 5) (o : BitVec 7)
  /-- CANCL, R399. -/
  | cancl (sw : Bool) (d : BitVec 7) (a : BitVec 7)
  /-- COMPL, R399. -/
  | compl (sw : Bool) (d : BitVec 7) (a : BitVec 7)
  /-- TETH, R400. -/
  | teth (sw : Bool) (d : BitVec 7) (i : BitVec 16)
  /-- QPSH, R401. -/
  | qpsh (sw : Bool) (a : BitVec 7)
  /-- QPOP, R401. -/
  | qpop (sw : Bool) (d : BitVec 7)
  /-- SELS, R402. -/
  | sels (sw : Bool) (d : BitVec 7) (a : BitVec 7)
  /-- PRIO, R403. -/
  | prio (sw : Bool) (d : BitVec 7) (a : BitVec 7)
  /-- PHSET, R402. -/
  | phset (sw : Bool) (a : BitVec 7)
  /-- TRAP, R324. -/
  | trap (sw : Bool) (i : BitVec 16)
  /-- SRET, R325. -/
  | sret (sw : Bool)
  /-- MFSR, R326. -/
  | mfsr (sw : Bool) (d : BitVec 7) (r : BitVec 16)
  /-- MTSR, R326. -/
  | mtsr (sw : Bool) (d : BitVec 7) (r : BitVec 16)
  /-- MTSR_MODE, R55. -/
  | mtsrMode (sw : Bool) (d : BitVec 7)
  /-- MTSR_ACCOWN, R283. -/
  | mtsrAccown (sw : Bool) (d : BitVec 7)
  /-- MTSR_PIX, R315. -/
  | mtsrPix (sw : Bool) (d : BitVec 7)
  /-- MTSR_FLAGS, R70. -/
  | mtsrFlags (sw : Bool) (d : BitVec 7)
  /-- MTSR_TRAPCAUSE, R326. -/
  | mtsrTrapcause (sw : Bool) (d : BitVec 7)
  /-- PGMAP, R237. -/
  | pgmap (sw : Bool) (t : BitVec 7) (c : BitVec 5) (o : BitVec 7)
  /-- LPINV, R239. -/
  | lpinv (sw : Bool) (a : BitVec 7) (b : BitVec 7)
  /-- LPINV_W, R239. -/
  | lpinvW (sw : Bool)
  /-- TLBI, R239. -/
  | tlbi (sw : Bool) (a : BitVec 7) (b : BitVec 7)
  /-- TLBI_W, R239. -/
  | tlbiW (sw : Bool)
  /-- CFLSH, R377. -/
  | cflsh (sw : Bool) (t : BitVec 7) (c : BitVec 5) (o : BitVec 7) (i : Bool)
  /-- CINV, R377. -/
  | cinv (sw : Bool) (t : BitVec 7) (c : BitVec 5) (o : BitVec 7)
  /-- SNAP, R427. -/
  | snap (sw : Bool) (d : BitVec 7) (i : BitVec 16)
  /-- HALT, R328. -/
  | halt (sw : Bool)
  /-- PIXRD, R327. -/
  | pixrd (sw : Bool) (d : BitVec 7) (a : BitVec 7)
  /-- PIXWR, R327. -/
  | pixwr (sw : Bool) (a : BitVec 7) (b : BitVec 7)
  /-- SCRUB, R415. -/
  | scrub (sw : Bool) (t : BitVec 7) (c : BitVec 5) (o : BitVec 7)
  -- Device events and host messages: rows of the table without words (24 R419; 95). The rows that the default order of
  -- moves names (log 4) come first.
  /-- POWER_ON, R423. -/
  | powerOn (fail : Option (Nat × Nat))
  /-- BALLAST_EXCHANGE, R425. -/
  | ballastExchange (kind : SpareKind) (elem : Nat)
  /-- UNIT_START, R391. -/
  | unitStart (wing : Nat) (slots : List Nat)
  /-- UNIT_RETIREMENT, R36. -/
  | unitRetirement (u : Nat)
  /-- LEVEL_COMPLETION, R38. -/
  | levelCompletion (slot : Nat)
  /-- PHASE_START, R392. -/
  | phaseStart (job : Nat)
  /-- NODE_TIMER_EXPIRY, R40. -/
  | nodeTimerExpiry (node : Nat)
  /-- AGING_THRESHOLD, R394. -/
  | agingThreshold (w : Nat)
  /-- COUNTED_ACCESS_COMPLETE, R202. -/
  | countedAccessComplete (w : Nat) (path : BitVec 3)
  /-- BARRIER_DELIVERY, R270. -/
  | barrierDelivery (w : Nat) (path : BitVec 3) (n : Nat)
  /-- PUBL_FLIP, R206. -/
  | publFlip (w : Nat)
  /-- CONTEXT_SWAP, R317. -/
  | contextSwap (wing : Nat)
  /-- STOP_TIMEOUT, R321. -/
  | stopTimeout (wing : Nat)
  /-- SHADOW_OR_HUB_ERROR, R321. -/
  | shadowOrHubError (wing : Nat)
  /-- MATRIX_UNCORRECTABLE_ERROR, R285. -/
  | matrixUncorrectableError (alc : Nat) (w : Nat) (inCabinet : Bool)
  /-- REGISTER_UNCORRECTABLE_ERROR, R316. -/
  | registerUncorrectableError (w : Nat)
  /-- UNIT_RELAUNCH, R285. -/
  | unitRelaunch (u : Nat) (slots : List Nat)
  /-- GATE_EXCHANGE_COMPLETE, R343. -/
  | gateExchangeComplete (b : Nat) (ch : Nat)
  /-- TURNSTILE_TIMEOUT, R341. -/
  | turnstileTimeout (b : Nat) (ch : Nat)
  /-- REVOCATION_SWEEP_START, R185. -/
  | revocationSweepStart
  /-- REVOCATION_SWEEP_COMPLETE, R185. -/
  | revocationSweepComplete
  /-- RECIPE_BUILD_COMPLETE, R370. -/
  | recipeBuildComplete (wing : Nat) (id : Nat)
  /-- RECIPE_BUILD_FAILURE, R372. -/
  | recipeBuildFailure (wing : Nat) (id : Nat)
  /-- BUDGET_WINDOW, R411. -/
  | budgetWindow (stack : Nat)
  /-- VITRINE_LATCH, R426. -/
  | vitrineLatch
  /-- CLOCK_CHANGEOVER_COMPLETE, R7. -/
  | clockChangeoverComplete
  /-- GATE_UNCORRECTABLE_ERROR, R341. -/
  | gateUncorrectableError (b : Nat) (ch : Nat)
  /-- LID_TEMPERATURE_NORMAL, R424. -/
  | lidTemperatureNormal
  /-- HOST_ENQ, R419. -/
  | hostEnq (h : HostHdr) (cap : BitVec 128) (rec : List Byte)
  /-- HOST_ENQA, R387. -/
  | hostEnqa (h : HostHdr) (rec : List Byte) (bind : Option (Nat × Nat))
  /-- HOST_READ, R421. -/
  | hostRead (h : HostHdr) (cap : BitVec 128) (off : Nat) (len : Nat)
  /-- HOST_WRITE, R421. -/
  | hostWrite (h : HostHdr) (cap : BitVec 128) (off : Nat) (data : List Byte)
  /-- CAPW, R419. -/
  | capw (h : HostHdr) (cap : BitVec 128) (off : Nat) (images : List (BitVec 128))
  /-- HOST_OPCODE_UNASSIGNED, R419. -/
  | hostOpcodeUnassigned (h : HostHdr) (op : BitVec 8)
  /-- WING_CREATE, R404. -/
  | wingCreate (h : HostHdr) (block : List Byte)
  /-- WING_DESTROY, R406. -/
  | wingDestroy (h : HostHdr)
  /-- QUOTA, R412. -/
  | quota (h : HostHdr) (world : BitVec 4) (q : QuotaSpec)
  /-- STAGE2_TABLE_WRITE, R67. -/
  | stage2TableWrite (h : HostHdr) (ipa : BitVec 48) (level : Nat) (entry : BitVec 64)
  /-- GRAPH_CREATE, R419. -/
  | graphCreate (h : HostHdr) (done : BitVec 128) (parent : BitVec 32) (nodes : List NodeSpec)
  /-- JOB_CREATE, R393. -/
  | jobCreate (h : HostHdr) (desc : List Byte)
  /-- BIND, R334. -/
  | bind (h : HostHdr) (b : BindSpec)
  /-- UNBIND, R334. -/
  | unbind (h : HostHdr) (b : Nat)
  /-- DEAL, R356. -/
  | deal (h : HostHdr) (block : List Byte)
  /-- SUSPEND_BINDING, R342. -/
  | suspendBinding (h : HostHdr) (b : Nat)
  /-- RESUME_BINDING, R342. -/
  | resumeBinding (h : HostHdr) (b : Nat)
  /-- PRE_EMPT_WING, R317. -/
  | preEmptWing (h : HostHdr)
  /-- RESTORE_WING, R319. -/
  | restoreWing (h : HostHdr) (image : Nat) (intact : Bool)
  /-- SAVE_OUT, R413. -/
  | saveOut (h : HostHdr)
  /-- UNIT_PRE_EMPT, R312. -/
  | unitPreEmpt (h : HostHdr) (ctx : BitVec 32)
  /-- HALT_RESUME, R328. -/
  | haltResume (h : HostHdr) (ctx : BitVec 32)
  /-- HALT_END, R328. -/
  | haltEnd (h : HostHdr) (ctx : BitVec 32)
  /-- STAGE2_ANSWER, R234. -/
  | stage2Answer (h : HostHdr) (tok : BitVec 32) (retry : Bool)
  /-- POOL_REFILL, R235. -/
  | poolRefill (h : HostHdr) (tok : BitVec 32) (frames : Option (List (BitVec 48)))
  /-- WING_RESET, R322. -/
  | wingReset (h : HostHdr)
  /-- HOST_CANCEL, R395. -/
  | hostCancel (h : HostHdr) (id : BitVec 32)
  /-- HOST_SCRUB, R414. -/
  | hostScrub (h : HostHdr) (phys : Bool) (base len : Nat) (owner : BitVec 4)
  /-- HOST_REVOCATION_SWEEP, R184. -/
  | hostRevocationSweep (h : HostHdr) (world : BitVec 4) (rec : List Byte)
  /-- LOG_ENABLE, R413. -/
  | logEnable (h : HostHdr) (ring idx bitmap : BitVec 48) (n : Nat)
  /-- HARVEST, R413. -/
  | harvest (h : HostHdr) (first count : Nat)
  /-- LOG_DISABLE, R413. -/
  | logDisable (h : HostHdr)
  /-- CLOCK_RAISE, R7. -/
  | clockRaise (h : HostHdr) (mhz : Nat)
  /-- KEY_ROLL, R422. -/
  | keyRoll (h : HostHdr) (target : Nat)
  /-- POWER_CAP, R424. -/
  | powerCap (h : HostHdr) (watts : Nat)
  /-- SNAPSHOT_ARM, R426. -/
  | snapshotArm (h : HostHdr) (arm : ArmSpec)
  /-- SNAPSHOT_TRIGGER, R426. -/
  | snapshotTrigger (h : HostHdr)
  /-- SNAPSHOT_READOUT, R426. -/
  | snapshotReadout (h : HostHdr)
  /-- HOST_ASSOCIATION_CREATE, R417. -/
  | hostAssociationCreate (h : HostHdr) (peer : Nat) (timeoutMs : Nat)
  /-- HOST_ASSOCIATION_REMOVE, R417. -/
  | hostAssociationRemove (h : HostHdr) (target : Nat)
  /-- LEVEL_CLOSE, R399. -/
  | levelClose (h : HostHdr) (id : BitVec 32)
  /-- STAGE1_MAP, R428. -/
  | stage1Map (h : HostHdr) (va req frame : BitVec 64)
  /-- UNSUPPORTED_OPTION_PACKET, R416. -/
  | unsupportedOptionPacket (port : BitVec 4)
  /-- DEAD_GENERATION_PACKET, R422. -/
  | deadGenerationPacket (assoc : Nat) (kgen : BitVec 2)
  /-- KGEN_REQUEST_TIMEOUT, R422. -/
  | kgenRequestTimeout (assoc : Nat) (token : BitVec 32)
  /-- LID_OVER_TEMPERATURE, R424. -/
  | lidOverTemperature
  /-- DIE_OVER_TEMPERATURE, R424. -/
  | dieOverTemperature
  deriving DecidableEq, Repr, Inhabited

end Sys2Proof
end

