-- ==== Sys2Proof/Machine/State.lean ====
section
/-! DEFINITION. The state of the device as plain data, its faults and refusals, and the state at reset.
Tables of like things (registers, memory bytes, wave slots, wings) are lists of (number, value) pairs with rising
numbers; what an unlisted number holds is the blank value of its kind. -/
namespace Sys2Proof.Machine

/-- A table from numbers to values, numbers strictly rising. -/
abbrev Table (α : Type) := List (Nat × α)

/-- A capability with its tag (R167). -/
structure Cap where
  tag  : Bool := false
  bits : CapBits := 0
  deriving DecidableEq, Repr, Inhabited

/-- The registers of a wave that an instruction reads as they stood at the start of its run (R24, R94): S, P, C, V
(key register × 32 + lane), VC (the same), MODE, SEED and FLAGS. Unlisted registers hold zero. -/
structure RegFile where
  s     : Table DWord := []
  p     : Table (BitVec 32) := []
  c     : Table Cap := []
  v     : Table (BitVec 32) := []
  vc    : Table Cap := []
  mode  : BitVec 32 := 0
  seed  : DWord := 0
  flags : BitVec 32 := 0
  deriving DecidableEq, Repr, Inhabited

/-- The states of a program-counter slot (R21). -/
inductive SlotState where
  | free | ready | parked
  deriving DecidableEq, Repr, Inhabited

/-- The source of an instruction, numbered as TRAPCAUSE.SRC numbers it (R309). -/
inductive Src where
  | slotA | slotB | seqCopy | seqMatrix | seqGather
  deriving DecidableEq, Repr, Inhabited

/-- Why a slot, a sequencer or an access is held (R21, R233, R306, R370). `poll`: a wait with no effect yet, issued
again until it passes. `part`: between two steps of a matrix instruction (R286). `claim`: an MCLM in the queue of claims. `busy`: work handed over, issued again even in a
stopped unit until it ends. `s2` and `refill`: the host owes an answer to the token. `s2failed`: the host failed the
request, with its KIND, lanes and address; `s2again`: the host asks to try again, from the stage-1 result that stands (R234).
`recipe`: parked on a build. `recipeFailed`: that build failed. `bar`: a BARW on a word until its PHASE differs, issued at a
move; `fetch`: a fetch waits for the host, before its instruction issues; `barSeen`: it has (R269). `gate`: an exchange at the gate;
`gateTrap`: the gate answered with a trap while the slot lay in the trap frame. `latch` waits for a capture's edge, and
`latched` is its answer (R427). -/
inductive Hold where
  | none | poll | part | claim | busy
  | s2 (tok : Nat) | s2failed (kind : Nat) (lanes : BitVec 32) (va : Nat) | s2again (va ipa leaf sh : Nat)
  | refill (tok : Nat) | refused
  | fetch (h : Hold)
  | recipe (id : Nat) | recipeFailed (id : Nat) | bar (off : Nat) (phase : Bool) (no : Nat) | barSeen
  | gate | gateTrap (cause : Nat) (addr : DWord) | latch
  | latched (n : Nat)
  deriving DecidableEq, Repr, Inhabited

/-- What a run reads (R24): the registers as they stood at its start, and the system registers outside them by number
(R69). `cut` marks a run that was cut while its instruction's work is under way: the next instruction starts a run (R27,
R306). -/
structure Snapshot where
  regs : RegFile := {}
  sys  : Table DWord := []
  cut  : Bool := false
  deriving DecidableEq, Repr, Inhabited

/-- The halt state of a wave or sequencer (R306): running, still issuing within its skid, or stopped. -/
inductive StopState where
  | running | skidding (issued : Nat) | stopped
  deriving DecidableEq, Repr, Inhabited

/-- One program-counter slot (R21), with its PIX (R314), the snapshot of the run in progress (R24) and its hold. `prog` is
the progress of a long instruction while it runs; a stop records it in PIX (R306). -/
structure Slot where
  pc     : DWord := 0
  mask   : BitVec 32 := 0
  dix    : BitVec 48 := 0
  st     : SlotState := .free
  sj     : DWord := 0
  sjpend : Bool := false
  pix    : DWord := 0
  prog   : Option DWord := none
  snap   : Option Snapshot := none
  hold   : Hold := .none
  deriving DecidableEq, Repr, Inhabited

/-- One engine sequencer (R44, R221): `regs` holds its private copies of S, P and MODE and the C registers it read
at the FORK, in the move `born`; `stop` and `skid` are its own halt state and SKID (R306), and `pre` says that a pre-emption
stopped it (R317). -/
structure Seq where
  running : Bool := false
  born    : Nat := 0
  pc      : DWord := 0
  dix     : BitVec 48 := 0
  regs    : RegFile := {}
  pix     : DWord := 0
  prog    : Option DWord := none
  snap    : Option Snapshot := none
  hold    : Hold := .none
  handler : Bool := false
  stop    : StopState := .running
  skid    : BitVec 8 := 0
  pre     : Bool := false
  deriving DecidableEq, Repr, Inhabited

/-- Where a byte lies: in memory, by virtual, physical and intermediate address, or at an offset of the unit's scratch
window (R179, R222). -/
inductive Loc where
  | mem (va pa ipa : Nat) | scr (off : Nat)
  deriving DecidableEq, Repr, Inhabited

/-- The read-modify-write operations of R260 and R262. -/
inductive AtomOp where
  | add | min | max | and | or | xor | xchg | maxKey
  deriving DecidableEq, Repr, Inhabited

/-- The deque operations of R267. -/
inductive DequeOp where
  | push | pop | steal
  deriving DecidableEq, Repr, Inhabited

/-- The barrier operations that write the word (R269). -/
inductive BarOp where
  | init | arrive | expect
  deriving DecidableEq, Repr, Inhabited

/-- A dimension of a tensor copy (R216). -/
structure TensorDim where
  ext   : Nat
  box   : Nat
  start : Int
  sstr  : Int
  dstr  : Int
  deriving DecidableEq, Repr, Inhabited

/-- A tensor copy's descriptor as it was read (R216). -/
structure TensorDesc where
  esz  : Nat
  tags : Bool
  skip : Bool
  fill : List Byte
  dims : List TensorDim
  deriving DecidableEq, Repr, Inhabited

/-- What an access does when it performs. Lists pair a lane with its location and data; a scalar access uses lane 0.
A matrix transfer keeps its capability and address; a slot's load, its 128-byte lines by number; an ENQ, its node with the
level id of the node's graph; a drain, for each run of bytes
its lane, the PIX before it, its address and its bytes. -/
inductive AccKind where
  | loadV (t size : Nat) (lanes : List (Nat × Loc))
  | loadS (t : Nat) (l : Loc)
  | loadC (t : Nat) (l : Loc)
  | loadVC (t : Nat) (lanes : List (Nat × Loc))
  | store (writes : List (Nat × Loc × List Byte))
  | storeC (writes : List (Nat × Loc × Cap))
  | atomic (op : AtomOp) (ety size t : Nat) (lanes : List (Nat × Loc × Nat))
  | cas (size t : Nat) (lanes : List (Nat × Loc × Nat × Nat))
  | axadd (ety : Nat) (lanes : List (Nat × Loc × Nat))
  | axrd (ety t : Nat) (mode : BitVec 32) (seed : DWord) (dix : BitVec 48) (lanes : List (Nat × Loc))
  | deque (op : DequeOp) (t : Nat) (va : Nat) (header : Loc) (val : DWord) (cap : Cap)
  | bar (op : BarOp) (t off : Nat) (val : DWord)
  | rows (gather : Bool) (word : DWord) (base : Int) (mem scr : Cap) (idx : Option (List Int))
  | tcpy (dst src desc : Cap) (daddr : Nat) (d : Option TensorDesc)
  | bcpy (dst src : Cap) (len : Nat)
  | publ (scr : Bool) (x len : Nat)
  | loadSlot (o base : Nat) (segs : List (Nat × Loc))
  | loadCabinet (cap : Cap) (x : Nat)
  | loadTail (n : Nat) (cap : Cap) (x : Nat)
  | loadTile (t : Nat) (cap : Cap) (x : Nat)
  | drain (cap : Cap) (rows : List (Nat × DWord × Nat × List Byte))
  | deal (t x : Nat) (cap : Cap)
  | gate (mma : Bool)
  | enq (node level : Nat) (bytes : List Byte) (tags : List Bool)
  | flush (invalidate : Bool) (x len : Nat)
  | discard (x len : Nat)
  deriving DecidableEq, Repr, Inhabited

/-- An error found after issue (R204). -/
structure AccErr where
  cause : BitVec 8
  addr  : DWord := 0
  pix   : DWord := 0
  lanes : BitVec 32 := 0
  deriving DecidableEq, Repr, Inhabited

/-- What the translation of a 64 KiB page answered at an access's issue: the frame's physical and intermediate address, or a cause
(0: none). -/
structure PageTr where
  pa    : Nat := 0
  ipa   : Nat := 0
  cause : Nat := 0
  deriving DecidableEq, Repr, Inhabited

/-- An outstanding counted access (R201, R202). `prog` is the progress of an engine transfer in its units (R205);
`grows`
marks a drain whose rows are still coming (R286, R300); `mask` is the slot's MASK of a wave-uniform access; `landed` the register cells that its lanes have written. `acq` and `rel` are its strong orders (R243); `deliv` counts the
scratch bytes it has landed and not yet delivered to the barrier word at `bound` (R270). `no` is the move of its issue;
`pages` are the pages whose translations it has used, by base and size in bits (R239), and `trs` the translations that a matrix
transfer made at its issue, by page number (R252); `stale` marks locations to translate anew after a
migration (R205, R229); `fl` gathers the flags of an AXRD (R264); `buf` holds source bytes that a byte copy has read ahead
(R249), and `kept` those that it has overwritten before it read them, by address with the tag of their granule (R218); `race` the ranges that an unordered access of another wave has left undefined (R250). -/
structure Access where
  path      : Nat
  kind      : AccKind
  pc        : DWord
  src       : Src
  performed : Bool := false
  engine    : Bool := false
  prog      : Nat := 0
  grows     : Bool := false
  mask      : Option (BitVec 32) := none
  landed    : List Nat := []
  acq       : Bool := false
  rel       : Bool := false
  deliv     : Nat := 0
  bound     : Option Nat := none
  no        : Nat := 0
  pages     : List (Nat × Nat) := []
  trs       : Table PageTr := []
  stale     : Bool := false
  fl        : Nat := 0
  buf       : List Byte := []
  kept      : Table (Byte × Bool) := []
  race      : List (Bool × Nat × Nat) := []
  hold      : Hold := .none
  err       : Option AccErr := none
  deriving DecidableEq, Repr, Inhabited

/-- An entry of a wave's error list (R204). -/
structure ErrEntry where
  path : Nat
  pc   : DWord
  err  : AccErr
  deriving DecidableEq, Repr, Inhabited

/-- What handler entry saves (R310). -/
structure TrapFrame where
  a    : Slot
  b    : Slot
  divd : Nat
  jr   : DWord
  mode : BitVec 32
  seqRunning : List Bool
  deriving DecidableEq, Repr, Inhabited

/-- The supervisor bank (R310, R386): c24-c27, c31 and s56-s63. -/
structure Bank where
  caps : List Cap := []
  pcc  : Cap := {}
  s    : List DWord := []
  deriving DecidableEq, Repr, Inhabited

/-- The stage of a split open (R350). -/
inductive OpenStage where
  | waitY | atGate | opened (d e : List Nat) | aborted (reason : Nat) (id : Nat) | trapped (cause : Nat)
  deriving DecidableEq, Repr, Inhabited

/-- What a wave keeps of an exchange that has begun (R353, R355): whether it was a SHMMA, the record's id, and the shares
that its completion gives the wave, by lane or, for a tile, by element. -/
structure ShareCtx where
  mma  : Bool
  id   : Nat
  vals : List Nat
  deriving DecidableEq, Repr, Inhabited

/-- A wave's pending split open (R350). -/
structure PendingOpen where
  binding : Nat
  kind    : Nat
  x       : List Nat
  y       : List Nat := []
  pc      : DWord
  stage   : OpenStage := .waitY
  gotD    : Bool := false
  gotE    : Bool := false
  recBytes : List Byte := []
  deriving DecidableEq, Repr, Inhabited

/-- The current record of a wave (R350). -/
structure CurRecord where
  kind  : Nat
  bytes : List Byte
  deriving DecidableEq, Repr, Inhabited

/-- A cached translation (R229, R230): the 64 KiB page it serves, its frame, the rights, POLICY and WAYP of the leaf, and
the number of address bits that the leaf leaves. -/
structure LastPage where
  vpage : Nat
  frame : Nat
  ipa   : Nat
  rd    : Bool
  w     : Bool
  x     : Bool
  policy : Nat := 0
  wayp  : Nat := 0
  sh    : Nat := 16
  deriving DecidableEq, Repr, Inhabited

/-- One wave slot of an alcove with everything its wave owns (R21, R94, R201, R204, R269, R309, R314, R318). `pre` says
that a pre-emption, and no halt of its unit, stopped the wave (R317); `since` is the move of its last issue (R394). -/
structure Wave where
  used    : Bool := false
  unit    : Nat := 0
  waveId  : Nat := 0
  tether  : Bool := false
  a       : Slot := {}
  b       : Slot := {}
  live    : BitVec 32 := 0
  jr      : DWord := Config.noJoin
  divd    : Nat := 0
  regs    : RegFile := {}
  counts  : Table Nat := []
  errs    : List ErrEntry := []
  accs    : List Access := []
  seqC    : Seq := {}
  seqM    : Seq := {}
  seqG    : Seq := {}
  trapCause : BitVec 32 := 0
  trapPc    : DWord := 0
  trapAddr  : DWord := 0
  trapLanes : BitVec 32 := 0
  skid      : BitVec 8 := 0
  trapVec   : DWord := 0
  trapPix   : DWord := 0
  frame     : Option TrapFrame := none
  bank      : Bank := {}
  privBase  : Nat := 0
  privTop   : Nat := 0
  delivery  : Option Nat := none
  pending   : Option PendingOpen := none
  current   : Option CurRecord := none
  shares    : Option ShareCtx := none
  prio      : Nat := 0
  key       : Nat := 0
  aged      : Bool := false
  since     : Nat := 0
  lastSlot  : Bool := false
  stop      : StopState := .running
  pre       : Bool := false
  tethSlot  : Option Nat := none
  hadTether : Bool := false
  window    : Nat := 0
  queue     : List (List (BitVec 32)) := []
  owner     : Nat := 0
  lastPages : Table LastPage := []
  deriving DecidableEq, Repr, Inhabited

/-- How a unit ends (R36, R39, R313, R322). -/
inductive UnitEnd where
  | retired | failed | cancelled | reset | relaunch
  deriving DecidableEq, Repr, Inhabited

/-- A resident unit (R33-R36, R282, R306-R308, R328). `frames` are the page frames of its window in its bank set, page by
page (R198), and `scrPoison` the 128-byte chunks of it that hold an uncorrectable error (R316). `args` is the c28 it started with; while `boot` holds, its
supervisor record is not read yet and it runs nothing (R386). `held` names the source of the HALT that holds it, and
`heldHandlers` the waves whose handlers a HALT holds;
`die` the compute die that its record prefers (R384). -/
structure Unit where
  used     : Bool := false
  wing     : Nat := 0
  level    : Nat := 0
  node     : Option Nat := none
  ctxid    : BitVec 32 := 0
  unitId   : Nat := 0
  x : Nat := 0
  y : Nat := 0
  z : Nat := 0
  lx : Nat := 1
  ly : Nat := 1
  lz : Nat := 1
  nwaves   : Nat := 1
  ddepth   : Nat := 0
  tethers  : Nat := 0
  waves    : List Nat := []
  scrSize  : Nat := 0
  scr      : List Host.Cell := []
  scrTags  : Table Bool := []
  scrPoison : Table Bool := []
  frames   : List Nat := []
  idem     : Bool := false
  prio     : Nat := 0
  batch    : Nat := 0
  build    : Option Nat := none
  halted   : Bool := false
  held     : Option (Nat × Src) := none
  heldHandlers : List Nat := []
  ending   : Option UnitEnd := none
  args     : Cap := {}
  boot     : Option Hold := none
  firstCause : BitVec 8 := 0
  die      : Option Nat := none
  deriving DecidableEq, Repr, Inhabited

/-- The matrix unit's storage in one alcove (R274, R282-R284). Slot bytes are keyed slot × 2176 + byte (2,048 data
bytes, then the sideband), tile words tile × 1024 + 32 i + j, Tail words by index, Cabinet bytes by offset. `tp` clear
means the Tail program memory holds the identity program. -/
structure Matrix where
  slots   : Table Byte := []
  tiles   : Table (BitVec 32) := []
  live    : BitVec 8 := 0
  tail    : List (BitVec 32) := []
  tp      : Bool := false
  cabinet : Table Byte := []
  accown  : BitVec 32 := 0
  claims  : Table Nat := []
  waiting : List (Nat × Src × BitVec 16) := []
  deriving DecidableEq, Repr, Inhabited

/-- One whole alcove context (R318): its sixteen wave slots and its matrix unit. -/
structure AlcContext where
  waves : List Wave := []
  mat   : Matrix := {}
  deriving DecidableEq, Repr, Inhabited

/-- An alcove (R11, R12, R13): the wing it belongs to, its matrix unit, its shadow array (R317) and
the waves whose FORK waits for a sequencer, in the order they issued (R44). -/
structure Alcove where
  wing   : Option Nat := none
  mat    : Matrix := {}
  shadow : Option (Nat × AlcContext) := none
  forkQ  : List (Nat × Src) := []
  retired : Bool := false
  deriving DecidableEq, Repr, Inhabited

/-- What a launch record or a node gives every unit of it (R364, R385). -/
structure LaunchInfo where
  code   : Cap := {}
  args   : Cap := {}
  supv   : Option Cap := none
  seed   : DWord := 0
  dixb   : BitVec 48 := 0
  lx : Nat := 1
  ly : Nat := 1
  lz : Nat := 1
  nwaves : Nat := 1
  tethers : Nat := 0
  ddepth : Nat := 0
  scr    : Nat := 0
  privsz : Nat := 0
  prio   : Nat := 0
  idem   : Bool := false
  aff    : Nat := 0xFFFF
  deriving DecidableEq, Repr, Inhabited

/-- The part of a level that its kind gives it (R37, R388, R392, R393). A phase keeps PHASESZ, the output size and the
schedule chosen for each class; a job keeps its phase descriptors and the index of the running phase. -/
inductive LevelBody where
  | launch (info : LaunchInfo) (segment : Nat) (build : Option Nat)
  | graph (nodes : List Nat) (inputClosed : Bool)
  | phase (job : Nat) (index : Nat) (isOpen : Bool) (size out : DWord) (chosen : List Nat)
  | job (phases : List Cap) (next : Nat) (size : DWord) (closed : Bool)
  deriving DecidableEq, Repr, Inhabited

/-- A level counter (R37, R388, R389). `next` is the next UNITID to start; `hold` is what the write of its signal word waits
for (R233), and `word` that word once its completion has been applied (R395); `posts` are the classes of a phase whose launch
record is still to be posted (R392). -/
structure Level where
  used    : Bool := false
  gen     : Nat := 0
  wing    : Nat := 0
  done    : Cap := {}
  parent  : Nat := 0
  body    : LevelBody := .launch {} 0 none
  size    : Nat := 0
  next    : Nat := 0
  retired : Nat := 0
  running : Nat := 0
  failed  : Bool := false
  detail  : BitVec 8 := 0
  cancelled : Bool := false
  reset   : Bool := false
  seqNo   : Nat := 0
  hold    : Hold := .none
  word    : Option Nat := none
  posts   : List Nat := []
  deriving DecidableEq, Repr, Inhabited

/-- A record in a bin: its bytes and the tags of its granules. -/
structure BinRecord where
  bytes : List Byte
  tags  : List Bool
  deriving DecidableEq, Repr, Inhabited

/-- A record of the host's that waits at the port for room in a bin (R41, R390): the move of its arrival, its TOKEN, its wing and its
bytes. -/
structure PortRec where
  no    : Nat
  token : BitVec 32
  wing  : Nat
  bytes : List Byte
  deriving DecidableEq, Repr, Inhabited

/-- A node and its bin (R40, R390, R419). `gen` tells a node from an earlier one of its number; `port` holds the host's records that
wait for room; `due` marks a launch that a
timer or the closed input made due; `hold` is what the delivery of its next batch waits for (R233). -/
structure Node where
  used     : Bool := false
  gen      : Nat := 0
  graph    : Nat := 0
  recSize  : Nat := 16
  count    : Nat := 1
  capacity : Nat := 1
  timer    : Nat := 0
  info     : LaunchInfo := {}
  bin      : List BinRecord := []
  port     : List PortRec := []
  due      : Bool := false
  started  : Nat := 0
  hold     : Hold := .none
  deriving DecidableEq, Repr, Inhabited

/-- A triple pool (R336, R337). -/
structure Pool where
  base : Nat := 0
  cap  : Nat := 0
  head : Nat := 0
  tail : Nat := 0
  deriving DecidableEq, Repr, Inhabited

/-- The exchange operations of R336. -/
inductive GateKind where
  | open2 | mul | btr | cmp | reveal (receive : Bool) | mma (tile : Nat)
  deriving DecidableEq, Repr, Inhabited

/-- An operation at the gate: who issued it, its ETYPE and its source words, all 32 lanes (R348), or the elements of
the two slots for a matrix product. `grant`: its capability carries REVEAL; `dead`: its unit has ended (R341); `late`: it
was issued while the binding was suspended (R342); `start`: the progress that its PIX gave it (R315); `img`: its wave
stands in the saved image of that number (R342). -/
structure GateOp where
  wave  : Nat
  src   : Src
  kind  : GateKind
  ety   : Nat
  d     : Nat
  x     : List Nat
  y     : List Nat
  grant : Bool
  pc    : DWord
  sw    : Bool
  dead  : Bool := false
  late  : Bool := false
  start : Nat := 0
  img   : Option Nat := none
  deriving DecidableEq, Repr, Inhabited

/-- A paired exchange: both operations, the record id once it has taken one, both parties' record bytes (R339), and the
steps made: half rounds of a comparison (R353), the opening of a matrix product (R355). -/
structure Exchange where
  op0 : GateOp
  op1 : GateOp
  id  : Option Nat := none
  rec0 : List Byte := []
  rec1 : List Byte := []
  prog : Nat := 0
  deriving DecidableEq, Repr, Inhabited

/-- A channel of a binding (R336, R341, R357). -/
structure Channel where
  cnt0 : Nat := 0
  cnt1 : Nat := 0
  wait0 : List GateOp := []
  wait1 : List GateOp := []
  paired : List Exchange := []
  void0 : Nat := 0
  void1 : Nat := 0
  lastId : Nat := 0
  abort : Nat := 0
  deriving DecidableEq, Repr, Inhabited

/-- A gate binding (R334). Pools are keyed party × 8 + kind. -/
structure Binding where
  used    : Bool := false
  wing0   : Nat := 0
  wing1   : Nat := 0
  pools   : Table Pool := []
  timeout : Nat := 0
  reveal0 : Bool := false
  reveal1 : Bool := false
  suspended : Bool := false
  channels : Table Channel := []
  deriving DecidableEq, Repr, Inhabited

/-- The states of a Catalogue record (R366). -/
inductive RecipeState where
  | absent | building | present
  deriving DecidableEq, Repr, Inhabited

/-- A Catalogue record (R364, R366). `held` counts the running builds that have it as a source, and `depth` is the depth of the
need for which its build is queued (R370). -/
structure Recipe where
  used  : Bool := false
  tile  : Cap := {}
  info  : LaunchInfo := {}
  srcs  : List Cap := []
  st    : RecipeState := .absent
  pins  : Nat := 0
  held  : Nat := 0
  fail  : Bool := false
  dead  : Bool := false
  level : Nat := 0
  depth : Nat := 1
  deriving DecidableEq, Repr, Inhabited

/-- The dirty log of a wing (R413): the ring, its indices (PROD at +0, CONS at +8) and the bitmap, by IPA. -/
structure DirtyLog where
  ring   : Nat
  idx    : Nat
  bitmap : Nat
  n      : Nat
  deriving DecidableEq, Repr, Inhabited

/-- The run state of a wing (R317, R320, R322); `ending`: it is being destroyed, and its levels' signal words are still to be
written (R406). -/
inductive WingRun where
  | running | stopping | swapped | ending
  deriving DecidableEq, Repr, Inhabited

/-- An executable-page scan under way (R63, R237): who makes it and where, whether in a handler (a host request by its
association and TOKEN, R428); the VA and size in bits of the page that it is for; the IPA pages it has locked, the move of the
lock, and the pool frames that its request has reserved. -/
structure Scan where
  wave  : Nat
  src   : Src
  handler : Bool
  host  : Option (Nat × BitVec 32) := none
  pc    : DWord
  va    : Nat
  sh    : Nat
  pages : List Nat
  since : Nat
  got   : List Nat
  deriving DecidableEq, Repr, Inhabited

/-- A wing (R404). `gen` tells a wing from an earlier one of its number. Its stage-2 tables lie in memory from the table that
`s2handle` names (log 8). Frames that wait for a TLBI are kept with their VA: pool frames (R235), and locked pages, by IPA page, with the
base and the size in bits of the page that mapped them (R66). `tables` lists the tables carved from pool frames, by IPA and size (R228). -/
structure Wing where
  used   : Bool := false
  gen    : Nat := 0
  world  : Nat := 0
  party  : Bool := false
  alcs   : List Nat := []
  codeBase : Nat := 0
  codeLen  : Nat := 0
  dataBase : Nat := 0
  dataLen  : Nat := 0
  privBase : Nat := 0
  privLen  : Nat := 0
  s1root : Nat := 0
  s2handle : BitVec 128 := 0
  pool   : List Nat := []
  poolPending : List (Nat × Nat) := []
  tableFrames : List Nat := []
  tables : List (Nat × Nat) := []
  scrMax : Nat := 0
  catIpa : Nat := 0
  supvIpa : Nat := 0
  resvSlots : Nat := 0
  resvPages : Nat := 0
  resvCore  : Nat := 0
  recipes : Table Recipe := []
  armed  : ArmSpec := ⟨false, [], false, false⟩
  snapId : BitVec 32 := 0
  mixed  : Bool := false
  log    : Option DirtyLog := none
  run    : WingRun := .running
  lockedIpa : List Nat := []
  unlocking : List ((Nat × Nat) × Nat) := []
  scans  : List Scan := []
  deriving DecidableEq, Repr, Inhabited

/-- A cached translation of a core's TLB, tagged by wing (R229). -/
structure TlbEntry where
  core  : Nat
  wing  : Nat
  page  : LastPage
  deriving DecidableEq, Repr, Inhabited

/-- What belongs to a world (R405, R410, R411). Charges are keyed by stack, and so are the `budgets` still in force where a quota command has set another for the next
budget window (R412). -/
structure World where
  prot   : Bool := false
  banks  : Nat := 0
  q      : QuotaSpec := ⟨0, 0, 0, []⟩
  charge : Table Nat := []
  key    : Option (BitVec 512) := none
  budgets : Table Nat := []
  deriving DecidableEq, Repr, Inhabited

/-- The DRAM image of a dirty line: its bytes that are not zero, its tag bits and its owner tag (R16, R377). -/
structure LineImage where
  bytes : List Host.Cell := []
  tags  : List Nat := []
  owner : BitVec 4 := 0
  deriving DecidableEq, Repr, Inhabited

/-- A revocation sweep request (R184): its world, the wing it translates through and the record's fields; `bad` marks a
reserved field that is not zero; `hold` is what its own accesses wait for (R233). -/
structure SweepReq where
  world : Nat
  wing  : Nat
  done  : Cap
  map   : Cap
  start : Nat
  len   : Nat
  bad   : Bool
  hold  : Hold := .none
  deriving DecidableEq, Repr, Inhabited

/-- What a capture holds of a wave (R426): the PCs and states of its slots, which sequencers run, its halt state and its
in-flight counters. -/
structure CapWave where
  wave   : Nat
  pcA    : DWord
  stA    : SlotState
  pcB    : DWord
  stB    : SlotState
  seqs   : List Bool
  stop   : StopState
  counts : List Nat
  deriving DecidableEq, Repr, Inhabited

/-- The status that a capture latches (R426): the waves, the occupancy of queue segments and of bins, the states of wings,
the device's counters of dropped packets and ignored triggers, the corrected errors of each element, and the temperature readings
(log 44). -/
structure CapStatus where
  waves   : List CapWave := []
  queues  : List (Nat × Nat) := []
  bins    : List (Nat × Nat) := []
  wings   : List (Nat × WingRun) := []
  errors  : List Nat := []
  corrected : Table Nat := []
  temps   : Table Int := []
  lidHot  : Bool := false
  deriving DecidableEq, Repr, Inhabited

/-- A Vitrine capture (R426): its number, the waves, addresses and tags of the SNAPs that joined it, and the latched status. -/
structure Capture where
  seqNo : BitVec 32
  snaps : List (Nat × DWord × BitVec 16)
  status : CapStatus := {}
  deriving DecidableEq, Repr, Inhabited

/-- A non-posted request that has no completion yet (R419, R422): its TOKEN, its key generation, its opcode, the wing and
the number that it names, what it has come to so far, the bytes that a READ has read so far (R421), and what it waits for. -/
structure HostReq where
  token : BitVec 32
  kgen  : BitVec 2
  op    : Nat
  wing  : Nat
  arg   : Nat := 0
  got   : Nat := 0
  part  : List Byte := []
  hold  : Hold := .none
  deriving DecidableEq, Repr, Inhabited

/-- A TSS association (R417, R422): management or host, its live key generations (current first), its time-out and its
outstanding non-posted requests. -/
structure Assoc where
  used    : Bool := false
  manage  : Bool := false
  peer    : Nat := 0
  gens    : List (BitVec 2) := []
  timeoutMs : Nat := 100
  pending : List HostReq := []
  deriving DecidableEq, Repr, Inhabited

/-- The header of a completion (R418): its association, LEN, TOKEN, KGEN, STATUS, OPCODE and WING. -/
structure ReplyHdr where
  assoc  : Nat
  len    : Nat
  token  : BitVec 32
  kgen   : BitVec 2
  status : Nat
  op     : Nat
  wing   : BitVec 8
  deriving DecidableEq, Repr, Inhabited

/-- What the device sends the host: completions (header, value, bytes) and the records of R417. -/
inductive HostOut where
  | completion (h : ReplyHdr) (val : Nat) (bytes : List Byte)
  | nodeCaps (token : BitVec 32) (caps : List CapBits)
  | capture (token : BitVec 32) (c : Capture)
  | stage2Fault (record : BitVec 256)
  | refill (wing : Nat) (tok : Nat) (short : Nat)
  | halted (wing : Nat) (ctx : BitVec 32) (pc : DWord)
  | wingReset (wing : Nat) (trigger : Nat)
  | postedError (token : BitVec 32) (status : Nat)
  | bringup (step detail : Nat)
  | ready
  | ballast (kind : SpareKind) (elem : Nat) (replaced : Bool)
  | retiredFrame (wing ipa : Nat)
  deriving DecidableEq, Repr, Inhabited

/-- Who waits for the host's answer to a TOKEN (R233-R235): a slot or sequencer of a wave or one of its accesses; or a
starting unit (R386); or a host request, by its association and TOKEN (R428); or a completing level (R389); or the batch of a
node (R391); or a sweep (R184). With it, what the
record said: KIND, lanes, VA and IPA, and the stage-1 leaf with its size in bits, 0 where stage 1 is to be walked again. -/
structure TokenWait where
  tok  : Nat
  wave : Nat
  src  : Src
  acc  : Option Nat := none
  unit : Option Nat := none
  host : Option (Nat × BitVec 32) := none
  level : Option Nat := none
  node : Option Nat := none
  sweep : Bool := false
  kind : Nat := 0
  lanes : BitVec 32 := 0
  va   : Nat := 0
  ipa  : Nat := 0
  leaf : Nat := 0
  sh   : Nat := 0
  deriving DecidableEq, Repr, Inhabited

/-- The host's answers to a TOKEN (R234, R235): try again, or go on with the frames added; fail; refuse. -/
inductive Answer where
  | retry | fail | refuse
  deriving DecidableEq, Repr, Inhabited

/-- A saved context image (R413): its number among the images of this device, the header's fields, the shape table and the alcove contexts, with the units, the TOKENs
they wait for, the answers that have come meanwhile (R234) and the Catalogue that travels with it (R375). `home` lists the alcoves
it left; `spent` says that its units run again, from a restore, and that it is only a copy (R319). -/
structure CtxImage where
  no    : Nat := 0
  spent : Bool := false
  wing  : Nat
  gen   : Nat := 0
  world : Nat
  prot  : Bool
  party : Bool
  banks : Nat
  shape : List Nat
  home  : List Nat
  ctxs  : List AlcContext
  units : List (Nat × Unit)
  tokens : List TokenWait
  recipes : Table Recipe
  answers : List (Nat × Answer) := []
  deriving DecidableEq, Repr, Inhabited

/-- For whom a DRAM stack serves a request (R411): an access of a wave, the sweep that runs, the Turnstile's reads of a party's
pools, a recipe build or the dirty log of a wing, a scrub of the frame, or world 0 and Lemsal. -/
inductive DramUse where
  | access (wave : Nat) | sweep | pool (binding party : Nat) | build (wing : Nat) | log (wing : Nat) | scrub | service
  deriving DecidableEq, Repr, Inhabited

/-- A move of the device or its environment: a slot or sequencer issues its next instruction; a row of the table
without a word happens; an outstanding access performs (an engine transfer, its next `n`
units); a halting wave stops; a cache line is evicted; a memory line, or a 128-byte chunk of a unit's
scratch window, suffers an uncorrectable error; an image marked
--debug-mixed is loaded for a wing; a host READ reads its first `n` granules (R421); Lemsal has come as far as step 6 of bring-up (R423); an element
corrects an error (R425); a sensor reads a temperature (R426); an instruction under way in a slot of a trap frame goes on (R306); an exchange makes a
step at the gate (R353, R355); the host brings a context image of another device, with the world key that
travels with a protected world (R319, R413); a DRAM stack serves a request at an address, with its bursts, activations and
turnarounds (R411) (log 4). -/
inductive Move where
  | issue (w : Nat) (src : Src)
  | event (i : Instr)
  | perform (w : Nat) (k : Nat) (n : Nat)
  | stop (w : Nat)
  | evict (line : Nat)
  | decay (line : Nat)
  | decayScr (unit chunk : Nat)
  | loadMixed (wing : Nat)
  | part (i : Instr) (n : Nat)
  | portsUp
  | corrected (kind : SpareKind) (elem : Nat)
  | sense (sensor : Nat) (reading : Int)
  | settle (w : Nat) (src : Src)
  | gateStep (b ch : Nat)
  | bring (im : CtxImage) (key : Option (BitVec 512))
  | dram (use : DramUse) (pa bursts acts turns : Nat)
  deriving DecidableEq, Repr, Inhabited

/-- The agent for which a word instruction executes. -/
structure Agent where
  wave : Nat := 0
  src  : Src := .slotA
  deriving DecidableEq, Repr, Inhabited

/-- The whole device. `spares` counts the spares that have been used, by kind and place (R11, R425); `corrected` counts the
corrected errors of each element, by its key (R425), and `temps` the temperature readings by
sensor (R426); `turn` counts the moves (log 4); `banks` keeps, under core × 16 + world, the first bank of the world's bank group on the core (R198,
R405). -/
structure State where
  -- memory (R16, R20/R377, R66, R251, R414)
  mem      : List Host.Cell := []
  tags     : Table Bool := []
  owners   : Table (BitVec 4) := []
  dirty    : Table LineImage := []
  poison   : Table Bool := []
  retired  : Table Bool := []
  locks    : Table Nat := []
  lockNo   : Table Nat := []
  strong   : Table (Nat × Nat) := []
  -- the compute side
  waves    : Table Wave := []
  units    : Table Unit := []
  alcoves  : Table Alcove := []
  banks    : Table Nat := []
  tlb      : List TlbEntry := []
  -- the hub dies
  wings    : Table Wing := []
  worlds   : Table World := []
  levels   : Table Level := []
  nodes    : Table Node := []
  bindings : Table Binding := []
  sweep    : Option SweepReq := none
  sweepQ   : List SweepReq := []
  tokens   : List TokenWait := []
  images   : List CtxImage := []
  -- Lemsal, the host link and service
  up       : Bool := false
  failedStep : Option (Nat × Nat) := none
  fast     : Bool := false
  clockChange : Option Bool := none
  powerCap : Nat := 4200
  lidHot   : Bool := false
  powered  : Bool := true
  spares   : Table Nat := []
  corrected : Table Nat := []
  temps    : Table Int := []
  assocs   : Table Assoc := []
  outbox   : List HostOut := []
  droppedOption : Nat := 0
  droppedKey    : Nat := 0
  capPending : Option Capture := none
  capHeld  : Option Capture := none
  capNext  : BitVec 32 := 1
  capIgnored : Nat := 0
  -- numbering
  nextCtx  : Nat := 1
  nextUnit : Nat := 1
  nextKey  : Nat := 1
  nextTok  : Nat := 1
  nextSeq  : Nat := 1
  -- the model's own fields (log 4, log 5)
  fresh    : Nat := 0
  turn     : Nat := 0
  script   : List Move := []
  cur      : Agent := {}
  deriving DecidableEq, Repr, Inhabited

/-- Reasons why the machine stops with a fault. -/
inductive Fault where
  /-- Raised by step when the device has no power (R424 after DIE_OVER_TEMPERATURE): nothing moves until a POWER_ON
  event. Safe: the spec gives no step to a device without power. -/
  | noPower
  deriving DecidableEq, Repr, Inhabited

/-- Reasons why the machine has no meaning for a step. -/
inductive Refusal where
  /-- Raised by an arm of exec whose instruction has no meaning yet. Safe. -/
  | notModelled (mnemonic : String)
  /-- Raised by step when a fetched word is one that the scanner rejects: R68 says that no such word is ever fetched
  and R71 that its cause 0x1C is never raised. Safe. -/
  | rejectedWord (reason : Nat)
  deriving DecidableEq, Repr, Inhabited

/-- The device right after power-on, before Lemsal has run bring-up (R423): no wing, no association, memory zero
(log 1, log 2). -/
def State.reset : State := {}

end Sys2Proof.Machine
end

