-- ==== Sys2Proof/Machine/Maps.lean ====
section
/-! DEFINITION. Operations on tables (lists of pairs with rising numbers) and on byte lists, and the small arithmetic
helpers of the other files. -/
namespace Sys2Proof.Machine

/-- What a table holds at a number, `d` where the number is not listed. -/
def tget {α : Type} (d : α) : Table α → Nat → α
  | [], _ => d
  | (k, v) :: t, n => if k = n then v else if n < k then d else tget d t n

/-- What a table lists at a number. -/
def tlook {α : Type} : Table α → Nat → Option α
  | [], _ => none
  | (k, v) :: t, n => if k = n then some v else if n < k then none else tlook t n

/-- The table with a number listed with a value. -/
def tput {α : Type} : Table α → Nat → α → Table α
  | [], n, x => [(n, x)]
  | (k, v) :: t, n, x =>
    if k = n then (n, x) :: t else if n < k then (n, x) :: (k, v) :: t else (k, v) :: tput t n x

/-- The table with a number no longer listed. -/
def tdel {α : Type} : Table α → Nat → Table α
  | [], _ => []
  | (k, v) :: t, n => if k = n then t else if n < k then (k, v) :: t else (k, v) :: tdel t n

/-- The table with a value at a number, in the form that lists no default. -/
def tset {α : Type} [DecidableEq α] (d : α) (t : Table α) (n : Nat) (x : α) : Table α :=
  if x = d then tdel t n else tput t n x

/-- The numbers of a table strictly rise from `lo` on. -/
def trising {α : Type} : Nat → Table α → Bool
  | _, [] => true
  | lo, (k, _) :: t => decide (lo ≤ k) && trising (k + 1) t

/-- The least number from `lo` on that a table does not list, for a table with rising numbers. -/
def tfree {α : Type} (lo : Nat) : Table α → Nat
  | [] => lo
  | (k, _) :: t => if k < lo then tfree lo t else if k = lo then tfree (lo + 1) t else lo

/-- Drops the entries with numbers in [lo, hi). -/
def tdrop {α : Type} (t : Table α) (lo hi : Nat) : Table α :=
  t.filter (fun e => e.1 < lo || hi ≤ e.1)

/-- A list's element, or the blank value. -/
def nth {α : Type} (d : α) (l : List α) (n : Nat) : α := (l[n]?).getD d

/-- Sets an element of a list that has it. -/
def setNth {α : Type} (l : List α) (n : Nat) (x : α) : List α := l.set n x

/-- The number that `n` little-endian bytes stand for (R2). -/
def leNat : List Byte → Nat
  | [] => 0
  | b :: bs => b.toNat + 256 * leNat bs

/-- The `n` low bytes of a number, little-endian (R2). -/
def natLe : Nat → Nat → List Byte
  | 0, _ => []
  | n + 1, v => BitVec.ofNat 8 v :: natLe n (v / 256)

/-- Bits [hi:lo] of a number. -/
def bits (v hi lo : Nat) : Nat := (v / 2 ^ lo) % 2 ^ (hi + 1 - lo)

/-- One bit of a number. -/
def bit (v n : Nat) : Bool := v / 2 ^ n % 2 == 1

/-- A number of `w` bits read as two's complement. -/
def sext (w v : Nat) : Int := if v % 2 ^ w < 2 ^ (w - 1) then (v % 2 ^ w : Nat) else (v % 2 ^ w : Nat) - (2 ^ w : Nat)

/-- A number mod 2^w. -/
def wrap (w : Nat) (i : Int) : Nat := (i % ((2 ^ w : Nat) : Int)).toNat

/-- The lanes of a mask, lowest first. -/
def lanesOf (m : BitVec 32) : List Nat := (List.range 32).filter (fun i => m.getLsbD i)

/-- The mask with the given lanes. -/
def maskOf (l : List Nat) : BitVec 32 := l.foldl (fun m i => m ||| (1#32 <<< i)) 0

/-- The lowest lane of a mask. -/
def lowLane (m : BitVec 32) : Option Nat := (lanesOf m).head?

/-- How many bits of a mask are set. -/
def popMask (m : BitVec 32) : Nat := (lanesOf m).length

/-- Rounds up to a multiple. -/
def alignUp (x a : Nat) : Nat := (x + a - 1) / a * a

/-- The bytes from `a` on, `n` of them, of a byte table. -/
def tbytes (t : Table Byte) (a n : Nat) : List Byte := (List.range n).map (fun i => tget 0 t (a + i))

/-- Writes bytes into a byte table from `a` on. -/
def tputBytes (t : Table Byte) : Nat → List Byte → Table Byte
  | _, [] => t
  | a, b :: bs => tputBytes (tset 0 t a b) (a + 1) bs

/-- Two ranges [a, a+n) and [b, b+m) share a number. -/
def overlaps (a n b m : Nat) : Bool := decide (a < b + m) && decide (b < a + n) && decide (0 < n) && decide (0 < m)

end Sys2Proof.Machine
end

