-- ==== Sys2Proof/Machine/Ops.lean ====
section
/-! DEFINITION. The named operations over registers, slots, waves and units: what an instruction reads and writes,
how it retires, how a trap is taken (R305-R311), how a handler returns (R325), and how a unit stops (R306, R313). -/
namespace Sys2Proof.Machine

/-- One step's answer. -/
abbrev Out := Host.Outcome State Fault Refusal

-- Objects by number.

/-- The wave in a slot, blank where the slot is free. -/
def waveAt (s : State) (k : Nat) : Wave := tget {} s.waves k
/-- The state with a wave put in its slot. -/
def setWave (s : State) (k : Nat) (w : Wave) : State := { s with waves := tput s.waves k w }
/-- The unit with a number. -/
def unitAt (s : State) (u : Nat) : Unit := tget {} s.units u
/-- The state with a unit put. -/
def setUnit (s : State) (u : Nat) (x : Unit) : State := { s with units := tput s.units u x }
/-- The wing with a number. -/
def wingAt (s : State) (n : Nat) : Wing := tget {} s.wings n
/-- The state with a wing put. -/
def setWing (s : State) (n : Nat) (x : Wing) : State := { s with wings := tput s.wings n x }
/-- The world with a number. -/
def worldAt (s : State) (n : Nat) : World := tget {} s.worlds n
/-- The state with a world put. -/
def setWorld (s : State) (n : Nat) (x : World) : State := { s with worlds := tput s.worlds n x }
/-- The alcove with a number. -/
def alcAt (s : State) (n : Nat) : Alcove := tget {} s.alcoves n
/-- The state with an alcove put. -/
def setAlc (s : State) (n : Nat) (x : Alcove) : State := { s with alcoves := tput s.alcoves n x }
/-- The level in a slot. -/
def levelAt (s : State) (n : Nat) : Level := tget {} s.levels n
/-- The state with a level put. -/
def setLevel (s : State) (n : Nat) (x : Level) : State := { s with levels := tput s.levels n x }
/-- The node with a number. -/
def nodeAt (s : State) (n : Nat) : Node := tget {} s.nodes n
/-- The state with a node put. -/
def setNode (s : State) (n : Nat) (x : Node) : State := { s with nodes := tput s.nodes n x }
/-- The binding with a number. -/
def bindAt (s : State) (n : Nat) : Binding := tget {} s.bindings n
/-- The state with a binding put. -/
def setBind (s : State) (n : Nat) (x : Binding) : State := { s with bindings := tput s.bindings n x }

/-- The alcove of a wave slot (R13). -/
def alcOf (k : Nat) : Nat := k / 16
/-- The core of an alcove: four alcoves to a core (R10). -/
def coreOf (alc : Nat) : Nat := alc / 4
/-- The unit of a wave. -/
def unitOf (s : State) (k : Nat) : Unit := unitAt s (waveAt s k).unit
/-- The wing number of a wave. -/
def wingNoOf (s : State) (k : Nat) : Nat := (unitOf s k).wing
/-- The wing of a wave. -/
def wingOf (s : State) (k : Nat) : Wing := wingAt s (wingNoOf s k)
/-- The world of a wave (system register WORLD, R69). -/
def worldOf (s : State) (k : Nat) : Nat := (wingOf s k).world
/-- The next fresh number for a free value or choice (log 5). -/
def tick (s : State) : State := { s with fresh := s.fresh + 1 }
/-- A record or completion for the host. -/
def emit (s : State) (o : HostOut) : State := { s with outbox := s.outbox ++ [o] }

-- Register files (R94).

/-- s[n]. -/
def getS (r : RegFile) (n : Nat) : DWord := tget 0 r.s n
/-- Writes s[n]. -/
def setS (r : RegFile) (n : Nat) (v : DWord) : RegFile := { r with s := tset 0 r.s n v }
/-- p[n]. -/
def getP (r : RegFile) (n : Nat) : BitVec 32 := tget 0 r.p n
/-- Writes p[n] whole. -/
def setP (r : RegFile) (n : Nat) (v : BitVec 32) : RegFile := { r with p := tset 0 r.p n v }
/-- c[n]. -/
def getC (r : RegFile) (n : Nat) : Cap := tget {} r.c n
/-- Writes c[n]. -/
def setC (r : RegFile) (n : Nat) (v : Cap) : RegFile := { r with c := tset {} r.c n v }
/-- v[n] of a lane. -/
def getV (r : RegFile) (n lane : Nat) : BitVec 32 := tget 0 r.v (n * 32 + lane)
/-- Writes v[n] of a lane. -/
def setV (r : RegFile) (n lane : Nat) (v : BitVec 32) : RegFile := { r with v := tset 0 r.v (n * 32 + lane) v }
/-- vc[n] of a lane. -/
def getVC (r : RegFile) (n lane : Nat) : Cap := tget {} r.vc (n * 32 + lane)
/-- Writes vc[n] of a lane. -/
def setVC (r : RegFile) (n lane : Nat) (v : Cap) : RegFile := { r with vc := tset {} r.vc (n * 32 + lane) v }

/-- The 64-bit value of the V pair vn/vn+1 in a lane (R52). -/
def getPair (r : RegFile) (n lane : Nat) : Nat := (getV r n lane).toNat + 2 ^ 32 * (getV r (n + 1) lane).toNat
/-- Writes a V pair. -/
def setPair (r : RegFile) (n lane v : Nat) : RegFile :=
  setV (setV r n lane (BitVec.ofNat 32 v)) (n + 1) lane (BitVec.ofNat 32 (v / 2 ^ 32))

-- Capability fields (R167, R168).

/-- ADDR. -/
def capAddr (c : Cap) : Nat := c.bits.toNat % 2 ^ 64
/-- PERMS. -/
def capPerms (c : Cap) : Nat := Sys2Proof.Machine.bits c.bits.toNat 79 64
/-- OTYPE. -/
def capOtype (c : Cap) : Nat := Sys2Proof.Machine.bits c.bits.toNat 83 80
/-- WORLD. -/
def capWorld (c : Cap) : Nat := Sys2Proof.Machine.bits c.bits.toNat 87 84
/-- The E field. -/
def capE (c : Cap) : Nat := Sys2Proof.Machine.bits c.bits.toNat 127 122
/-- The B field. -/
def capB (c : Cap) : Nat := Sys2Proof.Machine.bits c.bits.toNat 121 107
/-- The L field. -/
def capL (c : Cap) : Nat := Sys2Proof.Machine.bits c.bits.toNat 106 92
/-- A permission bit of R168. -/
def capHas (c : Cap) (n : Nat) : Bool := bit (capPerms c) n
/-- LD. -/
def pLD : Nat := 0
/-- ST. -/
def pST : Nat := 1
/-- LDC. -/
def pLDC : Nat := 2
/-- STC. -/
def pSTC : Nat := 3
/-- EXEC. -/
def pEXEC : Nat := 4
/-- GLOBAL. -/
def pGLOBAL : Nat := 5
/-- SEAL. -/
def pSEAL : Nat := 6
/-- UNSEAL. -/
def pUNSEAL : Nat := 7
/-- SCRATCH. -/
def pSCRATCH : Nat := 8
/-- RECIPE. -/
def pRECIPE : Nat := 9
/-- ENQ. -/
def pENQ : Nat := 10
/-- SYS. -/
def pSYS : Nat := 11
/-- REVEAL. -/
def pREVEAL : Nat := 12

-- Slots and sequencers of a wave.

/-- A program-counter slot of a wave; a sequencer's number gives slot A. -/
def slotOf (w : Wave) : Src → Slot
  | .slotB => w.b
  | _ => w.a
/-- Puts a program-counter slot. -/
def putSlot (w : Wave) (src : Src) (x : Slot) : Wave :=
  match src with
  | .slotB => { w with b := x }
  | _ => { w with a := x }
/-- A sequencer of a wave; a slot's number gives the copy sequencer. -/
def seqOf (w : Wave) : Src → Seq
  | .seqMatrix => w.seqM
  | .seqGather => w.seqG
  | _ => w.seqC
/-- Puts a sequencer. -/
def putSeq (w : Wave) (src : Src) (q : Seq) : Wave :=
  match src with
  | .seqMatrix => { w with seqM := q }
  | .seqGather => { w with seqG := q }
  | _ => { w with seqC := q }
/-- The source is a sequencer. -/
def isSeq : Src → Bool
  | .slotA | .slotB => false
  | _ => true
/-- The slot that is not the given one. -/
def otherSrc : Src → Src
  | .slotA => .slotB
  | _ => .slotA
/-- The number of a source (R309). -/
def srcNo : Src → Nat
  | .slotA => 0 | .slotB => 1 | .seqCopy => 2 | .seqMatrix => 3 | .seqGather => 4
/-- The source with a number of R309. -/
def srcOf : Nat → Src
  | 0 => .slotA | 1 => .slotB | 2 => .seqCopy | 3 => .seqMatrix | _ => .seqGather

/-- A source's PC. -/
def srcPc (w : Wave) (x : Src) : DWord := if isSeq x then (seqOf w x).pc else (slotOf w x).pc
/-- A source's DIX. -/
def srcDix (w : Wave) (x : Src) : BitVec 48 := if isSeq x then (seqOf w x).dix else (slotOf w x).dix
/-- A source's mask: a sequencer executes as lane 0 alone (R44). -/
def srcMask (w : Wave) (x : Src) : BitVec 32 := if isSeq x then 1 else (slotOf w x).mask
/-- A source's PIX. -/
def livePix (w : Wave) (x : Src) : DWord := if isSeq x then (seqOf w x).pix else (slotOf w x).pix
/-- Where a source's next instruction starts: the progress of the one that runs, else its PIX (R314, R315). -/
def srcPix (w : Wave) (x : Src) : DWord :=
  if isSeq x then ((seqOf w x).prog).getD (seqOf w x).pix else ((slotOf w x).prog).getD (slotOf w x).pix
/-- A source's hold. -/
def srcHold (w : Wave) (x : Src) : Hold := if isSeq x then (seqOf w x).hold else (slotOf w x).hold
/-- What an instruction finds as its own hold: the wait of its fetch is over. -/
def ownHold : Hold → Hold
  | .fetch _ => .none
  | h => h
/-- What a fetch waits for, or has been answered. -/
def fetchHold : Hold → Hold
  | .fetch h => h
  | _ => .none
/-- The registers a source writes. -/
def srcLive (w : Wave) (x : Src) : RegFile := if isSeq x then (seqOf w x).regs else w.regs
/-- The snapshot of a source's run. -/
def srcSnap (w : Wave) (x : Src) : Option Snapshot := if isSeq x then (seqOf w x).snap else (slotOf w x).snap
/-- The registers a source reads: as they stood at the start of its run (R24). A sequencer reads its copies of S, P, C
and MODE; SEED and FLAGS are the wave's (R44), as they too stood at the start of its run. -/
def srcRead (w : Wave) (x : Src) : RegFile :=
  match srcSnap w x with
  | some n => n.regs
  | none => if isSeq x then { (seqOf w x).regs with seed := w.regs.seed, flags := w.regs.flags } else w.regs

/-- Sets a source's hold. -/
def putHold (w : Wave) (x : Src) (h : Hold) : Wave :=
  if isSeq x then putSeq w x { seqOf w x with hold := h } else putSlot w x { slotOf w x with hold := h }
/-- Sets a source's PIX. -/
def putPix (w : Wave) (x : Src) (v : DWord) : Wave :=
  if isSeq x then putSeq w x { seqOf w x with pix := v } else putSlot w x { slotOf w x with pix := v }
/-- Sets the progress of a source's running instruction. -/
def putProg (w : Wave) (x : Src) (v : DWord) : Wave :=
  if isSeq x then putSeq w x { seqOf w x with pix := 0, prog := some v }
  else putSlot w x { slotOf w x with pix := 0, prog := some v }
/-- The first register cell and the cell past the last of a queue window (R43). -/
def windowCells (w : Wave) : Nat × Nat := (w.window * 32, w.window * 32 + 512)
/-- While a tether lives, an ordinary write to a window register is discarded (R43). -/
def keepWindow (w : Wave) (r : RegFile) : RegFile :=
  if w.tethSlot.isSome then
    let (lo, hi) := windowCells w
    let kept := w.regs.v.filter fun e => lo ≤ e.1 && e.1 < hi
    { r with v := kept.foldl (fun t e => tput t e.1 e.2) (tdrop r.v lo hi) }
  else r
/-- While a tether lives, a read of a window register gives some entry's value or the register's former value: a free
choice among them (R43, log 5). -/
def readWindow (fresh : Nat) (w : Wave) (r : RegFile) : RegFile :=
  if w.tethSlot.isSome then
    let (lo, _) := windowCells w
    (List.range 512).foldl (fun r i =>
      let n := Config.freePick (fresh * 1024 + i) % (w.queue.length + 1)
      if n = 0 then r
      else { r with v := tset 0 r.v (lo + i) (nth 0 (nth [] w.queue (n - 1)) (i % 32)) }) r
  else r

/-- Writes the registers of a source. -/
def putLive (w : Wave) (x : Src) (r : RegFile) : Wave :=
  if isSeq x then putSeq w x { seqOf w x with regs := r } else { w with regs := keepWindow w r }

/-- What an instruction sees of the agent it executes for. -/
structure Ctx where
  k    : Nat
  src  : Src
  w    : Wave
  pc   : DWord
  dix  : BitVec 48
  mask : BitVec 32
  pix  : DWord
  hold : Hold
  rd   : RegFile
  live : RegFile
  sys  : Table DWord
  cut  : Bool

/-- The source that TRAPCAUSE names. -/
def trapSrc (w : Wave) : Nat := Sys2Proof.Machine.bits w.trapCause.toNat 10 8

/-- The progress index of a selector (R327): in a handler, the trap frame's and TRAPPIX; else the live one, which is 0 while
its owner runs (R314). -/
def pixOf (w : Wave) (k : Nat) : DWord :=
  match w.frame with
  | none => livePix w (srcOf k)
  | some fr =>
    if k = trapSrc w then w.trapPix
    else match k with
      | 0 => fr.a.pix
      | 1 => fr.b.pix
      | _ => livePix w (srcOf k)

/-- The system registers outside the register file that an instruction can change or that change under a wave (R69), by
number: ACCOWN, PIX, DIVD, where a count of 256 reads as 255 (R109), SNAPID and the trap registers; then, from 0x100 on, the
progress indices that PIXRD selects (R327). -/
def sysNow (s : State) (k : Nat) (w : Wave) (x : Src) : Table DWord :=
  [(0x010, (alcAt s (alcOf k)).mat.accown.setWidth 64), (0x011, livePix w x), (0x012, BitVec.ofNat 64 (min w.divd 255)),
   (0x014, (wingOf s k).snapId.setWidth 64), (0x020, w.trapCause.setWidth 64), (0x021, w.trapPc), (0x022, w.trapAddr),
   (0x023, w.trapLanes.setWidth 64), (0x024, w.skid.setWidth 64), (0x025, w.trapVec), (0x026, w.trapPix),
   (0x100, pixOf w 0), (0x101, pixOf w 1), (0x102, pixOf w 2), (0x103, pixOf w 3), (0x104, pixOf w 4)]

/-- The context of a source of a wave. -/
def ctxOf (s : State) (k : Nat) (x : Src) : Ctx :=
  let w := waveAt s k
  { k := k, src := x, w := w, pc := srcPc w x, dix := srcDix w x, mask := srcMask w x, pix := srcPix w x,
    hold := ownHold (srcHold w x), live := srcLive w x,
    rd := if isSeq x || (slotOf w x).snap.isSome then srcRead w x else readWindow s.fresh w (srcRead w x),
    sys := ((srcSnap w x).map (·.sys)).getD (sysNow s k w x),
    cut := ((srcSnap w x).map (·.cut)).getD false }

/-- The context of the agent that the state names. -/
def ctx (s : State) : Ctx := ctxOf s s.cur.wave s.cur.src

/-- A field of MODE (R54) as it stood at the start of the run. -/
def modeGuard (m : BitVec 32) : Nat := m.toNat % 16
/-- GNEG. -/
def modeGneg (m : BitVec 32) : Bool := m.getLsbD 4
/-- ETYPE. -/
def modeEty (m : BitVec 32) : Nat := Sys2Proof.Machine.bits m.toNat 9 5
/-- ROUND. -/
def modeRound (m : BitVec 32) : Nat := Sys2Proof.Machine.bits m.toNat 12 10
/-- SAT. -/
def modeSat (m : BitVec 32) : Bool := m.getLsbD 13
/-- STYPE. -/
def modeSty (m : BitVec 32) : Nat := Sys2Proof.Machine.bits m.toNat 20 16

/-- The guard mask (R54): the slot's MASK AND the guard predicate. -/
def guardOf (c : Ctx) : BitVec 32 :=
  let g := modeGuard c.rd.mode
  let p := if g = 0 then BitVec.allOnes 32 else getP c.rd (g - 1)
  c.mask &&& (if modeGneg c.rd.mode then ~~~p else p)

/-- The lanes of `active()` (R56). -/
def active (c : Ctx) : List Nat := lanesOf (guardOf c)

-- Traps.

/-- A trap an instruction raises: its cause (R71), TRAPADDR, TRAPLANES (none: the issuing slot's MASK, R57), whether a
WAITC reports it, TRAPPIX (none: the source's PIX) whether TRAPPC is the next word (R311), and a
TRAPPC of its own (R350). -/
structure Trap where
  cause : Nat
  addr  : DWord := 0
  lanes : Option (BitVec 32) := none
  defer : Bool := false
  pix   : Option DWord := none
  next  : Bool := false
  pc    : Option DWord := none
  deriving DecidableEq, Repr, Inhabited

/-- A trap that reports the guard mask, of an instruction that applies the guard (R57). -/
def guardTrap (c : Ctx) (cause : Nat) : Trap := { cause := cause, lanes := some (guardOf c) }

/-- A held slot's hold after a halt: waits with no effect yet are left unissued (R306). -/
def holdAfterHalt : Hold → Hold
  | .poll => .none
  | .part => .none
  | .claim => .none
  | .bar .. => .none
  | h => h

/-- A slot after a halt: its wait left unissued, the progress of its long instruction in PIX (R306, R314). -/
def haltSlot (x : Slot) : Slot :=
  { x with hold := holdAfterHalt x.hold, pix := x.prog.getD x.pix, prog := none }
/-- A sequencer after a halt. -/
def haltSeqHold (q : Seq) : Seq :=
  { q with hold := holdAfterHalt q.hold, pix := q.prog.getD q.pix, prog := none }
/-- A wave's slots and sequencers after a halt reached it. -/
def haltHolds (w : Wave) : Wave :=
  { w with a := haltSlot w.a, b := haltSlot w.b, seqC := haltSeqHold w.seqC, seqM := haltSeqHold w.seqM,
           seqG := haltSeqHold w.seqG }

/-- A slot's hold is on work already under way (R306). -/
def underWay : Hold → Bool
  | .none => false
  | .poll => false
  | .part => false
  | .claim => false
  | .bar .. => false
  | .fetch _ => false
  | _ => true

/-- A cut run's snapshot: none; an instruction whose work is under way keeps what it has read until it ends (R306). -/
def cutSnap (h : Hold) (n : Option Snapshot) : Option Snapshot :=
  if underWay h then n.map fun x => { x with cut := true } else none
/-- A wave's runs are cut: the next instruction of each slot and sequencer starts a run (R27). -/
def cutRuns (w : Wave) : Wave :=
  let slot (x : Slot) : Slot := { x with snap := cutSnap x.hold x.snap }
  let seq (q : Seq) : Seq := { q with snap := cutSnap q.hold q.snap }
  { w with a := slot w.a, b := slot w.b, seqC := seq w.seqC, seqM := seq w.seqM, seqG := seq w.seqG }

/-- Applies a function to each wave of a list. -/
def mapWaves (s : State) (f : Nat → Wave → Wave) : List Nat → State
  | [] => s
  | k :: ks => mapWaves (setWave s k (f k (waveAt s k))) f ks

/-- Withdraws the waiting claims and FORKs of the waves of a list from the alcoves' queues (R306, R294, R44). -/
def dropClaims (s : State) (ks : List Nat) : State :=
  { s with alcoves := s.alcoves.map fun e =>
      (e.1, { e.2 with mat := { e.2.mat with waiting := e.2.mat.waiting.filter fun q => !ks.contains q.1 },
                       forkQ := e.2.forkQ.filter fun q => !ks.contains q.1 }) }

/-- Applies a function to the three sequencers of a wave. -/
def mapSeqs (w : Wave) (f : Seq → Seq) : Wave := { w with seqC := f w.seqC, seqM := f w.seqM, seqG := f w.seqG }

/-- A sequencer that a halt, or with `pre` a pre-emption, reaches: its own skid begins at 0 (R306). -/
def haltSeq (pre : Bool) (q : Seq) : Seq :=
  match q.stop with
  | .running => { q with stop := .skidding 0, skid := 0, pre := pre }
  | _ => { q with pre := q.pre && pre }

/-- A wave that a halt reaches: a running wave outside a handler begins its skid at 0; others keep their state. A slot
that waits issues nothing in the skid (R306). -/
def haltWave (except : Nat) (k : Nat) (w : Wave) : Wave :=
  if k = except || w.frame.isSome then w
  else
    let w := mapSeqs w (haltSeq false)
    match w.stop with
    | .running => { w with stop := .skidding 0, skid := 0 }
    | _ => { w with pre := false }

/-- The halt broadcast to every wave of a unit but the one that raised it (R306). -/
def haltUnit (s : State) (u : Nat) (except : Nat) : State :=
  let x := unitAt s u
  let s := mapWaves s (haltWave except) x.waves
  let s := dropClaims s x.waves
  setUnit s u { x with halted := true }

/-- Why a unit ends where a second reason joins the first: the first one stands, but a unit that was to be launched again ends
for the reason that comes then (R39, R285). -/
def endReason (old : Option UnitEnd) (e : UnitEnd) : UnitEnd :=
  match old with
  | some .relaunch => e
  | some x => x
  | none => e

/-- A unit begins to end: its waves stop without a handler (R39, R313). -/
def endUnit (s : State) (u : Nat) (e : UnitEnd) (cause : Nat) : State :=
  let x := unitAt s u
  let s := dropClaims s x.waves
  setUnit s u { x with ending := some (endReason x.ending e), halted := true,
                       firstCause := if x.firstCause = 0 then BitVec.ofNat 8 cause else x.firstCause }

/-- The supervisor bank as it stands in a register file (R310). -/
def bankOf (r : RegFile) : Bank :=
  { caps := [24, 25, 26, 27].map (getC r), pcc := getC r 31,
    s := (List.range 8).map fun i => getS r (56 + i) }

/-- Writes a bank's values into a register file. -/
def putBank (r : RegFile) (b : Bank) : RegFile :=
  let r := (List.range 4).foldl (fun r i => setC r (24 + i) (nth {} b.caps i)) r
  let r := setC r 31 b.pcc
  (List.range 8).foldl (fun r i => setS r (56 + i) (nth 0 b.s i)) r

/-- The mask a handler starts with (R310 step 5). -/
def handlerMask (w : Wave) (src : Src) (lanes : BitVec 32) : BitVec 32 :=
  if lanes ≠ 0 then lanes else if isSeq src then w.live else (slotOf w src).mask

/-- The trap registers as a trap sets them (R309-R311). -/
def setTrapRegs (w : Wave) (src : Src) (t : Trap) : Wave :=
  { w with
    trapCause := BitVec.ofNat 32 ((if t.defer then 2048 else 0) + srcNo src * 256 + t.cause % 256)
    trapPc := t.pc.getD (if t.next then srcPc w src + 4 else srcPc w src)
    trapAddr := t.addr
    trapLanes := t.lanes.getD (srcMask w src)
    trapPix := t.pix.getD (srcPix w src) }

/-- A sequencer stops: in its skid it keeps the count so far, else its SKID is 0 (R306). -/
def stopSeq (q : Seq) : Seq := { q with stop := .stopped, pre := false, skid := match q.stop with | .running => 0 | _ => q.skid }

/-- Handler entry in the trapping wave: R310 steps 1 to 5. A pre-empted slot keeps what it waits for (R312, R342). -/
def enterHandler (w : Wave) (src : Src) (t : Trap) : Wave :=
  let w := setTrapRegs w src t
  let w := cutRuns (haltHolds (if t.cause = 0x16 then w else putHold w src .none))
  let fr : TrapFrame :=
    { a := w.a, b := w.b, divd := w.divd, jr := w.jr, mode := w.regs.mode,
      seqRunning := [w.seqC.running, w.seqM.running, w.seqG.running] }
  let regs := putBank { w.regs with mode := 0 } w.bank
  { w with
    frame := some fr, bank := bankOf w.regs, regs := regs, divd := 0, jr := Config.noJoin, b := {},
    a := { pc := w.trapVec, mask := handlerMask w src w.trapLanes,
           dix := BitVec.ofNat 48 ((srcDix w src).toNat + 2 ^ 44), st := .ready },
    seqC := stopSeq w.seqC, seqM := stopSeq w.seqM, seqG := stopSeq w.seqG,
    stop := .running, pre := false, skid := match w.stop with | .running => 0 | _ => w.skid }

/-- The sequence number after a capture's: 0 is skipped (R426). -/
def nextCapture (n : BitVec 32) : BitVec 32 := if n + 1 = 0 then 1 else n + 1

/-- A capture is triggered or joined; while one is held the trigger is ignored and counted (R426). -/
def capTrigger (s : State) (snaps : List (Nat × DWord × BitVec 16)) : State :=
  if s.capHeld.isSome then { s with capIgnored := s.capIgnored + 1 }
  else match s.capPending with
    | some c => { s with capPending := some { c with snaps := c.snaps ++ snaps } }
    | none => { s with capPending := some { seqNo := s.capNext, snaps := snaps }, capNext := nextCapture s.capNext }

/-- A capture where the host chose uncorrectable errors as a trigger (R426). -/
def uncorrTrigger (s : State) (wing : Nat) : State := if (wingAt s wing).armed.uncorr then capTrigger s [] else s

/-- A cause that an access of a wing ends with: an uncorrectable error that it has found may trigger a capture (R426). -/
def uncorrFound (s : State) (wing cause : Nat) : State := if cause = 0x15 then uncorrTrigger s wing else s

/-- A trap in a wing whose host chose its cause as a trigger, or, where an instruction has found one, uncorrectable errors (R426). -/
def trapTrigger (s : State) (wing : Nat) (t : Trap) : State :=
  if (wingAt s wing).armed.causes.any (fun c => c.toNat == t.cause) || ((wingAt s wing).armed.uncorr && t.cause == 0x15 && t.pc.isNone)
  then capTrigger s [] else s

/-- TAKING A TRAP (R305-R313): in a handler, a double fault, which ends the unit as failed; otherwise the unit is
halted and the trapping wave enters its handler. -/
def takeTrap (s : State) (k : Nat) (src : Src) (t : Trap) : State :=
  let s := trapTrigger s (wingNoOf s k) t
  let w := waveAt s k
  if w.frame.isSome then endUnit s w.unit .failed t.cause
  else
    let s := haltUnit s w.unit k
    let u := unitAt s w.unit
    let s := setUnit s w.unit { u with firstCause := if u.firstCause = 0 then BitVec.ofNat 8 t.cause else u.firstCause }
    setWave s k (enterHandler (waveAt s k) src t)

/-- Some wave of the list is in a handler. -/
def anyHandler (s : State) (ks : List Nat) : Bool := ks.any fun k => (waveAt s k).frame.isSome

/-- A stopped wave issues again, its cut runs starting anew (R27, R308). -/
def resumeWave (w : Wave) : Wave :=
  match w.stop with
  | .running => w
  | _ => { cutRuns (haltHolds w) with stop := .running, pre := false }

/-- A wave's sequencers issue again (R308). -/
def resumeSeqs (w : Wave) : Wave := mapSeqs w fun q =>
  { q with stop := .running, pre := false, snap := if q.stop = .running then q.snap else cutSnap q.hold q.snap }

/-- The unit's waves resume where no handler and no hold remains (R308, R328). -/
def resumeUnit (s : State) (u : Nat) : State :=
  let x := unitAt s u
  if x.held.isSome || x.ending.isSome || anyHandler s x.waves then s
  else setUnit (mapWaves s (fun _ w => resumeSeqs (resumeWave w)) x.waves) u { x with halted := false }

/-- A wave with its trap frame restored and its bank exchanged back (R325). -/
def frameView (w : Wave) (fr : TrapFrame) : Wave :=
  { w with frame := none, bank := bankOf w.regs, regs := putBank { w.regs with mode := fr.mode } w.bank,
           a := fr.a, b := fr.b, divd := fr.divd, jr := fr.jr }

/-- The trap registers that name where a return goes (R325): SRC of TRAPCAUSE, TRAPPC and TRAPPIX. -/
structure Return where
  src : Nat
  pc  : DWord
  pix : DWord

/-- What SRET reads of the trap registers: as they stood at the start of its run (R24, R323). -/
def returnOf (sys : Table DWord) : Return :=
  { src := Sys2Proof.Machine.bits (tget 0 sys 0x020).toNat 10 8, pc := tget 0 sys 0x021 &&& ~~~3#64, pix := tget 0 sys 0x026 }

/-- The return from a handler in its wave (R325): the bank exchanged back, the frame restored, TRAPPC and TRAPPIX given
to the source. Under a hold of the unit the wave stands stopped, and no pre-emption's restore frees it (R317, R328). -/
def leaveHandler (w : Wave) (fr : TrapFrame) (r : Return) (held : Bool) : Wave :=
  let src := srcOf r.src
  let w := cutRuns { frameView w fr with stop := if held then .stopped else w.stop, pre := w.pre && !held }
  if isSeq src then putSeq w src { seqOf w src with pc := r.pc, pix := r.pix, prog := none }
  else putSlot w src { slotOf w src with pc := r.pc, pix := r.pix, prog := none }

/-- SRET's source is one that was FREE, or a sequencer that was not running, at the trap; or a sequencer of the handler
still runs (R313). -/
def sretFaults (w : Wave) (fr : TrapFrame) (r : Return) : Bool :=
  let gone := match r.src with
    | 0 => fr.a.st = .free
    | 1 => fr.b.st = .free
    | n => !(nth false fr.seqRunning (n - 2))
  let h (q : Seq) := q.running && q.handler
  gone || h w.seqC || h w.seqM || h w.seqG

-- Retiring an instruction.

/-- The slot or sequencer moves past its word: PC + 4, DIX + 1, PIX cleared, no hold; the run ends at a switch marker
(R23, R97, R315). -/
def advance (c : Ctx) (sw : Bool) (w : Wave) : Wave :=
  let sn := if sw || c.cut then none else some { regs := c.rd, sys := c.sys }
  if isSeq c.src then
    let q := seqOf w c.src
    putSeq w c.src { q with pc := c.pc + 4, dix := c.dix + 1, pix := 0, prog := none, hold := .none, snap := sn }
  else
    let x := slotOf w c.src
    { putSlot w c.src { x with pc := c.pc + 4, dix := c.dix + 1, pix := 0, prog := none, hold := .none, snap := sn } with
      lastSlot := if sw then c.src = .slotB else w.lastSlot }

/-- A control transfer of a slot or sequencer: the run ends; the source goes to an address (R23). -/
def goTo (c : Ctx) (pc : DWord) (w : Wave) : Wave :=
  if isSeq c.src then
    let q := seqOf w c.src
    putSeq w c.src { q with pc := pc, dix := c.dix + 1, pix := 0, prog := none, hold := .none, snap := none }
  else
    let x := slotOf w c.src
    { putSlot w c.src { x with pc := pc, dix := c.dix + 1, pix := 0, prog := none, hold := .none, snap := none } with
      lastSlot := c.src = .slotB }

/-- Which agents may execute an instruction (R45, R210): every one, the slots alone, or the slots and one sequencer.
`lanes`: the slots alone, of an instruction that applies the guard; `rows`: of one that applies it row by row (R280), the slots,
and the matrix sequencer where `seq` says so (R293). -/
inductive Where where
  | wave | lanes | any | only (q : Src) | rows (seq : Bool)
  deriving DecidableEq, Repr, Inhabited

/-- The instruction is allowed for the source. -/
def allowed (a : Where) (x : Src) : Bool :=
  match a with
  | .any => true
  | .wave => !isSeq x
  | .lanes => !isSeq x
  | .only q => !isSeq x || x == q
  | .rows seq => !isSeq x || (seq && x == .seqMatrix)

/-- The mask that the guard of MODE selects over all 32 rows (R54, R280). -/
def rowGuard (c : Ctx) : BitVec 32 := guardOf { c with mask := BitVec.allOnes 32 }

/-- The trap of an instruction that a sequencer does not execute (R45): with the guard mask where the instruction applies
the guard (R57). -/
def barredTrap (a : Where) (c : Ctx) : Trap :=
  { cause := 0x0A, lanes := match a with
      | .lanes => some (guardOf c)
      | .rows _ => some (if c.src = .seqMatrix then rowGuard c else guardOf c)
      | _ => none }

/-- A register-only instruction: `f` gives a trap or the new registers; then the source moves on (R97). -/
def runLocal (s : State) (sw : Bool) (a : Where) (f : Ctx → Except Trap RegFile) : Out :=
  let c := ctx s
  if allowed a c.src then
    match f c with
    | .error t => .next (takeTrap s c.k c.src t)
    | .ok r => .next (setWave s c.k (advance c sw (putLive c.w c.src r)))
  else .next (takeTrap s c.k c.src (barredTrap a c))

/-- An instruction whose effect is on the whole state: `f` gives a trap or the next state. -/
def runState (s : State) (a : Where) (f : Ctx → Except Trap State) : Out :=
  let c := ctx s
  if allowed a c.src then
    match f c with
    | .error t => .next (takeTrap s c.k c.src t)
    | .ok s' => .next s'
  else .next (takeTrap s c.k c.src (barredTrap a c))

/-- The supervisor check (R61): the run's PCC carries SYS. -/
def hasSys (c : Ctx) : Bool := capHas (getC c.rd 31) pSYS

/-- Raises a trap. -/
def raise {α : Type} (t : Trap) : Except Trap α := .error t

/-- Raises a trap where the condition holds. -/
def trapIf (b : Bool) (t : Trap) : Except Trap PUnit := if b then .error t else .ok ⟨⟩

/-- A supervisor instruction (R61): without SYS, trap 0x03 and no effect. -/
def runSys (s : State) (f : Ctx → Except Trap State) : Out :=
  let c := ctx s
  if hasSys c then runState s .wave f
  else .next (takeTrap s c.k c.src { cause := 0x03 })

/-- A wait with no effect yet (R306). -/
def idleWait : Hold → Bool
  | .poll => true
  | .claim => true
  | .bar .. => true
  | .fetch _ => true
  | _ => false

/-- The source waits: nothing changes but its hold (R306); the instruction is issued again when the wait may pass. A wait
with no effect yet begins no run: at the first instruction of a run the registers are read when it issues (R22, R24). -/
def waitWith (s : State) (c : Ctx) (h : Hold) : State :=
  let w := waveAt s c.k
  let sn := if idleWait h && (srcSnap w c.src).isNone then none else some { regs := c.rd, sys := c.sys, cut := c.cut }
  let w := putHold w c.src h
  setWave s c.k (if isSeq c.src then putSeq w c.src { seqOf w c.src with snap := sn }
                 else putSlot w c.src { slotOf w c.src with snap := sn })

/-- A long instruction has made a step and goes on at its next issue (R314, log 28): its progress, and what its run has
read. -/
def stepOn (s : State) (c : Ctx) (h : Hold) (v : DWord) : State :=
  let w := putProg (putHold (waveAt s c.k) c.src h) c.src v
  let sn := some { regs := c.rd, sys := c.sys, cut := c.cut }
  setWave s c.k (if isSeq c.src then putSeq w c.src { seqOf w c.src with snap := sn }
                 else putSlot w c.src { slotOf w c.src with snap := sn })

/-- The source moves on in a state that the instruction has changed. -/
def finish (s : State) (c : Ctx) (sw : Bool) : State := setWave s c.k (advance c sw (waveAt s c.k))

/-- Writes the registers of the source and moves on. -/
def finishRegs (s : State) (c : Ctx) (sw : Bool) (f : RegFile → RegFile) : State :=
  let w := waveAt s c.k
  setWave s c.k (advance c sw (putLive w c.src (f (srcLive w c.src))))

/-- Sets FLAGS bits of the wave (R70), whichever source raised them. -/
def orFlags (w : Wave) (f : BitVec 32) : Wave := { w with regs := { w.regs with flags := w.regs.flags ||| f } }

/-- A write of PCC governs the other slot from its next fetch (R95). -/
def setPcc (w : Wave) (src : Src) (k : Cap) : Wave :=
  let w := { w with regs := setC w.regs 31 k }
  let o := slotOf w (otherSrc src)
  putSlot w (otherSrc src) { o with snap := o.snap.map fun r => { r with regs := setC r.regs 31 k } }

-- The matrix unit's claims (R275, R294).

/-- The matrix unit of a wave's alcove. -/
def matOf (s : State) (k : Nat) : Matrix := (alcAt s (alcOf k)).mat
/-- The state with the matrix unit of a wave's alcove put. -/
def setMat (s : State) (k : Nat) (m : Matrix) : State :=
  setAlc s (alcOf k) { alcAt s (alcOf k) with mat := m }

/-- A slot is claimed by a wave. -/
def claimedBy (m : Matrix) (k slot : Nat) : Bool := tlook m.claims slot == some k
/-- The slots of a mask. -/
def maskSlots (v : BitVec 16) : List Nat := (List.range 16).filter fun i => v.getLsbD i
/-- No slot of a mask is claimed by another wave (R294). -/
def canClaim (m : Matrix) (k : Nat) (v : BitVec 16) : Bool :=
  (maskSlots v).all fun i => match tlook m.claims i with | none => true | some w => w == k
/-- All slots of a mask claimed. -/
def claimAll (m : Matrix) (k : Nat) (v : BitVec 16) : Matrix :=
  { m with claims := (maskSlots v).foldl (fun t i => tput t i k) m.claims }

/-- Grants waiting claims in the order of their latest issue, each that can be met (R294). -/
def grantFrom (m : Matrix) : List (Nat × Src × BitVec 16) → Matrix
  | [] => m
  | e :: es =>
    if canClaim m e.1 e.2.2 then
      grantFrom { claimAll m e.1 e.2.2 with waiting := m.waiting.filter (· != e) } es
    else grantFrom m es
/-- Grants what the free slots allow. -/
def grantClaims (m : Matrix) : Matrix := grantFrom m m.waiting

/-- The slots of a mask that a wave holds released (R294). -/
def releaseSlots (m : Matrix) (k : Nat) (v : BitVec 16) : Matrix :=
  grantClaims { m with claims := m.claims.filter fun e => !(v.getLsbD e.1 && e.2 == k) }

/-- The claims of a wave released, its waiting claim withdrawn: its end reclaims them (R274). -/
def releaseAll (s : State) (k : Nat) : State :=
  let m := matOf s k
  let m := { m with waiting := m.waiting.filter fun q => q.1 != k }
  if m.claims.any (fun e => e.2 == k) then setMat s k (releaseSlots m k (BitVec.allOnes 16)) else s

-- Contexts and shadow arrays (R317, R318).

/-- The live context of an alcove (R318). -/
def liveCtx (s : State) (alc : Nat) : AlcContext :=
  { waves := (List.range 16).map fun i => waveAt s (alc * 16 + i), mat := (alcAt s alc).mat }

/-- Puts a context into an alcove; a blank wave leaves its slot free. -/
def putCtx (s : State) (alc : Nat) (c : AlcContext) : State :=
  let s := (List.range 16).foldl (fun s i =>
    { s with waves := tset {} s.waves (alc * 16 + i) (nth {} c.waves i) }) s
  setAlc s alc { alcAt s alc with mat := c.mat }

/-- Every alcove of a wing moves its live context into its shadow array and stands empty (R317). -/
def shadowOut (s : State) (wing : Nat) : State :=
  (wingAt s wing).alcs.foldl (fun s a =>
    let c := liveCtx s a
    let s := putCtx s a {}
    setAlc s a { alcAt s a with shadow := some (wing, c) }) s

/-- Every alcove of a wing whose shadow array holds the wing's context takes it back. -/
def shadowIn (s : State) (wing : Nat) : State :=
  (wingAt s wing).alcs.foldl (fun s a =>
    match (alcAt s a).shadow with
    | some (w, c) => if w = wing then let s := putCtx s a c; setAlc s a { alcAt s a with shadow := none } else s
    | none => s) s

/-- The shadow arrays hold the context of a wing. -/
def inShadow (s : State) (wing : Nat) : Bool :=
  (wingAt s wing).alcs.any fun a => match (alcAt s a).shadow with | some (w, _) => w == wing | none => false

/-- An event that reaches a wing's context acts on it in its shadow array too (R234, R342). -/
def onContext (s : State) (wing : Nat) (f : State → State) : State :=
  if (wingAt s wing).run == .swapped && inShadow s wing then shadowOut (f (shadowIn s wing)) wing else f s

/-- An event acts on a wave in its alcove or in the shadow array. -/
def onWave (s : State) (k : Nat) (f : State → State) : State :=
  match (alcAt s (alcOf k)).wing with
  | some w => onContext s w f
  | none => f s

/-- An event acts on the contexts of a saved image, as if they stood in the alcoves that they left (R342). -/
def onSaved (s : State) (no : Nat) (f : State → State) : State :=
  match s.images[no - 1]? with
  | none => s
  | some im =>
    let put (s : State) (cs : List AlcContext) : State := (im.home.zip cs).foldl (fun s e => putCtx s e.1 e.2) s
    let here := im.home.map (liveCtx s)
    let t := put { s with units := im.units.foldl (fun t e => tput t e.1 e.2) s.units } im.ctxs
    let t := f t
    let im := { im with ctxs := im.home.map (liveCtx t), units := im.units.map fun e => (e.1, unitAt t e.1) }
    put { t with units := im.units.foldl (fun u e => tdel u e.1) t.units, images := t.images.set (no - 1) im } here

/-- Maps every wave of the device, wherever its context stands: in its alcove, in a shadow array, or in a saved image. -/
def mapEveryWave (s : State) (f : Wave → Wave) : State :=
  let ctx (c : AlcContext) : AlcContext := { c with waves := c.waves.map f }
  { s with waves := s.waves.map fun e => (e.1, f e.2),
           alcoves := s.alcoves.map fun e => (e.1, { e.2 with shadow := e.2.shadow.map fun x => (x.1, ctx x.2) }),
           images := s.images.map fun im => { im with ctxs := im.ctxs.map ctx } }

end Sys2Proof.Machine
end

