-- ==== Sys2Proof/Machine/Flags.lean ====
section
/-! DEFINITION. FLAGS (R70) and the flag computations of integer and floating-point results (R122, R125-R129). -/
namespace Sys2Proof.Machine

/-- FLAGS.INVALID. -/
def fINV : Nat := 1
/-- FLAGS.DIVZERO. -/
def fDIV : Nat := 2
/-- FLAGS.OVERFLOW. -/
def fOVF : Nat := 4
/-- FLAGS.UNDERFLOW. -/
def fUNF : Nat := 8
/-- FLAGS.INEXACT. -/
def fINX : Nat := 16

/-- A result pattern with the FLAGS bits that forming it raises. -/
structure Res where
  pat : Nat
  fl  : Nat := 0
  deriving DecidableEq, Repr, Inhabited

/-- Sets FLAGS bits in a register file; a bit stays set (R70). -/
def addFlags (r : RegFile) (fl : Nat) : RegFile := { r with flags := r.flags ||| BitVec.ofNat 32 (fl % 32) }

end Sys2Proof.Machine
end

