-- ==== Sys2Proof/Machine/Numbers.lean ====
section
/-! DEFINITION. Number formats and rounding (R120-R140): exact values, round, cvtf, cvti, intres, the random function,
K8, keys and the exact-accumulator cell. Every value is exact until the one rounding that a rule names. -/
namespace Sys2Proof.Machine

-- Types (R58, R121, R123).

/-- The width of an element type. -/
def widthOf : Nat → Nat
  | 0 | 1 | 8 | 0x10 => 32
  | 2 | 3 | 9 | 0xA | 0x12 | 0x15 => 16
  | 4 | 5 | 0xB | 0xC | 0x14 => 8
  | 6 | 7 | 0x11 => 64
  | 0xD => 4
  | _ => 32

/-- A floating-point type. -/
def isFloat (t : Nat) : Bool := 8 ≤ t && t ≤ 0xD
/-- A signed integer type; A8 elements in a lane are held as I8 (R134). -/
def isSigned (t : Nat) : Bool := t == 0 || t == 2 || t == 4 || t == 6 || t == 0x14
/-- A share type. -/
def isShare (t : Nat) : Bool := t == 0x10 || t == 0x11 || t == 0x12
/-- A 64-bit type, held in V pairs. -/
def isPair (t : Nat) : Bool := t == 6 || t == 7 || t == 0x11

/-- The fraction bits of a floating-point type. -/
def fracBits : Nat → Nat
  | 8 => 23 | 9 => 10 | 0xA => 7 | 0xB => 3 | 0xC => 2 | _ => 1
/-- The bias of a floating-point type. -/
def biasOf : Nat → Nat
  | 8 => 127 | 9 => 15 | 0xA => 127 | 0xB => 7 | 0xC => 15 | _ => 1
/-- The pattern of the largest finite magnitude. -/
def maxPat : Nat → Nat
  | 8 => 0x7F7FFFFF | 9 => 0x7BFF | 0xA => 0x7F7F | 0xB => 0x7E | 0xC => 0x7B | _ => 7
/-- The type has infinities. -/
def hasInf (t : Nat) : Bool := t == 8 || t == 9 || t == 0xA || t == 0xC
/-- The pattern of +∞, of a type that has it: one above the largest finite. -/
def infPat (t : Nat) : Nat := maxPat t + 1
/-- The canonical NaN; F4E2M1 has none. -/
def nanPat : Nat → Nat
  | 8 => 0x7FC00000 | 9 => 0x7E00 | 0xA => 0x7FC0 | 0xB => 0x7F | 0xC => 0x7E | _ => 0

/-- An exact value: NaN, an infinity, or (−1)^neg × m × 2^e. -/
inductive Val where
  | nan
  | inf (neg : Bool)
  | fin (neg : Bool) (m : Nat) (e : Int)
  deriving DecidableEq, Repr, Inhabited

/-- The value that a pattern denotes in a type (R121, R123). -/
def valueOf (t b : Nat) : Val :=
  if isFloat t then
    let f := fracBits t
    let w := widthOf t
    let neg := bit b (w - 1)
    let mag := b % 2 ^ (w - 1)
    let ex := mag / 2 ^ f
    let fr := mag % 2 ^ f
    if hasInf t && mag == infPat t then .inf neg
    else if t != 0xD && decide (mag > maxPat t) then .nan
    else if ex = 0 then .fin neg fr (1 - biasOf t - f)
    else .fin neg (fr + 2 ^ f) ((ex : Int) - biasOf t - f)
  else
    let i := if isSigned t then sext (widthOf t) b else (b % 2 ^ widthOf t : Nat)
    .fin (i < 0) i.natAbs 0

/-- The integer that a pattern denotes in an integer or share type. -/
def intOf (t b : Nat) : Int := if isSigned t then sext (widthOf t) b else (b % 2 ^ widthOf t : Nat)

/-- A zero value. -/
def isZero : Val → Bool | .fin _ m _ => m == 0 | _ => false
/-- A NaN. -/
def isNan : Val → Bool | .nan => true | _ => false
/-- A value's sign bit. -/
def negOf : Val → Bool | .inf n => n | .fin n _ _ => n | .nan => false

/-- The parts of MODE that a rounding reads, with the random bits r of R130. -/
structure Rnd where
  mode : Nat
  sat  : Bool
  r    : Nat := 0

/-- A finite magnitude that a rounding to a type reports as beyond its range (R127). -/
def ovf (t : Nat) (k : Rnd) (neg : Bool) : Res :=
  let s := if neg then 2 ^ (widthOf t - 1) else 0
  let away := match k.mode with
    | 1 => false
    | 2 => !neg
    | 3 => neg
    | _ => true
  let p :=
    if t = 0xD then s + 7
    else if !away || k.sat then s + maxPat t
    else if t = 0xB then nanPat t
    else s + infPat t
  ⟨p, fOVF + fINX⟩

/-- The rounded multiple of the unit: q = (m + s) / 2^d with 0 < s < 1 where `sticky`, otherwise s = 0 (R126). -/
def roundMul (k : Rnd) (neg : Bool) (m d : Nat) (sticky : Bool) : Nat :=
  let n := m / 2 ^ d
  let rem := m % 2 ^ d
  let half := 2 ^ d
  let gtHalf := decide (2 * rem > half) || (2 * rem == half && sticky)
  let eqHalf := 2 * rem == half && !sticky
  match k.mode with
  | 1 => n
  | 2 => if neg then n else n + 1
  | 3 => if neg then n + 1 else n
  | 0 => if gtHalf || (eqHalf && n % 2 == 1) then n + 1 else n
  | 4 => if gtHalf || eqHalf then n + 1 else n
  | _ => (m * 2 ^ 24 / 2 ^ d + k.r % 2 ^ 24) / 2 ^ 24

/-- round and ovf of R126 and R127 for the magnitude (m + s) × 2^e of a floating-point type, s in (0, 1) where
`sticky` and 0 otherwise. A sticky magnitude comes with at least 24 bits below the unit. -/
def roundMag (t : Nat) (k : Rnd) (neg : Bool) (m : Nat) (e : Int) (sticky : Bool) : Res :=
  let s := if neg then 2 ^ (widthOf t - 1) else 0
  if m = 0 ∧ !sticky then ⟨s, 0⟩
  else
    let p := fracBits t + 1
    let emin : Int := 1 - biasOf t
    let lg : Int := if m = 0 then emin - 1 else (Nat.log2 m : Int) + e
    let ue := max lg emin - p + 1
    let d := (ue - e).toNat
    let m' := m * 2 ^ (e - ue).toNat
    let exact := m' % 2 ^ d == 0 && !sticky
    let n := if exact then m' / 2 ^ d else roundMul k neg m' d sticky
    let fl := if exact then 0 else fINX + (if lg < emin then fUNF else 0)
    -- the pattern of n × 2^ue
    let (n, ue) := if 2 ^ p ≤ n then (n / 2, ue + 1) else (n, ue)
    let mag := if n < 2 ^ (p - 1) then n else ((ue + p - 1 + biasOf t).toNat) * 2 ^ (p - 1) + (n - 2 ^ (p - 1))
    if maxPat t < mag then let o := ovf t k neg; ⟨o.pat, o.fl ||| fl⟩
    else ⟨s + mag, fl⟩

/-- cvtf (R129), which is also fpres for an exact finite result (R127). -/
def cvtf (t : Nat) (k : Rnd) : Val → Res
  | .nan => if t = 0xD then ⟨0, fINV⟩ else ⟨nanPat t, 0⟩
  | .inf neg =>
    let s := if neg then 2 ^ (widthOf t - 1) else 0
    if hasInf t then ⟨s + infPat t, 0⟩
    else if t = 0xB && !k.sat then ⟨nanPat t, fINV⟩
    else ⟨s + maxPat t, fINV⟩
  | .fin neg m e => roundMag t k neg m e false

/-- The lowest value of an integer or share type. -/
def lowest (t : Nat) : Int := if isSigned t then -(2 ^ (widthOf t - 1) : Nat) else 0
/-- The highest value. -/
def highest (t : Nat) : Int := if isSigned t then (2 ^ (widthOf t - 1) : Nat) - 1 else (2 ^ widthOf t : Nat) - 1

/-- intres (R122). -/
def intres (t : Nat) (sat : Bool) (x : Int) : Res :=
  if sat && !isShare t then
    let y := min (max x (lowest t)) (highest t)
    ⟨wrap (widthOf t) y, if y = x then 0 else fOVF⟩
  else ⟨wrap (widthOf t) x, 0⟩

/-- An exact value rounded to an integer under a mode (R126 with u = 1), with INEXACT. -/
def roundInt (k : Rnd) (neg : Bool) (m : Nat) (e : Int) : Int × Nat :=
  let d := (-e).toNat
  let m' := m * 2 ^ e.toNat
  let exact := m' % 2 ^ d == 0
  let n := if exact then m' / 2 ^ d else roundMul k neg m' d false
  (if neg then -(n : Int) else n, if exact then 0 else fINX)

/-- cvti (R129). What lies outside the type is not representable in it, so `round` has set INEXACT even for an integer (R126). -/
def cvti (t : Nat) (k : Rnd) : Val → Res
  | .nan => ⟨0, fINV⟩
  | .inf neg => ⟨wrap (widthOf t) (if neg then lowest t else highest t), fINV⟩
  | .fin neg m e =>
    let (y, fl) := roundInt k neg m e
    if y < lowest t ∨ highest t < y then
      ⟨wrap (widthOf t) (if y < lowest t then lowest t else highest t), fINX ||| fINV⟩
    else ⟨wrap (widthOf t) y, fl⟩

-- Exact arithmetic.

/-- The sign of an exact zero that a sum of values with different signs produces (R128). -/
def zeroNeg (mode : Nat) : Bool := mode == 3

/-- An exact signed number times a power of two, as a value; `z` is the sign of a zero. -/
def ofScaled (i : Int) (e : Int) (z : Bool) : Val := if i = 0 then .fin z 0 e else .fin (i < 0) i.natAbs e

/-- The signed integer that a value is in units of 2^e0, for e0 at or below its exponent. -/
def scaled (neg : Bool) (m : Nat) (e e0 : Int) : Int :=
  let n := m * 2 ^ (e - e0).toNat
  if neg then -(n : Int) else n

/-- The exact sum of two values with the FLAGS bits it raises (R125, R128). -/
def addVal (mode : Nat) : Val → Val → Val × Nat
  | .nan, _ => (.nan, 0)
  | _, .nan => (.nan, 0)
  | .inf a, .inf b => if a = b then (.inf a, 0) else (.nan, fINV)
  | .inf a, _ => (.inf a, 0)
  | _, .inf b => (.inf b, 0)
  | .fin n1 m1 e1, .fin n2 m2 e2 =>
    let e0 := min e1 e2
    let z := if n1 = n2 then n1 else zeroNeg mode
    (ofScaled (scaled n1 m1 e1 e0 + scaled n2 m2 e2 e0) e0 (if m1 = 0 ∧ m2 = 0 then z else zeroNeg mode), 0)

/-- The negation of a value. -/
def negVal : Val → Val
  | .nan => .nan
  | .inf n => .inf !n
  | .fin n m e => .fin (!n) m e

/-- The exact product of two values with the FLAGS bits it raises (R125). -/
def mulVal : Val → Val → Val × Nat
  | .nan, _ => (.nan, 0)
  | _, .nan => (.nan, 0)
  | .inf a, .inf b => (.inf (a != b), 0)
  | .inf a, .fin b m _ => if m = 0 then (.nan, fINV) else (.inf (a != b), 0)
  | .fin a m _, .inf b => if m = 0 then (.nan, fINV) else (.inf (a != b), 0)
  | .fin a m1 e1, .fin b m2 e2 => (.fin (a != b) (m1 * m2) (e1 + e2), 0)

/-- Compares two values that are not NaN: less, equal, greater; zeros are equal (R124). -/
def cmpVal : Val → Val → Ordering
  | .inf a, .inf b => if a = b then .eq else if a then .lt else .gt
  | .inf a, _ => if a then .lt else .gt
  | _, .inf b => if b then .gt else .lt
  | .fin n1 m1 e1, .fin n2 m2 e2 =>
    let e0 := min e1 e2
    compare (scaled n1 m1 e1 e0) (scaled n2 m2 e2 e0)
  | _, _ => .eq

-- The random function (R131).

/-- One of the three rounds of R131. -/
def rndStep (x : Nat) : Nat :=
  let y := x * 0x9E3779B97F4A7C15 % 2 ^ 64
  y ^^^ (y / 2 ^ 31)

/-- rnd32(SEED, DIX, lane, e) (R131). -/
def rnd32 (seed dix lane e : Nat) : Nat :=
  rndStep (rndStep (rndStep ((seed ^^^ (dix * 2 ^ 16) ^^^ (lane * 2 ^ 8) ^^^ e) % 2 ^ 64))) / 2 ^ 32

/-- The rounding parameters of a lane and element of an instruction (R130): SEED and MODE as at the run's start. -/
def rndOf (c : Ctx) (lane e : Nat) : Rnd :=
  { mode := modeRound c.rd.mode, sat := modeSat c.rd.mode,
    r := rnd32 c.rd.seed.toNat c.dix.toNat lane e % 2 ^ 24 }

-- Affine scales and keys.

/-- The value of a K8 pattern (R133). -/
def k8Val (b : Nat) : Val :=
  let e := b % 256 / 8
  if e = 0 then .fin false 0 0 else .fin false (8 + b % 8) ((e : Int) - 15 - 3)

/-- key (R137). -/
def keyOf (t b idx : Nat) : Nat :=
  let b := b % 65536
  let o := if t = 9 ∨ t = 0xA then
      (if isNan (valueOf t b) then 0xFFFF else if bit b 15 then 0xFFFF - b else b + 0x8000)
    else if t = 2 then b ^^^ 0x8000
    else b
  o * 65536 + (0xFFFF - idx % 65536)

/-- The value pattern that a key holds (R137). -/
def keyVal (t key : Nat) : Nat :=
  let o := key / 65536 % 65536
  if t = 9 ∨ t = 0xA then
    (if o = 0xFFFF then nanPat t else if 0x8000 ≤ o then o % 0x8000 else 0xFFFF - o)
  else if t = 2 then o ^^^ 0x8000
  else o

/-- The index that a key holds. -/
def keyIdx (key : Nat) : Nat := 0xFFFF - key % 65536

-- The exact-accumulator cell (R138-R140), as a 512-bit number.

/-- Adds a value into a cell (R139). -/
def cellAdd (cell : Nat) (v : Val) : Nat :=
  let value := cell / 2 ^ 171
  let fl := cell % 8
  match v with
  | .nan => value * 2 ^ 171 + (fl ||| 1)
  | .inf false => value * 2 ^ 171 + (fl ||| 2)
  | .inf true => value * 2 ^ 171 + (fl ||| 4)
  | .fin neg m e =>
    let n := m * 2 ^ (e + 149).toNat / 2 ^ (-(e + 149)).toNat
    let x := wrap 341 ((value : Int) + (if neg then -(n : Int) else n))
    x * 2 ^ 171 + fl

/-- Reads a cell into a type (R140). -/
def cellRead (t : Nat) (k : Rnd) (cell : Nat) : Res :=
  let nan := bit cell 0; let pinf := bit cell 1; let ninf := bit cell 2
  if nan || (pinf && ninf) then ⟨nanPat t, if pinf && ninf then fINV else 0⟩
  else if pinf then cvtf t k (.inf false)
  else if ninf then cvtf t k (.inf true)
  else
    let x := sext 341 (cell / 2 ^ 171)
    if x = 0 then ⟨0, 0⟩ else cvtf t k (ofScaled x (-149) false)

end Sys2Proof.Machine
end

