-- ==== Sys2Proof/Machine/CapOps.lean ====
section
/-! DEFINITION. Capabilities: bounds (R170-R172), derivation and the check of an access (R178-R180). -/
namespace Sys2Proof.Machine

/-- The decoded base (R170); it may lie below 0 for a pattern that no tagged capability holds. -/
def capBase (c : Cap) : Int :=
  let e := capE c
  if e > 42 then 0
  else
    let q := capAddr c / 2 ^ e
    let back : Nat := (q + 2 ^ 15 - capB c) % 2 ^ 15
    ((q : Int) - (back : Int)) * ((2 ^ e : Nat) : Int)

/-- The decoded top (R170). -/
def capTop (c : Cap) : Int :=
  if capE c > 42 then 0 else capBase c + (capL c * 2 ^ capE c : Nat)

/-- The capability with another ADDR, all other bits kept. -/
def withAddr (c : Cap) (a : Nat) : Cap :=
  ⟨c.tag, BitVec.ofNat 128 (c.bits.toNat / 2 ^ 64 * 2 ^ 64 + a % 2 ^ 64)⟩

/-- The capability with bits [hi:lo] replaced. -/
def withField (c : Cap) (hi lo v : Nat) : Cap :=
  let n := c.bits.toNat
  ⟨c.tag, BitVec.ofNat 128 (n / 2 ^ (hi + 1) * 2 ^ (hi + 1) + (v % 2 ^ (hi + 1 - lo)) * 2 ^ lo + n % 2 ^ lo)⟩

/-- The capability with another OTYPE. -/
def withOtype (c : Cap) (v : Nat) : Cap := withField c 83 80 v
/-- The capability with other PERMS. -/
def withPerms (c : Cap) (v : Nat) : Cap := withField c 79 64 v

/-- ADDR may move to `a` without changing the bounds (R172). -/
def representable (c : Cap) (a : Nat) : Bool :=
  decide (capBase c ≤ (a : Int)) && decide ((a : Int) < capBase c + (2 ^ (capE c + 15) : Nat))

/-- The ceiling of a quotient. -/
def ceilDiv (a b : Nat) : Nat := (a + b - 1) / b

/-- The smallest exponent that encodes [b, t), tried from `e` on with `n` left (R171). -/
def encExp (b t : Nat) : Nat → Nat → Option Nat
  | _, 0 => none
  | e, n + 1 =>
    if ceilDiv t (2 ^ e) - b / 2 ^ e ≤ 32767 then some e else encExp b t (e + 1) n

/-- The encoding of a bounds request [b, t) (R171): E, B, L, the decoded bounds, and whether E fits. DESIGN CHOICE: where no E
fits, L holds the low 15 bits of the length in units (log 55). -/
def encBounds (b t : Nat) : Nat × Nat × Nat × Nat × Nat × Bool :=
  let r := encExp b t 0 43
  let e := r.getD 42
  let lo := b / 2 ^ e
  let hi := ceilDiv t (2 ^ e)
  (e, lo % 2 ^ 15, (hi - lo) % 2 ^ 15, lo * 2 ^ e, hi * 2 ^ e, r.isSome)

/-- A capability with given bounds, address, permissions, type and world, tagged when it can be (R170, R171). -/
def mkCap (b t addr perms otype world : Nat) : Cap :=
  let (e, bf, lf, _, _, ok) := encBounds b t
  { tag := ok && decide (t ≤ 2 ^ 57),
    bits := BitVec.ofNat 128 (e * 2 ^ 122 + bf * 2 ^ 107 + lf * 2 ^ 92 + world % 16 * 2 ^ 84 + otype % 16 * 2 ^ 80
      + perms % 2 ^ 16 * 2 ^ 64 + addr % 2 ^ 64) }

/-- The permission set has every listed right. -/
def hasAll (c : Cap) (rights : List Nat) : Bool := rights.all (capHas c)

/-- The lowest cause below 0x1A that capcheck finds for [x, x + n) (R178, R62), `win` being the scratch window size. -/
def capCause (c : Cap) (x : Int) (n : Nat) (rights : List Nat) (world win : Nat) : Option Nat :=
  if !c.tag then some 0x01
  else if x < capBase c ∨ x + n > capTop c then some 0x02
  else if capHas c pSCRATCH && decide (x + n > (win : Int)) then some 0x02
  else if !hasAll c rights || capWorld c ≠ world then some 0x03
  else if capOtype c ≠ 0 then some 0x04
  else none

/-- The causes of a capability that an engine transfer checks at issue: tag, rights and WORLD, seal. -/
def capProps (c : Cap) (rights : List Nat) (world : Nat) : Option Nat :=
  if !c.tag then some 0x01
  else if !hasAll c rights || capWorld c ≠ world then some 0x03
  else if capOtype c ≠ 0 then some 0x04
  else none

/-- A capability is confined with respect to a private region [lo, hi) (R180). -/
def confined (c : Cap) (lo hi : Nat) : Bool :=
  !capHas c pGLOBAL || capHas c pSCRATCH
    || (decide (capBase c < capTop c) && decide (capBase c < (hi : Int)) && decide ((lo : Int) < capTop c))

/-- The lower of two causes. -/
def minCause : Option Nat → Option Nat → Option Nat
  | none, b => b
  | a, none => a
  | some a, some b => some (min a b)

/-- The 16 bytes of a capability. -/
def capBytes (c : Cap) : List Byte := natLe 16 c.bits.toNat

/-- The capability that 16 bytes and a tag hold. -/
def capOfBytes (bs : List Byte) (tag : Bool) : Cap := { tag := tag, bits := BitVec.ofNat 128 (leNat bs) }

end Sys2Proof.Machine
end

