-- ==== Sys2Proof/Machine/Mem.lean ====
section
/-! DEFINITION. Memory bytes by physical address, their tags, owner tags, dirty lines and locks; stage-2 translation
(R223, R226); the dirty log (R413); and the scratch window of a unit (R197). -/
namespace Sys2Proof.Machine

/-- A byte of memory; one that nothing has written reads 0 (R423, log 2). -/
def readByte (s : State) (pa : Nat) : Byte := tget 0 s.mem pa
/-- `n` bytes of memory from `pa` on. -/
def readMem (s : State) (pa n : Nat) : List Byte := tbytes s.mem pa n
/-- The number that `n` bytes of memory stand for. -/
def readNat (s : State) (pa n : Nat) : Nat := leNat (readMem s pa n)

/-- The canonical form of memory: addresses strictly rise, and no entry is 0, which an unlisted address reads as. -/
def Memory.wf (m : List Host.Cell) : Bool := trising 0 m && m.all fun e => e.2 != 0

/-- The 128-byte line of an address. -/
def lineOf (pa : Nat) : Nat := pa / 128
/-- The 64 KiB frame of an address. -/
def frameOf (a : Nat) : Nat := a / 65536

/-- h of a line number (R360). -/
def lineHash (n : Nat) : Nat := n ^^^ n / 2 ^ 13 ^^^ n / 2 ^ 26
/-- The DRAM stack of a physical address (R360). -/
def dramStack (pa : Nat) : Nat := lineHash (lineOf pa) % 24
/-- The home L2 slice of a physical address, 16 × die + the slice's logical index (R360). -/
def homeSlice (pa : Nat) : Nat := 16 * (dramStack pa / 3) + lineHash (lineOf pa) / 24 % 16

/-- Before the first write to a clean line its DRAM image is kept: bytes, tags and owner (R16, R377). -/
def keepImage (s : State) (line : Nat) : State :=
  if (tlook s.dirty line).isSome then s
  else
    let bytes := (List.range 128).filterMap fun i =>
      let b := readByte s (line * 128 + i)
      if b = 0 then none else some (i, b)
    let tags := (List.range 8).filter fun g => tget false s.tags (line * 8 + g)
    { s with dirty := tput s.dirty line { bytes := bytes, tags := tags, owner := tget 0 s.owners line } }

/-- The lines that [pa, pa + n) touches. -/
def linesOf (pa n : Nat) : List Nat :=
  if n = 0 then [] else (List.range ((pa + n - 1) / 128 - pa / 128 + 1)).map (· + pa / 128)

/-- The granules that [a, a + n) touches. -/
def granulesOf (a n : Nat) : List Nat :=
  if n = 0 then [] else (List.range ((a + n - 1) / 16 - a / 16 + 1)).map (· + a / 16)

/-- Bytes of memory changed, with the tags of their granules cleared (R174). -/
def putBytes (s : State) (pa : Nat) (bs : List Byte) : State :=
  { s with mem := tputBytes s.mem pa bs,
           tags := (granulesOf pa bs.length).foldl (fun t g => tdel t g) s.tags }

/-- Bytes written to memory: their lines are dirty (R361). -/
def pokeMem (s : State) (pa : Nat) (bs : List Byte) : State := putBytes ((linesOf pa bs.length).foldl keepImage s) pa bs

/-- A granule's tag in memory. -/
def memTag (s : State) (pa : Nat) : Bool := tget false s.tags (pa / 16)
/-- Sets a granule's tag in memory. -/
def setMemTag (s : State) (pa : Nat) (t : Bool) : State := { s with tags := tset false s.tags (pa / 16) t }

/-- The owner tag of the line of an address (R16). -/
def ownerAt (s : State) (pa : Nat) : Nat := (tget 0 s.owners (lineOf pa)).toNat
/-- A line of the range holds an uncorrectable error. -/
def poisoned (s : State) (pa n : Nat) : Bool := (linesOf pa n).any fun l => tget false s.poison l

-- Stage 2.

/-- A non-leaf entry that a walk accepts (R224). -/
def nonLeafOk (e : Nat) : Bool := bit e 0 && !bit e 1 && bits e 63 48 == 0 && bits e 7 2 == 0
/-- A stage-2 leaf entry that a walk accepts (R226). -/
def s2LeafOk (e : Nat) : Bool :=
  bit e 0 && bit e 1 && bits e 63 61 == 0 && bits e 56 48 == 0 && bits e 15 5 == 0

/-- The number of address bits below the index of a level (R223). -/
def levelShift : Nat → Nat
  | 0 => 48 | 1 => 39 | 2 => 30 | 3 => 21 | _ => 16

/-- The entries of a table of a level. -/
def levelEntries (level : Nat) : Nat := if level = 4 then 32 else 512

/-- The address of the entry of a level in a table (R223). -/
def entryAt (table level a : Nat) : Nat := table + 8 * (a / 2 ^ levelShift level % levelEntries level)

/-- The table that a non-leaf entry names (R224). -/
def nextTable (e : Nat) : Nat := bits e 47 8 * 256

/-- The address that a leaf entry gives for an address below it. -/
def leafAddr (e sh a : Nat) : Nat := bits e 47 16 * 65536 / 2 ^ sh * 2 ^ sh + a % 2 ^ sh

/-- The frame of a stage-2 leaf lies in DRAM (R15). DESIGN CHOICE: a leaf beyond it maps nothing (log 52). -/
def inDram (e sh : Nat) : Bool := decide (leafAddr e sh 0 + 2 ^ sh ≤ Config.dramBytes)

/-- The first table of a wing's stage-2 walk. DESIGN CHOICE: bits [47:12] of the host's handle name it (log 8). -/
def s2Root (w : Wing) : Nat := bits w.s2handle.toNat 47 12 * 4096

/-- An entry of a stage-2 table lies in DRAM (R15). -/
def entryInDram (a : Nat) : Bool := decide (a + 8 ≤ Config.dramBytes)

/-- The stage-2 table entry at a physical address; none lies outside DRAM, where a walk meets an invalid one (R15, log 52). -/
def tableEntry (s : State) (a : Nat) : Nat := if entryInDram a then readNat s a 8 else 0

/-- The stage-2 walk from a level on (R223), `n` levels left: the leaf entry and the number of address bits it leaves. -/
def s2WalkFrom (s : State) (ipa : Nat) : Nat → Nat → Nat → Option (Nat × Nat)
  | 0, _, _ => none
  | n + 1, level, table =>
    let e := tableEntry s (entryAt table level ipa)
    if s2LeafOk e && decide (2 ≤ level) then (if inDram e (levelShift level) then some (e, levelShift level) else none)
    else if nonLeafOk e && decide (level < 4) then s2WalkFrom s ipa n (level + 1) (nextTable e)
    else none

/-- The stage-2 walk of an intermediate address in a wing's tables. -/
def s2Walk (s : State) (w : Wing) (ipa : Nat) : Option (Nat × Nat) := s2WalkFrom s ipa 4 1 (s2Root w)

/-- The table of a level that a stage-2 walk of an address reaches, `n` levels left. -/
def s2TableFrom (s : State) (ipa goal : Nat) : Nat → Nat → Nat → Option Nat
  | 0, _, _ => none
  | n + 1, level, table =>
    if level = goal then some table
    else
      let e := tableEntry s (entryAt table level ipa)
      if nonLeafOk e then s2TableFrom s ipa goal n (level + 1) (nextTable e) else none

/-- The valid entries of a table of a level, by their index. -/
def validEntries (s : State) (table level : Nat) : List (Nat × Nat) :=
  s.mem.filterMap fun c =>
    if decide (table ≤ c.1) && decide (c.1 < table + 8 * levelEntries level) && (c.1 - table) % 8 == 0 && c.2.getLsbD 0 && entryInDram c.1
    then some ((c.1 - table) / 8, readNat s c.1 8) else none

/-- The leaves that a stage-2 walk can meet from a table on: the intermediate address, the entry and its bits. -/
def s2LeavesFrom (s : State) : Nat → Nat → Nat → Nat → List (Nat × Nat × Nat)
  | 0, _, _, _ => []
  | n + 1, level, table, base => (validEntries s table level).flatMap fun e =>
    let a := base + e.1 * 2 ^ levelShift level
    if s2LeafOk e.2 && decide (2 ≤ level) then (if inDram e.2 (levelShift level) then [(a, e.2, levelShift level)] else [])
    else if nonLeafOk e.2 && decide (level < 4) then s2LeavesFrom s n (level + 1) (nextTable e.2) a
    else []

/-- RD of a leaf (R225). -/
def leafR (e : Nat) : Bool := bit e 2
/-- W of a leaf. -/
def leafW (e : Nat) : Bool := bit e 3
/-- X of a leaf. -/
def leafX (e : Nat) : Bool := bit e 4

/-- The physical address of an intermediate one, when its stage-2 leaf has the rights. -/
def s2Pa (s : State) (w : Wing) (ipa : Nat) (rd wr : Bool) : Option Nat :=
  match s2Walk s w ipa with
  | some (e, sh) => if (!rd || leafR e) && (!wr || leafW e) then some (leafAddr e sh ipa) else none
  | none => none

/-- The OWNER of the stage-2 leaf of an intermediate address (R226). -/
def s2Owner (s : State) (w : Wing) (ipa : Nat) : Nat :=
  match s2Walk s w ipa with
  | some (e, _) => bits e 60 57
  | none => 0

/-- Some line of [pa, pa + n) carries another owner tag than the stage-2 leaf of the address gives (R407). -/
def ownerBad (s : State) (w : Wing) (pa ipa n : Nat) : Bool :=
  (linesOf pa n).any fun q => (tget 0 s.owners q).toNat != s2Owner s w ipa

/-- The intermediate addresses of 64 KiB pages at which a wing's stage-2 leaves map a physical frame. -/
def s2Inverse (s : State) (w : Wing) (frame : Nat) : List Nat :=
  (s2LeavesFrom s 4 1 (s2Root w) 0).filterMap fun l =>
    let base := leafAddr l.2.1 l.2.2 0
    if base ≤ frame * 65536 ∧ frame * 65536 < base + 2 ^ l.2.2 then some (l.1 + (frame * 65536 - base)) else none

-- Locks.

/-- The frame of an address holds stage-1 tables of some wing (R228). -/
def tableLocked (s : State) (pa : Nat) : Bool :=
  s.wings.any fun e => e.2.used && e.2.tableFrames.any fun f =>
    match s2Pa s e.2 (f * 65536) false false with
    | some p => frameOf p = frameOf pa
    | none => false

/-- Every write to the frame fails: a write lock (R66) or a table lock (R228). -/
def writeLocked (s : State) (pa : Nat) : Bool := decide (tget 0 s.locks (frameOf pa) ≠ 0) || tableLocked s pa

/-- A lock bars a write that was issued in move `no`: a write issued before the write lock was set still lands (R63 step 2). -/
def lockBars (s : State) (no pa : Nat) : Bool :=
  writeLocked s pa && (tableLocked s pa || decide (tget 0 s.lockNo (frameOf pa) ≤ no))

/-- One lock more on a frame; the first notes its move. -/
def addLock (s : State) (f : Nat) : State :=
  { s with locks := tset 0 s.locks f (tget 0 s.locks f + 1),
           lockNo := if tget 0 s.locks f = 0 then tset 0 s.lockNo f s.fresh else s.lockNo }
/-- One lock less on a frame. -/
def dropLock (s : State) (f : Nat) : State :=
  { s with locks := tset 0 s.locks f (tget 0 s.locks f - 1),
           lockNo := if tget 0 s.locks f ≤ 1 then tset 0 s.lockNo f 0 else s.lockNo }

-- The dirty log (R413).

/-- The bitmap bit of a page in a wing's log. -/
def logBit (s : State) (w : Wing) (l : DirtyLog) (ipa : Nat) : Bool :=
  match s2Pa s w (l.bitmap + ipa / 65536 / 8) false false with
  | some pa => bit (readByte s pa).toNat (ipa / 65536 % 8)
  | none => true

/-- PROD or CONS of a log, by its offset. -/
def logIndex (s : State) (w : Wing) (l : DirtyLog) (off : Nat) : Nat :=
  match s2Pa s w (l.idx + off) false false with
  | some pa => readNat s pa 8
  | none => 0

/-- A write to the frame must wait: some wing's log is full and the page's bit is clear. -/
def logBlocked (s : State) (pa : Nat) : Bool :=
  s.wings.any fun e => match e.2.log with
    | none => false
    | some l => (s2Inverse s e.2 (frameOf pa)).any fun ipa =>
        !logBit s e.2 l ipa && decide (l.n ≤ (logIndex s e.2 l 0 + 2 ^ 64 - logIndex s e.2 l 8) % 2 ^ 64)

/-- A dirty-log ring holds more than its size: a write that should have waited for room (R413). -/
def logOverflow (s : State) : Bool :=
  s.wings.any fun e => match e.2.log with
    | some l => decide (l.n < (logIndex s e.2 l 0 + 2 ^ 64 - logIndex s e.2 l 8) % 2 ^ 64)
    | none => false

/-- A device write by intermediate address, not itself logged (log 16); a lock makes it fail (R66). -/
def pokeIpa (s : State) (w : Wing) (ipa : Nat) (bs : List Byte) : State :=
  match s2Pa s w ipa false false with
  | some pa => if writeLocked s pa then s else pokeMem s pa bs
  | none => s

/-- Appends a page to a wing's log and sets its bit, where the bit is clear. -/
def logPage (s : State) (w : Wing) (l : DirtyLog) (ipa : Nat) : State :=
  if logBit s w l ipa then s
  else
    let prod := logIndex s w l 0
    let a := l.bitmap + ipa / 65536 / 8
    let old := match s2Pa s w a false false with | some pa => (readByte s pa).toNat | none => 0
    let s := pokeIpa s w a (natLe 1 (old ||| 2 ^ (ipa / 65536 % 8)))
    let s := pokeIpa s w (l.ring + 8 * (prod % l.n)) (natLe 8 (ipa / 65536 * 65536))
    pokeIpa s w l.idx (natLe 8 (prod + 1))

/-- Logs a write that changes a byte of a frame, in every wing whose stage 2 maps the frame. -/
def logWrite (s : State) (pa : Nat) : State :=
  s.wings.foldl (fun s e => match e.2.log with
    | none => s
    | some l => (s2Inverse s e.2 (frameOf pa)).foldl (fun s ipa => logPage s e.2 l ipa) s) s

/-- The log of a write that changes a byte. -/
def logChange (s : State) (pa : Nat) (bs : List Byte) : State :=
  if readMem s pa bs.length = bs then s
  else logWrite (if frameOf (pa + bs.length - 1) = frameOf pa then s else logWrite s (pa + bs.length - 1)) pa

/-- A write to memory: logged where it changes a byte, then applied. -/
def writeMem (s : State) (pa : Nat) (bs : List Byte) : State :=
  pokeMem (logChange s pa bs) pa bs

/-- A write that is served to DRAM (R363 POLICY 3): a line that is not dirty stays clean. -/
def writeThru (s : State) (pa : Nat) (bs : List Byte) : State := putBytes (logChange s pa bs) pa bs

/-- Writes a dirty line back to DRAM: its image is no longer needed (R377). -/
def cleanLine (s : State) (line : Nat) : State := { s with dirty := tdel s.dirty line }

/-- The line leaves the L2: the records of strong accesses to its granules go (R251). -/
def forgetStrong (s : State) (line : Nat) : State := { s with strong := tdrop s.strong (line * 8) (line * 8 + 8) }

/-- The bytes of a DRAM image. -/
def lineBytes (im : LineImage) : List Byte := (List.range 128).map fun i => tget 0 im.bytes i

/-- Memory holds the DRAM image of a line again: bytes, tags and owner (R16). -/
def restoreLine (s : State) (line : Nat) (im : LineImage) : State :=
  { s with
    mem := im.bytes.foldl (fun m e => tset 0 m (line * 128 + e.1) e.2) (tdrop s.mem (line * 128) (line * 128 + 128))
    tags := im.tags.foldl (fun t g => tput t (line * 8 + g) true) (tdrop s.tags (line * 8) (line * 8 + 8))
    owners := tset 0 s.owners line im.owner, dirty := tdel s.dirty line }

/-- Discards a line: what was not written back is lost (R377); a change is logged (R413). -/
def discardLine (s : State) (line : Nat) : State :=
  match tlook s.dirty line with
  | none => forgetStrong s line
  | some im => restoreLine (logChange (forgetStrong s line) (line * 128) (lineBytes im)) line im

/-- A line rewritten by a scrub or the zeroing of a frame, in DRAM and in every copy: zeros, clear tags, fresh check bits, an
owner (R414, R235; log 53). -/
def scrubLine (s : State) (line owner : Nat) : State :=
  let s := writeThru s (line * 128) (List.replicate 128 0)
  { s with owners := tset 0 s.owners line (BitVec.ofNat 4 owner), poison := tdel s.poison line, dirty := tdel s.dirty line }

/-- Every line of a 64 KiB frame rewritten. -/
def scrubFrame (s : State) (frame owner : Nat) : State :=
  (List.range 512).foldl (fun s i => scrubLine s (frame * 512 + i) owner) s

-- Bytes by location.

/-- `n` bytes at a location, for the unit of wave `k`. -/
def readLoc (s : State) (k : Nat) (l : Loc) (n : Nat) : List Byte :=
  match l with
  | .mem _ pa _ => readMem s pa n
  | .scr off => tbytes (unitOf s k).scr off n

/-- The unit of a wave with bytes written into its scratch window and their tags cleared. -/
def putScr (s : State) (k off : Nat) (bs : List Byte) : State :=
  let u := unitOf s k
  setUnit s (waveAt s k).unit
    { u with scr := tputBytes u.scr off bs,
             scrTags := (granulesOf off bs.length).foldl (fun t g => tdel t g) u.scrTags }

/-- A chunk of the window that [off, off + n) touches holds an uncorrectable error (R316). -/
def scrPoisoned (s : State) (k off n : Nat) : Bool := (linesOf off n).any fun l => tget false (unitOf s k).scrPoison l


/-- The capability in the granule at a location. -/
def readCapLoc (s : State) (k : Nat) (l : Loc) : Cap :=
  match l with
  | .mem _ pa _ => capOfBytes (readMem s pa 16) (memTag s pa)
  | .scr off => capOfBytes (tbytes (unitOf s k).scr off 16) (tget false (unitOf s k).scrTags (off / 16))

/-- The pieces of [x, x + n) at 4 KiB boundaries; `fuel` is at least their number. -/
def cutAt (x n : Nat) : Nat → List (Nat × Nat)
  | 0 => []
  | fuel + 1 =>
    if n = 0 then [] else
      let m := min n (4096 - x % 4096)
      (x, m) :: cutAt (x + m) (n - m) fuel

/-- A location further on. -/
def locAdd (l : Loc) (n : Nat) : Loc :=
  match l with
  | .mem va pa ipa => .mem (va + n) (pa + n) (ipa + n)
  | .scr off => .scr (off + n)

end Sys2Proof.Machine
end

