-- ==== Sys2Proof/Machine/Translate.lean ====
section
/-! DEFINITION. Translation of virtual addresses (R222-R231), the host's stage-2 fault records (R233), accesses of the
device itself through a wing's tables, and the revocation filter (R185). -/
namespace Sys2Proof.Machine

/-- What an access needs (R227, R206): a read, a program's write, a write of the device through a capability, an
engine's write (which goes to the non-current frame of a shadowed page), or a fetch. -/
inductive Need where
  | read | write | engine | fetch
  deriving DecidableEq, Repr, Inhabited

/-- The answer of a translation: physical and intermediate address with the stage-1 leaf and its size in bits; a
stage-1 cause; or a stage-2 fault at an intermediate address with its KIND. -/
inductive Tr where
  | ok (pa ipa leaf sh : Nat)
  | fault (cause : Nat)
  | s2 (ipa kind : Nat)
  deriving DecidableEq, Repr, Inhabited

/-- A stage-1 leaf entry that a walk accepts (R225). DESIGN CHOICE: POLICY 5 to 7, which R225 says is never written, counts as
a reserved field that is not zero (R223): the entry is invalid (log 57). -/
def s1LeafOk (e : Nat) : Bool :=
  bit e 0 && bit e 1 && decide (bits e 63 61 ≤ 4) && bits e 53 48 == 0 && bits e 15 5 == 0

/-- The answer of a stage-1 walk: the leaf, the address bits it leaves and the IPA of its entry; no valid leaf at a
level; a stage-2 fault on a table entry; or the cause with which the read of an entry ends. -/
inductive Walk where
  | leaf (e sh at_ : Nat)
  | miss (level at_ : Nat)
  | s2 (ipa : Nat)
  | bad (cause : Nat)
  deriving DecidableEq, Repr, Inhabited

/-- Why the read of a stage-1 table entry, or of a word that the scanner reads, ends: an owner tag (R407), an uncorrectable error
(R108, R316). -/
def entryBad (s : State) (w : Wing) (pa ipa : Nat) : Option Nat :=
  if ownerBad s w pa ipa 4 then some 0x06 else if poisoned s pa 4 then some 0x15 else none

/-- The stage-1 walk from a level on (R223), `n` levels left. -/
def s1WalkFrom (s : State) (w : Wing) (va : Nat) : Nat → Nat → Nat → Walk
  | 0, level, table => .miss level (entryAt table level va)
  | n + 1, level, table =>
    let a := entryAt table level va
    match s2Pa s w a true false with
    | none => .s2 a
    | some pa => match entryBad s w pa a with
      | some c => .bad c
      | none =>
        let e := readNat s pa 8
        if s1LeafOk e && decide (2 ≤ level) then .leaf e (levelShift level) a
        else if nonLeafOk e && decide (level < 4) then s1WalkFrom s w va n (level + 1) (nextTable e)
        else .miss level a

/-- The stage-1 walk of a virtual address. -/
def s1Walk (s : State) (w : Wing) (va : Nat) : Walk := s1WalkFrom s w va 5 0 w.s1root

/-- The page of a leaf is shadowed. -/
def leafShd (e : Nat) : Bool := bit e 55
/-- POLICY of a leaf. -/
def leafPolicy (e : Nat) : Nat := bits e 63 61
/-- The IPA that a stage-1 leaf gives: the current frame, or the non-current one of a shadowed page (R206). -/
def s1Ipa (e sh va : Nat) (other : Bool) : Nat :=
  leafAddr e sh va + (if leafShd e && (bit e 56 != other) then 2 ^ sh else 0)

/-- The stage-1 rights of an access (R227, R206). -/
def s1Allows (e : Nat) : Need → Bool
  | .read => leafR e
  | .write => leafW e && !leafShd e
  | .engine => leafW e || leafShd e
  | .fetch => leafX e

/-- A page whose executable mapping is being scanned holds the address (R237). -/
def inScan (w : Wing) (va : Nat) : Bool := w.scans.any fun c => va / 2 ^ c.sh == c.va / 2 ^ c.sh

/-- The stage-2 part of a translation that stage 1 has answered with a leaf. -/
def trStage2 (s : State) (w : Wing) (ipa leaf sh : Nat) (n : Need) : Tr :=
  let wr := n = .write || n = .engine
  match s2Pa s w ipa (!wr) wr with
  | some pa => .ok pa ipa leaf sh
  | none => .s2 ipa (if n = .fetch then 2 else 1)

/-- The translation of an address by fresh walks (R227). -/
def trFresh (s : State) (w : Wing) (va : Nat) (n : Need) : Tr :=
  if inScan w va then .fault 0x07
  else match s1Walk s w va with
    | .s2 a => .s2 a 0
    | .bad c => .fault c
    | .miss _ _ => .fault 0x07
    | .leaf e sh _ => if s1Allows e n then trStage2 s w (s1Ipa e sh va (n = .engine)) e sh n else .fault 0x08

/-- The cached translation of a lane's page: its last-page register, else the TLB of its core (R229, R230). -/
def cachedPage (s : State) (k lane va : Nat) : Option LastPage :=
  let v := va / 65536
  match tlook (waveAt s k).lastPages lane with
  | some p => if p.vpage = v then some p else tlbPage v
  | none => tlbPage v
where
  tlbPage (v : Nat) : Option LastPage :=
    (s.tlb.find? fun e => e.core = coreOf (alcOf k) ∧ e.wing = wingNoOf s k ∧ e.page.vpage = v).map (·.page)

/-- A cached page allows an access. -/
def cacheAllows (p : LastPage) : Need → Bool
  | .read => p.rd
  | .write => p.w
  | .engine => p.w
  | .fetch => p.x

/-- A lane's translation for wave `k`: by fresh walks, or by a cached translation that an entry's change has made stale,
as a free choice decides (R231, log 9). -/
def translate (s : State) (k lane va : Nat) (n : Need) : Tr :=
  let f := trFresh s (wingOf s k) va n
  match if inScan (wingOf s k) va then none else cachedPage s k lane va with
  | none => f
  | some p =>
    let pa := p.frame + va % 65536
    let same := match f with | .ok q _ _ _ => q = pa | _ => false
    if same || !cacheAllows p n then f
    else if Config.freePick (s.fresh * 64 + lane) % 2 = 0 then f
    else .ok pa (p.ipa + va % 65536) 0 16

/-- What stage 1 has answered for an address and a retry stands on (R234): the intermediate address, the leaf, its bits. -/
def stage1Of (va : Nat) : Hold → Option (Nat × Nat × Nat)
  | .s2again x ipa e sh => if va / 65536 = x / 65536 then some (ipa / 65536 * 65536 + va % 65536, e, sh) else none
  | _ => none

/-- The host has failed the request of a hold (R234). -/
def hostFailed : Hold → Bool
  | .s2failed .. => true
  | _ => false

/-- The host has failed a request for an address of [va, va + n). -/
def failedAt (h : Hold) (va n : Nat) : Bool :=
  match h with
  | .s2failed _ _ x => decide (va ≤ x) && decide (x < va + n)
  | _ => false

/-- A lane's translation; a retry of the host takes it up at the stage that faulted (R234). -/
def translateAs (s : State) (k lane va : Nat) (n : Need) (h : Hold) : Tr :=
  match stage1Of va h with
  | some (ipa, e, sh) => if s1Allows e n then trStage2 s (wingOf s k) ipa e sh n else translate s k lane va n
  | none => translate s k lane va n

/-- A translation by fresh walks, or from the stage that faulted. -/
def trHeld (s : State) (w : Wing) (va : Nat) (n : Need) (h : Hold) : Tr :=
  match stage1Of va h with
  | some (ipa, e, sh) => if s1Allows e n then trStage2 s w ipa e sh n else trFresh s w va n
  | none => trFresh s w va n

/-- The page that a translation leaves in the caches: its current frame, with the rights of both stages (R230). -/
def pageOf (s : State) (w : Wing) (va : Nat) : Tr → Option LastPage
  | .ok _ _ e sh =>
    let ipa := s1Ipa e sh va false
    match s2Walk s w ipa with
    | some (x, z) =>
      some { vpage := va / 65536, frame := leafAddr x z ipa / 65536 * 65536, ipa := ipa / 65536 * 65536,
             rd := leafR e && leafR x, w := leafW e && leafW x && !leafShd e, x := leafX e && leafR x,
             policy := leafPolicy e, wayp := bits e 60 57, sh := sh }
    | none => none
  | _ => none

/-- A page that a walk gives, beside the cached one of the same frame: while that one has every right that the walk gives, it
stays in use with its POLICY and WAYP, and its size is that of the larger page (R231, R239). -/
def keepFields (p : LastPage) : Option LastPage → LastPage
  | none => p
  | some q => if q.frame = p.frame && (q.rd || !p.rd) && (q.w || !p.w) && (q.x || !p.x) then
      { p with policy := q.policy, wayp := q.wayp, sh := max p.sh q.sh } else p

/-- Enters a page into the TLB of a core for a wing, in place of an older entry of it. -/
def tlbPut (t : List TlbEntry) (core wing : Nat) (p : LastPage) : List TlbEntry :=
  { core := core, wing := wing, page := p } ::
    t.filter fun e => !(e.core = core && e.wing = wing && e.page.vpage = p.vpage)

/-- After a translation by a walk the core's TLB holds the page, and so does the lane's last-page register (R229, R230); the
lines of a sequencer's transfer, numbered from 32 on, have no such register. -/
def noteLane (s : State) (k lane va : Nat) (t : Tr) : State :=
  match t with
  | .ok _ _ 0 _ => s
  | t =>
    match pageOf s (wingOf s k) va t with
    | none => s
    | some p =>
      let w := waveAt s k
      let p := keepFields p (cachedPage s k lane va)
      let s := { s with tlb := tlbPut s.tlb (coreOf (alcOf k)) (wingNoOf s k) p }
      if 32 ≤ lane then s else setWave s k { w with lastPages := tput w.lastPages lane p }

/-- A cached translation is of a page that overlaps [lo, hi) (R239). -/
def pageMeets (p : LastPage) (lo hi : Nat) : Bool :=
  let b := p.vpage * 65536 / 2 ^ p.sh * 2 ^ p.sh
  decide (b < hi) && decide (lo < b + 2 ^ p.sh)

/-- A retry that stands on a stage-1 answer of a page of [lo, hi) walks stage 1 anew. -/
def dropAgain (lo hi : Nat) : Hold → Hold
  | .fetch h => .fetch (dropAgain lo hi h)
  | .s2again va ipa e sh =>
    if va / 2 ^ sh * 2 ^ sh < hi ∧ lo < va / 2 ^ sh * 2 ^ sh + 2 ^ sh then .busy else .s2again va ipa e sh
  | h => h

/-- Maps the holds of a wave's slots and sequencers and of its accesses. -/
def mapHolds (w : Wave) (f : Hold → Hold) : Wave :=
  { w with a := { w.a with hold := f w.a.hold }, b := { w.b with hold := f w.b.hold },
           seqC := { w.seqC with hold := f w.seqC.hold }, seqM := { w.seqM with hold := f w.seqM.hold },
           seqG := { w.seqG with hold := f w.seqG.hold },
           frame := w.frame.map fun r => { r with a := { r.a with hold := f r.a.hold }, b := { r.b with hold := f r.b.hold } },
           accs := w.accs.map fun a => { a with hold := f a.hold } }

/-- The waves of the contexts of a wing that stand in its alcoves' shadow arrays, under a function (R317). -/
def mapShadows (s : State) (wing : Nat) (f : Wave → Wave) : State :=
  { s with alcoves := s.alcoves.map fun e => match e.2.shadow with
      | some (g, c) => if g = wing then (e.1, { e.2 with shadow := some (g, { c with waves := c.waves.map f }) }) else e
      | none => e }

/-- A TOKEN that no wave waits for: a host request, a level, a node or a sweep does. -/
def deviceToken (t : TokenWait) : Bool := t.host.isSome || t.level.isSome || t.node.isSome || t.sweep

/-- The wing whose stage-2 fault a TOKEN stands for. -/
def tokenWing (s : State) (t : TokenWait) : Nat :=
  if t.sweep then (((s.sweep.toList ++ s.sweepQ).head?).map (·.wing)).getD Config.wings
  else match t.level <|> t.node.map fun n => (nodeAt s n).graph with
  | some l => (levelAt s l).wing
  | none => match t.host with
    | some (a, k) => (((tget {} s.assocs a).pending.find? fun r => r.token == k).map (·.wing)).getD Config.wings
    | none => wingNoOf s t.wave

/-- Invalidates cached translations of a wing for the pages of [lo, hi): last-page registers, and TLBs where asked (R239);
with them go the stage-1 answers that waiting accesses stand on. -/
def invalidate (s : State) (wing lo hi : Nat) (tlbs : Bool) : State :=
  let drop (w : Wave) : Wave := { w with lastPages := w.lastPages.filter fun q => !pageMeets q.2 lo hi }
  let again (w : Wave) : Wave := if tlbs then mapHolds w (dropAgain lo hi) else w
  let s := if tlbs then
      { s with tlb := s.tlb.filter fun e => !(e.wing = wing && pageMeets e.page lo hi),
               tokens := s.tokens.map fun t =>
                 if decide (lo < t.va / 2 ^ t.sh * 2 ^ t.sh + 2 ^ t.sh) && decide (t.va / 2 ^ t.sh * 2 ^ t.sh < hi) && tokenWing s t = wing
                 then { t with leaf := 0 } else t } else s
  let s := { s with waves := s.waves.map fun e =>
      if e.2.used && wingNoOf s e.1 = wing then (e.1, again (drop e.2)) else e }
  mapShadows s wing fun w => again (drop w)

-- Waiting for the host (R233-R235).

/-- The stage-2 fault record (R233). -/
def s2Record (va ipa tok wing world kind : Nat) (x w rd : Bool) : BitVec 256 :=
  BitVec.ofNat 256 (va % 2 ^ 64 * 2 ^ 192 + ipa % 2 ^ 48 * 2 ^ 96 + tok % 2 ^ 32 * 2 ^ 64 + wing % 256 * 2 ^ 16
    + world % 16 * 2 ^ 12 + kind % 4 * 2 ^ 8 + (if x then 4 else 0) + (if w then 2 else 0) + (if rd then 1 else 0))

/-- Who waits for a stage-2 fault of a wing, with what the record says of it; where stage 1 has answered, its leaf is kept for
a retry (R234). -/
def s2Wait (s : State) (w : Wing) (t : TokenWait) : TokenWait :=
  match if t.kind = 1 || t.kind = 2 then s1Walk s w t.va else .s2 0 with
  | .leaf e sh _ => { t with leaf := e, sh := sh }
  | _ => t

/-- What a stage-2 fault record says was needed (R233): execute, write, read. -/
def needBits (n : Need) (kind : Nat) (rd : Bool) : Bool × Bool × Bool :=
  (n = .fetch && kind ≠ 0, (n = .write || n = .engine) && kind ≠ 0, rd || n = .read || kind = 0 || kind = 3)

/-- A stage-2 fault of a wing's access: the record goes to the host and who waits is noted. -/
def sendFault (s : State) (wing : Nat) (t : TokenWait) (b : Bool × Bool × Bool) : State :=
  let t := { t with tok := s.nextTok }
  { emit s (.stage2Fault (s2Record t.va t.ipa t.tok wing (wingAt s wing).world t.kind b.1 b.2.1 b.2.2)) with
    nextTok := s.nextTok + 1, tokens := s.tokens ++ [s2Wait s (wingAt s wing) t] }

/-- Sends a stage-2 fault record of wave `k` and notes who waits for its TOKEN; `rd` says that a write needs a read too. -/
def sendS2 (s : State) (k : Nat) (src : Src) (acc : Option Nat) (va ipa kind : Nat) (n : Need) (lanes : BitVec 32 := 0)
    (rd : Bool := false) : State :=
  sendFault s (wingNoOf s k) { tok := 0, wave := k, src := src, acc := acc, kind := kind, lanes := lanes, va := va, ipa := ipa }
    (needBits n kind rd)

-- Recorded tiles.

/-- A tile's bounds hold an address. -/
def inTile (r : Recipe) (va : Nat) : Bool := r.used && decide (capBase r.tile ≤ va) && decide ((va : Int) < capTop r.tile)
/-- The record whose tile holds an address. -/
def findTile (w : Wing) (va : Nat) : Option Nat := (w.recipes.find? fun e => inTile e.2 va).map (·.1)

-- The device's own accesses through a wing's tables.

/-- Why an access of the device itself does not reach its bytes: a cause, or a stage-2 fault, at an address. -/
inductive DevMiss where
  | cause (c va : Nat) | s2 (va ipa kind : Nat)
  deriving DecidableEq, Repr, Inhabited

/-- A device access reaches a piece of a page (R227, R407, R66, R369), or ends where the host has failed it (R234). -/
def devPiece (s : State) (w : Wing) (va n : Nat) (wr : Bool) (h : Hold) : Except DevMiss (Nat × Nat) :=
  match if failedAt h va n then .fault 0x09 else trHeld s w va (if wr then .write else .read) h with
  | .fault c => .error (.cause c va)
  | .s2 ipa kind => .error (if hostFailed h then .cause 0x09 va else .s2 va ipa kind)
  | .ok pa ipa _ _ =>
    if ownerBad s w pa ipa n then .error (.cause 0x06 va)
    else if wr && writeLocked s pa then .error (.cause 0x08 va)
    else if wr && (findTile w va).isSome then .error (.cause 0x12 va)
    else if poisoned s pa n then .error (.cause 0x15 va)
    else .ok (pa, n)

/-- The physical pieces of [va, va + n) for a device access. -/
def devSegs (s : State) (w : Wing) (va n : Nat) (wr : Bool) (h : Hold := .none) : Except DevMiss (List (Nat × Nat)) :=
  (cutAt va n (n / 4096 + 2)).mapM fun p => devPiece s w p.1 p.2 wr h

/-- The bytes of a device read, or why it does not reach them all. -/
def devBytes (s : State) (w : Wing) (va n : Nat) (h : Hold) : Except DevMiss (List Byte) := do
  let l ← devSegs s w va n false h
  .ok (l.flatMap fun p => readMem s p.1 p.2)

/-- The bytes of a device read through a wing's tables; none where it does not reach them all. -/
def devRead (s : State) (w : Wing) (va n : Nat) : Option (List Byte) :=
  match devBytes s w va n .none with
  | .ok l => some l
  | .error _ => none

/-- A write of a wing's device or host operation to an address is served to DRAM: its leaf has POLICY 3, or its world has no
L2 ways (R363, R408). -/
def leafBypass (s : State) (w : Wing) (va : Nat) : Bool :=
  (worldAt s w.world).q.l2q == 0 || match s1Walk s w va with
    | .leaf e _ _ => leafPolicy e == 3
    | _ => false

/-- Bytes written at a physical address, past the L2 where the write is served to DRAM (R363). -/
def writeVia (s : State) (thru : Bool) (pa : Nat) (bs : List Byte) : State :=
  if thru then writeThru s pa bs else writeMem s pa bs

/-- Bytes written from a virtual address of a wing on, to its physical pieces (R363). -/
def writePieces (s : State) (w : Wing) : Nat → List (Nat × Nat) → List Byte → State
  | _, [], _ => s
  | va, (pa, n) :: l, bs => writePieces (writeVia s (leafBypass s w va) pa (bs.take n)) w (va + n) l (bs.drop n)

/-- A device write through a wing's tables; where it does not reach all its bytes nothing is written. -/
def devWrite (s : State) (w : Wing) (va : Nat) (bs : List Byte) : State :=
  match devSegs s w va bs.length true with
  | .ok l => writePieces s w va l bs
  | .error _ => s

/-- A device write through a capability that must grant it; without the right nothing is written. -/
def capWrite (s : State) (w : Wing) (c : Cap) (bs : List Byte) : State :=
  if (capCause c (capAddr c) bs.length [pST] w.world 0).isNone then devWrite s w (capAddr c) bs else s

-- Stores to memory by location.

/-- The cache policy that a write to an address of wave `k` follows (R363): that of the translation its core holds, which
stays until an invalidation (R231), or else the leaf's. -/
def policyAt (s : State) (k va : Nat) : Nat :=
  match s.tlb.find? fun e => e.core = coreOf (alcOf k) ∧ e.wing = wingNoOf s k ∧ e.page.vpage = va / 65536 with
  | some e => e.page.policy
  | none => match s1Walk s (wingOf s k) va with
    | .leaf e _ _ => leafPolicy e
    | _ => 0

/-- A write of wave `k` is served to DRAM: POLICY 3, or a world without L2 ways (R363, R408). -/
def bypassed (s : State) (k va : Nat) : Bool := (worldAt s (worldOf s k)).q.l2q == 0 || policyAt s k va == 3

/-- Bytes written at a location. -/
def writeLoc (s : State) (k : Nat) (l : Loc) (bs : List Byte) : State :=
  match l with
  | .mem va pa _ => writeVia s (bypassed s k va) pa bs
  | .scr off => putScr s k off bs

/-- A capability written to a granule of a wing by the host or the device (R363). -/
def writeCapVia (s : State) (w : Wing) (va pa : Nat) (c : Cap) : State :=
  setMemTag (writeVia s (leafBypass s w va) pa (capBytes c)) pa c.tag

/-- A capability written to the granule at a location. -/
def writeCapLoc (s : State) (k : Nat) (l : Loc) (c : Cap) : State :=
  let s := writeLoc s k l (capBytes c)
  match l with
  | .mem _ pa _ => setMemTag s pa c.tag
  | .scr off =>
    let u := unitOf s k
    setUnit s (waveAt s k).unit { u with scrTags := tset false u.scrTags (off / 16) c.tag }

-- Revocation.

/-- The sweep that runs revokes the capability: its world, not scratch, its base in a set granule of the range (R183,
R185). DESIGN CHOICE: byte 0 of the bitmap lies at MAP's ADDR (log 41). -/
def revoked (s : State) (c : Cap) : Bool :=
  match s.sweep with
  | none => false
  | some r =>
    let b := capBase c
    c.tag && !r.bad && r.map.tag && capWorld c == r.world && !capHas c pSCRATCH
      && decide ((r.start : Int) ≤ b) && decide (b < (r.start + r.len : Nat))
      && (let g := (b.toNat - r.start) / 16
          match devRead s (wingAt s r.wing) (capAddr r.map + g / 8) 1 with
          | some [x] => bit x.toNat (g % 8)
          | _ => false)

/-- A capability through the revocation filter (R185). -/
def filterCap (s : State) (c : Cap) : Cap := if revoked s c then { c with tag := false } else c

end Sys2Proof.Machine
end

