-- ==== Sys2Proof/Machine/Levels.lean ====
section
/-! DEFINITION. Levels and their counters (R37-R39, R388, R389), launch records (R364, R385, R387), graphs, phases and
jobs (R392, R393, R395), and what fits a wing's cores (R391). -/
namespace Sys2Proof.Machine

/-- The capability in the granule at a virtual address, read by the device through a wing and the revocation filter. -/
def devCap (s : State) (w : Wing) (va : Nat) (h : Hold) : Except DevMiss Cap := do
  let l ← devSegs s w va 16 false h
  let pa := (l.head?.map (·.1)).getD 0
  .ok (filterCap s (capOfBytes (readMem s pa 16) (memTag s pa)))

/-- The same, none where it is not reached. -/
def devReadCap (s : State) (w : Wing) (va : Nat) : Option Cap :=
  match devCap s w va .none with
  | .ok c => some c
  | .error _ => none

-- Shapes.

/-- The world's bank-set size in 4 KiB pages on one core (R198). -/
def bankPages (s : State) (world : Nat) : Nat := (worldAt s world).banks * Config.pagesPerBank

/-- The alcoves of a wing on a core. -/
def coreAlcs (w : Wing) (core : Nat) : List Nat := w.alcs.filter fun a => coreOf a = core
/-- The cores a wing touches, ascending. -/
def wingCores (w : Wing) : List Nat := (List.range 192).filter fun c => !(coreAlcs w c).isEmpty
/-- The wave slots of a wing on a core. -/
def coreSlots (w : Wing) (core : Nat) : List Nat := (coreAlcs w core).flatMap fun a => (List.range 16).map (a * 16 + ·)
/-- The core that holds a wing's recompute reserve: the lowest that has the slots and pages (R364). -/
def reserveCore (s : State) (w : Wing) : Option Nat :=
  (wingCores w).find? fun c => decide (w.resvSlots ≤ (coreSlots w c).length) && decide (w.resvPages ≤ bankPages s w.world)
/-- The wave slots of the reserve: the last ones of its core (log 17). -/
def reserveSlots (w : Wing) : List Nat :=
  let l := coreSlots w w.resvCore
  l.drop (l.length - w.resvSlots)
/-- The scratch pages that the wings of a world set aside on a core. -/
def reservedPages (s : State) (world core : Nat) : Nat :=
  s.wings.foldl (fun n e => if e.2.used && e.2.world == world && e.2.resvCore == core then n + e.2.resvPages else n) 0
/-- A unit of a launch fits some core of an idle wing (R387 code 0x05). -/
def fitsWing (s : State) (w : Wing) (i : LaunchInfo) : Bool :=
  decide (i.scr ≤ w.scrMax) && (wingCores w).any fun c =>
    let rs := (reserveSlots w).filter fun k => coreOf (alcOf k) = c
    decide (i.nwaves + i.tethers ≤ (coreSlots w c).length - rs.length)
      && decide (i.scr / 4096 ≤ bankPages s w.world - reservedPages s w.world c)

-- Launch records.

/-- A little-endian field of a byte list. -/
def fld (bs : List Byte) (off n : Nat) : Nat := leNat ((bs.drop off).take n)

/-- GEOM and RES (R364) as a launch's shape, with NSRC; none where a field breaks its table. -/
def parseGeom (geom res : Nat) : Option (LaunchInfo × Nat) :=
  let x := bits geom 31 16; let y := bits geom 47 32; let z := bits geom 63 48
  let nw := bits geom 7 4 + 1
  let t := bits res 52 48
  if x = 0 ∨ y = 0 ∨ z = 0 ∨ x * y * z > 2 ^ 32 - 1 ∨ bits geom 12 8 ≠ 0 ∨ bits geom 3 0 ≠ 0
      ∨ bits geom 15 13 > 4 ∨ bits res 63 53 ≠ 0 ∨ bits res 39 32 ≠ 0 ∨ t > 16 ∨ t > nw ∨ bits res 31 0 % 4096 ≠ 0 then none
  else some ({ lx := x, ly := y, lz := z, nwaves := nw, tethers := t, ddepth := bits res 47 40, scr := bits res 31 0 },
             bits geom 15 13)

/-- The header of a launch record is well formed (R383). -/
def launchHdrOk (bs : List Byte) : Bool :=
  fld bs 8 8 == 0 && fld bs 4 4 == 0 && fld bs 3 1 == 1 && decide (fld bs 2 1 < 47)

/-- The header of a node record is well formed (R383, R397). -/
def nodeHdrOk (bs : List Byte) : Bool := fld bs 4 4 == 0 && fld bs 3 1 == 0 && fld bs 2 1 == 0

/-- A tagged unsealed capability of a world with rights. -/
def plainCap (c : Cap) (world : Nat) (rights : List Nat) : Bool :=
  c.tag && capOtype c == 0 && capWorld c == world && hasAll c rights

/-- A tagged sentry with EXEC of a world. -/
def sentryCap (c : Cap) (world : Nat) : Bool := c.tag && capOtype c == 1 && capWorld c == world && capHas c pEXEC

/-- A DONE capability: over an 8-byte-aligned signal word, with ST. -/
def doneOk (c : Cap) (world : Nat) : Bool :=
  plainCap c world [pST] && capAddr c % 8 == 0 && (capCause c (capAddr c) 8 [pST] world 0).isNone

/-- A SUPV capability: 16 zero bytes, or over a 144-byte record with LD and LDC. -/
def supvOk (c : Cap) (world : Nat) : Bool :=
  c == {} || (plainCap c world [pLD, pLDC] && capAddr c % 16 == 0
    && (capCause c (capAddr c) 144 [pLD] world 0).isNone)

/-- The open phase of a wing that a level id names: its slot. -/
def openPhase (s : State) (wing id : Nat) : Option Nat :=
  let slot := id % 65536
  let l := levelAt s slot
  match l.body with
  | .phase _ _ op _ _ _ =>
    if l.used && l.wing == wing && bits id 31 30 == 2 && bits id 29 16 == l.gen && op && !l.cancelled && !l.reset
        && l.word.isNone
    then some slot else none
  | _ => none

/-- A launch record as accepted: shape, DONE, and the slot of its phase (0 for none). -/
structure LaunchReq where
  info   : LaunchInfo
  done   : Cap
  parent : Nat

/-- The check of a launch record of 128 bytes with its four capabilities (R385, R387): the request, or the lowest code.
`sup` says that PRIO 46 is permitted. -/
def parseLaunch (s : State) (wing : Nat) (sup : Bool) (bs : List Byte) (code args done supv : Cap) :
    Except Nat LaunchReq :=
  let w := wingAt s wing
  let g := parseGeom (fld bs 96 8) (fld bs 104 8)
  match g with
  | none => .error 0x01
  | some (i, nsrc) =>
    let privsz := fld bs 116 4
    let parent := fld bs 112 4
    if !launchHdrOk bs || nsrc ≠ 0 || fld bs 94 2 ≠ 0 || fld bs 120 8 > 1 || privsz % 4096 ≠ 0 then .error 0x01
    else if !sentryCap code w.world then .error 0x02
    else if !plainCap args w.world [pLD] || !doneOk done w.world || !supvOk supv w.world then .error 0x03
    else if privsz < 48 * i.ddepth then .error 0x04
    else if !fitsWing s w i then .error 0x05
    else if parent ≠ 0 && (openPhase s wing parent).isNone then .error 0x06
    else if fld bs 2 1 = 46 && !sup then .error 0x07
    else .ok { info := { i with code := code, args := args, supv := if supv = {} then none else some supv,
                                seed := BitVec.ofNat 64 (fld bs 80 8), dixb := BitVec.ofNat 48 (fld bs 88 8),
                                privsz := privsz, prio := fld bs 2 1, idem := fld bs 120 8 = 1, aff := fld bs 0 2 }
               done := done, parent := if parent = 0 then 0 else parent % 65536 }

-- Levels.

/-- The LEVEL number of a level (R388). -/
def levelKind (l : Level) : Nat :=
  match l.body with | .launch .. => 0 | .graph .. => 1 | .phase .. => 2 | .job .. => 3

/-- The id of the level in a slot (R388). -/
def levelId (s : State) (slot : Nat) : Nat :=
  let l := levelAt s slot
  levelKind l * 2 ^ 30 + l.gen % 2 ^ 14 * 2 ^ 16 + slot

/-- The slot of the live level that an id names; a stale or foreign id names none. -/
def findLevel (s : State) (id : Nat) : Option Nat :=
  let slot := id % 65536
  if slot ≠ 0 ∧ (levelAt s slot).used ∧ levelId s slot = id then some slot else none

/-- A free counter slot, 1 to 65,535. -/
def freeLevel (s : State) : Option Nat :=
  match s.levels.find? (fun e => !e.2.used) with
  | some e => some e.1
  | none => let n := tfree 1 s.levels; if n ≤ 65535 then some n else none

/-- Opens a level in a free counter slot. -/
def newLevel (s : State) (wing : Nat) (done : Cap) (parent size : Nat) (body : LevelBody) : Option (State × Nat) :=
  (freeLevel s).map fun slot =>
    let old := levelAt s slot
    let gen := if (tlook s.levels slot).isSome then (old.gen + 1) % 2 ^ 14 else 0
    let s := setLevel s slot { used := true, gen := gen, wing := wing, done := done, parent := parent, body := body,
                               size := size, seqNo := s.nextSeq }
    let s := { s with nextSeq := s.nextSeq + 1 }
    let p := levelAt s parent
    (if parent = 0 then s else setLevel s parent { p with running := p.running + 1 }, slot)

/-- The launch records that a segment of the task queue holds (R384): launches whose last unit has not started. -/
def segmentHolds (s : State) (seg : Nat) : Nat :=
  (s.levels.filter fun e => match e.2.body with
    | .launch _ g none => e.2.used && g == seg && decide (e.2.next < e.2.size) && !e.2.cancelled && !e.2.reset
    | _ => false).length

/-- The segment of a record: AFF mod 128, or one with room (R384). -/
def segmentFor (s : State) (aff : Nat) : Option Nat :=
  if aff ≠ 0xFFFF then (if segmentHolds s (aff % 128) < 1024 then some (aff % 128) else none)
  else (List.range 128).find? fun g => decide (segmentHolds s g < 1024)

/-- The size of a launch (R34). -/
def launchSize (i : LaunchInfo) : Nat := i.lx * i.ly * i.lz

/-- Enters an accepted launch into its segment and a level counter; none while an entry or a counter is missing. -/
def enterLaunch (s : State) (wing : Nat) (r : LaunchReq) : Option (State × Nat) :=
  match segmentFor s r.info.aff with
  | none => none
  | some g => newLevel s wing r.done r.parent (launchSize r.info) (.launch r.info g none)

/-- The signal word (R389). -/
def signalWord (count detail status : Nat) : Nat := count % 2 ^ 32 * 2 ^ 32 + detail % 256 * 256 + status

/-- The status a level completes with (R389). -/
def levelStatus (l : Level) : Nat :=
  if l.reset then 0x03 else if l.cancelled then 0x02 else if l.failed then 0x04 else 0x01

/-- The units of a level that run. -/
def unitsOf (s : State) (slot : Nat) : List Nat :=
  (s.units.filter fun e => e.2.used && e.2.level == slot).map (·.1)

/-- A hold waits for no answer of the host. -/
def answered : Hold → Bool
  | .s2 _ => false
  | _ => true

/-- A level waits for no answer of the host. -/
def levelIdle (l : Level) : Bool := answered l.hold

/-- A saved image holds a unit of a level that is still to run (R37, R39). -/
def savedUnits (s : State) (slot : Nat) : Bool :=
  s.images.any fun im => !im.spent && im.units.any fun u => u.2.used && u.2.level == slot

/-- A level may complete (R37, R38): its units and children have ended and, unless it is cancelled or reset, its work
is complete. -/
def levelDone (s : State) (slot : Nat) : Bool :=
  let l := levelAt s slot
  let stopped := l.cancelled || l.reset
  l.used && levelIdle l && l.running == 0 && (unitsOf s slot).isEmpty && !savedUnits s slot && match l.body with
    | .launch .. => stopped || l.retired == l.size
    | .graph ns cl => stopped || (cl && ns.all fun n => (nodeAt s n).bin.isEmpty)
    | .phase _ _ op _ _ _ => stopped || (!op && l.posts.isEmpty)
    | .job ps nx _ cl => stopped || l.failed || cl || nx == ps.length

/-- Frees a level's counter and its nodes; the parent counts the child (R37, R389, R393). -/
def dropLevel (s : State) (slot : Nat) : State :=
  let l := levelAt s slot
  let s := match l.body with
    | .graph ns _ => ns.foldl (fun s n => setNode s n { gen := (nodeAt s n).gen, port := (nodeAt s n).port }) s
    | _ => s
  let p := levelAt s l.parent
  let bad := levelStatus l = 0x04
  let pbody := match l.body, p.body with
    | .phase _ _ _ _ out _, .job ps nx _ cl => LevelBody.job ps nx out cl
    | _, b => b
  let stop := match l.body with | .phase .. => l.cancelled | _ => false
  let s := if l.parent = 0 then s else
    setLevel s l.parent { p with running := p.running - 1, retired := p.retired + 1, failed := p.failed || bad,
                                 cancelled := p.cancelled || stop, body := pbody,
                                 detail := if p.detail = 0 && bad then l.detail else p.detail }
  setLevel s slot { l with used := false }

/-- A level waits for the host's answer to a stage-2 fault that its own access meets (R233). -/
def levelMiss (s : State) (slot va ipa kind : Nat) (wr : Bool) : State :=
  let l := levelAt s slot
  let tok := s.nextTok
  let s := sendFault s l.wing { tok := tok, wave := 0, src := .slotA, level := some slot, kind := kind, va := va, ipa := ipa }
    (needBits (if wr then .write else .read) kind false)
  setLevel s slot { l with hold := .s2 tok }

/-- An uncorrectable error that the device finds for a wing may trigger a capture (R426). -/
def uncorrDev (s : State) (w : Wing) (cause : Nat) : State := if w.armed.uncorr && cause == 0x15 then capTrigger s [] else s

/-- A signal word of a wing is written at an address (R38, R389): the state, or the stage-2 fault that the write meets. A word
that its page keeps out is lost. -/
def writeWord (s : State) (w : Wing) (va word : Nat) (h : Hold) : Except (Nat × Nat × Nat) State :=
  match devSegs s w va 8 true h with
  | .ok q => .ok (writePieces s w va q (natLe 8 word))
  | .error (.cause c _) => .ok (uncorrDev s w c)
  | .error (.s2 va ipa kind) => .error (va, ipa, kind)

/-- A launch record that is refused has 0x05 written through its DONE where that is usable (R389): the state, or the stage-2
fault that the write meets. -/
def refuseLaunch (s : State) (wing : Nat) (done : Cap) (code : Nat) (h : Hold) : Except (Nat × Nat × Nat) State :=
  let w := wingAt s wing
  if !doneOk done w.world then .ok s else writeWord s w (capAddr done) (signalWord 0 code 0x05) h

/-- The signal word of a level (R389): as its completion was applied at the counter, else as it stands (R395). -/
def levelWord (l : Level) : Nat :=
  let st := levelStatus l
  l.word.getD (signalWord l.retired (if st = 0x04 then l.detail.toNat else 0) st)

/-- A level's signal word is written through DONE (R38, R389): the state, or the stage-2 fault that the write meets. -/
def signalLevel (s : State) (slot : Nat) : Except (Nat × Nat × Nat) State :=
  let l := levelAt s slot
  let w := wingAt s l.wing
  if (capCause l.done (capAddr l.done) 8 [pST] w.world 0).isSome then .ok s
  else writeWord s w (capAddr l.done) (levelWord l) l.hold

/-- Completes a level: its signal word is written, then it ends; a stage-2 fault of the write waits for the host (R233), and
nothing changes the word any more (R395). -/
def completeLevel (s : State) (slot : Nat) : State :=
  let l := levelAt s slot
  match signalLevel s slot with
  | .ok s => dropLevel s slot
  | .error (va, ipa, kind) => levelMiss (setLevel s slot { l with word := some (levelWord l) }) slot va ipa kind true

/-- The children of a level. -/
def childrenOf (s : State) (slot : Nat) : List Nat :=
  (s.levels.filter fun e => e.2.used && e.2.parent == slot && e.1 != slot).map (·.1)

/-- The units of a level that saved images hold end (R39): they run nothing more, and retire once they are restored. -/
def endSaved (s : State) (slot : Nat) (e : UnitEnd) : State :=
  { s with images := s.images.map fun im => if im.spent then im else
      { im with units := im.units.map fun u => if u.2.used && u.2.level == slot then
          (u.1, { u.2 with ending := some (endReason u.2.ending e), halted := true }) else u } }

/-- Marks one level as cancelled or reset: what it waits for is dropped, its bins are emptied and its units end (R39, R395). One
whose completion has been applied keeps its signal word (R395). -/
def stopLevel (s : State) (slot : Nat) (reset : Bool) : State :=
  let l := levelAt s slot
  if l.word.isSome then s
  else
    let e : UnitEnd := if reset then .reset else .cancelled
    let ns := match l.body with | .graph ns _ => ns | _ => []
    let s := setLevel { s with tokens := s.tokens.filter fun t => t.level != some slot && !ns.any fun n => t.node == some n } slot
      (if reset then { l with reset := true, hold := .none } else { l with cancelled := true, hold := .none })
    let s := ns.foldl (fun s n => setNode s n { nodeAt s n with bin := [], due := false, hold := .none }) s
    endSaved ((unitsOf s slot).foldl (fun s u => endUnit s u e 0) s) slot e

/-- Stops a level and everything within it, `n` levels deep (R39). -/
def stopTree (s : State) (reset : Bool) : Nat → Nat → State
  | 0, _ => s
  | n + 1, slot => (childrenOf s slot).foldl (fun s c => stopTree s reset n c) (stopLevel s slot reset)

/-- CANCL or the host's cancel of a live level of a wing (R39, R395). -/
def cancelLevel (s : State) (slot : Nat) : State := stopTree s false 4 slot

/-- COMPL or the host's close (R399). -/
def closeLevel (s : State) (slot : Nat) : State :=
  let l := levelAt s slot
  if l.word.isSome then s
  else match l.body with
  | .graph ns _ =>
    let s := setLevel s slot { l with body := .graph ns true }
    ns.foldl (fun s n => let x := nodeAt s n; setNode s n { x with due := x.due || !x.bin.isEmpty }) s
  | .phase j i _ z o c => setLevel s slot { l with body := .phase j i false z o c }
  | .job ps nx z _ => setLevel s slot { l with body := .job ps nx z true }
  | .launch .. => s

/-- The schedule that covers a size: the lowest s with CAP ≥ size among the used ones (R392). -/
def pickSchedule (caps : List Nat) (size : Nat) : Option Nat :=
  (List.range caps.length).find? fun i => decide (nth 0 caps i ≠ 0) && decide (size ≤ nth 0 caps i)

/-- A launch record with its capabilities, read at an address through a capability that must grant it. -/
def readLaunch (s : State) (w : Wing) (k : Cap) (va : Nat) (h : Hold) : Except DevMiss (List Byte × Cap × Cap × Cap × Cap) := do
  match capCause k va 128 [pLD, pLDC] w.world 0 with
  | some c => .error (.cause c va)
  | none => .ok ⟨⟩
  if va % 64 ≠ 0 then .error (.cause 0x1A va)
  let bs ← devBytes s w va 128 h
  let a ← devCap s w (va + 16) h
  let b ← devCap s w (va + 32) h
  let c ← devCap s w (va + 48) h
  let d ← devCap s w (va + 64) h
  .ok (bs, a, b, c, d)

/-- The descriptor capability of a phase. -/
def phaseDesc (s : State) (job index : Nat) : Cap :=
  match (levelAt s job).body with
  | .job ps _ _ _ => nth {} ps index
  | _ => {}

/-- A phase posts the launch record of the first class that is still to be posted, with PARENT the phase (R392). It waits where
the segment is full or no counter is free, and for the host at a stage-2 miss. A record that is refused has 0x05 written
through its DONE (R389). DESIGN CHOICE: one that cannot be read fails the phase (log 23). -/
def postNext (s : State) (slot : Nat) : State :=
  let l := levelAt s slot
  match l.body, l.posts with
  | .phase job index _ _ _ chosen, c :: rest =>
    let w := wingAt s l.wing
    let k := phaseDesc s job index
    let desc := capAddr k
    let done (s : State) : State := setLevel s slot { levelAt s slot with posts := rest, hold := .none }
    let read : Except DevMiss (List Byte × Cap × Cap × Cap × Cap) := do
      let rb ← devBytes s w (desc + 40 + 128 * c + 16 * nth 0 chosen c) 8 l.hold
      readLaunch s w k (desc + leNat rb) l.hold
    match read with
    | .error (.s2 va ipa kind) => levelMiss s slot va ipa kind false
    | .error (.cause z _) => setLevel (uncorrDev s w z) slot { l with posts := rest, hold := .none, failed := true }
    | .ok (bs, a, b, d, e) =>
      match parseLaunch s l.wing true (bs.take 112 ++ natLe 4 0 ++ bs.drop 116) a b d e with
      | .error code => match refuseLaunch s l.wing d code l.hold with
        | .ok s' => done s'
        | .error (va, ipa, kind) => levelMiss s slot va ipa kind true
      | .ok r => match enterLaunch s l.wing { r with parent := slot } with
        | some (s', _) => done s'
        | none => s
  | _, _ => s

/-- A phase posts what it can; a signal word for which a dirty-log ring has no room waits (R413). -/
def tendPost (s : State) (slot : Nat) : State := if logOverflow (postNext s slot) then s else postNext s slot

/-- Every phase posts what it can. -/
def tendPosts (s : State) : State :=
  s.levels.foldl (fun s e => if e.2.used && !e.2.posts.isEmpty && levelIdle (levelAt s e.1) && !e.2.cancelled && !e.2.reset
    then tendPost s e.1 else s) s

/-- A phase descriptor as it is read through its capability (R392): DONE, OPEN, and the CAP fields of each class. DESIGN CHOICE: a
reserved bit in it that is not zero has no consequence (log 25). -/
def readPhase (s : State) (w : Wing) (k : Cap) (h : Hold) : Except DevMiss (Cap × Bool × List (List Nat)) := do
  let a := capAddr k
  let need (n : Nat) : Except DevMiss PUnit := match capCause k a n [pLD, pLDC] w.world 0 with
    | some c => .error (.cause c a)
    | none => .ok ⟨⟩
  if a % 16 ≠ 0 then .error (.cause 0x1A a)
  need 32
  let hb ← devBytes s w a 8 h
  let done ← devCap s w (a + 16) h
  let ncl := leNat hb % 16
  need (32 + 128 * ncl)
  let bs ← devBytes s w (a + 32) (128 * ncl) h
  .ok (done, bit (leNat hb) 4, (List.range ncl).map fun c => (List.range 8).map fun i => fld bs (128 * c + 16 * i) 8)

/-- Starts the next phase of a job (R392, R393): the caller knows that it may start. DESIGN CHOICE: a descriptor that cannot be
read fails the job (log 23). -/
def startPhase (s : State) (job : Nat) : State :=
  let l := levelAt s job
  match l.body with
  | .job ps nx size cl =>
    let next (s : State) : State := setLevel s job { levelAt s job with body := .job ps (nx + 1) 0 cl, hold := .none }
    match readPhase s (wingAt s l.wing) (nth {} ps nx) l.hold with
    | .error (.s2 va ipa kind) => levelMiss s job va ipa kind false
    | .error (.cause z _) => setLevel (next (uncorrDev s (wingAt s l.wing) z)) job { levelAt (next s) job with failed := true }
    | .ok (done, opn, caps) =>
      let picks := caps.map fun l => pickSchedule l size.toNat
      let bad := picks.any (·.isNone)
      let chosen := if bad then [] else picks.filterMap id
      match newLevel (next s) l.wing done job 0 (.phase job nx (opn && !bad) size 0 chosen) with
      | none => s
      | some (s, slot) =>
        let p := levelAt s slot
        if bad then setLevel s slot { p with failed := true, detail := 0x10 }
        else setLevel s slot { p with posts := List.range chosen.length }
  | _ => s

/-- The next phase of a job may start (R393): no phase of it runs, one is left, none has failed or been cancelled. -/
def phaseReady (s : State) (job : Nat) : Bool :=
  let l := levelAt s job
  match l.body with
  | .job ps nx _ cl => l.used && levelIdle l && l.running == 0 && decide (nx < ps.length) && !cl && !l.failed && !l.cancelled && !l.reset
      && (freeLevel s).isSome
  | _ => false

/-- The phase that a unit's launch is enrolled in: its slot. -/
def phaseOf (s : State) (u : Unit) : Option Nat :=
  let p := (levelAt s u.level).parent
  match (levelAt s p).body with
  | .phase .. => if p ≠ 0 ∧ (levelAt s p).used then some p else none
  | _ => none

end Sys2Proof.Machine
end

