-- ==== Sys2Proof/Machine/Tiles.lean ====
section
/-! DEFINITION. Recipe-backed tiles as accesses meet them: the Catalogue (R364-R366), dropping (R367), the need for a
build (R370-R372). -/
namespace Sys2Proof.Machine

/-- The record of a wing with an id. -/
def recipeAt (w : Wing) (id : Nat) : Recipe := tget {} w.recipes id
/-- The state with a record put into a wing's Catalogue. -/
def setRecipe (s : State) (wing id : Nat) (r : Recipe) : State :=
  let w := wingAt s wing
  setWing s wing { w with recipes := tput w.recipes id r }

/-- A source capability lies in a record's tile (R365). -/
def covers (q : Recipe) (c : Cap) : Bool :=
  q.used && decide (capBase q.tile ≤ capBase c) && decide (capTop c ≤ capTop q.tile)
/-- The ids of the recorded sources of a record, in SRC order. -/
def sourceIds (w : Wing) (r : Recipe) : List Nat :=
  r.srcs.filterMap fun c => (w.recipes.find? fun e => covers e.2 c).map (·.1)

/-- The physical address below a virtual one, rights aside. -/
def rawPa (s : State) (w : Wing) (va : Nat) : Option Nat :=
  match s1Walk s w va with
  | .leaf e sh _ => s2Pa s w (s1Ipa e sh va false) false false
  | _ => none

/-- The physical addresses of the 4 KiB pieces of a tile. -/
def tilePieces (s : State) (w : Wing) (r : Recipe) : List Nat :=
  (List.range ((capTop r.tile - capBase r.tile).toNat / 4096)).filterMap fun i =>
    rawPa s w ((capBase r.tile).toNat + 4096 * i)

/-- The record may be dropped: PRESENT, not pinned, not a source of a running build (R367). -/
def droppable (r : Recipe) : Bool := r.used && r.st == .present && r.pins == 0 && r.held == 0

/-- A line of a dropped tile goes: its DRAM image stands (R367); nothing is written, so nothing is logged. -/
def dropLine (s : State) (line : Nat) : State :=
  match tlook s.dirty line with
  | none => forgetStrong s line
  | some im => restoreLine (forgetStrong s line) line im

/-- Drops a tile (R367): its lines are invalidated, nothing is written back, its state is ABSENT. -/
def dropTile (s : State) (wing id : Nat) : State :=
  let w := wingAt s wing
  let r := recipeAt w id
  let s := (tilePieces s w r).foldl (fun s pa =>
    (List.range 32).foldl (fun s i => dropLine s (pa / 128 + i)) s) s
  setRecipe s wing id { r with st := .absent }

/-- The source of a queued build that its need comes to next (R370): the first, in SRC order, that is DEAD or not PRESENT. -/
def nextSource (w : Wing) (r : Recipe) : Option Nat :=
  (sourceIds w r).find? fun q => (recipeAt w q).dead || (recipeAt w q).st != .present

/-- A record whose build is queued and not launched. -/
def buildQueued (r : Recipe) : Bool := r.used && r.st == .building && r.level == 0

/-- Adds to the hold count of each source of a record. -/
def holdSources (s : State) (wing id : Nat) (add : Bool) : State :=
  let w := wingAt s wing
  (sourceIds w (recipeAt w id)).foldl (fun s q =>
    let x := recipeAt (wingAt s wing) q
    setRecipe s wing q { x with held := if add then x.held + 1 else x.held - 1 }) s

/-- Launches a queued build: its sources are held, every byte of the tile becomes zero with a clear tag, and its launch
is entered at priority 47 (R370). -/
def launchBuild (s : State) (wing id : Nat) : State :=
  let w := wingAt s wing
  let r := recipeAt w id
  match newLevel s wing {} 0 (launchSize r.info) (.launch { r.info with prio := 47 } 128 (some id)) with
  | none => s
  | some (s, slot) =>
    let s := holdSources s wing id true
    let s := (tilePieces s w r).foldl (fun s pa => writeMem s pa (List.replicate 4096 0)) s
    setRecipe s wing id { recipeAt (wingAt s wing) id with level := slot }

/-- Maps the holds of every wave of a wing, wherever its contexts stand: in its alcoves, in their shadow arrays, or in a saved
image (R372), and those of its starting units and of the host's requests. -/
def mapWingHolds (s : State) (wing : Nat) (f : Hold → Hold) : State :=
  let s := { s with waves := s.waves.map fun e => if e.2.used && wingNoOf s e.1 == wing then (e.1, mapHolds e.2 f) else e }
  let s := mapShadows s wing fun w => mapHolds w f
  { s with
    units := s.units.map fun e => if e.2.used && e.2.wing == wing then (e.1, { e.2 with boot := e.2.boot.map f }) else e
    assocs := s.assocs.map fun e => (e.1, { e.2 with pending := e.2.pending.map fun r => if r.wing = wing then { r with hold := f r.hold } else r }),
    images := s.images.map fun im => if im.wing = wing ∧ im.gen = (wingAt s wing).gen then
      { im with ctxs := im.ctxs.map fun c => { c with waves := c.waves.map fun w => mapHolds w f } } else im }

/-- A build has failed, or cannot be made (R366, R372): the record is ABSENT with FAIL, the accesses parked on it end with cause
0x11, and a queued build whose need waits for it fails with it. -/
def buildFailed (s : State) (wing : Nat) : Nat → Nat → State
  | 0, _ => s
  | n + 1, id =>
    let w := wingAt s wing
    let waiting := (w.recipes.filter fun e => buildQueued e.2 && nextSource w e.2 == some id).map (·.1)
    let s := if (recipeAt w id).level ≠ 0 then holdSources s wing id false else s
    let s := setRecipe s wing id { recipeAt (wingAt s wing) id with st := .absent, fail := true, level := 0 }
    let s := mapWingHolds s wing fun h => if h = .recipe id then .recipeFailed id else h
    waiting.foldl (fun s q => if buildQueued (recipeAt (wingAt s wing) q) then buildFailed s wing n q else s) s

/-- The device cannot write some piece of a tile: a locked frame (R66) or another owner's line (R407). -/
def tileBarred (s : State) (w : Wing) (r : Recipe) : Bool :=
  (List.range ((capTop r.tile - capBase r.tile).toNat / 4096)).any fun i =>
    match s1Walk s w ((capBase r.tile).toNat + 4096 * i) with
    | .leaf e sh _ =>
      let ipa := s1Ipa e sh ((capBase r.tile).toNat + 4096 * i) false
      match s2Pa s w ipa false false with
      | some pa => writeLocked s pa || ownerBad s w pa ipa 4096
      | none => false
    | .bad _ => true
    | _ => false

/-- A queued build goes on with its need (R370): its sources one by one, in SRC order. An absent one is built one level deeper; a
DEAD one, or any at a depth beyond 4, makes the build fail; with all PRESENT the build is launched, or fails where the device cannot
write the tile. -/
def goNeed (s : State) (wing : Nat) : Nat → Nat → State
  | 0, _ => s
  | n + 1, id =>
    let w := wingAt s wing
    let r := recipeAt w id
    if !buildQueued r then s
    else if decide (4 ≤ r.depth) && !(sourceIds w r).isEmpty then buildFailed s wing 65536 id
    else match nextSource w r with
      | none => if tileBarred s w r then buildFailed s wing 65536 id else launchBuild s wing id
      | some q =>
        let x := recipeAt w q
        if x.dead then buildFailed s wing 65536 id
        else if x.st = .absent then goNeed (setRecipe s wing q { x with st := .building, level := 0, depth := r.depth + 1 }) wing n q
        else s

/-- The queued builds of a wing go on. -/
def tendBuilds (s : State) (wing : Nat) : State := ((wingAt s wing).recipes.map (·.1)).foldl (fun s id => goNeed s wing 5 id) s

/-- The need for a tile at depth 1 (R370). -/
def startNeed (s : State) (wing id : Nat) : State :=
  let r := recipeAt (wingAt s wing) id
  if r.st = .absent then goNeed (setRecipe s wing id { r with st := .building, level := 0, depth := 1 }) wing 5 id else s

/-- What a tile does to an access. -/
inductive TileAns where
  | pass | park (id : Nat) | end_ (cause : Nat)
  deriving DecidableEq, Repr, Inhabited

/-- The answer of the Catalogue of a wing to an access at an address, by a unit of build `build` if any (R369-R371): a write
ends, but an atomic, which reads too, parks on a tile that is not held first. -/
def tileAns (w : Wing) (build : Option Nat) (va : Nat) (write atom : Bool) : TileAns :=
  match findTile w va with
  | none => .pass
  | some id =>
    let r := recipeAt w id
    if build == some id then .pass
    else if write && (!atom || r.st == .present) then .end_ 0x12
    else if r.st == .present then .pass
    else match build with
      | some b => if (sourceIds w (recipeAt w b)).contains id then .pass else .end_ 0x11
      | none => if r.dead then .end_ 0x11 else .park id

/-- An access finds that no build can be started for an ABSENT tile that is DEAD: FAIL is set (R366). -/
def noteFail (s : State) (wing : Nat) (build : Option Nat) (cause va : Nat) : State :=
  if cause ≠ 0x11 ∨ build.isSome then s
  else match findTile (wingAt s wing) va with
    | some id =>
      let r := recipeAt (wingAt s wing) id
      if r.st = .absent && r.dead then setRecipe s wing id { r with fail := true } else s
    | none => s

/-- A build has ended well (R370): the tile is PRESENT, its sources are released, the accesses parked on it resume. -/
def buildDone (s : State) (wing id : Nat) : State :=
  let s := holdSources s wing id false
  let s := setRecipe s wing id { recipeAt (wingAt s wing) id with st := .present, fail := false, level := 0 }
  let s := mapWingHolds s wing fun h => if h = .recipe id then .busy else h
  tendBuilds s wing

end Sys2Proof.Machine
end

