-- ==== Sys2Proof/Machine/Operands.lean ====
section
/-! DEFINITION. The operand forms: scalar registers and immediates (R113), lanes of V registers and V pairs (R52, R120),
predicates (R98), and the addresses of the memory forms (R208, R211, R212). -/
namespace Sys2Proof.Machine

/-- An S register operand. -/
def opS (c : Ctx) (f : BitVec 7) : DWord := getS c.rd f.toNat
/-- The B operand: an S register, or the field zero-extended where X[1] = 1 (R113). -/
def opB (c : Ctx) (f : BitVec 7) (imm : Bool) : DWord := if imm then f.setWidth 64 else getS c.rd f.toNat
/-- A capability operand. -/
def opC (c : Ctx) (n : Nat) : Cap := getC c.rd n

/-- A predicate write under the slot's MASK (R98). -/
def writeP (c : Ctx) (r : RegFile) (d : Nat) (res : BitVec 32) : RegFile :=
  setP r d ((getP r d &&& ~~~c.mask) ||| (res &&& c.mask))

/-- The element of a type in a lane of a V register, or of a V pair (R120). -/
def laneGet (r : RegFile) (t n lane : Nat) : Nat :=
  if isPair t then getPair r n lane else (getV r n lane).toNat % 2 ^ widthOf t
/-- Writes an element of a type: the upper bits of the lane become zero (R120). -/
def laneSet (r : RegFile) (t n lane v : Nat) : RegFile :=
  if isPair t then setPair r n lane v else setV r n lane (BitVec.ofNat 32 (v % 2 ^ widthOf t))

/-- The size in bytes of an element access (R209); none where the type traps. -/
def elemSize : Nat → Option Nat
  | 4 | 5 | 0x14 | 0xB | 0xC => some 1
  | 2 | 3 | 0x12 | 9 | 0xA | 0x15 => some 2
  | 0 | 1 | 0x10 | 8 => some 4
  | 6 | 7 | 0x11 => some 8
  | _ => none

/-- A V pair field that is odd (R52). -/
def oddPair (t : Nat) (f : BitVec 7) : Bool := isPair t && f.getLsbD 0

/-- A signed 64-bit register value. -/
def sInt (v : DWord) : Int := v.toInt

/-- The address c[C].ADDR + s[O] + scaled offset, exact. -/
def addrS (c : Ctx) (cap : Cap) (o : BitVec 7) (k : Nat) : Int := (capAddr cap : Int) + sInt (opS c o) + k
/-- The address c[C].ADDR + sext32(vO[lane]) + scaled offset, exact. -/
def addrV (c : Ctx) (cap : Cap) (o : BitVec 7) (lane k : Nat) : Int :=
  (capAddr cap : Int) + (getV c.rd o.toNat lane).toInt + k

/-- The path of a load or store through a capability: SCR for scratch (R201). -/
def pathFor (cap : Cap) (mem : Nat) : Nat := if capHas cap pSCRATCH then 2 else mem

end Sys2Proof.Machine
end

