-- ==== Sys2Proof/Machine/Access.lean ====
section
/-! DEFINITION. How a memory instruction issues: the checks of its lanes (R62, R178-R181), translation (R227), waits on
the host and on builds (R233, R370), and the counted access it leaves outstanding (R201). -/
namespace Sys2Proof.Machine

/-- One lane of an access: its number, its exact address, and whether the local rule denies it (R180). -/
structure LaneReq where
  lane : Nat
  x    : Int
  deny : Bool := false

/-- What all lanes of an access share. `scalar`: a wave-uniform access, whose traps report the slot's MASK. `whole`: a cause
at issue leaves no lane any effect (R259). `scr`: whether the capability must carry SCRATCH or must not (R263, R264, R267,
R269). -/
structure AccReq where
  cap    : Cap
  n      : Nat
  rights : List Nat
  align  : Nat
  need   : Need
  atom   : Bool := false
  scalar : Bool := false
  whole  : Bool := false
  scr    : Option Bool := none

/-- The size of the unit's scratch window. -/
def scrWin (s : State) (k : Nat) : Nat := (unitOf s k).scrSize

/-- The translation for an atomic: W, and with `rd` RD too, at both stages; what forbids its write at the location is found
there (R259). -/
def atomTr (s : State) (k va : Nat) (rd : Bool) (h : Hold) : Tr :=
  let w := wingOf s k
  let stage2 (ipa e sh : Nat) : Tr := match s2Pa s w ipa rd true with
    | some pa => .ok pa ipa e sh
    | none => .s2 ipa 1
  match stage1Of va h with
  | some (ipa, e, sh) => stage2 ipa e sh
  | none => if inScan w va then .fault 0x07 else match s1Walk s w va with
    | .s2 a => .s2 a 0
    | .bad e => .fault e
    | .miss _ _ => .fault 0x07
    | .leaf e sh _ =>
      if (rd && !leafR e) || !(leafW e || leafShd e) then .fault 0x08 else stage2 (s1Ipa e sh va true) e sh

/-- The translation of a lane; a scratch offset is its own location (R179). -/
def laneTr (s : State) (c : Ctx) (q : AccReq) (l : LaneReq) : Tr :=
  if capHas q.cap pSCRATCH then .ok 0 0 0 0
  else if q.atom then atomTr s c.k l.x.toNat (q.rights.contains pLD) c.hold
  else translateAs s c.k l.lane l.x.toNat q.need c.hold

/-- The lowest cause that a lane meets at issue (R62, R178, R180, R227). -/
def laneCause (s : State) (c : Ctx) (q : AccReq) (l : LaneReq) : Option Nat :=
  let mis : Option Nat := if l.x % (q.align : Int) ≠ 0 then some 0x1A else none
  let scrBad : Option Nat := if q.scr = some (!capHas q.cap pSCRATCH) then some 0x03 else none
  match minCause (capCause q.cap l.x q.n q.rights (worldOf s c.k) (scrWin s c.k)) scrBad with
  | some e => some e
  | none =>
    if l.deny then some 0x05
    else match laneTr s c q l with
      | .fault e => minCause (some e) mis
      | .ok pa _ _ _ =>
        if q.need = .write && !q.atom && !capHas q.cap pSCRATCH && writeLocked s pa then minCause (some 0x08) mis else mis
      | _ => mis

/-- The trap of the lanes that fail: the lowest cause, the lanes that carry it, the address of the lowest (R62, R181). -/
def lanesTrap (mask : BitVec 32) (q : AccReq) (bad : List (LaneReq × Nat)) : Option Trap :=
  match bad.foldl (fun m e => minCause m (some e.2)) none with
  | none => none
  | some e =>
    let ls := bad.filter fun b => b.2 == e
    some { cause := e, addr := BitVec.ofNat 64 (wrap 64 ((ls.head?.map (·.1.x)).getD 0)),
           lanes := some (if q.scalar then mask else maskOf (ls.map (·.1.lane))) }

/-- A deferred error of some lanes (R204). -/
def lanesErr (scalar : Bool) (mask : BitVec 32) (cause : Nat) (lanes : List (Nat × Nat)) : AccErr :=
  { cause := BitVec.ofNat 8 cause, addr := BitVec.ofNat 64 ((lanes.head?.map (·.2)).getD 0),
    lanes := if scalar then mask else maskOf (lanes.map (·.1)) }

/-- The error with the lower cause, the first one where they are equal. -/
def joinErr : Option AccErr → Option AccErr → Option AccErr
  | none, b => b
  | a, none => a
  | some a, some b =>
    if a.cause = b.cause then some { a with lanes := a.lanes ||| b.lanes }
    else if b.cause.toNat < a.cause.toNat then some b else some a

/-- A cached translation was, or might have been, chosen for a lane. -/
def usedChoice (s : State) (c : Ctx) (q : AccReq) (ls : List LaneReq) : Bool :=
  !capHas q.cap pSCRATCH && ls.any fun l =>
    match cachedPage s c.k l.lane l.x.toNat, trFresh s (wingOf s c.k) l.x.toNat q.need with
    | some p, .ok pa _ _ _ => p.frame + l.x.toNat % 65536 ≠ pa && cacheAllows p q.need
    | some p, _ => cacheAllows p q.need
    | none, _ => false

/-- What a translation made after an access's checks answers: an address, an error cause, or a stage-2 fault to send. -/
inductive Reach where
  | ok (pa ipa : Nat) | err (cause : Nat) | s2 (ipa kind : Nat)
  deriving DecidableEq, Repr, Inhabited

/-- What a translation of [va, va + n) under a hold answers; a request that the host failed ends with 0x09 (R234). -/
def reachOf (h : Hold) (va n : Nat) (t : Tr) : Reach :=
  if failedAt h va n then .err 0x09
  else match t with
    | .ok pa ipa _ _ => .ok pa ipa
    | .fault e => .err e
    | .s2 ipa kind => if hostFailed h then .err 0x09 else .s2 ipa kind

/-- The page numbers of the bytes [x, x + n) through a capability; scratch has none. -/
def bulkPages (cap : Cap) (x n : Nat) : List Nat :=
  if capHas cap pSCRATCH || n == 0 then []
  else (List.range ((x + n - 1) / 65536 - x / 65536 + 1)).map (x / 65536 + ·)

/-- The translations of a matrix transfer at its issue (R252), which are noted in the TLB of the core (R229): one page after the
other, or the stage-2 fault for which the source waits (R233). -/
def bulkTrs (s : State) (c : Ctx) (x : Nat) (need : Need) : List Nat → State × Except (Nat × Nat × Nat) (Table PageTr)
  | [] => (s, .ok [])
  | p :: ps =>
    let va := max x (p * 65536)
    let t := translateAs s c.k 33 va need c.hold
    match reachOf c.hold va (65536 - va % 65536) t with
    | .s2 ipa kind => (s, .error (va, ipa, kind))
    | r =>
      let q : PageTr := match r with
        | .ok pa ipa => { pa := pa - va % 65536, ipa := ipa - va % 65536 }
        | .err e => { cause := e }
        | .s2 .. => {}
      let u := bulkTrs (noteLane s c.k 33 va t) c x need ps
      (u.1, u.2.map ((p, q) :: ·))

/-- A matrix transfer of [x, x + n) translates its pages at issue and goes on with them; at a stage-2 fault the source waits for
the host (R233, R252). -/
def withPages (s : State) (c : Ctx) (cap : Cap) (x n : Nat) (need : Need) (f : State → Table PageTr → Except Trap State) :
    Except Trap State :=
  match bulkTrs s c x need (bulkPages cap x n) with
  | (s, .ok t) => f s t
  | (s, .error (va, ipa, kind)) => .ok (waitWith (sendS2 s c.k c.src none va ipa kind need) c (.s2 s.nextTok))

/-- The locations of an access that has passed its checks, with the error of the lanes left out. -/
structure Located where
  locs : List (Nat × Loc)
  err  : Option AccErr

/-- The checks of an access at issue: a trap; or a state in which the source waits (for the host, R233, or for a build,
R370); or the locations of its lanes. The new state holds the translations made. -/
def checkLanes (s : State) (c : Ctx) (q : AccReq) (ls : List LaneReq) : Except Trap (State × Option Located) :=
  let bad := ls.filterMap fun l => (laneCause s c q l).map fun e => (l, e)
  match lanesTrap c.mask q bad with
  | some t => .error t
  | none =>
    let trs := ls.map fun l => (l, laneTr s c q l)
    let s1 := if usedChoice s c q ls then tick s else s
    let s1 := if capHas q.cap pSCRATCH then s1 else
      trs.foldl (fun s e => noteLane s c.k e.1.lane e.1.x.toNat e.2) s1
    let miss := trs.filter fun e => match e.2 with | .s2 .. => true | _ => false
    let locs := located q trs
    let keep (bad : Nat → Bool) : List (Nat × Loc) := if q.whole then [] else locs.filter fun e => !bad e.1
    match c.hold, miss with
    | .s2failed _ lanes va, _ =>
      let bad (i : Nat) : Bool := lanes.getLsbD i || miss.any (fun e => e.1.lane == i)
        || ls.any fun l => l.lane == i && 32 ≤ i && l.x.toNat / 65536 == va / 65536
      .ok (s1, some { locs := keep bad,
                      err := some { lanesErr q.scalar c.mask 0x09 ((ls.filter fun l => bad l.lane).map fun l => (l.lane, va)) with
                                    addr := BitVec.ofNat 64 va } })
    | _, (l, .s2 ipa kind) :: _ =>
      let on := miss.filter fun e => match e.2 with | .s2 i _ => i / 65536 == ipa / 65536 | _ => false
      let s2 := sendS2 s1 c.k c.src none l.x.toNat ipa kind (if q.atom then .engine else q.need) (maskOf (on.map (·.1.lane)))
        (q.atom && q.rights.contains pLD)
      .ok (waitWith s2 c (.s2 s1.nextTok), none)
    | h, _ =>
      let u := unitOf s c.k
      let w := wingOf s c.k
      let park := if q.need = .write && !q.atom then [] else locs.filterMap fun e => match e.2 with
        | .mem va _ _ => match tileAns w u.build va (q.atom && q.rights.contains pST) true with
          | .park id => some (e.1, va, id)
          | _ => none
        | _ => none
      match h, park with
      | .recipeFailed f, _ =>
        let lost := park.filter fun p => p.2.2 == f
        .ok (s1, some { locs := if lost.isEmpty then locs else keep fun i => lost.any fun p => p.1 == i,
                        err := if lost.isEmpty then none
                          else some (lanesErr q.scalar c.mask 0x11 (lost.map fun p => (p.1, p.2.1))) })
      | _, (_, _, id) :: _ => .ok (startNeed (waitWith s1 c (.recipe id)) u.wing id, none)
      | _, [] => .ok (s1, some { locs := locs, err := none })
where
  /-- The locations of the lanes that translate. -/
  located (q : AccReq) (trs : List (LaneReq × Tr)) : List (Nat × Loc) :=
    trs.filterMap fun e => match e.2 with
      | .ok pa ipa _ _ =>
        some (e.1.lane, if capHas q.cap pSCRATCH then .scr e.1.x.toNat else .mem e.1.x.toNat pa ipa)
      | _ => none

/-- The count of a path. -/
def countOf (w : Wave) (path : Nat) : Nat := tget 0 w.counts path

/-- The lanes of an access with their locations; a wave-uniform one has lane 0. -/
def kindLanes : AccKind → List (Nat × Loc)
  | .loadV _ _ ls => ls
  | .loadS _ l => [(0, l)]
  | .loadC _ l => [(0, l)]
  | .loadVC _ ls => ls
  | .store ws => ws.map fun e => (e.1, e.2.1)
  | .storeC ws => ws.map fun e => (e.1, e.2.1)
  | .atomic _ _ _ _ ls => ls.map fun e => (e.1, e.2.1)
  | .cas _ _ ls => ls.map fun e => (e.1, e.2.1)
  | .axadd _ ls => ls.map fun e => (e.1, e.2.1)
  | .axrd _ _ _ _ _ ls => ls
  | .deque _ _ _ h _ _ => [(0, h)]
  | .loadSlot _ _ ls => ls
  | _ => []

/-- The locations of an access's lanes. -/
def kindLocs (k : AccKind) : List Loc := (kindLanes k).map (·.2)

/-- The size in bits of the page whose translation wave `k` uses for an address: that of the cached translation that its core
holds (R231, R239), else the leaf's. -/
def usedShift (s : State) (k va : Nat) : Nat :=
  match cachedPage.tlbPage s k (va / 65536) with
  | some p => p.sh
  | none => match s1Walk s (wingOf s k) va with
    | .leaf _ sh _ => sh
    | _ => 16

/-- The page of a location in memory, by its base and its size in bits. -/
def locPage (s : State) (k : Nat) : Loc → Option (Nat × Nat)
  | .mem va _ _ => some (va / 2 ^ usedShift s k va * 2 ^ usedShift s k va, usedShift s k va)
  | .scr _ => none

/-- The pages of locations and of the translations made at issue, by base and size in bits. -/
def pagesOf (s : State) (k : Nat) (ls : List Loc) (trs : Table PageTr) : List (Nat × Nat) :=
  (ls.filterMap (locPage s k) ++ trs.filterMap fun e => locPage s k (.mem (e.1 * 65536) 0 0)).eraseDups

/-- An access as it is issued: with the move of its issue and the pages whose translations it has used (R239). -/
def stamped (s : State) (c : Ctx) (a : Access) : Access :=
  { a with no := s.fresh, pages := pagesOf s c.k (kindLocs a.kind) a.trs }

/-- Issues a counted access: the counter of its path rises and the source moves on; at 65,535 it waits instead (R201). -/
def issueAcc (s : State) (c : Ctx) (sw : Bool) (a : Access) : State :=
  let w := waveAt s c.k
  if Config.counterMax ≤ countOf w a.path then waitWith s c .poll
  else
    let w := { w with counts := tput w.counts a.path (countOf w a.path + 1), accs := w.accs ++ [stamped s c a] }
    setWave s c.k (advance c sw w)

/-- An acquire of the wave that has not its value yet holds the issue of an access: by either slot, and by a sequencer that
was forked after it (R213, R253). -/
def acqHeld (c : Ctx) : Bool :=
  c.w.accs.any fun a => a.acq && !a.performed && (!isSeq c.src || decide (a.no < (seqOf c.w c.src).born))

/-- What an access-making instruction does once no acquire holds its issue (R213). -/
def unheld (s : State) (c : Ctx) (f : Except Trap State) : Except Trap State :=
  if acqHeld c then .ok (waitWith s c .poll) else f

/-- The oldest access on a path (R202). -/
def oldestAcc (w : Wave) (path : Nat) : Option Access := w.accs.find? fun a => a.path == path

/-- Removes the oldest access on a path. -/
def dropAcc (path : Nat) : List Access → List Access
  | [] => []
  | a :: as => if a.path = path then as else a :: dropAcc path as

/-- The oldest access on a path may complete: it has performed and its deliveries are counted (R202, R270). -/
def accDone (a : Access) : Bool := a.performed && a.deliv == 0

/-- Completes the oldest access on a path (R202, R204): the counter falls and its error joins the list. -/
def completeAcc (w : Wave) (path : Nat) : Wave :=
  match oldestAcc w path with
  | none => w
  | some a =>
    { w with accs := dropAcc path w.accs, counts := tset 0 w.counts path (countOf w path - 1),
             errs := match a.err with
               | none => w.errs
               | some e => w.errs ++ [{ path := path, pc := a.pc, err := e }] }

/-- Completes the oldest accesses on a path while they may complete, at most `n`. -/
def completeRun (w : Wave) (path : Nat) : Nat → Wave
  | 0 => w
  | n + 1 => if ((oldestAcc w path).map accDone).getD false then completeRun (completeAcc w path) path n else w

/-- A counted access of a memory instruction: its checks, then its issue with the kind that its locations give. -/
def counted (s : State) (sw : Bool) (a : Where) (path : Ctx → Nat) (acq rel : Bool)
    (prep : Ctx → Except Trap (AccReq × List LaneReq)) (kind : Ctx → List (Nat × Loc) → AccKind) : Out :=
  runState s a fun c => unheld s c do
    let (q, ls) ← prep c
    let (s, r) ← checkLanes s c q ls
    match r with
    | none => .ok s
    | some l =>
      .ok (issueAcc s c sw { path := path c, kind := kind c l.locs, pc := c.pc, src := c.src, acq := acq, rel := rel,
                             mask := if q.scalar then some c.mask else none, err := l.err })

/-- A transfer is of a kind whose bytes a delivery binding counts (R270): TCPY, BCPY and GATH. -/
def delivers : AccKind → Bool
  | .rows gather .. => gather
  | .tcpy .. => true
  | .bcpy .. => true
  | _ => false

/-- An engine transfer: the capability checks at issue, then its issue (R215-R219). -/
def engineIssue (s : State) (sw : Bool) (q : Src) (path : Nat) (kind : Ctx → Except Trap AccKind) : Out :=
  runState s (.only q) fun c => unheld s c do
    let k ← kind c
    .ok (issueAcc s c sw { path := path, kind := k, pc := c.pc, src := c.src, engine := true,
                           bound := if delivers k then (waveAt s c.k).delivery else none })

/-- A capability check without lanes: tag, rights and WORLD, seal. -/
def needCap (s : State) (c : Ctx) (cap : Cap) (rights : List Nat) : Except Trap PUnit :=
  match capProps cap rights (worldOf s c.k) with
  | some e => .error { cause := e }
  | none => .ok ⟨⟩

end Sys2Proof.Machine
end

