-- ==== Sys2Proof/Machine/Ranges.lean ====
section
/-! DEFINITION. The bytes that an access touches (R243 rule 1), by which an earlier access of the wave holds a later one back. -/
namespace Sys2Proof.Machine

/-- A deque header (R266). -/
structure DequeHdr where
  top : Nat
  bottom : Nat
  cap : Nat
  deriving DecidableEq, Repr

/-- The header that 64 bytes hold; none where it is malformed (R266). -/
def dequeHdr (n : Nat) : Option DequeHdr :=
  let h : DequeHdr := { top := bits n 63 0, bottom := bits n 127 64, cap := bits n 159 128 }
  if bits n 511 160 = 0 ∧ (List.range 21).any (fun i => h.cap == 2 ^ i)
      ∧ (h.bottom + 2 ^ 64 - h.top) % 2 ^ 64 ≤ h.cap then some h else none

/-- The scratch bytes that an access touches, and the memory bytes, as pairs of a start and a length. -/
def locRange (l : Loc) (n : Nat) : Bool × Nat × Nat :=
  match l with
  | .mem _ pa _ => (false, pa, n)
  | .scr off => (true, off, n)

/-- The physical ranges of `n` bytes of a wing from `x` on, page by page, rights aside; pages that are not mapped are left
out. -/
def vaRanges (s : State) (k x n : Nat) : List (Bool × Nat × Nat) :=
  (List.range (if n = 0 then 0 else (x + n - 1) / 65536 - x / 65536 + 1)).filterMap fun i =>
    let lo := max x ((x / 65536 + i) * 65536)
    let hi := min (x + n) ((x / 65536 + i + 1) * 65536)
    (rawPa s (wingOf s k) lo).map fun pa => (false, pa, hi - lo)

/-- The ranges of `n` bytes through a capability from `x` on. -/
def capRanges (s : State) (k : Nat) (cap : Cap) (x n : Nat) : List (Bool × Nat × Nat) :=
  if capHas cap pSCRATCH then [(true, x, n)] else vaRanges s k x n

/-- The entries of the deque whose header lies at a location (R266): the operation may touch any of them. -/
def dequeEntries (s : State) (k va : Nat) (h : Loc) : List (Bool × Nat × Nat) :=
  match dequeHdr (leNat (readLoc s k h 64)) with
  | some d => vaRanges s k (va + 64) (8 * d.cap)
  | none => []

/-- The fields of a gather word (R215): row length, rows, list offset, first row's offset. -/
def gatherWord (v : DWord) : Nat × Nat × Nat × Nat :=
  ((bits v.toNat 63 56 + 1) * 16, bits v.toNat 55 44, bits v.toNat 43 22, bits v.toNat 21 0)

/-- The elements of a copy. -/
def tensorSize (d : TensorDesc) : Nat := d.dims.foldl (fun p x => p * x.box) 1

/-- The index vector of a linear number (R217). -/
def tensorIndex : List TensorDim → Nat → List Nat
  | [], _ => []
  | d :: ds, l => l % d.box :: tensorIndex ds (l / d.box)

/-- An address: a base and the strides that the coordinates step over. -/
def tensorAddr (base : Int) (l : List (Int × Int)) : Int := l.foldl (fun x e => x + e.1 * e.2) base

/-- The ranges that a kind reads or writes (R243 rule 1). -/
def kindRanges (s : State) (k : Nat) : AccKind → List (Bool × Nat × Nat)
  | .loadV _ n ls => ls.map fun e => locRange e.2 n
  | .loadS _ l => [locRange l 8]
  | .loadC _ l => [locRange l 16]
  | .loadVC _ ls => ls.map fun e => locRange e.2 16
  | .store ws => ws.map fun e => locRange e.2.1 e.2.2.length
  | .storeC ws => ws.map fun e => locRange e.2.1 16
  | .atomic _ _ n _ ls => ls.map fun e => locRange e.2.1 n
  | .cas n _ ls => ls.map fun e => locRange e.2.1 n
  | .axadd _ ls => ls.map fun e => locRange e.2.1 64
  | .axrd _ _ _ _ _ ls => ls.map fun e => locRange e.2 64
  | .deque _ _ va h _ _ => locRange h 64 :: dequeEntries s k va h
  | .bar _ _ off _ => [(true, off, 8)]
  | .loadSlot _ _ sg => sg.map fun l => locRange l.2 128
  | .loadCabinet c x => capRanges s k c x 2048
  | .loadTail n c x => capRanges s k c x (4 * n)
  | .loadTile _ c x => capRanges s k c x 4096
  | .drain c rows => rows.flatMap fun e => capRanges s k c e.2.2.1 e.2.2.2.length
  | .flush _ x n => (linesOf x n).flatMap fun l => vaRanges s k (l * 128) 128
  | .discard x n => vaRanges s k x n
  | _ => []

/-- Two lists of ranges share a byte of one kind. -/
def rangesMeet (a b : List (Bool × Nat × Nat)) : Bool :=
  a.any fun x => b.any fun y => x.1 == y.1 && overlaps x.2.1 x.2.2 y.2.1 y.2.2

/-- An access of the list that has not performed and is no engine transfer holds back one that follows it where the ranges
meet (R243 rule 1), or where it is still to be located anew (R205). -/
def heldBack (s : State) (k : Nat) (accs : List Access) (rs : List (Bool × Nat × Nat)) : Bool :=
  accs.any fun a => !a.performed && !a.engine && (a.stale || rangesMeet (kindRanges s k a.kind) rs)

end Sys2Proof.Machine
end

