-- ==== Sys2Proof/Machine/Control.lean ====
section
/-! DEFINITION. Wave control (R99-R112): flow, the divergence engine and its stack (R28, R30, R108), calls and jumps. -/
namespace Sys2Proof.Machine

/-- A branch target: pc + 4 × DISP (R50). -/
def target {n : Nat} (pc : DWord) (d : BitVec n) : DWord := pc + 4 * d.signExtend 64

/-- A control transfer that only moves the source: `f` gives a trap, or the new address and wave. -/
def runFlow (s : State) (a : Where) (f : Ctx → Except Trap (DWord × Wave)) : Out :=
  runState s a fun c => do
    let (pc, w) ← f c
    .ok (setWave s c.k (goTo c pc w))

/-- NOP (R102). -/
def execNop (sw : Bool) (s : State) : Out := runLocal s sw .any fun c => .ok c.live
/-- BRA (R103). -/
def execBra (_sw : Bool) (j : BitVec 23) (s : State) : Out := runFlow s .any fun c => .ok (target c.pc j, c.w)
/-- SJOIN (R105). -/
def execSjoin (sw : Bool) (j : BitVec 23) (s : State) : Out :=
  runState s .wave fun c =>
    let x := slotOf c.w c.src
    .ok (setWave s c.k (advance c sw (putSlot c.w c.src { x with sj := target c.pc j, sjpend := true })))

/-- YIELD (R104): the slot's turn ends and the wave takes a new key, above every key of its alcove (R394). -/
def execYield (_sw : Bool) (s : State) : Out :=
  runState s .wave fun c =>
    let w := goTo c (c.pc + 4) c.w
    .ok { setWave s c.k { w with key := s.nextKey } with nextKey := s.nextKey + 1 }

-- The divergence stack.

/-- The address of record `k`: T − 48 k, T the top of c30's bounds (R30). DESIGN CHOICE: T is of c30 as it stands when the
device writes or reads the record, and not as it stood at the start of the run (log 58). -/
def recordVa (r : RegFile) (k : Nat) : Int := capTop (getC r 30) - 48 * (k : Int)

/-- The number of a slot state (R30). -/
def stateNo : SlotState → Nat | .free => 0 | .ready => 1 | .parked => 2
/-- The slot state that a record holds; 3 is read as FREE. -/
def stateOf : Nat → SlotState | 1 => .ready | 2 => .parked | _ => .free

/-- A divergence record (R30). -/
def recordNat (y : Slot) (jr : DWord) : Nat :=
  y.pc.toNat + jr.toNat * 2 ^ 64 + y.sj.toNat * 2 ^ 128 + y.dix.toNat * 2 ^ 192 + stateNo y.st * 2 ^ 240
    + (if y.sjpend then 2 ^ 242 else 0) + y.mask.toNat * 2 ^ 256

/-- The slot and JR that a record holds. -/
def recordSlot (n : Nat) : Slot × DWord :=
  ({ pc := BitVec.ofNat 64 n, mask := BitVec.ofNat 32 (n / 2 ^ 256), dix := BitVec.ofNat 48 (n / 2 ^ 192),
     st := stateOf (bits n 241 240), sj := BitVec.ofNat 64 (n / 2 ^ 128), sjpend := bit n 242 }, BitVec.ofNat 64 (n / 2 ^ 64))

/-- Why a record is not reached: what its transfer meets, with the record's address, or an earlier access of the wave to its
bytes that has not performed (R243 rule 1). -/
inductive RecordMiss where
  | dev (rec : Nat) (m : DevMiss) | held
  deriving DecidableEq, Repr, Inhabited

/-- What the instruction does when a record cannot be reached: a trap with no effect and the record's address, a wait on the
host, or a wait for the earlier access (R108, R233, R243). -/
def recordMiss (s : State) (c : Ctx) (wr : Bool) : RecordMiss → Except Trap State
  | .dev r (.cause e _) => .error { cause := e, addr := BitVec.ofNat 64 r }
  | .dev _ (.s2 va ipa kind) =>
    .ok (waitWith (sendS2 s c.k c.src none va ipa kind (if wr then .write else .read) c.mask) c (.s2 s.nextTok))
  | .held => .ok (waitWith s c .poll)

/-- The physical pieces of record `d` of a wave. -/
def recordSegs (s : State) (k : Nat) (w : Wave) (d : Nat) (wr : Bool) (h : Hold) : Except RecordMiss (List (Nat × Nat)) :=
  let va := (recordVa w.regs d).toNat
  match devSegs s (wingOf s k) va 48 wr h with
  | .error e => .error (.dev va e)
  | .ok l => if heldBack s k w.accs (l.map fun p => (false, p.1, p.2)) then .error .held else .ok l

/-- resolve (R28) with a fuel of open divergences: the new wave, or why a record cannot be read. -/
def resolve (s : State) (k : Nat) (h : Hold) : Nat → Wave → Except RecordMiss Wave
  | 0, w => .ok w
  | n + 1, w =>
    if w.divd = 0 || w.a.st = .ready || w.b.st = .ready then .ok w
    else
      let pa := w.a.st = .parked
      let pb := w.b.st = .parked
      let m := (if pa then w.a.mask else 0) ||| (if pb then w.b.mask else 0)
      let dx := max (if pa then w.a.dix.toNat else 0) (if pb then w.b.dix.toNat else 0)
      let a : Slot := if m ≠ 0 then
          { w.a with mask := m, pc := w.jr + 4, dix := BitVec.ofNat 48 (dx + 1), st := .ready, snap := none, hold := .none }
        else { w.a with mask := m, st := .free, snap := none, hold := .none }
      let d := w.divd - 1
      if d = 0 then resolve s k h n { w with a := a, b := { w.b with mask := 0, st := .free, snap := none }, divd := 0, jr := Config.noJoin }
      else
        match recordSegs s k w d false h with
        | .error e => .error e
        | .ok l =>
          let (y, jr) := recordSlot (leNat (l.flatMap fun p => readMem s p.1 p.2))
          let bm := y.mask &&& w.live &&& ~~~a.mask
          let y := { y with mask := bm, st := if bm = 0 then .free else y.st }
          resolve s k h n { w with a := a, b := y, divd := d, jr := jr }

/-- The wave has ended: no lane, no open divergence (R28). -/
def waveEnded (w : Wave) : Bool := w.a.st = .free && w.b.st = .free && w.divd = 0

/-- The registers of a wave that has ended exist no more (R96); its supervisor bank stays for a handler that one of its
sequencers may still bring (R305, R310). -/
def endRegs (w : Wave) : Wave := { w with regs := { w.regs with s := [], p := [], c := [], v := [], vc := [] } }

/-- A tether stops (R43): its slots are free and its lanes exited. DESIGN CHOICE: one that is in a trap handler ends with its
handler, and the halt of its unit then ends with the handlers that remain (log 58). -/
def endTether (s : State) (t : Nat) : State :=
  let w := waveAt s t
  let s' := setWave s t { endRegs w with
    a := { w.a with st := .free, mask := 0, hold := .none }, b := { w.b with st := .free, mask := 0, hold := .none },
    live := 0, divd := 0, frame := none }
  if w.frame.isSome then resumeUnit s' w.unit else s'

/-- What follows when a wave has ended: its claims are released (R274) and its registers are gone (R96); its tether ends with
it; the owner of a tether has none any more (R43). -/
def afterEnd (s : State) (k : Nat) : State :=
  let w := endRegs (waveAt s k)
  if !waveEnded w then s
  else
    let s := setWave (releaseAll s k) k w
    let s := match w.tethSlot with
      | some t => releaseAll (endTether (setWave s k { w with tethSlot := none }) t) t
      | none => s
    if w.tether then
      let o := waveAt s w.owner
      setWave s w.owner { o with tethSlot := none }
    else s

/-- Applies resolve to a wave that the instruction has changed; a record that cannot be read undoes the instruction. -/
def resolveInto (s : State) (c : Ctx) (w : Wave) : Except Trap State :=
  match resolve s c.k c.hold 258 w with
  | .ok w => .ok (afterEnd (setWave s c.k w) c.k)
  | .error e => recordMiss s c false e

/-- The divergence depth that a wave may reach: DDEPTH of its unit, 0 in a handler (R313). -/
def depthOf (s : State) (c : Ctx) : Nat := if c.w.frame.isSome then 0 else (unitOf s c.k).ddepth

/-- BRP (R28, R106). A divergence that must save a slot which waits on work under way waits for that work (log 19). -/
def execBrp (_sw : Bool) (p : BitVec 3) (n : Bool) (j : BitVec 19) (s : State) : Out :=
  runState s .any fun c =>
    let pv := getP c.rd p.toNat
    let pv := if n then ~~~pv else pv
    let t := c.mask &&& pv
    let f := c.mask &&& ~~~pv
    if t = 0 then .ok (setWave s c.k (goTo c (c.pc + 4) c.w))
    else if f = 0 || isSeq c.src then .ok (setWave s c.k (goTo c (target c.pc j) c.w))
    else
      let w := c.w
      let x := slotOf w c.src
      let o := otherSrc c.src
      let y := slotOf w o
      if 1 ≤ w.divd && depthOf s c + 1 < w.divd + 1 then .error { cause := 0x0C }
      else if 1 ≤ w.divd && underWay y.hold then .ok (waitWith s c .poll)
      else
        let open_ (s : State) : State :=
          let jr := if x.sjpend then x.sj else Config.noJoin
          let w := goTo c (c.pc + 4) w
          let w := putSlot w c.src { slotOf w c.src with mask := f, sjpend := false }
          let w := putSlot w o { pc := target c.pc j, mask := t, dix := BitVec.ofNat 48 (c.dix.toNat + 2 ^ 20), st := .ready, sj := y.sj }
          setWave s c.k { w with divd := w.divd + 1, jr := jr }
        if 1 ≤ w.divd then
          match recordSegs s c.k w w.divd true c.hold with
          | .ok l => .ok (open_ (writePieces s (wingOf s c.k) (recordVa w.regs w.divd).toNat l (natLe 48 (recordNat y w.jr))))
          | .error e => recordMiss s c true e
        else .ok (open_ s)

/-- JOIN (R28, R107). -/
def execJoin (_sw : Bool) (s : State) : Out :=
  runState s .wave fun c =>
    let w := c.w
    if w.divd = 0 || c.pc ≠ w.jr then .ok (setWave s c.k (goTo c (c.pc + 4) w))
    else
      let x := slotOf w c.src
      let w := { putSlot w c.src { x with st := .parked, pix := 0, prog := none, snap := none, hold := .none } with lastSlot := c.src = .slotB }
      resolveInto s c w

/-- EXIT (R28, R107); in a handler, a double fault (R313). -/
def execExit (_sw : Bool) (s : State) : Out :=
  runState s .lanes fun c =>
    if c.w.frame.isSome then .ok (endUnit s c.w.unit .failed 0x0A)
    else
      let g := guardOf c
      let w := { c.w with live := c.w.live &&& ~~~g }
      let x := slotOf w c.src
      let m := x.mask &&& ~~~g
      if m = 0 then
        let x := { x with mask := m, st := SlotState.free, pix := 0, prog := none, snap := none, hold := .none }
        resolveInto s c { putSlot w c.src x with lastSlot := c.src = .slotB }
      else
        let w := goTo c (c.pc + 4) w
        .ok (setWave s c.k (putSlot w c.src { slotOf w c.src with mask := m }))

/-- CALL (R110): the return address into v126/v127 of every lane of MASK. -/
def execCall (_sw : Bool) (j : BitVec 23) (s : State) : Out :=
  runFlow s .wave fun c =>
    let ret := (c.pc + 4).toNat
    let regs := (lanesOf c.mask).foldl (fun r i => setPair r 126 i ret) c.live
    .ok (target c.pc j, putLive c.w c.src regs)

/-- The address a RET takes (R111): from the lowest lane of MASK; with an empty MASK, a free value (log 5). -/
def retTarget (s : State) (c : Ctx) (a : BitVec 7) : DWord :=
  match lowLane c.mask with
  | some i => BitVec.ofNat 64 (getPair c.rd a.toNat i)
  | none => Config.freeValue s.fresh

/-- RET (R111). -/
def execRet (_sw : Bool) (a : BitVec 7) (s : State) : Out :=
  runState s .wave fun c =>
    if a.getLsbD 0 then .error { cause := 0x0A }
    else
      let t := retTarget s c a
      if t &&& 3 ≠ 0 then .error { cause := 0x1A, addr := t }
      else
        let s := if c.mask = 0 then tick s else s
        .ok (setWave s c.k (goTo c t c.w))

/-- The checks of JMPC on a capability (R112): the lowest cause. -/
def jumpCause (k : Cap) (world : Nat) : Option Nat :=
  if !k.tag then some 0x01
  else if !capHas k pEXEC || capWorld k ≠ world then some 0x03
  else if capOtype k ≠ 0 && capOtype k ≠ 1 then some 0x04
  else if capAddr k % 4 ≠ 0 then some 0x1A
  else none

/-- The jump of JMPC: PCC replaced, unsealed (R112); `link` receives the sentry for the return. -/
def jumpVia (s : State) (a : BitVec 7) (link : Option Nat) : Out :=
  runFlow s .wave fun c =>
    let k := opC c a.toNat
    let addr := BitVec.ofNat 64 (capAddr k)
    match jumpCause k (worldOf s c.k) with
    | some e => .error { cause := e, addr := if e = 0x1A then addr else 0 }
    | none =>
      let ret := withOtype (withAddr (getC c.rd 31) (c.pc + 4).toNat) 1
      let w := match link with
        | some d => { c.w with regs := setC c.w.regs d { ret with tag := true } }
        | none => c.w
      .ok (addr, setPcc w c.src (withOtype k 0))

/-- JMPC cA (R112). -/
def execJmpc (_sw : Bool) (a : BitVec 7) (s : State) : Out := jumpVia s a none
/-- JMPC cD, cA (R112). -/
def execJmpcLink (_sw : Bool) (d a : BitVec 7) (s : State) : Out := jumpVia s a (some d.toNat)

end Sys2Proof.Machine
end

