-- ==== Sys2Proof/Machine/LoadStore.lean ====
section
/-! DEFINITION. Loads and stores (R195, R196, R208-R214) and the counter instructions (R220). -/
namespace Sys2Proof.Machine

/-- The element size under ETYPE, with trap 0x0A where R209 has none or where a V pair field is odd. -/
def needSize (c : Ctx) (t : BitVec 7) : Except Trap Nat :=
  match elemSize (modeEty c.rd.mode) with
  | none => .error (guardTrap c 0x0A)
  | some n => if oddPair (modeEty c.rd.mode) t then .error (guardTrap c 0x0A) else .ok n

/-- The low `n` bytes of a lane's element (R209). -/
def elemBytes (r : RegFile) (n t lane : Nat) : List Byte :=
  natLe n (if n = 8 then getPair r t lane else (getV r t lane).toNat)

/-- The requests of a per-lane access: `f` gives each active lane's exact address. -/
def laneReqs (c : Ctx) (f : Nat → Int) : List LaneReq := (active c).map fun i => { lane := i, x := f i }

/-- A vector access of elements (R211, R213): its checks, with `f` giving a lane's address for the element size. -/
def prepV (c : Ctx) (t : BitVec 7) (cr : BitVec 5) (store : Bool) (f : Cap → Nat → Nat → Int) :
    Except Trap (AccReq × List LaneReq) := do
  let n ← needSize c t
  let cap := opC c cr.toNat
  .ok ({ cap := cap, n := n, rights := [if store then pST else pLD], align := n,
         need := if store then .write else .read }, laneReqs c (f cap n))

/-- The element size as it stands in a kind; `needSize` has passed. -/
def sizeOf_ (c : Ctx) : Nat := (elemSize (modeEty c.rd.mode)).getD 4

/-- The store of elements of vT. -/
def storeKind (t : BitVec 7) (c : Ctx) (l : List (Nat × Loc)) : AccKind :=
  .store (l.map fun e => (e.1, e.2, elemBytes c.rd (sizeOf_ c) t.toNat e.1))

/-- LD (R211). -/
def execLd (sw : Bool) (t : BitVec 7) (cr : BitVec 5) (o : BitVec 7) (i : BitVec 4) (s : State) : Out :=
  counted s sw .lanes (fun c => pathFor (opC c cr.toNat) 0) false false
    (fun c => prepV c t cr false fun cap n lane => addrV c cap o lane (n * i.toNat))
    fun c l => .loadV t.toNat (sizeOf_ c) l
/-- ST (R211). -/
def execSt (sw : Bool) (t : BitVec 7) (cr : BitVec 5) (o : BitVec 7) (i : BitVec 4) (s : State) : Out :=
  counted s sw .lanes (fun c => pathFor (opC c cr.toNat) 1) false false
    (fun c => prepV c t cr true fun cap n lane => addrV c cap o lane (n * i.toNat)) (storeKind t)
/-- LDU (R211). -/
def execLdu (sw : Bool) (t : BitVec 7) (cr : BitVec 5) (o : BitVec 7) (i : BitVec 4) (s : State) : Out :=
  counted s sw .lanes (fun c => pathFor (opC c cr.toNat) 0) false false
    (fun c => prepV c t cr false fun cap n lane => addrS c cap o (n * i.toNat) + (n * lane : Nat))
    fun c l => .loadV t.toNat (sizeOf_ c) l
/-- STU (R211). -/
def execStu (sw : Bool) (t : BitVec 7) (cr : BitVec 5) (o : BitVec 7) (i : BitVec 4) (s : State) : Out :=
  counted s sw .lanes (fun c => pathFor (opC c cr.toNat) 1) false false
    (fun c => prepV c t cr true fun cap n lane => addrS c cap o (n * i.toNat) + (n * lane : Nat)) (storeKind t)

/-- LDAC (R213): an acquire; no constant offset. -/
def execLdac (sw : Bool) (t : BitVec 7) (cr : BitVec 5) (o : BitVec 7) (_e : BitVec 3) (s : State) : Out :=
  counted s sw .lanes (fun c => pathFor (opC c cr.toNat) 0) true false
    (fun c => prepV c t cr false fun cap _ lane => addrV c cap o lane 0)
    fun c l => .loadV t.toNat (sizeOf_ c) l
/-- STRL (R213): a release; no constant offset. -/
def execStrl (sw : Bool) (t : BitVec 7) (cr : BitVec 5) (o : BitVec 7) (_e : BitVec 3) (s : State) : Out :=
  counted s sw .lanes (fun c => pathFor (opC c cr.toNat) 1) false true
    (fun c => prepV c t cr true fun cap _ lane => addrV c cap o lane 0) (storeKind t)

/-- A wave-uniform access of `n` bytes with its rights (R212, R195, R267). -/
def prepS (cap : Cap) (x : Int) (n : Nat) (rights : List Nat) (need : Need) : AccReq × List LaneReq :=
  ({ cap := cap, n := n, rights := rights, align := n, need := need, scalar := true }, [{ lane := 0, x := x }])

/-- The location of a wave-uniform access. -/
def loc0 (l : List (Nat × Loc)) : Loc := (l.head?.map (·.2)).getD (.scr 0)

/-- LDS (R212). -/
def execLds (sw : Bool) (t : BitVec 7) (cr : BitVec 5) (o : BitVec 7) (i : BitVec 4) (s : State) : Out :=
  counted s sw .wave (fun c => pathFor (opC c cr.toNat) 0) false false
    (fun c => .ok (prepS (opC c cr.toNat) (addrS c (opC c cr.toNat) o (8 * i.toNat)) 8 [pLD] .read))
    fun _ l => if l.isEmpty then .loadVC 0 [] else .loadS t.toNat (loc0 l)
/-- STS (R212). -/
def execSts (sw : Bool) (t : BitVec 7) (cr : BitVec 5) (o : BitVec 7) (i : BitVec 4) (s : State) : Out :=
  counted s sw .wave (fun c => pathFor (opC c cr.toNat) 1) false false
    (fun c => .ok (prepS (opC c cr.toNat) (addrS c (opC c cr.toNat) o (8 * i.toNat)) 8 [pST] .write))
    fun c l => .store (l.map fun e => (e.1, e.2, natLe 8 (opS c t).toNat))

/-- The local rule (R180): a tagged confined capability stored outside the private window. -/
def denied (s : State) (k : Nat) (via v : Cap) (x : Int) : Bool :=
  let w := waveAt s k
  let g := wingOf s k
  v.tag && confined v g.privBase (g.privBase + g.privLen)
    && (capHas via pSCRATCH || !(decide ((w.privBase : Int) ≤ x) && decide (x + 16 ≤ (w.privTop : Int))))

/-- CLDC (R195). -/
def execCldc (sw : Bool) (t : BitVec 7) (cr : BitVec 5) (o : BitVec 7) (i : BitVec 4) (s : State) : Out :=
  counted s sw .wave (fun c => pathFor (opC c cr.toNat) 0) false false
    (fun c => .ok (prepS (opC c cr.toNat) (addrS c (opC c cr.toNat) o (16 * i.toNat)) 16 [pLD, pLDC] .read))
    fun _ l => if l.isEmpty then .loadVC 0 [] else .loadC t.toNat (loc0 l)
/-- CSTC (R195). -/
def execCstc (sw : Bool) (t : BitVec 7) (cr : BitVec 5) (o : BitVec 7) (i : BitVec 4) (s : State) : Out :=
  counted s sw .wave (fun c => pathFor (opC c cr.toNat) 1) false false
    (fun c =>
      let cap := opC c cr.toNat
      let x := addrS c cap o (16 * i.toNat)
      let q := prepS cap x 16 [pST, pSTC] .write
      .ok (q.1, [{ lane := 0, x := x, deny := denied s c.k cap (opC c t.toNat) x }]))
    fun c l => .storeC (l.map fun e => (e.1, e.2, filterCap s (opC c t.toNat)))

/-- VCLD (R196). -/
def execVcld (sw : Bool) (t : BitVec 7) (cr : BitVec 5) (o : BitVec 7) (i : BitVec 4) (s : State) : Out :=
  counted s sw .lanes (fun c => pathFor (opC c cr.toNat) 0) false false
    (fun c =>
      let cap := opC c cr.toNat
      .ok ({ cap := cap, n := 16, rights := [pLD, pLDC], align := 16, need := .read },
           laneReqs c fun lane => addrV c cap o lane (16 * i.toNat)))
    fun _ l => .loadVC t.toNat l
/-- VCST (R196). -/
def execVcst (sw : Bool) (t : BitVec 7) (cr : BitVec 5) (o : BitVec 7) (i : BitVec 4) (s : State) : Out :=
  counted s sw .lanes (fun c => pathFor (opC c cr.toNat) 1) false false
    (fun c =>
      let cap := opC c cr.toNat
      .ok ({ cap := cap, n := 16, rights := [pST, pSTC], align := 16, need := .write },
           (active c).map fun lane =>
             let x := addrV c cap o lane (16 * i.toNat)
             { lane := lane, x := x, deny := denied s c.k cap (getVC c.rd t.toNat lane) x }))
    fun c l => .storeC (l.map fun e => (e.1, e.2, filterCap s (getVC c.rd t.toNat e.1)))

/-- PREF (R214): a hint; it only moves past its word. -/
def execPref (sw : Bool) (_t : BitVec 7) (_cr : BitVec 5) (_o : BitVec 7) (_i : BitVec 4) (s : State) : Out :=
  runLocal s sw (.only .seqCopy) fun c => .ok c.live

/-- The error list's oldest entry on a path (R204). -/
def oldestErr (w : Wave) (path : Nat) : Option ErrEntry := w.errs.find? fun e => e.path == path

/-- Removes the oldest entry on a path. -/
def dropErr (path : Nat) : List ErrEntry → List ErrEntry
  | [] => []
  | e :: es => if e.path = path then es else e :: dropErr path es

/-- WAITC (R203, R204, R220). -/
def execWaitc (sw : Bool) (d a b : BitVec 7) (i : Bool) (s : State) : Out :=
  let c := ctx s
  if (opB c (if i then b else a) i).toNat < countOf c.w d.toNat then .next (waitWith s c .poll)
  else match oldestErr c.w d.toNat with
    | none => .next (finish s c sw)
    | some e =>
      let s := setWave s c.k { c.w with errs := dropErr d.toNat c.w.errs }
      .next (takeTrap s c.k c.src { cause := e.err.cause.toNat, addr := e.err.addr, lanes := some e.err.lanes,
                                    defer := true, pix := some e.err.pix })

/-- RDCNT (R220). -/
def execRdcnt (sw : Bool) (d a : BitVec 7) (e : Bool) (s : State) : Out :=
  runLocal s sw .any fun c =>
    .ok (setS c.live d.toNat (if e then ((oldestErr c.w a.toNat).map (·.pc)).getD 0
      else BitVec.ofNat 64 (countOf c.w a.toNat)))

end Sys2Proof.Machine
end

