-- ==== Sys2Proof/Machine/CapInstr.lean ====
section
/-! DEFINITION. The capability instructions on registers (R187-R194). -/
namespace Sys2Proof.Machine

/-- An instruction that reads c[A] into s[D] (R188). -/
def capGet (s : State) (sw : Bool) (d a : BitVec 7) (f : Cap → Nat) : Out :=
  runLocal s sw .wave fun c => .ok (setS c.live d.toNat (BitVec.ofNat 64 (f (opC c a.toNat))))

/-- CGETA (R188). -/
def execCgeta (sw : Bool) (d a : BitVec 7) (s : State) : Out := capGet s sw d a capAddr
/-- CGETB (R188). -/
def execCgetb (sw : Bool) (d a : BitVec 7) (s : State) : Out := capGet s sw d a fun k => wrap 64 (capBase k)
/-- CGETL (R188). -/
def execCgetl (sw : Bool) (d a : BitVec 7) (s : State) : Out :=
  capGet s sw d a fun k => min (capTop k - capBase k).toNat (2 ^ 64 - 1)
/-- CGETP (R188). -/
def execCgetp (sw : Bool) (d a : BitVec 7) (s : State) : Out :=
  capGet s sw d a fun k => capPerms k + capOtype k * 2 ^ 16 + capWorld k * 2 ^ 20
/-- CGETT (R188). -/
def execCgett (sw : Bool) (d a : BitVec 7) (s : State) : Out := capGet s sw d a fun k => if k.tag then 1 else 0

/-- A derivation of c[D] from c[A], which traps on a tagged sealed source (R189-R191). -/
def capDerive (s : State) (sw : Bool) (d a : BitVec 7) (f : Ctx → Cap → Cap) : Out :=
  runLocal s sw .wave fun c =>
    let k := opC c a.toNat
    if k.tag && capOtype k ≠ 0 then .error { cause := 0x04 }
    else .ok (setC c.live d.toNat (f c k))

/-- A capability with its address moved (R189). -/
def moveAddr (k : Cap) (a : Nat) : Cap := { withAddr k a with tag := k.tag && representable k (a % 2 ^ 64) }

/-- CSETA and CSETA.add (R189). -/
def execCseta (sw : Bool) (d a b : BitVec 7) (x : Bool) (s : State) : Out :=
  capDerive s sw d a fun c k => moveAddr k (if x then capAddr k + (opS c b).toNat else (opS c b).toNat)
/-- CINC (R189). -/
def execCinc (sw : Bool) (d a : BitVec 7) (i : BitVec 9) (s : State) : Out :=
  capDerive s sw d a fun _ k => moveAddr k (capAddr k + (i.signExtend 64).toNat)

/-- The bounds of a capability set to [ADDR, ADDR + len) (R190). -/
def setBounds (k : Cap) (len : Nat) (exact : Bool) : Cap :=
  let b := capAddr k
  let t := b + len
  let (e, bf, lf, b', t', fits) := encBounds b t
  let ok := k.tag && decide (capBase k ≤ b') && decide ((t' : Int) ≤ capTop k) && fits
    && !(exact && (b' != b || t' != t))
  { withField (withField (withField k 127 122 e) 121 107 bf) 106 92 lf with tag := ok }

/-- CSETB and CSETB.x (R190). -/
def execCsetb (sw : Bool) (d a b : BitVec 7) (x : Bool) (s : State) : Out :=
  capDerive s sw d a fun c k => setBounds k (opS c b).toNat x

/-- The permissions that CPRUNE leaves (R191). -/
def prunePerms (perms mask : Nat) : Nat :=
  (BitVec.ofNat 16 perms &&& ~~~(BitVec.ofNat 16 mask &&& 0xFEFF#16) &&& 0x1FFF#16).toNat
/-- CPRUNE (R191). -/
def execCprune (sw : Bool) (d a b : BitVec 7) (s : State) : Out :=
  capDerive s sw d a fun c k => withPerms k (prunePerms (capPerms k) (opS c b).toNat)

/-- The checks that CSEAL and CUNSL share (R192), each true condition naming its cause; the lowest is reported. -/
def sealCause (x k : Cap) (world perm : Nat) (otypeBad : Bool) : Option Nat :=
  if !x.tag || !k.tag then some 0x01
  else if (capAddr k : Int) < capBase k ∨ capTop k ≤ capAddr k then some 0x02
  else if capWorld k ≠ world || !capHas k perm then some 0x03
  else if otypeBad then some 0x04
  else none

/-- CSEAL's type conditions. -/
def sealBad (x k : Cap) : Bool :=
  capOtype k ≠ 0 || capOtype x ≠ 0 || capWorld x ≠ capWorld k
    || !(capAddr k == 1 || (decide (4 ≤ capAddr k) && decide (capAddr k ≤ 15)))
    || (capAddr k == 1 && !capHas x pEXEC)
/-- CUNSL's type conditions. -/
def unsealBad (x k : Cap) : Bool :=
  capOtype k ≠ 0 || capWorld x ≠ capWorld k || decide (capOtype x < 4) || capAddr k ≠ capOtype x

/-- CSEAL (R192). -/
def execCseal (sw : Bool) (d a b : BitVec 7) (s : State) : Out :=
  runLocal s sw .wave fun c =>
    let x := opC c a.toNat
    let k := opC c b.toNat
    match sealCause x k (worldOf s c.k) pSEAL (sealBad x k) with
    | some e => .error { cause := e }
    | none => .ok (setC c.live d.toNat { withOtype x (capAddr k) with tag := true })
/-- CUNSL (R192). -/
def execCunsl (sw : Bool) (d a b : BitVec 7) (s : State) : Out :=
  runLocal s sw .wave fun c =>
    let x := opC c a.toNat
    let k := opC c b.toNat
    match sealCause x k (worldOf s c.k) pUNSEAL (unsealBad x k) with
    | some e => .error { cause := e }
    | none =>
      let y := withOtype x 0
      let g := capHas x pGLOBAL && capHas k pGLOBAL
      .ok (setC c.live d.toNat
        { withField y (64 + pGLOBAL) (64 + pGLOBAL) (if g then 1 else 0) with tag := true })

/-- CMOV cD, cA (R193). -/
def execCmov (sw : Bool) (d a : BitVec 7) (s : State) : Out :=
  runLocal s sw .wave fun c => .ok (setC c.live d.toNat (opC c a.toNat))
/-- CMOV.s cD, cA (R193): the supervisor form; a write of c31 also governs the other slot. -/
def execCmovS (sw : Bool) (d a : BitVec 7) (s : State) : Out :=
  runSys s fun c =>
    let k := opC c a.toNat
    let w := if d.toNat = 31 then setPcc c.w c.src k else putLive c.w c.src (setC c.live d.toNat k)
    .ok (setWave s c.k (advance c sw w))
/-- CMOV cD, vcA (R193): the lowest active lane's; unchanged with none active. -/
def execCmovFromVc (sw : Bool) (d a : BitVec 7) (s : State) : Out :=
  runLocal s sw .lanes fun c =>
    match lowLane (guardOf c) with
    | some i => .ok (setC c.live d.toNat (getVC c.rd a.toNat i))
    | none => .ok c.live
/-- CMOV vcD, cA (R193). -/
def execCmovToVc (sw : Bool) (d a : BitVec 7) (s : State) : Out :=
  runLocal s sw .lanes fun c => .ok ((active c).foldl (fun r i => setVC r d.toNat i (opC c a.toNat)) c.live)
/-- CMOV vcD, vcA (R193). -/
def execCmovVc (sw : Bool) (d a : BitVec 7) (s : State) : Out :=
  runLocal s sw .lanes fun c => .ok ((active c).foldl (fun r i => setVC r d.toNat i (getVC c.rd a.toNat i)) c.live)

/-- The bits of CTEST (R194). -/
def ctestBits (x y : Cap) : Nat :=
  let b (n : Nat) (p : Bool) : Nat := if p then 2 ^ n else 0
  b 0 x.tag + b 1 (capOtype x == 0)
    + b 2 (decide (capBase y ≤ capBase x) && decide (capTop x ≤ capTop y))
    + b 3 (capPerms x &&& capPerms y == capPerms x) + b 4 (capWorld x == capWorld y)
    + b 5 (decide (capBase x ≤ capAddr x) && decide ((capAddr x : Int) < capTop x))
/-- CTEST (R194). -/
def execCtest (sw : Bool) (d a b : BitVec 7) (s : State) : Out :=
  runLocal s sw .wave fun c => .ok (setS c.live d.toNat (BitVec.ofNat 64 (ctestBits (opC c a.toNat) (opC c b.toNat))))

end Sys2Proof.Machine
end

