-- ==== Sys2Proof/Machine/Functions.lean ====
section
/-! DEFINITION. Division, roots, 2^x and log2 (R151, R152), each rounded once from an exact magnitude or from a lower
bound with 190 or more correct bits (log 18), and the order of VMIN and VMAX (R145). -/
namespace Sys2Proof.Machine

/-- Newton's steps toward the integer square root of `n` from above. -/
def sqrtSteps (n : Nat) : Nat → Nat → Nat
  | 0, x => x
  | k + 1, x =>
    let y := (x + n / x) / 2
    if y < x then sqrtSteps n k y else x

/-- The integer square root. -/
def isqrt (n : Nat) : Nat := if n = 0 then 0 else sqrtSteps n (Nat.log2 n + 8) (2 ^ (Nat.log2 n / 2 + 1))

/-- fdiv (R151). DESIGN CHOICE: a zero quotient of a zero by a finite number that is not zero has the XOR of the signs (log 55). -/
def fdiv (t : Nat) (k : Rnd) : Val → Val → Res
  | .nan, _ => ⟨nanPat t, 0⟩
  | _, .nan => ⟨nanPat t, 0⟩
  | .inf _, .inf _ => ⟨nanPat t, fINV⟩
  | .inf a, .fin b _ _ => cvtf t k (.inf (a != b))
  | .fin a _ _, .inf b => cvtf t k (.fin (a != b) 0 0)
  | .fin a m1 e1, .fin b m2 e2 =>
    if m2 = 0 then
      if m1 = 0 then ⟨nanPat t, fINV⟩
      else let r := cvtf t k (.inf (a != b)); ⟨r.pat, r.fl ||| fDIV⟩
    else if m1 = 0 then cvtf t k (.fin (a != b) 0 0)
    else
      let sh := 96 + Nat.log2 m2
      let n := m1 * 2 ^ sh
      roundMag t k (a != b) (n / m2) (e1 - e2 - sh) (n % m2 != 0)

/-- VRCP (R152). -/
def frcp (t : Nat) (k : Rnd) : Val → Res
  | .inf n => cvtf t k (.fin n 0 0)
  | .fin n m e =>
    if m = 0 then let r := cvtf t k (.inf n); ⟨r.pat, fDIV⟩ else fdiv t k (.fin false 1 0) (.fin n m e)
  | .nan => ⟨nanPat t, 0⟩

/-- A magnitude with an even exponent. -/
def evenExp (m : Nat) (e : Int) : Nat × Int := if e % 2 = 0 then (m, e) else (2 * m, e - 1)

/-- VSQRT (R152). -/
def fsqrt (t : Nat) (k : Rnd) : Val → Res
  | .nan => ⟨nanPat t, 0⟩
  | .inf n => if n then ⟨nanPat t, fINV⟩ else cvtf t k (.inf false)
  | .fin n m e =>
    if m = 0 then cvtf t k (.fin n 0 0)
    else if n then ⟨nanPat t, fINV⟩
    else
      let (m, e) := evenExp m e
      let x := m * 2 ^ 160
      let r := isqrt x
      roundMag t k false r (e / 2 - 80) (r * r != x)

/-- VRSQ (R152). -/
def frsq (t : Nat) (k : Rnd) : Val → Res
  | .nan => ⟨nanPat t, 0⟩
  | .inf n => if n then ⟨nanPat t, fINV⟩ else cvtf t k (.fin false 0 0)
  | .fin n m e =>
    if m = 0 then let r := cvtf t k (.inf n); ⟨r.pat, fDIV⟩
    else if n then ⟨nanPat t, fINV⟩
    else
      let (m, e) := evenExp m e
      let x := 2 ^ 280
      let r := isqrt (x / m)
      roundMag t k false r (-(e / 2) - 140) (r * r * m != x)

/-- The working precision of VEX2 and VLG2. -/
def workBits : Nat := 256

/-- Multiplies in the factors 2^(2^−i) for the fraction bits of `f`, a fraction of `n` bits, most significant first; `c`
is 2^(2^−(i−1)) and `acc` the product so far, both times 2^workBits and rounded down. -/
def exp2Bits (f : Nat) : Nat → Nat → Nat → Nat
  | 0, _, acc => acc
  | n + 1, c, acc =>
    let c := isqrt (c * 2 ^ workBits)
    exp2Bits f n c (if bit f n then acc * c / 2 ^ workBits else acc)

/-- VEX2 (R152). -/
def fexp2 (t : Nat) (k : Rnd) : Val → Res
  | .nan => ⟨nanPat t, 0⟩
  | .inf n => if n then cvtf t k (.fin false 0 0) else cvtf t k (.inf false)
  | .fin n m e =>
    if m = 0 then cvtf t k (.fin false 1 0)
    else
      let fb := (-e).toNat
      let x := scaled n m e (min e 0)
      let i := x / (2 ^ fb : Nat)
      let f := (x % (2 ^ fb : Nat)).toNat
      if 2000 < i then roundMag t k false 1 2000 false
      else if i < -2000 then roundMag t k false 1 (-2000) true
      else if f = 0 then roundMag t k false 1 i false
      else roundMag t k false (exp2Bits f fb (2 ^ (workBits + 1)) (2 ^ workBits)) (i - workBits) true

/-- The first `n` bits of log2 y for y in [1, 2), by repeated squaring; `y` is times 2^workBits. -/
def log2Bits : Nat → Nat → Nat → Nat
  | 0, _, acc => acc
  | n + 1, y, acc =>
    let y := y * y / 2 ^ workBits
    if 2 ^ (workBits + 1) ≤ y then log2Bits n (y / 2) (2 * acc + 1) else log2Bits n y (2 * acc)

/-- VLG2 (R152). -/
def flog2 (t : Nat) (k : Rnd) : Val → Res
  | .nan => ⟨nanPat t, 0⟩
  | .inf n => if n then ⟨nanPat t, fINV⟩ else cvtf t k (.inf false)
  | .fin n m e =>
    if m = 0 then let r := cvtf t k (.inf true); ⟨r.pat, fDIV⟩
    else if n then ⟨nanPat t, fINV⟩
    else
      let l := Nat.log2 m
      let i : Int := e + l
      if m = 2 ^ l then cvtf t k (.fin (i < 0) i.natAbs 0)
      else
        let p := 200
        let f := log2Bits p (m * 2 ^ (workBits - l)) 0
        let x : Int := i * (2 ^ p : Nat) + f
        if 0 ≤ x then roundMag t k false x.toNat (-200) true
        else roundMag t k true (-x - 1).toNat (-200) true

/-- The order that VMIN and VMAX use under F: −0 below +0, otherwise numeric; for patterns that are not NaN (R145). -/
def fltLess (t a b : Nat) : Bool :=
  match cmpVal (valueOf t a) (valueOf t b) with
  | .lt => true
  | .gt => false
  | .eq => negOf (valueOf t a) && !negOf (valueOf t b)

/-- The lower or higher of two elements, as VMIN and VMAX choose (R145). -/
def minMax (t : Nat) (wantMax : Bool) (a b : Nat) : Nat :=
  if isFloat t then
    let na := isNan (valueOf t a); let nb := isNan (valueOf t b)
    if na && nb then nanPat t else if na then b else if nb then a
    else if fltLess t a b then (if wantMax then b else a) else (if wantMax then a else b)
  else if intOf t a < intOf t b then (if wantMax then b else a) else (if wantMax then a else b)

end Sys2Proof.Machine
end

