-- ==== Sys2Proof/Machine/Vector.lean ====
section
/-! DEFINITION. Vector arithmetic (R141-R152): lane by lane over `active()`. -/
namespace Sys2Proof.Machine

/-- I types. -/
def tI (t : Nat) : Bool := t == 0 || t == 2 || t == 4 || t == 6
/-- N types. -/
def tN (t : Nat) : Bool := t == 1 || t == 3 || t == 5 || t == 7
/-- S types. -/
def tS (t : Nat) : Bool := isShare t
/-- F types. -/
def tF (t : Nat) : Bool := t == 8 || t == 9 || t == 0xA
/-- Q types. -/
def tQ (t : Nat) : Bool := t == 0xB || t == 0xC || t == 0xD
/-- I and N types. -/
def tIN (t : Nat) : Bool := tI t || tN t
/-- I, N and F types. -/
def tINF (t : Nat) : Bool := tI t || tN t || tF t
/-- I, N and S types. -/
def tINS (t : Nat) : Bool := tI t || tN t || tS t
/-- I, N, S and F types. -/
def tINSF (t : Nat) : Bool := tINS t || tF t
/-- Every type. -/
def tAny (_ : Nat) : Bool := true

/-- The type checks of a vector instruction (R57, R141, R142): ETYPE accepted, an immediate accepted under it, no odd V
pair. -/
def vecBad (c : Ctx) (acc immAcc : Nat → Bool) (imm : Bool) (fs : List (BitVec 7)) : Bool :=
  let t := modeEty c.rd.mode
  !acc t || (imm && !immAcc t) || fs.any (oddPair t)

/-- Writes the results of the active lanes as elements of a type, and their flags. -/
def writeLanes (c : Ctx) (t d : Nat) (f : Nat → Res) : RegFile :=
  (active c).foldl (fun r i => let x := f i; addFlags (laneSet r t d i x.pat) x.fl) c.live

/-- A vector instruction over the active lanes: its type checks, then `f` of each lane under ETYPE. -/
def vecOp (s : State) (sw : Bool) (acc immAcc : Nat → Bool) (imm : Bool) (fs : List (BitVec 7)) (d : BitVec 7)
    (f : Ctx → Nat → Nat → Res) : Out :=
  runLocal s sw .lanes fun c =>
    if vecBad c acc immAcc imm fs then .error (guardTrap c 0x0A)
    else .ok (writeLanes c (modeEty c.rd.mode) d.toNat (f c (modeEty c.rd.mode)))

/-- The B element of a lane: a V register, or the immediate. -/
def elemB (c : Ctx) (t : Nat) (b : BitVec 7) (imm : Bool) (lane : Nat) : Nat :=
  if imm then b.toNat else laneGet c.rd t b.toNat lane

/-- A two-operand vector instruction; A and B are elements of ETYPE. -/
def vec2 (s : State) (sw : Bool) (acc immAcc : Nat → Bool) (d a b : BitVec 7) (i : Bool)
    (f : Ctx → Nat → Nat → Nat → Nat → Res) : Out :=
  vecOp s sw acc immAcc i ([d, a] ++ if i then [] else [b]) d fun c t lane =>
    f c t lane (laneGet c.rd t a.toNat lane) (elemB c t b i lane)

/-- A one-operand vector instruction. -/
def vec1 (s : State) (sw : Bool) (acc : Nat → Bool) (d a : BitVec 7) (f : Ctx → Nat → Nat → Nat → Res) : Out :=
  vecOp s sw acc tAny false [d, a] d fun c t lane => f c t lane (laneGet c.rd t a.toNat lane)

/-- fpres of a value with the flags that forming it raised (R127, R144). -/
def fres (c : Ctx) (t lane : Nat) (v : Val × Nat) : Res :=
  let r := cvtf t (rndOf c lane 0) v.1
  ⟨r.pat, r.fl ||| v.2⟩

/-- An integer or share result (R122). -/
def ires (c : Ctx) (t : Nat) (x : Int) : Res := intres t (modeSat c.rd.mode) x

/-- The B operand of VADD and VSUB: under an S type an immediate counts only for PARTY 0 (R142). -/
def pubB (s : State) (c : Ctx) (t : Nat) (imm : Bool) (b : Nat) : Nat :=
  if imm && tS t && (wingOf s c.k).party then 0 else b

/-- VADD (R144). -/
def execVadd (sw : Bool) (d a b : BitVec 7) (i : Bool) (s : State) : Out :=
  vec2 s sw tINSF tINS d a b i fun c t l x y =>
    let y := pubB s c t i y
    if tF t then fres c t l (addVal (modeRound c.rd.mode) (valueOf t x) (valueOf t y))
    else ires c t (intOf t x + intOf t y)
/-- VSUB (R144). -/
def execVsub (sw : Bool) (d a b : BitVec 7) (i : Bool) (s : State) : Out :=
  vec2 s sw tINSF tINS d a b i fun c t l x y =>
    let y := pubB s c t i y
    if tF t then fres c t l (addVal (modeRound c.rd.mode) (valueOf t x) (negVal (valueOf t y)))
    else ires c t (intOf t x - intOf t y)
/-- VMUL (R144). -/
def execVmul (sw : Bool) (d a b : BitVec 7) (i : Bool) (s : State) : Out :=
  vec2 s sw tINF tIN d a b i fun c t l x y =>
    if tF t then fres c t l (mulVal (valueOf t x) (valueOf t y)) else ires c t (intOf t x * intOf t y)
/-- VMULH (R144): never saturates. -/
def execVmulh (sw : Bool) (d a b : BitVec 7) (i : Bool) (s : State) : Out :=
  vec2 s sw tIN tIN d a b i fun _ t _ x y =>
    ⟨wrap (widthOf t) (intOf t x * intOf t y / ((2 ^ widthOf t : Nat) : Int)), 0⟩
/-- a × b + d, fused (R144). -/
def fmaVal (mode : Nat) (a b d : Val) : Val × Nat :=
  let p := mulVal a b
  let q := addVal mode p.1 d
  (q.1, q.2 ||| p.2)
/-- VMAD (R144). -/
def execVmad (sw : Bool) (d a b : BitVec 7) (i : Bool) (s : State) : Out :=
  vec2 s sw tINF tIN d a b i fun c t l x y =>
    let z := laneGet c.rd t d.toNat l
    if tF t then fres c t l (fmaVal (modeRound c.rd.mode) (valueOf t x) (valueOf t y) (valueOf t z))
    else ires c t (intOf t x * intOf t y + intOf t z)
/-- VMIN (R145). -/
def execVmin (sw : Bool) (d a b : BitVec 7) (i : Bool) (s : State) : Out :=
  vec2 s sw tINF tIN d a b i fun _ t _ x y => ⟨minMax t false x y, 0⟩
/-- VMAX (R145). -/
def execVmax (sw : Bool) (d a b : BitVec 7) (i : Bool) (s : State) : Out :=
  vec2 s sw tINF tIN d a b i fun _ t _ x y => ⟨minMax t true x y, 0⟩
/-- VABS (R145). -/
def execVabs (sw : Bool) (d a : BitVec 7) (s : State) : Out :=
  vec1 s sw tINF d a fun c t _ x =>
    if tF t then ⟨if isNan (valueOf t x) then nanPat t else x % 2 ^ (widthOf t - 1), 0⟩
    else if tI t then ires c t (intOf t x).natAbs else ⟨x, 0⟩
/-- VNEG (R145). -/
def execVneg (sw : Bool) (d a : BitVec 7) (s : State) : Out :=
  vec1 s sw tINSF d a fun c t _ x =>
    if tF t then ⟨if isNan (valueOf t x) then nanPat t else x ^^^ 2 ^ (widthOf t - 1), 0⟩
    else ires c t (-(intOf t x))
/-- VAND (R146). -/
def execVand (sw : Bool) (d a b : BitVec 7) (i : Bool) (s : State) : Out :=
  vec2 s sw tINF tIN d a b i fun _ _ _ x y => ⟨x &&& y, 0⟩
/-- VOR (R146). -/
def execVor (sw : Bool) (d a b : BitVec 7) (i : Bool) (s : State) : Out :=
  vec2 s sw tINF tIN d a b i fun _ _ _ x y => ⟨x ||| y, 0⟩
/-- VXOR (R146). -/
def execVxor (sw : Bool) (d a b : BitVec 7) (i : Bool) (s : State) : Out :=
  vec2 s sw tINF tIN d a b i fun _ _ _ x y => ⟨x ^^^ y, 0⟩
/-- VNOT (R146). -/
def execVnot (sw : Bool) (d a : BitVec 7) (s : State) : Out :=
  vec1 s sw tINF d a fun _ t _ x => ⟨2 ^ widthOf t - 1 - x, 0⟩
/-- VSHL (R146). A shift by the width or more acts as one by the width: the result is the same. -/
def execVshl (sw : Bool) (d a b : BitVec 7) (i : Bool) (s : State) : Out :=
  vec2 s sw tINS tINS d a b i fun c t _ x k => ires c t (intOf t x * (2 ^ min k (widthOf t) : Nat))
/-- VSHR (R146). -/
def execVshr (sw : Bool) (d a b : BitVec 7) (i : Bool) (s : State) : Out :=
  vec2 s sw tIN tIN d a b i fun _ t _ x k => ⟨x / 2 ^ min k (widthOf t), 0⟩
/-- VSRA (R146). -/
def execVsra (sw : Bool) (d a b : BitVec 7) (i : Bool) (s : State) : Out :=
  vec2 s sw tI tI d a b i fun _ t _ x k =>
    ⟨wrap (widthOf t) (intOf t x / ((2 ^ min k (widthOf t) : Nat) : Int)), 0⟩

/-- A condition of R147 on two elements. -/
def vcond (cc t x y : Nat) : Bool :=
  let un := isFloat t && (isNan (valueOf t x) || isNan (valueOf t y))
  let o := if isFloat t then cmpVal (valueOf t x) (valueOf t y) else compare (intOf t x) (intOf t y)
  match cc with
  | 0 => !un && o == .eq
  | 1 => un || o != .eq
  | 2 => !un && o == .lt
  | 3 => !un && o != .gt
  | 4 => !un && o == .gt
  | 5 => !un && o != .lt
  | 6 => un
  | _ => !un

/-- VCMP (R147). -/
def execVcmp (sw : Bool) (cc : BitVec 4) (p : BitVec 3) (a b : BitVec 7) (i : Bool) (s : State) : Out :=
  runLocal s sw .lanes fun c =>
    if vecBad c (fun t => tINF t || tQ t) tIN i ([a] ++ if i then [] else [b]) then .error (guardTrap c 0x0A)
    else
      let t := modeEty c.rd.mode
      let m := maskOf ((active c).filter fun l => vcond cc.toNat t (laneGet c.rd t a.toNat l) (elemB c t b i l))
      .ok (writeP c c.live p.toNat m)

/-- VSEL (R148): every lane of MASK, the guard selecting. -/
def execVsel (sw : Bool) (d a b : BitVec 7) (i : Bool) (s : State) : Out :=
  runLocal s sw .lanes fun c =>
    if vecBad c tAny tAny i ([d, a] ++ if i then [] else [b]) then .error (guardTrap c 0x0A)
    else
      let t := modeEty c.rd.mode
      .ok ((lanesOf c.mask).foldl (fun r l =>
        laneSet r t d.toNat l (if (guardOf c).getLsbD l then laneGet c.rd t a.toNat l else elemB c t b i l)) c.live)
/-- VMOV vD, vA (R148). -/
def execVmov (sw : Bool) (d a : BitVec 7) (s : State) : Out := vec1 s sw tAny d a fun _ _ _ x => ⟨x, 0⟩
/-- VMOV vD, imm (R148). -/
def execVmovImm (sw : Bool) (d b : BitVec 7) (s : State) : Out :=
  vecOp s sw tAny tAny true [d] d fun _ _ _ => ⟨b.toNat, 0⟩
/-- VMOVS vD, sA (R149). -/
def execVmovs (sw : Bool) (d a : BitVec 7) (s : State) : Out :=
  vecOp s sw tAny tAny false [d] d fun c _ _ => ⟨(opS c a).toNat, 0⟩
/-- A pattern of a type extended to 64 bits: sign-extended under I types (R149, R166). -/
def extend (t x : Nat) : DWord := if tI t then BitVec.ofInt 64 (intOf t x) else BitVec.ofNat 64 x
/-- VMOVS sD, vA (R149). -/
def execVmovsToS (sw : Bool) (d a : BitVec 7) (s : State) : Out :=
  runLocal s sw .lanes fun c =>
    if vecBad c tAny tAny false [a] then .error (guardTrap c 0x0A)
    else match lowLane (guardOf c) with
      | some l =>
        let t := modeEty c.rd.mode
        .ok (setS c.live d.toNat (extend t (laneGet c.rd t a.toNat l)))
      | none => .ok c.live
/-- VLID (R149): 32-bit lane numbers, ETYPE ignored. -/
def execVlid (sw : Bool) (d : BitVec 7) (g : Bool) (s : State) : Out :=
  runLocal s sw .lanes fun c =>
    let u := unitOf s c.k
    let base := if g then (u.unitId * u.nwaves + c.w.waveId) * 32 else 0
    .ok ((active c).foldl (fun r l => setV r d.toNat l (BitVec.ofNat 32 (base + l))) c.live)
/-- VCLZ (R150). -/
def execVclz (sw : Bool) (d a : BitVec 7) (s : State) : Out :=
  vec1 s sw tIN d a fun _ t _ x => ⟨if x = 0 then widthOf t else widthOf t - 1 - Nat.log2 x, 0⟩
/-- VPOPC (R150). -/
def execVpopc (sw : Bool) (d a : BitVec 7) (s : State) : Out :=
  vec1 s sw tIN d a fun _ t _ x => ⟨ones x (widthOf t), 0⟩
where
  /-- The number of one bits among the low `n`. -/
  ones (v : Nat) : Nat → Nat
    | 0 => 0
    | n + 1 => v % 2 + ones (v / 2) n
/-- VDIV (R151): every active lane is checked for a zero divisor first. -/
def execVdiv (sw : Bool) (d a b : BitVec 7) (i : Bool) (s : State) : Out :=
  runLocal s sw .lanes fun c =>
    if vecBad c tINF tIN i ([d, a] ++ if i then [] else [b]) then .error (guardTrap c 0x0A)
    else
      let t := modeEty c.rd.mode
      let z := (active c).filter fun l => !tF t && elemB c t b i l == 0
      if !z.isEmpty then .error { cause := 0x0B, lanes := some (maskOf z) }
      else .ok (writeLanes c t d.toNat fun l =>
        let x := laneGet c.rd t a.toNat l
        let y := elemB c t b i l
        if tF t then fdiv t (rndOf c l 0) (valueOf t x) (valueOf t y)
        else ires c t (Int.tdiv (intOf t x) (intOf t y)))
/-- A function of R152 on the lanes. -/
def vecFn (s : State) (sw : Bool) (d a : BitVec 7) (f : Nat → Rnd → Val → Res) : Out :=
  vec1 s sw tF d a fun c t l x => f t (rndOf c l 0) (valueOf t x)
/-- VRCP (R152). -/
def execVrcp (sw : Bool) (d a : BitVec 7) (s : State) : Out := vecFn s sw d a frcp
/-- VRSQ (R152). -/
def execVrsq (sw : Bool) (d a : BitVec 7) (s : State) : Out := vecFn s sw d a frsq
/-- VEX2 (R152). -/
def execVex2 (sw : Bool) (d a : BitVec 7) (s : State) : Out := vecFn s sw d a fexp2
/-- VLG2 (R152). -/
def execVlg2 (sw : Bool) (d a : BitVec 7) (s : State) : Out := vecFn s sw d a flog2
/-- VSQRT (R152). -/
def execVsqrt (sw : Bool) (d a : BitVec 7) (s : State) : Out := vecFn s sw d a fsqrt

end Sys2Proof.Machine
end

