-- ==== Sys2Proof/Machine/Convert.lean ====
section
/-! DEFINITION. Conversion, random bits (R153-R160) and lane exchange (R161-R166). -/
namespace Sys2Proof.Machine

/-- Floating types of VCVT and VPACK: F and Q. -/
def tFQ (t : Nat) : Bool := tF t || tQ t

/-- One element converted by VCVT (R153); none for a pair of types that traps. -/
def cvtElem (st et : Nat) (k : Rnd) (x : Nat) : Option Res :=
  if tFQ st && tFQ et then some (cvtf et k (valueOf st x))
  else if tIN st && tFQ et then some (cvtf et k (valueOf st x))
  else if tFQ st && tIN et then some (cvti et k (valueOf st x))
  else if tIN st && tIN et then some (intres et k.sat (intOf st x))
  else if (tS st && (tIN et || st == et) || tIN st && tS et) && widthOf st == widthOf et then some ⟨x, 0⟩
  else none

/-- VCVT (R153). -/
def execVcvt (sw : Bool) (d a : BitVec 7) (s : State) : Out :=
  runLocal s sw .lanes fun c =>
    let st := modeSty c.rd.mode; let et := modeEty c.rd.mode
    if (cvtElem st et (rndOf c 0 0) 0).isNone || oddPair st a || oddPair et d then .error (guardTrap c 0x0A)
    else .ok (writeLanes c et d.toNat fun l =>
      (cvtElem st et (rndOf c l 0) (laneGet c.rd st a.toNat l)).getD ⟨0, 0⟩)

/-- Element `j` of width `w` of a lane's word. -/
def packed (v w j : Nat) : Nat := v / 2 ^ (w * j) % 2 ^ w

/-- Two types of one kind: both integer, or both floating (R154). -/
def sameKind (st et : Nat) : Bool := (tIN st && tIN et) || (tFQ st && tFQ et)

/-- VPACK (R154). The half that is not selected keeps the bits it held at the start of the run (log 7). -/
def execVpack (sw : Bool) (d a b : BitVec 7) (h : Bool) (s : State) : Out :=
  runLocal s sw .lanes fun c =>
    let st := modeSty c.rd.mode; let et := modeEty c.rd.mode
    let ws := widthOf st; let wd := widthOf et
    let full := 64 * wd == 32 * ws
    if !sameKind st et || !(decide (wd < ws) && decide (ws ≤ 32) && (full || 64 * wd == 16 * ws)) || (full && h)
    then .error (guardTrap c 0x0A)
    else
      let n := 32 / ws
      let base := if full then 0 else if h then 16 / wd else 0
      .ok ((active c).foldl (fun r l =>
        let va := (getV c.rd a.toNat l).toNat; let vb := (getV c.rd b.toNat l).toNat
        let src := (List.range n).map (packed va ws) ++ (List.range n).map (packed vb ws)
        let out := (List.range (2 * n)).foldl (fun (acc : Nat × Nat) j =>
          let y := if tFQ st then cvtf et (rndOf c l (base + j)) (valueOf st (nth 0 src j))
                   else intres et (modeSat c.rd.mode) (intOf st (nth 0 src j))
          (acc.1 + y.pat * 2 ^ (wd * (base + j)), acc.2 ||| y.fl)) (0, 0)
        let old := (getV c.rd d.toNat l).toNat
        let kept := if full then 0 else if h then old % 65536 else old / 65536 * 65536
        addFlags (setV r d.toNat l (BitVec.ofNat 32 (kept + out.1))) out.2) c.live)

/-- A widening that is exact (R155). -/
def widens (st et : Nat) : Bool :=
  sameKind st et && decide (widthOf st ≤ 16) && decide (widthOf st < widthOf et) && decide (widthOf et ≤ 32)
    && (tFQ st || tN st || tI et)

/-- VUNPK (R155). -/
def execVunpk (sw : Bool) (d a g : BitVec 7) (s : State) : Out :=
  runLocal s sw .lanes fun c =>
    let st := modeSty c.rd.mode; let et := modeEty c.rd.mode
    let ws := widthOf st; let wd := widthOf et
    if !widens st et || decide (wd / ws ≤ g.toNat) then .error (guardTrap c 0x0A)
    else
      let n := 32 / wd
      .ok ((active c).foldl (fun r l =>
        let va := (getV c.rd a.toNat l).toNat
        let out := (List.range n).foldl (fun acc j =>
          let x := packed va ws (g.toNat * n + j)
          let y := if tFQ st then (cvtf et { mode := 0, sat := false } (valueOf st x)).pat else wrap wd (intOf st x)
          acc + y * 2 ^ (wd * j)) 0
        setV r d.toNat l (BitVec.ofNat 32 out)) c.live)

/-- The zero point of an affine pair, int8 (R134). -/
def pairZp (p : Nat) : Int := sext 8 (bits p 15 8)

/-- The quantised element of VQNT (R156); a value outside I8 is not representable in it, so `round` sets INEXACT (R126). -/
def quant (k : Rnd) (pair : Nat) (v : Val) : Res :=
  let z := pairZp pair
  let clip (y : Int) (fl : Nat) : Res :=
    if y < -128 then ⟨128, fINX ||| fINV⟩ else if 127 < y then ⟨127, fINX ||| fINV⟩ else ⟨wrap 8 y, fl⟩
  match k8Val (bits pair 7 0), v with
  | .fin _ sm se, v =>
    if sm = 0 then ⟨wrap 8 z, 0⟩
    else match v with
      | .nan => ⟨0, fINV⟩
      | .inf n => if n then ⟨128, fINV⟩ else ⟨127, fINV⟩
      | .fin n m e =>
        -- (a + z s) / s, numerator over the common exponent e0
        let e0 := min e se
        let num := scaled n m e e0 + z * (sm * 2 ^ (se - e0).toNat : Nat)
        let den := sm * 2 ^ (se - e0).toNat
        let q := num.natAbs * 2 ^ 40
        let exact := num.natAbs % den == 0
        let y := if exact then num.natAbs / den else roundMul k (num < 0) (q / den) 40 (q % den != 0)
        clip (if num < 0 then -(y : Int) else y) (if exact then 0 else fINX)
  | _, _ => ⟨0, 0⟩

/-- VQNT (R156). -/
def execVqnt (sw : Bool) (d a b : BitVec 7) (s : State) : Out :=
  runLocal s sw .lanes fun c =>
    let st := modeSty c.rd.mode
    if modeEty c.rd.mode ≠ 0x14 || !tF st then .error (guardTrap c 0x0A)
    else .ok (writeLanes c 0x14 d.toNat fun l =>
      quant (rndOf c l 0) ((opS c b).toNat % 65536) (valueOf st (laneGet c.rd st a.toNat l)))

/-- VDQNT (R157). DESIGN CHOICE: where q equals z the zero is +0 in every mode, RDN too, as the product is one exact value and no
sum of R128 (log 55). -/
def execVdqnt (sw : Bool) (d a b : BitVec 7) (s : State) : Out :=
  runLocal s sw .lanes fun c =>
    let et := modeEty c.rd.mode
    if !tF et || modeSty c.rd.mode ≠ 0x14 then .error (guardTrap c 0x0A)
    else
      let p := (opS c b).toNat % 65536
      .ok (writeLanes c et d.toNat fun l =>
        let q := sext 8 ((getV c.rd a.toNat l).toNat % 256)
        match k8Val (bits p 7 0) with
        | .fin _ m e => cvtf et (rndOf c l 0) (ofScaled ((q - pairZp p) * m) e false)
        | _ => ⟨0, 0⟩)

/-- The eight weights of a codebook index (R135, R136), from the Cabinet of an alcove. -/
def codeWeights (cab : Table Byte) (idx scale : Nat) : List Val :=
  let s7 := (List.range 8).foldl (fun p i => p != bit idx i) false
  (List.range 8).map fun i =>
    let sg := if i < 7 then bit idx (1 + i) else s7
    let entry := (tget 0 cab (bits idx 15 8 * 8 + i)).toNat % 128
    match (mulVal (k8Val scale) (valueOf 0xB entry)).1 with
    | .nan => .nan
    | .inf _ => .inf sg
    | .fin _ m e => .fin sg m e

/-- The wave has an MCAB that has not completed (R158). -/
def mcabPending (w : Wave) : Bool := w.accs.any fun a => match a.kind with | .loadCabinet .. => true | _ => false

/-- VCBK (R158). -/
def execVcbk (sw : Bool) (d a b : BitVec 7) (s : State) : Out :=
  runState s .lanes fun c =>
    let et := modeEty c.rd.mode
    if modeSty c.rd.mode ≠ 0x15 || !tF et || d.toNat % (if et = 8 then 8 else 4) ≠ 0 then .error (guardTrap c 0x0A)
    else if mcabPending c.w then .ok (waitWith s c .poll)
    else
      let cab := (alcAt s (alcOf c.k)).mat.cabinet
      let g := (opS c b).toNat % 256
      let regs := (active c).foldl (fun r l =>
        let idx := (getV c.rd a.toNat l).toNat % 65536
        let ws := codeWeights cab idx g
        let out := (List.range 8).map fun i => cvtf et (rndOf c l i) (nth .nan ws i)
        let r := addFlags r (out.foldl (fun f x => f ||| x.fl) 0)
        if et = 8 then (List.range 8).foldl (fun r i => setV r (d.toNat + i) l (BitVec.ofNat 32 (nth ⟨0, 0⟩ out i).pat)) r
        else (List.range 4).foldl (fun r k =>
          setV r (d.toNat + k) l (BitVec.ofNat 32 ((nth ⟨0, 0⟩ out (2 * k)).pat + (nth ⟨0, 0⟩ out (2 * k + 1)).pat * 65536))) r) c.live
      .ok (setWave s c.k (advance c sw (putLive c.w c.src regs)))

/-- VRNG (R159). -/
def execVrng (sw : Bool) (d b : BitVec 7) (i : Bool) (s : State) : Out :=
  runLocal s sw .lanes fun c =>
    .ok ((active c).foldl (fun r l =>
      let e := if i then b.toNat else (getV c.rd b.toNat l).toNat % 256
      setV r d.toNat l (BitVec.ofNat 32 (rnd32 c.rd.seed.toNat c.dix.toNat l e))) c.live)

/-- RSEED (R160). -/
def execRseed (sw : Bool) (d a : BitVec 7) (s : State) : Out :=
  runLocal s sw .wave fun c => .ok { setS c.live d.toNat c.rd.seed with seed := opS c a }

-- Lane exchange.

/-- A lane of a register whole: 32 bits, or the V pair under a 64-bit type (R162). -/
def wholeGet (r : RegFile) (t n lane : Nat) : Nat := if isPair t then getPair r n lane else (getV r n lane).toNat
/-- Writes a lane of a register whole. -/
def wholeSet (r : RegFile) (t n lane v : Nat) : RegFile :=
  if isPair t then setPair r n lane v else setV r n lane (BitVec.ofNat 32 v)

/-- The exchange of R162 with a source lane for each lane. -/
def exchange (c : Ctx) (d a : BitVec 7) (src : Nat → Nat) : RegFile :=
  let t := modeEty c.rd.mode
  (active c).foldl (fun r i =>
    let j := src i
    wholeSet r t d.toNat i (wholeGet c.rd t a.toNat (if (guardOf c).getLsbD j then j else i))) c.live

/-- VSHFL (R162). -/
def execVshfl (sw : Bool) (d a b : BitVec 7) (i : Bool) (s : State) : Out :=
  runLocal s sw .lanes fun c =>
    if vecBad c tAny tAny i ([d, a] ++ if i then [] else [b]) then .error (guardTrap c 0x0A)
    else .ok (exchange c d a fun l => if i then (l + b.toNat) % 32 else (getV c.rd b.toNat l).toNat % 32)
/-- VBFLY (R162). -/
def execVbfly (sw : Bool) (d a b : BitVec 7) (s : State) : Out :=
  runLocal s sw .lanes fun c =>
    if vecBad c tAny tAny true [d, a] then .error (guardTrap c 0x0A)
    else .ok (exchange c d a fun l => (l ^^^ b.toNat) % 32)
/-- VBALL (R163). -/
def execVball (sw : Bool) (d a : BitVec 7) (s : State) : Out :=
  runLocal s sw .lanes fun c =>
    if vecBad c tAny tAny false [a] then .error (guardTrap c 0x0A)
    else
      let t := modeEty c.rd.mode
      .ok (writeP c c.live d.toNat (maskOf ((active c).filter fun l => laneGet c.rd t a.toNat l != 0)))
/-- VANY (R163). -/
def execVany (sw : Bool) (d a : BitVec 7) (s : State) : Out :=
  runLocal s sw .lanes fun c =>
    .ok (setS c.live d.toNat (if getP c.rd a.toNat &&& guardOf c ≠ 0 then 1 else 0))
/-- VALL (R163). -/
def execVall (sw : Bool) (d a : BitVec 7) (s : State) : Out :=
  runLocal s sw .lanes fun c =>
    .ok (setS c.live d.toNat (if getP c.rd a.toNat &&& guardOf c = guardOf c then 1 else 0))

/-- The sum of elements as one exact sum, rounded once (R164). -/
def laneSum (c : Ctx) (t lane : Nat) (xs : List Nat) : Res :=
  if tF t then cellRead t (rndOf c lane 0) (xs.foldl (fun cell x => cellAdd cell (valueOf t x)) 0)
  else ires c t (xs.foldl (fun n x => n + intOf t x) 0)

/-- VSCAN (R164). -/
def execVscan (sw : Bool) (d a : BitVec 7) (x : Bool) (s : State) : Out :=
  vecOp s sw tINSF tAny false [d, a] d fun c t i =>
    laneSum c t i (((active c).filter fun j => if x then decide (j < i) else decide (j ≤ i)).map (laneGet c.rd t a.toNat))

/-- The types of VMXIX and AMXIX (R137). -/
def tKey (t : Nat) : Bool := t == 9 || t == 0xA || t == 2 || t == 3

/-- A form of VMXIX: its type check, then a word for each lane. -/
def vmxix (s : State) (sw : Bool) (d : BitVec 7) (f : Ctx → Nat → Nat → Nat) : Out :=
  runLocal s sw .lanes fun c =>
    let t := modeEty c.rd.mode
    if !tKey t then .error (guardTrap c 0x0A)
    else .ok ((active c).foldl (fun r l => setV r d.toNat l (BitVec.ofNat 32 (f c t l))) c.live)

/-- VMXIX vD, vA, vB (R165). -/
def execVmxix (sw : Bool) (d a b : BitVec 7) (s : State) : Out :=
  vmxix s sw d fun c t l => keyOf t (getV c.rd a.toNat l).toNat (getV c.rd b.toNat l).toNat
/-- VMXIX.c (R165). -/
def execVmxixC (sw : Bool) (d a b : BitVec 7) (s : State) : Out :=
  vmxix s sw d fun c _ l => max (getV c.rd a.toNat l).toNat (getV c.rd b.toNat l).toNat
/-- VMXIX.d (R165). -/
def execVmxixD (sw : Bool) (d a : BitVec 7) (s : State) : Out :=
  vmxix s sw d fun c t l => keyVal t (getV c.rd a.toNat l).toNat

/-- VREDS (R166). -/
def execVreds (sw : Bool) (d a : BitVec 7) (x : Bool) (s : State) : Out :=
  runLocal s sw .lanes fun c =>
    if vecBad c (if x then tINF else tINSF) tAny false [a] then .error (guardTrap c 0x0A)
    else
      let t := modeEty c.rd.mode
      let xs := (active c).map (laneGet c.rd t a.toNat)
      match xs with
      | [] => .ok (setS c.live d.toNat 0)
      | y :: ys =>
        let r : Res := if x then
            let m := ys.foldl (minMax t true) y
            ⟨if tF t && isNan (valueOf t m) then nanPat t else m, 0⟩
          else laneSum c t 0 xs
        .ok (addFlags (setS c.live d.toNat (extend t r.pat)) r.fl)

end Sys2Proof.Machine
end

