-- ==== Sys2Proof/Machine/Atomics.lean ====
section
/-! DEFINITION. Atomics, exact accumulators, deques and barriers (R257-R271): how they issue, and the pure functions
of their read-modify-writes. -/
namespace Sys2Proof.Machine

/-- The new pattern of a read-modify-write under a type: op(m, t) of R260 and R262. -/
def atomF (op : AtomOp) (ety m t : Nat) : Nat :=
  let wd := widthOf ety
  match op with
  | .add => (m + t) % 2 ^ wd
  | .min => minMax ety false m t
  | .max => minMax ety true m t
  | .and => m &&& t
  | .or => m ||| t
  | .xor => m ^^^ t
  | .xchg => t
  | .maxKey => Nat.max m t

/-- The types of R260 for AADD. -/
def tAdd (t : Nat) : Bool := t == 0 || t == 1 || t == 0x10 || t == 6 || t == 7 || t == 0x11
/-- The types of R260 for AMIN and AMAX. -/
def tMinMax (t : Nat) : Bool := t == 0 || t == 1 || t == 6 || t == 7 || t == 8
/-- The types of R260 for AAND, AOR and AXOR. -/
def tBits (t : Nat) : Bool := t == 0 || t == 1 || t == 6 || t == 7
/-- The types of R263 and R264. -/
def tCell (t : Nat) : Bool := t == 8 || t == 9 || t == 0xA

/-- The request of a per-lane atomic. -/
def prepA (c : Ctx) (cr : BitVec 5) (o : BitVec 7) (n : Nat) (rights : List Nat) (rd : Bool) : AccReq × List LaneReq :=
  let cap := opC c cr.toNat
  ({ cap := cap, n := n, rights := rights, align := n, need := if rd then .read else .write, atom := !rd, whole := true },
   laneReqs c fun lane => addrV c cap o lane 0)

/-- A modifying atomic that returns the old value (R260). -/
def atomIssue (s : State) (sw : Bool) (op : AtomOp) (acc : Nat → Bool) (t : BitVec 7) (cr : BitVec 5) (o : BitVec 7)
    (q : Bool) : Out :=
  counted s sw .lanes (fun c => pathFor (opC c cr.toNat) 0) q q
    (fun c => do
      let ty := modeEty c.rd.mode
      trapIf (!acc ty) (guardTrap c 0x0A)
      let n ← needSize c t
      .ok (prepA c cr o n [pLD, pST] false))
    fun c l =>
      let ty := modeEty c.rd.mode
      .atomic op ty (sizeOf_ c) t.toNat (l.map fun e => (e.1, e.2, leNat (elemBytes c.rd (sizeOf_ c) t.toNat e.1)))

/-- AADD (R260). -/
def execAadd (sw : Bool) (t : BitVec 7) (cr : BitVec 5) (o : BitVec 7) (_e : BitVec 3) (q : Bool) (s : State) : Out :=
  atomIssue s sw .add tAdd t cr o q
/-- AMIN (R260). -/
def execAmin (sw : Bool) (t : BitVec 7) (cr : BitVec 5) (o : BitVec 7) (_e : BitVec 3) (q : Bool) (s : State) : Out :=
  atomIssue s sw .min tMinMax t cr o q
/-- AMAX (R260). -/
def execAmax (sw : Bool) (t : BitVec 7) (cr : BitVec 5) (o : BitVec 7) (_e : BitVec 3) (q : Bool) (s : State) : Out :=
  atomIssue s sw .max tMinMax t cr o q
/-- AAND (R260). -/
def execAand (sw : Bool) (t : BitVec 7) (cr : BitVec 5) (o : BitVec 7) (_e : BitVec 3) (q : Bool) (s : State) : Out :=
  atomIssue s sw .and tBits t cr o q
/-- AOR (R260). -/
def execAor (sw : Bool) (t : BitVec 7) (cr : BitVec 5) (o : BitVec 7) (_e : BitVec 3) (q : Bool) (s : State) : Out :=
  atomIssue s sw .or tBits t cr o q
/-- AXOR (R260). -/
def execAxor (sw : Bool) (t : BitVec 7) (cr : BitVec 5) (o : BitVec 7) (_e : BitVec 3) (q : Bool) (s : State) : Out :=
  atomIssue s sw .xor tBits t cr o q
/-- AXCHG (R260). -/
def execAxchg (sw : Bool) (t : BitVec 7) (cr : BitVec 5) (o : BitVec 7) (_e : BitVec 3) (q : Bool) (s : State) : Out :=
  atomIssue s sw .xchg tAny t cr o q

/-- ACAS's T field has the form of R261. -/
def casForm (n : Nat) (t : BitVec 7) : Bool := t.toNat % (if n = 8 then 4 else 2) == 0

/-- ACAS (R261). -/
def execAcas (sw : Bool) (t : BitVec 7) (cr : BitVec 5) (o : BitVec 7) (_e : BitVec 3) (q : Bool) (s : State) : Out :=
  counted s sw .lanes (fun c => pathFor (opC c cr.toNat) 0) q q
    (fun c => do
      let n ← needSize c t
      trapIf (!casForm n t) (guardTrap c 0x0A)
      .ok (prepA c cr o n [pLD, pST] false))
    fun c l =>
      let n := sizeOf_ c
      let t2 := if n = 8 then t.toNat + 2 else t.toNat + 1
      .cas n t.toNat (l.map fun e =>
        (e.1, e.2, leNat (elemBytes c.rd n t.toNat e.1), leNat (elemBytes c.rd n t2 e.1)))

/-- AMXIX (R262). -/
def execAmxix (sw : Bool) (t : BitVec 7) (cr : BitVec 5) (o : BitVec 7) (_e : BitVec 3) (q : Bool) (s : State) : Out :=
  counted s sw .lanes (fun c => pathFor (opC c cr.toNat) 0) q q
    (fun c => do
      trapIf (!tKey (modeEty c.rd.mode)) (guardTrap c 0x0A)
      .ok (prepA c cr o 4 [pLD, pST] false))
    fun c l => .atomic .maxKey 1 4 t.toNat (l.map fun e => (e.1, e.2, (getV c.rd t.toNat e.1).toNat))

/-- AXADD (R263). -/
def execAxadd (sw : Bool) (t : BitVec 7) (cr : BitVec 5) (o : BitVec 7) (_e : BitVec 3) (q : Bool) (s : State) : Out :=
  counted s sw .lanes (fun _ => 1) q q
    (fun c => do
      trapIf (!tCell (modeEty c.rd.mode)) (guardTrap c 0x0A)
      let p := prepA c cr o 64 [pST] false
      .ok ({ p.1 with scr := some false }, p.2))
    fun c l => .axadd (modeEty c.rd.mode) (l.map fun e => (e.1, e.2, (getV c.rd t.toNat e.1).toNat))

/-- AXRD (R264). -/
def execAxrd (sw : Bool) (t : BitVec 7) (cr : BitVec 5) (o : BitVec 7) (_e : BitVec 3) (q : Bool) (s : State) : Out :=
  counted s sw .lanes (fun _ => 0) q q
    (fun c => do
      trapIf (!tCell (modeEty c.rd.mode)) (guardTrap c 0x0A)
      let p := prepA c cr o 64 [pLD] true
      .ok ({ p.1 with scr := some false }, p.2))
    fun c l => .axrd (modeEty c.rd.mode) t.toNat c.rd.mode c.rd.seed c.dix l

-- Deques.

/-- A deque operation (R267): its checks on the header at issue; the entry is known only at the engine. -/
def dequeIssue (s : State) (sw : Bool) (op : DequeOp) (t : BitVec 7) (cr : BitVec 5) (o : BitVec 7) (q : Bool) : Out :=
  counted s sw .wave (fun _ => if op = .push then 1 else 0) q q
    (fun c => do
      let cap := opC c cr.toNat
      trapIf (op = .push && (opS c t).getLsbD 63) { cause := 0x0A }
      let p := prepS cap (addrS c cap o 0) 64 [pLD, pST] .write
      .ok ({ p.1 with atom := true, whole := true, scr := some false }, p.2))
    fun c l => if l.isEmpty then .loadVC 0 [] else
      .deque op t.toNat (addrS c (opC c cr.toNat) o 0).toNat (loc0 l) (opS c t) (opC c cr.toNat)

/-- DQPSH (R267). -/
def execDqpsh (sw : Bool) (t : BitVec 7) (cr : BitVec 5) (o : BitVec 7) (_e : BitVec 3) (q : Bool) (s : State) : Out :=
  dequeIssue s sw .push t cr o q
/-- DQPOP (R267). -/
def execDqpop (sw : Bool) (t : BitVec 7) (cr : BitVec 5) (o : BitVec 7) (_e : BitVec 3) (q : Bool) (s : State) : Out :=
  dequeIssue s sw .pop t cr o q
/-- DQSTL (R267). -/
def execDqstl (sw : Bool) (t : BitVec 7) (cr : BitVec 5) (o : BitVec 7) (_e : BitVec 3) (q : Bool) (s : State) : Out :=
  dequeIssue s sw .steal t cr o q

/-- The occupancy of a deque. -/
def dequeUsed (h : DequeHdr) : Nat := (h.bottom + 2 ^ 64 - h.top) % 2 ^ 64

/-- The value that a pop or steal of an empty deque returns. -/
def dequeEmpty : DWord := 0x8000_0000_0000_0000#64

/-- The entry that an operation touches, and the header after it; none where the deque is full or empty (R267). -/
def dequeStep (op : DequeOp) (h : DequeHdr) : Option (Nat × DequeHdr) :=
  match op with
  | .push => if dequeUsed h = h.cap then none else some (h.bottom % h.cap, { h with bottom := (h.bottom + 1) % 2 ^ 64 })
  | .pop => if dequeUsed h = 0 then none else
      let b := (h.bottom + 2 ^ 64 - 1) % 2 ^ 64
      some (b % h.cap, { h with bottom := b })
  | .steal => if dequeUsed h = 0 then none else some (h.top % h.cap, { h with top := (h.top + 1) % 2 ^ 64 })

-- Barriers.

/-- A barrier word (R268). -/
structure BarWord where
  bytes : Int
  phase : Bool
  arr : Nat
  tgt : Nat
  deriving DecidableEq, Repr

/-- The fields of a barrier word. -/
def barOf (v : DWord) : BarWord :=
  { bytes := (v.extractLsb' 32 32).toInt, phase := v.getLsbD 20, arr := bits v.toNat 19 10, tgt := bits v.toNat 9 0 }
/-- The word of its fields; reserved bits are written as zero. -/
def barWord (b : BarWord) : DWord :=
  BitVec.ofNat 64 (wrap 32 b.bytes * 2 ^ 32 + (if b.phase then 2 ^ 20 else 0) + b.arr % 1024 * 1024 + b.tgt % 1024)
/-- The completion check (R268). -/
def barCheck (b : BarWord) : BarWord :=
  if b.arr = b.tgt ∧ b.bytes = 0 then { b with phase := !b.phase, arr := 0 } else b

/-- BARI, BARA and BARX on a word (R269): the new word, or cause 0x18. -/
def barStep (op : BarOp) (old val : DWord) : Option DWord :=
  let b := barOf old
  match op with
  | .init => some (barWord { b with tgt := bits val.toNat 9 0, arr := 0, bytes := 0 })
  | .arrive =>
    let n := val.toNat
    if 1023 < n ∨ b.tgt < b.arr + n then none else some (barWord (barCheck { b with arr := b.arr + n }))
  | .expect =>
    let e := b.bytes + val.toInt
    if e < -(2 ^ 31 : Int) ∨ (2 ^ 31 : Int) - 1 < e then none else some (barWord (barCheck { b with bytes := e }))

/-- A delivery of `n` bytes (R270): the new word, or cause 0x18; of a transfer that ended with an error the phase does
not complete. -/
def barDeliver (old : DWord) (n : Nat) (failed : Bool) : Option DWord :=
  let b := barOf old
  let e := b.bytes - n
  if e < -(2 ^ 31 : Int) then none
  else some (barWord (if failed then { b with bytes := e } else barCheck { b with bytes := e }))

/-- The request of a barrier operation (R269). -/
def prepBar (c : Ctx) (cr : BitVec 5) (o : BitVec 7) : AccReq × List LaneReq :=
  let cap := opC c cr.toNat
  let p := prepS cap (addrS c cap o 0) 8 [pLD, pST] .write
  ({ p.1 with scr := some true }, p.2)

/-- A barrier operation that writes the word. -/
def barIssue (s : State) (sw : Bool) (op : BarOp) (rel : Bool) (t : BitVec 7) (cr : BitVec 5) (o : BitVec 7) : Out :=
  counted s sw .wave (fun _ => 2) false rel (fun c => .ok (prepBar c cr o))
    fun c l => .bar op t.toNat (match loc0 l with | .scr off => off | _ => 0) (opS c t)

/-- BARI (R269): with BIND the wave's delivery binding is the word, for transfers issued after it (R270). -/
def execBari (sw : Bool) (t : BitVec 7) (cr : BitVec 5) (o : BitVec 7) (s : State) : Out :=
  let c := ctx s
  match barIssue s sw .init false t cr o with
  | .next s' =>
    let w := waveAt s' c.k
    if (opS c t).getLsbD 16 && c.w.accs.length < w.accs.length then
      .next (setWave s' c.k { w with delivery := some (addrS c (opC c cr.toNat) o 0).toNat })
    else .next s'
  | r => r
/-- BARA (R269). -/
def execBara (sw : Bool) (t : BitVec 7) (cr : BitVec 5) (o : BitVec 7) (s : State) : Out := barIssue s sw .arrive true t cr o
/-- BARX (R269). -/
def execBarx (sw : Bool) (t : BitVec 7) (cr : BitVec 5) (o : BitVec 7) (s : State) : Out := barIssue s sw .expect true t cr o

/-- PHASE of the barrier word at an offset of the window of a wave's unit. -/
def phaseAt (s : State) (k off : Nat) : Bool := (barOf (BitVec.ofNat 64 (leNat (readLoc s k (.scr off) 8)))).phase

/-- A BARW issued in move `no` may read its word: the wave's own accesses to it that stand before have performed (R243). -/
def barReads (s : State) (k off no : Nat) : Bool :=
  !heldBack s k ((waveAt s k).accs.filter fun a => decide (a.no < no)) [(true, off, 8)]

/-- What a BARW waits for has come (R269): the word is read, and its PHASE differs. -/
def barCame (s : State) (k off : Nat) (phase : Bool) (no : Nat) : Bool :=
  phaseAt s k off != phase && barReads s k off no && !scrPoisoned s k off 8

/-- BARW (R269): waits until PHASE differs, and is woken by the write that inverts it; an uncorrectable word traps (R316). -/
def execBarw (sw : Bool) (t : BitVec 7) (cr : BitVec 5) (o : BitVec 7) (s : State) : Out :=
  runState s .wave fun c =>
    if c.hold = .barSeen then .ok (finish s c sw)
    else unheld s c do
      let (q, ls) := prepBar c cr o
      let (s, r) ← checkLanes s c q ls
      match r with
      | none => .ok s
      | some l =>
        let off := match loc0 l.locs with | .scr off => off | _ => 0
        let ph := (opS c t).getLsbD 20
        if barCame s c.k off ph s.fresh then .ok (finish s c sw)
        else if barReads s c.k off s.fresh && scrPoisoned s c.k off 8 then .error { cause := 0x15, addr := BitVec.ofNat 64 off }
        else .ok (waitWith s c (.bar off ph s.fresh))

/-- A slot's BARW whose PHASE differs is woken (R269). -/
def wakeSlot (s : State) (k : Nat) (x : Slot) : Slot :=
  match x.hold with
  | .bar off ph no => if barCame s k off ph no then { x with hold := .barSeen } else x
  | _ => x

/-- A slot waits in a BARW. -/
def inBarw (x : Slot) : Bool :=
  match x.hold with
  | .bar .. => true
  | _ => false

/-- Every BARW whose PHASE differs is woken. -/
def wakeBars (s : State) : State :=
  s.waves.foldl (fun s e => if inBarw e.2.a || inBarw e.2.b then
    setWave s e.1 { e.2 with a := wakeSlot s e.1 e.2.a, b := wakeSlot s e.1 e.2.b } else s) s

end Sys2Proof.Machine
end

