-- ==== Sys2Proof/Machine/Engines.lean ====
section
/-! DEFINITION. The engines at issue: GATH, SCAT, TCPY, BCPY, PUBL (R215-R219), and the sequencers (R44, R46, R221). -/
namespace Sys2Proof.Machine

/-- Raises the lowest of the causes that are met (R62). -/
def lowestOf (l : List (Option Nat)) : Except Trap PUnit :=
  match l.foldl minCause none with
  | some e => .error { cause := e }
  | none => .ok ⟨⟩

/-- GATH and SCAT at issue (R215). -/
def rowsIssue (s : State) (sw gather : Bool) (t : BitVec 7) (cr : BitVec 5) (o : BitVec 7) (i : BitVec 4) : Out :=
  engineIssue s sw .seqGather 4 fun c => do
    let m := opC c cr.toNat
    let z := opC c 29
    let wd := worldOf s c.k
    lowestOf [capProps m [if gather then pLD else pST] wd, capProps z [pLD, pST] wd]
    .ok (.rows gather (opS c t) (addrS c m o (16 * i.toNat)) m z none)
/-- GATH (R215). -/
def execGath (sw : Bool) (t : BitVec 7) (cr : BitVec 5) (o : BitVec 7) (i : BitVec 4) (s : State) : Out :=
  rowsIssue s sw true t cr o i
/-- SCAT (R215). -/
def execScat (sw : Bool) (t : BitVec 7) (cr : BitVec 5) (o : BitVec 7) (i : BitVec 4) (s : State) : Out :=
  rowsIssue s sw false t cr o i

/-- TCPY (R216). -/
def execTcpy (sw : Bool) (t : BitVec 7) (cr : BitVec 5) (o : BitVec 7) (i : BitVec 4) (s : State) : Out :=
  engineIssue s sw .seqCopy 3 fun c => do
    let d := opC c t.toNat
    let f := opC c o.toNat
    let k := opC c cr.toNat
    let wd := worldOf s c.k
    lowestOf [capProps d [pST] wd, capProps f [pLD] wd, capProps k [pLD] wd]
    .ok (.tcpy d f k (capAddr k + 64 * i.toNat) none)

/-- BCPY (R218). -/
def execBcpy (sw : Bool) (t : BitVec 7) (cr : BitVec 5) (o : BitVec 7) (s : State) : Out :=
  engineIssue s sw .seqCopy 3 fun c => do
    let d := opC c t.toNat
    let f := opC c cr.toNat
    let wd := worldOf s c.k
    lowestOf [capProps f [pLD] wd, capProps d [pST] wd]
    .ok (.bcpy d f (opS c o).toNat)

/-- PUBL (R219). -/
def execPubl (sw : Bool) (t : BitVec 7) (cr : BitVec 5) (o : BitVec 7) (s : State) : Out :=
  engineIssue s sw .seqCopy 3 fun c => do
    let k := opC c cr.toNat
    let x := addrS c k o 0
    let n := (opS c t).toNat
    let mis : Option Nat := if x % 65536 ≠ 0 ∨ n % 65536 ≠ 0 then some 0x1A else none
    match minCause (capCause k x n [pST] (worldOf s c.k) (scrWin s c.k)) mis with
    | some e => .error { cause := e, addr := BitVec.ofNat 64 (wrap 64 x) }
    | none => .ok (.publ (capHas k pSCRATCH) x.toNat n)

-- Sequencers.

/-- The sequencer of an engine number (R221). -/
def engineSrc (p : BitVec 3) : Src :=
  if p = 0 then .seqCopy else if p = 1 then .seqMatrix else .seqGather

/-- Some wave of the alcove of wave `k` runs the sequencer. -/
def seqBusy (s : State) (k : Nat) (q : Src) : Bool :=
  s.waves.any fun e => alcOf e.1 == alcOf k && e.2.used && (seqOf e.2 q).running

/-- The FORKs that wait for a sequencer of an alcove, without those of wave `k`. -/
def forkWaiters (s : State) (k : Nat) (q : Src) : List (Nat × Src) :=
  (alcAt s (alcOf k)).forkQ.filter fun e => !(e.1 == k && e.2 == q)

/-- Another wave's FORK waits before wave `k`'s. -/
def forkBehind (s : State) (k : Nat) (q : Src) : Bool :=
  match (alcAt s (alcOf k)).forkQ.find? fun e => e.2 == q with
  | some e => e.1 != k
  | none => false

/-- FORK (R44, R221): the sequencer starts with copies of S, P, MODE and C as they stand; a busy sequencer's FORKs are
served in the order they issued. In a skid it starts stopped, for as long as its wave does (R306, R317). -/
def execFork (_sw : Bool) (p : BitVec 3) (j : BitVec 19) (s : State) : Out :=
  runState s .wave fun c =>
    let q := engineSrc p
    let a := alcAt s (alcOf c.k)
    if seqBusy s c.k q || forkBehind s c.k q then
      let a := if a.forkQ.contains (c.k, q) then a else { a with forkQ := a.forkQ ++ [(c.k, q)] }
      .ok (waitWith (setAlc s (alcOf c.k) a) c .claim)
    else
      let s := setAlc s (alcOf c.k) { a with forkQ := forkWaiters s c.k q }
      let w := putSeq c.w q { running := true, born := s.fresh, pc := target c.pc j, dix := BitVec.ofNat 48 (c.dix.toNat + 2 ^ 32),
                              handler := c.w.frame.isSome, stop := if c.w.stop = .running then .running else .stopped, pre := c.w.pre,
                              regs := { s := c.w.regs.s, p := c.w.regs.p, c := c.w.regs.c, mode := c.w.regs.mode } }
      .ok (setWave s c.k (goTo c (c.pc + 4) w))

/-- RDVZ (R46, R221). -/
def execRdvz (_sw : Bool) (p : BitVec 3) (s : State) : Out :=
  runState s .wave fun c =>
    if (seqOf c.w (engineSrc p)).running then .ok (waitWith s c .poll)
    else .ok (setWave s c.k (goTo c (c.pc + 4) c.w))

/-- A load into matrix storage (R281). -/
def matrixLoad : AccKind → Bool
  | .loadSlot .. => true
  | .loadCabinet .. => true
  | .loadTail .. => true
  | .loadTile .. => true
  | _ => false

/-- ENDE (R221, R281): the sequencer ends and its copies are discarded; its matrix instructions have been applied, and its transfers
go on on their paths; in a wave, trap 0x0A. -/
def execEnde (_sw : Bool) (s : State) : Out :=
  let c := ctx s
  if isSeq c.src then .next (setWave s c.k (putSeq c.w c.src {})) else .next (takeTrap s c.k c.src { cause := 0x0A })

end Sys2Proof.Machine
end

