-- ==== Sys2Proof/WellFormed.lean ====
section
/-! DEFINITION. Well-formed instructions: the legal values of every operand field (R49-R52, R55, R64). -/
namespace Sys2Proof

/-- The element type codes that R58 assigns. -/
def etypeAssigned (t : Nat) : Bool := t ≤ 0x0D || t == 0x10 || t == 0x11 || t == 0x12 || t == 0x14 || t == 0x15

/-- R55: the SETM immediates that would put a reserved value into MODE. -/
def setmBad (h : Bool) (i : BitVec 16) : Bool :=
  let n := i.toNat
  if h then 32 ≤ n || !etypeAssigned (n % 32)
  else n / 0x4000 != 0 || 9 ≤ n % 16 || 6 ≤ n / 0x400 % 8 || !etypeAssigned (n / 0x20 % 32)

/-- R69: the SYSREG numbers that the table assigns. -/
def sysReadable (r : BitVec 16) : Bool :=
  let n := r.toNat
  n == 0 || (2 ≤ n && n ≤ 0x14) || (0x20 ≤ n && n ≤ 0x26)

/-- R69: the writable registers that have no row of their own in the opcode table: SEED, TRAPPC to TRAPPIX. -/
def sysPlainWritable (r : BitVec 16) : Bool :=
  let n := r.toNat
  n == 0x0D || (0x21 ≤ n && n ≤ 0x26)

/-- None of the conditions that make a field illegal holds. -/
def fieldsOk (bad : List Bool) : Bool := bad.all (fun b => !b)

/-- LEN counts the payload, 0 to 65,536 bytes, and the payload holds at least the bytes that the message carries (R418). -/
def hdrOk (h : HostHdr) (n : Nat) : Bool := decide (h.len.toNat ≤ 65536) && decide (n ≤ h.len.toNat)

/-- A step of bring-up that fails is one of the seven (R423). -/
def stepOk : Option (Nat × Nat) → Bool
  | none => true
  | some (n, _) => decide (1 ≤ n) && decide (n ≤ 7)

/-- Every operand field of the instruction is legal: what the scanner lets pass (R52, R64). The rows without
words have no operand fields of a word. -/
def Instr.wf : Instr → Bool
  | .setm _ h i => fieldsOk [setmBad h i]
  | .setms _ a => fieldsOk [64 ≤ a.toNat]
  | .getm _ d => fieldsOk [64 ≤ d.toNat]
  | .nop _ => true
  | .bra _ _ => true
  | .brp _ _ _ _ => true
  | .sjoin _ _ => true
  | .join _ => true
  | .call _ _ => true
  | .ret _ _ => true
  | .jmpc _ a => fieldsOk [32 ≤ a.toNat]
  | .jmpcLink _ d a => fieldsOk [28 ≤ d.toNat && d.toNat < 32, 32 ≤ d.toNat, 32 ≤ a.toNat]
  | .exit _ => true
  | .yield _ => true
  | .sadd _ d a b i => fieldsOk [64 ≤ d.toNat, 64 ≤ a.toNat, !i && 64 ≤ b.toNat]
  | .ssub _ d a b i => fieldsOk [64 ≤ d.toNat, 64 ≤ a.toNat, !i && 64 ≤ b.toNat]
  | .smul _ d a b i => fieldsOk [64 ≤ d.toNat, 64 ≤ a.toNat, !i && 64 ≤ b.toNat]
  | .smulh _ d a b i _ => fieldsOk [64 ≤ d.toNat, 64 ≤ a.toNat, !i && 64 ≤ b.toNat]
  | .sand _ d a b i => fieldsOk [64 ≤ d.toNat, 64 ≤ a.toNat, !i && 64 ≤ b.toNat]
  | .sor _ d a b i => fieldsOk [64 ≤ d.toNat, 64 ≤ a.toNat, !i && 64 ≤ b.toNat]
  | .sxor _ d a b i => fieldsOk [64 ≤ d.toNat, 64 ≤ a.toNat, !i && 64 ≤ b.toNat]
  | .sshl _ d a b i => fieldsOk [64 ≤ d.toNat, 64 ≤ a.toNat, !i && 64 ≤ b.toNat]
  | .sshr _ d a b i => fieldsOk [64 ≤ d.toNat, 64 ≤ a.toNat, !i && 64 ≤ b.toNat]
  | .ssra _ d a b i => fieldsOk [64 ≤ d.toNat, 64 ≤ a.toNat, !i && 64 ≤ b.toNat]
  | .smin _ d a b i _ => fieldsOk [64 ≤ d.toNat, 64 ≤ a.toNat, !i && 64 ≤ b.toNat]
  | .smax _ d a b i _ => fieldsOk [64 ≤ d.toNat, 64 ≤ a.toNat, !i && 64 ≤ b.toNat]
  | .scmp _ c _ a b i _ => fieldsOk [5 < c.toNat, 64 ≤ a.toNat, !i && 64 ≤ b.toNat]
  | .ssel _ d a b => fieldsOk [64 ≤ d.toNat, 64 ≤ a.toNat, 64 ≤ b.toNat]
  | .sbfx _ d a b _ => fieldsOk [64 ≤ d.toNat, 64 ≤ a.toNat, 64 ≤ b.toNat]
  | .spopc _ d a => fieldsOk [64 ≤ d.toNat, 64 ≤ a.toNat]
  | .spopcP _ d a => fieldsOk [64 ≤ d.toNat, 8 ≤ a.toNat]
  | .smovi _ d _ => fieldsOk [64 ≤ d.toNat]
  | .slui _ d _ => fieldsOk [64 ≤ d.toNat]
  | .pand _ d a b => fieldsOk [8 ≤ d.toNat, 8 ≤ a.toNat, 8 ≤ b.toNat]
  | .por _ d a b => fieldsOk [8 ≤ d.toNat, 8 ≤ a.toNat, 8 ≤ b.toNat]
  | .pxor _ d a b => fieldsOk [8 ≤ d.toNat, 8 ≤ a.toNat, 8 ≤ b.toNat]
  | .pnot _ d a => fieldsOk [8 ≤ d.toNat, 8 ≤ a.toNat]
  | .pmov _ d a => fieldsOk [8 ≤ d.toNat, 8 ≤ a.toNat]
  | .pmovFromS _ d a => fieldsOk [8 ≤ d.toNat, 64 ≤ a.toNat]
  | .pmovToS _ d a => fieldsOk [64 ≤ d.toNat, 8 ≤ a.toNat]
  | .pmovMask _ d => fieldsOk [8 ≤ d.toNat]
  | .vadd _ _ _ _ _ => true
  | .vsub _ _ _ _ _ => true
  | .vmul _ _ _ _ _ => true
  | .vmulh _ _ _ _ _ => true
  | .vmad _ _ _ _ _ => true
  | .vmin _ _ _ _ _ => true
  | .vmax _ _ _ _ _ => true
  | .vabs _ _ _ => true
  | .vneg _ _ _ => true
  | .vand _ _ _ _ _ => true
  | .vor _ _ _ _ _ => true
  | .vxor _ _ _ _ _ => true
  | .vnot _ _ _ => true
  | .vshl _ _ _ _ _ => true
  | .vshr _ _ _ _ _ => true
  | .vsra _ _ _ _ _ => true
  | .vcmp _ c _ _ _ _ => fieldsOk [7 < c.toNat]
  | .vsel _ _ _ _ _ => true
  | .vmov _ _ _ => true
  | .vmovImm _ _ _ => true
  | .vmovs _ _ a => fieldsOk [64 ≤ a.toNat]
  | .vmovsToS _ d _ => fieldsOk [64 ≤ d.toNat]
  | .vlid _ _ _ => true
  | .vclz _ _ _ => true
  | .vpopc _ _ _ => true
  | .vdiv _ _ _ _ _ => true
  | .vrcp _ _ _ => true
  | .vrsq _ _ _ => true
  | .vex2 _ _ _ => true
  | .vlg2 _ _ _ => true
  | .vsqrt _ _ _ => true
  | .vcvt _ _ _ => true
  | .vpack _ _ _ _ _ => true
  | .vunpk _ _ _ _ => true
  | .vqnt _ _ _ b => fieldsOk [64 ≤ b.toNat]
  | .vdqnt _ _ _ b => fieldsOk [64 ≤ b.toNat]
  | .vcbk _ _ _ b => fieldsOk [64 ≤ b.toNat]
  | .vrng _ _ _ _ => true
  | .rseed _ d a => fieldsOk [64 ≤ d.toNat, 64 ≤ a.toNat]
  | .vshfl _ _ _ _ _ => true
  | .vbfly _ _ _ b => fieldsOk [31 < b.toNat]
  | .vball _ d _ => fieldsOk [8 ≤ d.toNat]
  | .vany _ d a => fieldsOk [64 ≤ d.toNat, 8 ≤ a.toNat]
  | .vall _ d a => fieldsOk [64 ≤ d.toNat, 8 ≤ a.toNat]
  | .vscan _ _ _ _ => true
  | .vmxix _ _ _ _ => true
  | .vmxixC _ _ _ _ => true
  | .vmxixD _ _ _ => true
  | .vreds _ d _ _ => fieldsOk [64 ≤ d.toNat]
  | .cgeta _ d a => fieldsOk [64 ≤ d.toNat, 32 ≤ a.toNat]
  | .cgetb _ d a => fieldsOk [64 ≤ d.toNat, 32 ≤ a.toNat]
  | .cgetl _ d a => fieldsOk [64 ≤ d.toNat, 32 ≤ a.toNat]
  | .cgetp _ d a => fieldsOk [64 ≤ d.toNat, 32 ≤ a.toNat]
  | .cgett _ d a => fieldsOk [64 ≤ d.toNat, 32 ≤ a.toNat]
  | .cseta _ d a b _ => fieldsOk [28 ≤ d.toNat && d.toNat < 32, 32 ≤ d.toNat, 32 ≤ a.toNat, 64 ≤ b.toNat]
  | .cinc _ d a _ => fieldsOk [28 ≤ d.toNat && d.toNat < 32, 32 ≤ d.toNat, 32 ≤ a.toNat]
  | .csetb _ d a b _ => fieldsOk [28 ≤ d.toNat && d.toNat < 32, 32 ≤ d.toNat, 32 ≤ a.toNat, 64 ≤ b.toNat]
  | .cprune _ d a b => fieldsOk [28 ≤ d.toNat && d.toNat < 32, 32 ≤ d.toNat, 32 ≤ a.toNat, 64 ≤ b.toNat]
  | .cseal _ d a b => fieldsOk [28 ≤ d.toNat && d.toNat < 32, 32 ≤ d.toNat, 32 ≤ a.toNat, 32 ≤ b.toNat]
  | .cunsl _ d a b => fieldsOk [28 ≤ d.toNat && d.toNat < 32, 32 ≤ d.toNat, 32 ≤ a.toNat, 32 ≤ b.toNat]
  | .cmov _ d a => fieldsOk [28 ≤ d.toNat && d.toNat < 32, 32 ≤ d.toNat, 32 ≤ a.toNat]
  | .cmovS _ d a => fieldsOk [32 ≤ d.toNat, 32 ≤ a.toNat]
  | .cmovFromVc _ d a => fieldsOk [28 ≤ d.toNat && d.toNat < 32, 32 ≤ d.toNat, 8 ≤ a.toNat]
  | .cmovToVc _ d a => fieldsOk [8 ≤ d.toNat, 32 ≤ a.toNat]
  | .cmovVc _ d a => fieldsOk [8 ≤ d.toNat, 8 ≤ a.toNat]
  | .ctest _ d a b => fieldsOk [64 ≤ d.toNat, 32 ≤ a.toNat, 32 ≤ b.toNat]
  | .cldc _ t _ o _ => fieldsOk [28 ≤ t.toNat && t.toNat < 32, 32 ≤ t.toNat, 64 ≤ o.toNat]
  | .cstc _ t _ o _ => fieldsOk [32 ≤ t.toNat, 64 ≤ o.toNat]
  | .vcld _ t _ _ _ => fieldsOk [8 ≤ t.toNat]
  | .vcst _ t _ _ _ => fieldsOk [8 ≤ t.toNat]
  | .ld _ _ _ _ _ => true
  | .st _ _ _ _ _ => true
  | .ldu _ _ _ o _ => fieldsOk [64 ≤ o.toNat]
  | .stu _ _ _ o _ => fieldsOk [64 ≤ o.toNat]
  | .lds _ t _ o _ => fieldsOk [64 ≤ t.toNat, 64 ≤ o.toNat]
  | .sts _ t _ o _ => fieldsOk [64 ≤ t.toNat, 64 ≤ o.toNat]
  | .gath _ t _ o _ => fieldsOk [64 ≤ t.toNat, 64 ≤ o.toNat]
  | .scat _ t _ o _ => fieldsOk [64 ≤ t.toNat, 64 ≤ o.toNat]
  | .pref _ t _ _ _ => fieldsOk [1 < t.toNat]
  | .ldac _ _ _ _ e => fieldsOk [4 < e.toNat]
  | .strl _ _ _ _ e => fieldsOk [4 < e.toNat]
  | .waitc _ d a b i => fieldsOk [5 < d.toNat, !i && 64 ≤ a.toNat, i && a != 0, !i && b != 0]
  | .rdcnt _ d a _ => fieldsOk [64 ≤ d.toNat, 5 < a.toNat]
  | .tcpy _ t _ o _ => fieldsOk [32 ≤ t.toNat, 32 ≤ o.toNat]
  | .bcpy _ t _ o => fieldsOk [32 ≤ t.toNat, 64 ≤ o.toNat]
  | .publ _ t _ o => fieldsOk [64 ≤ t.toNat, 64 ≤ o.toNat]
  | .fork _ p _ => fieldsOk [2 < p.toNat]
  | .rdvz _ p => fieldsOk [2 < p.toNat]
  | .ende _ => true
  | .aadd _ _ _ _ e _ => fieldsOk [4 < e.toNat]
  | .amin _ _ _ _ e _ => fieldsOk [4 < e.toNat]
  | .amax _ _ _ _ e _ => fieldsOk [4 < e.toNat]
  | .aand _ _ _ _ e _ => fieldsOk [4 < e.toNat]
  | .aor _ _ _ _ e _ => fieldsOk [4 < e.toNat]
  | .axor _ _ _ _ e _ => fieldsOk [4 < e.toNat]
  | .axchg _ _ _ _ e _ => fieldsOk [4 < e.toNat]
  | .acas _ _ _ _ e _ => fieldsOk [4 < e.toNat]
  | .amxix _ _ _ _ e _ => fieldsOk [4 < e.toNat]
  | .axadd _ _ _ _ e _ => fieldsOk [4 < e.toNat]
  | .axrd _ _ _ _ e _ => fieldsOk [4 < e.toNat]
  | .dqpsh _ t _ o e _ => fieldsOk [64 ≤ t.toNat, 64 ≤ o.toNat, 4 < e.toNat]
  | .dqpop _ t _ o e _ => fieldsOk [64 ≤ t.toNat, 64 ≤ o.toNat, 4 < e.toNat]
  | .dqstl _ t _ o e _ => fieldsOk [64 ≤ t.toNat, 64 ≤ o.toNat, 4 < e.toNat]
  | .bari _ t _ o => fieldsOk [64 ≤ t.toNat, 64 ≤ o.toNat]
  | .bara _ t _ o => fieldsOk [64 ≤ t.toNat, 64 ≤ o.toNat]
  | .barw _ t _ o => fieldsOk [64 ≤ t.toNat, 64 ≤ o.toNat]
  | .barx _ t _ o => fieldsOk [64 ≤ t.toNat, 64 ≤ o.toNat]
  | .mclm _ r => fieldsOk [64 ≤ r.toNat]
  | .mclmT _ _ r => fieldsOk [64 ≤ r.toNat]
  | .mrls _ r => fieldsOk [64 ≤ r.toNat]
  | .mldo _ t _ o _ => fieldsOk [16 ≤ t.toNat, 64 ≤ o.toNat]
  | .mma _ _ _ _ _ _ => true
  | .mzero _ _ => true
  | .mzeroF _ _ => true
  | .mzeroT _ => true
  | .mrda _ _ r _ => fieldsOk [120 < r.toNat]
  | .mwra _ _ r _ => fieldsOk [120 < r.toNat]
  | .mdrn _ _ _ r _ _ => fieldsOk [32 ≤ r.toNat]
  | .tldp _ t _ o _ => fieldsOk [t.toNat < 1 || 64 < t.toNat, 64 ≤ o.toNat]
  | .mscl _ _ _ => true
  | .mcab _ _ o _ => fieldsOk [64 ≤ o.toNat]
  | .accsv _ t _ o _ => fieldsOk [8 ≤ t.toNat, 64 ≤ o.toNat]
  | .accrs _ t _ o _ => fieldsOk [8 ≤ t.toNat, 64 ≤ o.toNat]
  | .mstat _ d => fieldsOk [64 ≤ d.toNat]
  | .shtrp _ _ a b => fieldsOk [32 ≤ a.toNat, 2 < b.toNat]
  | .shopn _ _ b _ => fieldsOk [32 ≤ b.toNat]
  | .shrcv _ _ b _ => fieldsOk [32 ≤ b.toNat]
  | .shmul _ _ _ b => fieldsOk [32 ≤ b.toNat]
  | .shtrc _ _ _ _ => true
  | .shbtr _ _ _ b => fieldsOk [32 ≤ b.toNat]
  | .shcmp _ _ _ b => fieldsOk [32 ≤ b.toNat]
  | .shrvl _ _ b => fieldsOk [32 ≤ b.toNat]
  | .shrvlR _ _ _ b => fieldsOk [32 ≤ b.toNat]
  | .shdeal _ t _ o => fieldsOk [64 ≤ t.toNat, 64 ≤ o.toNat]
  | .shsta _ d a k => fieldsOk [64 ≤ d.toNat, 32 ≤ a.toNat, 6 < k.toNat]
  | .shdsc _ d a b => fieldsOk [64 ≤ d.toNat, 64 ≤ a.toNat, 32 ≤ b.toNat]
  | .shmma _ _ _ _ r => fieldsOk [32 ≤ r.toNat]
  | .rcpdef _ t _ o _ => fieldsOk [64 ≤ t.toNat, 64 ≤ o.toNat]
  | .rcppin _ d a => fieldsOk [64 ≤ d.toNat, 32 ≤ a.toNat]
  | .rcpunp _ d a => fieldsOk [64 ≤ d.toNat, 32 ≤ a.toNat]
  | .rcpdrp _ d a => fieldsOk [64 ≤ d.toNat, 32 ≤ a.toNat]
  | .rcpdrpR _ d a => fieldsOk [64 ≤ d.toNat, 32 ≤ a.toNat]
  | .rcpqry _ d a => fieldsOk [64 ≤ d.toNat, 32 ≤ a.toNat]
  | .enq _ t _ o _ => fieldsOk [32 ≤ t.toNat, 64 ≤ o.toNat]
  | .enqa _ t _ o => fieldsOk [64 ≤ t.toNat, 64 ≤ o.toNat]
  | .cancl _ d a => fieldsOk [3 < d.toNat, 64 ≤ a.toNat]
  | .compl _ d a => fieldsOk [d.toNat < 1 || 3 < d.toNat, 64 ≤ a.toNat]
  | .teth _ d _ => fieldsOk [7 < d.toNat]
  | .qpsh _ _ => true
  | .qpop _ _ => true
  | .sels _ d a => fieldsOk [64 ≤ d.toNat, 64 ≤ a.toNat]
  | .prio _ d a => fieldsOk [64 ≤ d.toNat, 64 ≤ a.toNat]
  | .phset _ a => fieldsOk [64 ≤ a.toNat]
  | .trap _ _ => true
  | .sret _ => true
  | .mfsr _ d r => fieldsOk [64 ≤ d.toNat, !sysReadable r]
  | .mtsr _ d r => fieldsOk [64 ≤ d.toNat, !sysPlainWritable r]
  | .mtsrMode _ d => fieldsOk [64 ≤ d.toNat]
  | .mtsrAccown _ d => fieldsOk [64 ≤ d.toNat]
  | .mtsrPix _ d => fieldsOk [64 ≤ d.toNat]
  | .mtsrFlags _ d => fieldsOk [64 ≤ d.toNat]
  | .mtsrTrapcause _ d => fieldsOk [64 ≤ d.toNat]
  | .pgmap _ t _ o => fieldsOk [64 ≤ t.toNat, 64 ≤ o.toNat]
  | .lpinv _ a b => fieldsOk [32 ≤ a.toNat, 64 ≤ b.toNat]
  | .lpinvW _ => true
  | .tlbi _ a b => fieldsOk [32 ≤ a.toNat, 64 ≤ b.toNat]
  | .tlbiW _ => true
  | .cflsh _ t _ o _ => fieldsOk [64 ≤ t.toNat, 64 ≤ o.toNat]
  | .cinv _ t _ o => fieldsOk [64 ≤ t.toNat, 64 ≤ o.toNat]
  | .snap _ d _ => fieldsOk [64 ≤ d.toNat]
  | .halt _ => true
  | .pixrd _ d a => fieldsOk [64 ≤ d.toNat, 64 ≤ a.toNat]
  | .pixwr _ a b => fieldsOk [64 ≤ a.toNat, 64 ≤ b.toNat]
  | .scrub _ t _ o => fieldsOk [64 ≤ t.toNat, 64 ≤ o.toNat]
  | .hostEnq h _ bs => hdrOk h bs.length
  | .hostEnqa h bs _ => hdrOk h bs.length
  | .hostRead h _ _ _ => hdrOk h 0
  | .hostWrite h _ _ bs => hdrOk h bs.length
  | .capw h _ _ ims => hdrOk h (16 * ims.length)
  | .hostOpcodeUnassigned h _ => hdrOk h 0
  | .wingCreate h bs => hdrOk h bs.length
  | .wingDestroy h => hdrOk h 0
  | .quota h _ _ => hdrOk h 0
  | .stage2TableWrite h _ _ _ => hdrOk h 0
  | .graphCreate h _ _ _ => hdrOk h 0
  | .jobCreate h bs => hdrOk h bs.length
  | .bind h _ => hdrOk h 0
  | .unbind h _ => hdrOk h 0
  | .deal h bs => hdrOk h bs.length
  | .suspendBinding h _ => hdrOk h 0
  | .resumeBinding h _ => hdrOk h 0
  | .preEmptWing h => hdrOk h 0
  | .restoreWing h _ _ => hdrOk h 0
  | .saveOut h => hdrOk h 0
  | .unitPreEmpt h _ => hdrOk h 0
  | .haltResume h _ => hdrOk h 0
  | .haltEnd h _ => hdrOk h 0
  | .stage2Answer h _ _ => hdrOk h 0
  | .poolRefill h _ _ => hdrOk h 0
  | .wingReset h => hdrOk h 0
  | .hostCancel h _ => hdrOk h 0
  | .hostScrub h _ _ _ _ => hdrOk h 0
  | .hostRevocationSweep h _ bs => hdrOk h bs.length
  | .logEnable h _ _ _ _ => hdrOk h 0
  | .harvest h _ _ => hdrOk h 0
  | .logDisable h => hdrOk h 0
  | .clockRaise h _ => hdrOk h 0
  | .keyRoll h _ => hdrOk h 0
  | .powerCap h _ => hdrOk h 0
  | .snapshotArm h _ => hdrOk h 0
  | .snapshotTrigger h => hdrOk h 0
  | .snapshotReadout h => hdrOk h 0
  | .hostAssociationCreate h _ _ => hdrOk h 0
  | .hostAssociationRemove h _ => hdrOk h 0
  | .levelClose h _ => hdrOk h 0
  | .stage1Map h _ _ _ => hdrOk h 0
  | .unsupportedOptionPacket _ => true
  | .deadGenerationPacket _ _ => true
  | .kgenRequestTimeout _ _ => true
  | .powerOn f => stepOk f
  | .lidOverTemperature => true
  | .dieOverTemperature => true
  | .ballastExchange _ _ => true
  | .unitStart _ _ => true
  | .unitRetirement _ => true
  | .levelCompletion _ => true
  | .phaseStart _ => true
  | .nodeTimerExpiry _ => true
  | .agingThreshold _ => true
  | .countedAccessComplete _ _ => true
  | .barrierDelivery _ _ _ => true
  | .publFlip _ => true
  | .contextSwap _ => true
  | .stopTimeout _ => true
  | .shadowOrHubError _ => true
  | .matrixUncorrectableError _ _ _ => true
  | .registerUncorrectableError _ => true
  | .unitRelaunch _ _ => true
  | .gateExchangeComplete _ _ => true
  | .turnstileTimeout _ _ => true
  | .revocationSweepStart => true
  | .revocationSweepComplete => true
  | .recipeBuildComplete _ _ => true
  | .recipeBuildFailure _ _ => true
  | .budgetWindow _ => true
  | .vitrineLatch => true
  | .clockChangeoverComplete => true
  | .gateUncorrectableError _ _ => true
  | .lidTemperatureNormal => true

end Sys2Proof
end

