-- ==== Sys2Proof/Decode.lean ====
section
/-! DEFINITION. The decoder, which is also the executable-page scanner's test of a word (R48-R53, R60, R64), and after
it the encoder, both from the encoding tables of the spec and of spec/opcode_table.json. -/
namespace Sys2Proof

/-- The scanner's reasons for rejecting a word, named after R64's table. -/
inductive ScanReason where
  | allZero | unassignedMajor | sRegister | setmField | cDestination | registerClass | unusedField
  | immediateB | systemRegister | fieldValue
  deriving DecidableEq, Repr, Inhabited

/-- The number of a reason in the status of R65. -/
def scanCode : ScanReason → Nat
  | .allZero => 1 | .unassignedMajor => 2 | .sRegister => 3 | .setmField => 4 | .cDestination => 5
  | .registerClass => 6 | .unusedField => 7 | .immediateB => 8 | .systemRegister => 9 | .fieldValue => 10

/-- The reason with the lower number (R64: the status gives the lowest). -/
def scanLower (r : ScanReason) : Option ScanReason → ScanReason
  | none => r
  | some q => if scanCode r ≤ scanCode q then r else q

/-- The lowest reason among the conditions that hold. -/
def scanLowest : List (Bool × ScanReason) → Option ScanReason
  | [] => none
  | (b, r) :: cs => if b then some (scanLower r (scanLowest cs)) else scanLowest cs

/-- The instruction, unless some condition rejects its word. -/
def check (cs : List (Bool × ScanReason)) (i : Instr) : Except ScanReason Instr :=
  match scanLowest cs with
  | none => .ok i
  | some r => .error r

/-- Bits [lo+n-1 : lo] of a word. -/
def bits (w : Word) (lo n : Nat) : BitVec n := BitVec.ofNat n (w.toNat / 2 ^ lo)
/-- Bit [lo] of a word. -/
def bit (w : Word) (lo : Nat) : Bool := w.toNat / 2 ^ lo % 2 == 1

def fS (w : Word) : Bool := bit w 31
def fMaj (w : Word) : BitVec 8 := bits w 23 8
def fD (w : Word) : BitVec 7 := bits w 16 7
def fA (w : Word) : BitVec 7 := bits w 9 7
def fB (w : Word) : BitVec 7 := bits w 2 7
def fX1 (w : Word) : Bool := bit w 1
def fX0 (w : Word) : Bool := bit w 0
def fX2 (w : Word) : BitVec 2 := bits w 0 2
def fI9 (w : Word) : BitVec 9 := bits w 0 9
def fI16 (w : Word) : BitVec 16 := bits w 0 16
def fH (w : Word) : Bool := bit w 16
def fJ23 (w : Word) : BitVec 23 := bits w 0 23
def fP3 (w : Word) : BitVec 3 := bits w 20 3
def fN (w : Word) : Bool := bit w 19
def fJ19 (w : Word) : BitVec 19 := bits w 0 19
def fC5 (w : Word) : BitVec 5 := bits w 11 5
def fO7 (w : Word) : BitVec 7 := bits w 4 7
def fI4 (w : Word) : BitVec 4 := bits w 0 4
def fScope (w : Word) : BitVec 3 := bits w 1 3
def fOA (w : Word) : BitVec 4 := bits w 16 4
def fOB (w : Word) : BitVec 4 := bits w 12 4
def fREG (w : Word) : BitVec 7 := bits w 5 7
def fCTL (w : Word) : BitVec 5 := bits w 0 5
def fK3 (w : Word) : BitVec 3 := bits w 2 3
def fCond (w : Word) : BitVec 4 := bits w 19 4
def fP18 (w : Word) : BitVec 3 := bits w 16 3

/-- Majors 0x00 to 0x0F of the opcode map (R60), with the scanner's reasons (R64). -/
def decodeRow0 (w : Word) : Except ScanReason Instr :=
  match (fMaj w).toNat % 16 with
  | 1 => let h := fH w; let i := fI16 w; check [(1 < (fD w).toNat, .setmField), (setmBad h i, .setmField)] (.setm (fS w) h i)
  | 2 => let a := fA w; check [(fD w != 0, .unusedField), (!fX1 w && fB w != 0, .unusedField), (fX1 w, .immediateB), (fX0 w, .unusedField), (64 ≤ a.toNat, .sRegister)] (.setms (fS w) a)
  | 3 => let d := fD w; check [(fA w != 0, .unusedField), (!fX1 w && fB w != 0, .unusedField), (fX1 w, .immediateB), (fX0 w, .unusedField), (64 ≤ d.toNat, .sRegister)] (.getm (fS w) d)
  | 4 => check [(fJ23 w != 0, .unusedField)] (.nop (fS w))
  | 5 => let j := fJ23 w; check [] (.bra (fS w) j)
  | 6 => let p := fP3 w; let n := fN w; let j := fJ19 w; check [] (.brp (fS w) p n j)
  | 7 => let j := fJ23 w; check [] (.sjoin (fS w) j)
  | 8 => check [(fJ23 w != 0, .unusedField)] (.join (fS w))
  | 9 => let j := fJ23 w; check [] (.call (fS w) j)
  | 10 => let a := fA w; check [(fD w != 0, .unusedField), (!fX1 w && fB w != 0, .unusedField), (fX1 w, .immediateB), (fX0 w, .unusedField)] (.ret (fS w) a)
  | 11 => if fX0 w then (let d := fD w; let a := fA w; check [(!fX1 w && fB w != 0, .unusedField), (fX1 w, .immediateB), (!fX0 w, .fieldValue), (28 ≤ d.toNat && d.toNat < 32, .cDestination), (32 ≤ d.toNat, .registerClass), (32 ≤ a.toNat, .registerClass)] (.jmpcLink (fS w) d a)) else (let a := fA w; check [(fD w != 0, .unusedField), (!fX1 w && fB w != 0, .unusedField), (fX1 w, .immediateB), (fX0 w, .unusedField), (32 ≤ a.toNat, .registerClass)] (.jmpc (fS w) a))
  | 12 => check [(fJ23 w != 0, .unusedField)] (.exit (fS w))
  | 13 => check [(fJ23 w != 0, .unusedField)] (.yield (fS w))
  | _ => .error .unassignedMajor

/-- Majors 0x10 to 0x1F of the opcode map (R60), with the scanner's reasons (R64). -/
def decodeRow1 (w : Word) : Except ScanReason Instr :=
  match (fMaj w).toNat % 16 with
  | 0 => let d := fD w; let a := fA w; let b := fB w; let i := fX1 w; check [(fX0 w, .unusedField), (64 ≤ d.toNat, .sRegister), (64 ≤ a.toNat, .sRegister), (!i && 64 ≤ b.toNat, .sRegister)] (.sadd (fS w) d a b i)
  | 1 => let d := fD w; let a := fA w; let b := fB w; let i := fX1 w; check [(fX0 w, .unusedField), (64 ≤ d.toNat, .sRegister), (64 ≤ a.toNat, .sRegister), (!i && 64 ≤ b.toNat, .sRegister)] (.ssub (fS w) d a b i)
  | 2 => let d := fD w; let a := fA w; let b := fB w; let i := fX1 w; check [(fX0 w, .unusedField), (64 ≤ d.toNat, .sRegister), (64 ≤ a.toNat, .sRegister), (!i && 64 ≤ b.toNat, .sRegister)] (.smul (fS w) d a b i)
  | 3 => let d := fD w; let a := fA w; let b := fB w; let i := fX1 w; let u := fX0 w; check [(64 ≤ d.toNat, .sRegister), (64 ≤ a.toNat, .sRegister), (!i && 64 ≤ b.toNat, .sRegister)] (.smulh (fS w) d a b i u)
  | 4 => let d := fD w; let a := fA w; let b := fB w; let i := fX1 w; check [(fX0 w, .unusedField), (64 ≤ d.toNat, .sRegister), (64 ≤ a.toNat, .sRegister), (!i && 64 ≤ b.toNat, .sRegister)] (.sand (fS w) d a b i)
  | 5 => let d := fD w; let a := fA w; let b := fB w; let i := fX1 w; check [(fX0 w, .unusedField), (64 ≤ d.toNat, .sRegister), (64 ≤ a.toNat, .sRegister), (!i && 64 ≤ b.toNat, .sRegister)] (.sor (fS w) d a b i)
  | 6 => let d := fD w; let a := fA w; let b := fB w; let i := fX1 w; check [(fX0 w, .unusedField), (64 ≤ d.toNat, .sRegister), (64 ≤ a.toNat, .sRegister), (!i && 64 ≤ b.toNat, .sRegister)] (.sxor (fS w) d a b i)
  | 7 => let d := fD w; let a := fA w; let b := fB w; let i := fX1 w; check [(fX0 w, .unusedField), (64 ≤ d.toNat, .sRegister), (64 ≤ a.toNat, .sRegister), (!i && 64 ≤ b.toNat, .sRegister)] (.sshl (fS w) d a b i)
  | 8 => let d := fD w; let a := fA w; let b := fB w; let i := fX1 w; check [(fX0 w, .unusedField), (64 ≤ d.toNat, .sRegister), (64 ≤ a.toNat, .sRegister), (!i && 64 ≤ b.toNat, .sRegister)] (.sshr (fS w) d a b i)
  | 9 => let d := fD w; let a := fA w; let b := fB w; let i := fX1 w; check [(fX0 w, .unusedField), (64 ≤ d.toNat, .sRegister), (64 ≤ a.toNat, .sRegister), (!i && 64 ≤ b.toNat, .sRegister)] (.ssra (fS w) d a b i)
  | 10 => let d := fD w; let a := fA w; let b := fB w; let i := fX1 w; let u := fX0 w; check [(64 ≤ d.toNat, .sRegister), (64 ≤ a.toNat, .sRegister), (!i && 64 ≤ b.toNat, .sRegister)] (.smin (fS w) d a b i u)
  | 11 => let d := fD w; let a := fA w; let b := fB w; let i := fX1 w; let u := fX0 w; check [(64 ≤ d.toNat, .sRegister), (64 ≤ a.toNat, .sRegister), (!i && 64 ≤ b.toNat, .sRegister)] (.smax (fS w) d a b i u)
  | 12 => let c := fCond w; let p := fP18 w; let a := fA w; let b := fB w; let i := fX1 w; let u := fX0 w; check [(5 < c.toNat, .fieldValue), (64 ≤ a.toNat, .sRegister), (!i && 64 ≤ b.toNat, .sRegister)] (.scmp (fS w) c p a b i u)
  | 13 => let d := fD w; let a := fA w; let b := fB w; check [(fX1 w, .immediateB), (fX0 w, .unusedField), (64 ≤ d.toNat, .sRegister), (64 ≤ a.toNat, .sRegister), (!fX1 w && 64 ≤ b.toNat, .sRegister)] (.ssel (fS w) d a b)
  | 14 => let d := fD w; let a := fA w; let b := fB w; let x := fX0 w; check [(fX1 w, .immediateB), (64 ≤ d.toNat, .sRegister), (64 ≤ a.toNat, .sRegister), (!fX1 w && 64 ≤ b.toNat, .sRegister)] (.sbfx (fS w) d a b x)
  | 15 => if fX0 w then (let d := fD w; let a := fA w; check [(!fX1 w && fB w != 0, .unusedField), (fX1 w, .immediateB), (!fX0 w, .fieldValue), (64 ≤ d.toNat, .sRegister), (8 ≤ a.toNat, .registerClass)] (.spopcP (fS w) d a)) else (let d := fD w; let a := fA w; check [(!fX1 w && fB w != 0, .unusedField), (fX1 w, .immediateB), (fX0 w, .unusedField), (64 ≤ d.toNat, .sRegister), (64 ≤ a.toNat, .sRegister)] (.spopc (fS w) d a))
  | _ => .error .unassignedMajor

/-- Majors 0x20 to 0x2F of the opcode map (R60), with the scanner's reasons (R64). -/
def decodeRow2 (w : Word) : Except ScanReason Instr :=
  match (fMaj w).toNat % 16 with
  | 0 => let d := fD w; let i := fI16 w; check [(64 ≤ d.toNat, .sRegister)] (.smovi (fS w) d i)
  | 1 => let d := fD w; let i := fI16 w; check [(64 ≤ d.toNat, .sRegister)] (.slui (fS w) d i)
  | 8 => let d := fD w; let a := fA w; let b := fB w; let i := fX1 w; check [(fX0 w, .unusedField)] (.vadd (fS w) d a b i)
  | 9 => let d := fD w; let a := fA w; let b := fB w; let i := fX1 w; check [(fX0 w, .unusedField)] (.vsub (fS w) d a b i)
  | 10 => let d := fD w; let a := fA w; let b := fB w; let i := fX1 w; check [(fX0 w, .unusedField)] (.vmul (fS w) d a b i)
  | 11 => let d := fD w; let a := fA w; let b := fB w; let i := fX1 w; check [(fX0 w, .unusedField)] (.vmulh (fS w) d a b i)
  | 12 => let d := fD w; let a := fA w; let b := fB w; let i := fX1 w; check [(fX0 w, .unusedField)] (.vmad (fS w) d a b i)
  | 13 => let d := fD w; let a := fA w; let b := fB w; let i := fX1 w; check [(fX0 w, .unusedField)] (.vmin (fS w) d a b i)
  | 14 => let d := fD w; let a := fA w; let b := fB w; let i := fX1 w; check [(fX0 w, .unusedField)] (.vmax (fS w) d a b i)
  | 15 => let d := fD w; let a := fA w; check [(!fX1 w && fB w != 0, .unusedField), (fX1 w, .immediateB), (fX0 w, .unusedField)] (.vabs (fS w) d a)
  | _ => .error .unassignedMajor

/-- Majors 0x30 to 0x3F of the opcode map (R60), with the scanner's reasons (R64). -/
def decodeRow3 (w : Word) : Except ScanReason Instr :=
  match (fMaj w).toNat % 16 with
  | 0 => let d := fD w; let a := fA w; check [(!fX1 w && fB w != 0, .unusedField), (fX1 w, .immediateB), (fX0 w, .unusedField)] (.vneg (fS w) d a)
  | 1 => let d := fD w; let a := fA w; let b := fB w; let i := fX1 w; check [(fX0 w, .unusedField)] (.vand (fS w) d a b i)
  | 2 => let d := fD w; let a := fA w; let b := fB w; let i := fX1 w; check [(fX0 w, .unusedField)] (.vor (fS w) d a b i)
  | 3 => let d := fD w; let a := fA w; let b := fB w; let i := fX1 w; check [(fX0 w, .unusedField)] (.vxor (fS w) d a b i)
  | 4 => let d := fD w; let a := fA w; check [(!fX1 w && fB w != 0, .unusedField), (fX1 w, .immediateB), (fX0 w, .unusedField)] (.vnot (fS w) d a)
  | 5 => let d := fD w; let a := fA w; let b := fB w; let i := fX1 w; check [(fX0 w, .unusedField)] (.vshl (fS w) d a b i)
  | 6 => let d := fD w; let a := fA w; let b := fB w; let i := fX1 w; check [(fX0 w, .unusedField)] (.vshr (fS w) d a b i)
  | 7 => let d := fD w; let a := fA w; let b := fB w; let i := fX1 w; check [(fX0 w, .unusedField)] (.vsra (fS w) d a b i)
  | 8 => let c := fCond w; let p := fP18 w; let a := fA w; let b := fB w; let i := fX1 w; check [(fX0 w, .unusedField), (7 < c.toNat, .fieldValue)] (.vcmp (fS w) c p a b i)
  | 9 => let d := fD w; let a := fA w; let b := fB w; let i := fX1 w; check [(fX0 w, .unusedField)] (.vsel (fS w) d a b i)
  | 10 => if fX1 w then (let d := fD w; let b := fB w; check [(fA w != 0, .unusedField), (!fX1 w, .fieldValue), (fX0 w, .unusedField)] (.vmovImm (fS w) d b)) else (let d := fD w; let a := fA w; check [(!fX1 w && fB w != 0, .unusedField), (fX1 w, .immediateB), (fX0 w, .unusedField)] (.vmov (fS w) d a))
  | 11 => if fX0 w then (let d := fD w; let a := fA w; check [(!fX1 w && fB w != 0, .unusedField), (fX1 w, .immediateB), (!fX0 w, .fieldValue), (64 ≤ d.toNat, .sRegister)] (.vmovsToS (fS w) d a)) else (let d := fD w; let a := fA w; check [(!fX1 w && fB w != 0, .unusedField), (fX1 w, .immediateB), (fX0 w, .unusedField), (64 ≤ a.toNat, .sRegister)] (.vmovs (fS w) d a))
  | 12 => let d := fD w; let g := fX0 w; check [(fA w != 0, .unusedField), (!fX1 w && fB w != 0, .unusedField), (fX1 w, .immediateB)] (.vlid (fS w) d g)
  | 13 => let d := fD w; let a := fA w; check [(!fX1 w && fB w != 0, .unusedField), (fX1 w, .immediateB), (fX0 w, .unusedField)] (.vclz (fS w) d a)
  | 14 => let d := fD w; let a := fA w; check [(!fX1 w && fB w != 0, .unusedField), (fX1 w, .immediateB), (fX0 w, .unusedField)] (.vpopc (fS w) d a)
  | 15 => let d := fD w; let a := fA w; let b := fB w; let i := fX1 w; check [(fX0 w, .unusedField)] (.vdiv (fS w) d a b i)
  | _ => .error .unassignedMajor

/-- Majors 0x40 to 0x4F of the opcode map (R60), with the scanner's reasons (R64). -/
def decodeRow4 (w : Word) : Except ScanReason Instr :=
  match (fMaj w).toNat % 16 with
  | 0 => let d := fD w; let a := fA w; check [(!fX1 w && fB w != 0, .unusedField), (fX1 w, .immediateB), (fX0 w, .unusedField)] (.vrcp (fS w) d a)
  | 1 => let d := fD w; let a := fA w; check [(!fX1 w && fB w != 0, .unusedField), (fX1 w, .immediateB), (fX0 w, .unusedField)] (.vrsq (fS w) d a)
  | 2 => let d := fD w; let a := fA w; check [(!fX1 w && fB w != 0, .unusedField), (fX1 w, .immediateB), (fX0 w, .unusedField)] (.vex2 (fS w) d a)
  | 3 => let d := fD w; let a := fA w; check [(!fX1 w && fB w != 0, .unusedField), (fX1 w, .immediateB), (fX0 w, .unusedField)] (.vlg2 (fS w) d a)
  | 4 => let d := fD w; let a := fA w; check [(!fX1 w && fB w != 0, .unusedField), (fX1 w, .immediateB), (fX0 w, .unusedField)] (.vsqrt (fS w) d a)
  | 8 => let d := fD w; let a := fA w; check [(!fX1 w && fB w != 0, .unusedField), (fX1 w, .immediateB), (fX0 w, .unusedField)] (.vcvt (fS w) d a)
  | 9 => let d := fD w; let a := fA w; let b := fB w; let h := fX0 w; check [(fX1 w, .immediateB)] (.vpack (fS w) d a b h)
  | 10 => let d := fD w; let a := fA w; let g := fB w; check [(!fX1 w, .fieldValue), (fX0 w, .unusedField)] (.vunpk (fS w) d a g)
  | 11 => let d := fD w; let a := fA w; let b := fB w; check [(fX1 w, .immediateB), (fX0 w, .unusedField), (!fX1 w && 64 ≤ b.toNat, .sRegister)] (.vqnt (fS w) d a b)
  | 12 => let d := fD w; let a := fA w; let b := fB w; check [(fX1 w, .immediateB), (fX0 w, .unusedField), (!fX1 w && 64 ≤ b.toNat, .sRegister)] (.vdqnt (fS w) d a b)
  | 13 => let d := fD w; let a := fA w; let b := fB w; check [(fX1 w, .immediateB), (fX0 w, .unusedField), (!fX1 w && 64 ≤ b.toNat, .sRegister)] (.vcbk (fS w) d a b)
  | 14 => let d := fD w; let b := fB w; let i := fX1 w; check [(fA w != 0, .unusedField), (fX0 w, .unusedField)] (.vrng (fS w) d b i)
  | 15 => let d := fD w; let a := fA w; check [(!fX1 w && fB w != 0, .unusedField), (fX1 w, .immediateB), (fX0 w, .unusedField), (64 ≤ d.toNat, .sRegister), (64 ≤ a.toNat, .sRegister)] (.rseed (fS w) d a)
  | _ => .error .unassignedMajor

/-- Majors 0x50 to 0x5F of the opcode map (R60), with the scanner's reasons (R64). -/
def decodeRow5 (w : Word) : Except ScanReason Instr :=
  match (fMaj w).toNat % 16 with
  | 0 => let d := fD w; let a := fA w; let b := fB w; let i := fX1 w; check [(fX0 w, .unusedField)] (.vshfl (fS w) d a b i)
  | 1 => let d := fD w; let a := fA w; let b := fB w; check [(!fX1 w, .fieldValue), (fX0 w, .unusedField), (31 < b.toNat, .fieldValue)] (.vbfly (fS w) d a b)
  | 2 => let d := fD w; let a := fA w; check [(!fX1 w && fB w != 0, .unusedField), (fX1 w, .immediateB), (fX0 w, .unusedField), (8 ≤ d.toNat, .registerClass)] (.vball (fS w) d a)
  | 3 => let d := fD w; let a := fA w; check [(!fX1 w && fB w != 0, .unusedField), (fX1 w, .immediateB), (fX0 w, .unusedField), (64 ≤ d.toNat, .sRegister), (8 ≤ a.toNat, .registerClass)] (.vany (fS w) d a)
  | 4 => let d := fD w; let a := fA w; check [(!fX1 w && fB w != 0, .unusedField), (fX1 w, .immediateB), (fX0 w, .unusedField), (64 ≤ d.toNat, .sRegister), (8 ≤ a.toNat, .registerClass)] (.vall (fS w) d a)
  | 5 => let d := fD w; let a := fA w; let x := fX0 w; check [(!fX1 w && fB w != 0, .unusedField), (fX1 w, .immediateB)] (.vscan (fS w) d a x)
  | 6 => if fX2 w == 0 then (let d := fD w; let a := fA w; let b := fB w; check [] (.vmxix (fS w) d a b)) else if fX2 w == 1 then (let d := fD w; let a := fA w; let b := fB w; check [] (.vmxixC (fS w) d a b)) else if fX2 w == 3 then (let d := fD w; let a := fA w; check [(fB w != 0, .fieldValue)] (.vmxixD (fS w) d a)) else .error .fieldValue
  | 7 => let d := fD w; let a := fA w; let x := fX0 w; check [(!fX1 w && fB w != 0, .unusedField), (fX1 w, .immediateB), (64 ≤ d.toNat, .sRegister)] (.vreds (fS w) d a x)
  | 8 => let d := fD w; let a := fA w; let b := fB w; check [(fX1 w, .immediateB), (fX0 w, .unusedField), (8 ≤ d.toNat, .registerClass), (8 ≤ a.toNat, .registerClass), (!fX1 w && 8 ≤ b.toNat, .registerClass)] (.pand (fS w) d a b)
  | 9 => let d := fD w; let a := fA w; let b := fB w; check [(fX1 w, .immediateB), (fX0 w, .unusedField), (8 ≤ d.toNat, .registerClass), (8 ≤ a.toNat, .registerClass), (!fX1 w && 8 ≤ b.toNat, .registerClass)] (.por (fS w) d a b)
  | 10 => let d := fD w; let a := fA w; let b := fB w; check [(fX1 w, .immediateB), (fX0 w, .unusedField), (8 ≤ d.toNat, .registerClass), (8 ≤ a.toNat, .registerClass), (!fX1 w && 8 ≤ b.toNat, .registerClass)] (.pxor (fS w) d a b)
  | 11 => let d := fD w; let a := fA w; check [(!fX1 w && fB w != 0, .unusedField), (fX1 w, .immediateB), (fX0 w, .unusedField), (8 ≤ d.toNat, .registerClass), (8 ≤ a.toNat, .registerClass)] (.pnot (fS w) d a)
  | 12 => if fB w == 0 then (let d := fD w; let a := fA w; check [(fX1 w, .immediateB), (fX0 w, .unusedField), (8 ≤ d.toNat, .registerClass), (8 ≤ a.toNat, .registerClass)] (.pmov (fS w) d a)) else if fB w == 1 then (let d := fD w; let a := fA w; check [(fX1 w, .immediateB), (fX0 w, .unusedField), (8 ≤ d.toNat, .registerClass), (64 ≤ a.toNat, .sRegister)] (.pmovFromS (fS w) d a)) else if fB w == 2 then (let d := fD w; let a := fA w; check [(fX1 w, .immediateB), (fX0 w, .unusedField), (64 ≤ d.toNat, .sRegister), (8 ≤ a.toNat, .registerClass)] (.pmovToS (fS w) d a)) else if fB w == 3 then (let d := fD w; check [(fA w != 0, .unusedField), (fX1 w, .immediateB), (fX0 w, .unusedField), (8 ≤ d.toNat, .registerClass)] (.pmovMask (fS w) d)) else .error (if fX0 w then .unusedField else if fX1 w then .immediateB else .fieldValue)
  | _ => .error .unassignedMajor

/-- Majors 0x60 to 0x6F of the opcode map (R60), with the scanner's reasons (R64). -/
def decodeRow6 (w : Word) : Except ScanReason Instr :=
  match (fMaj w).toNat % 16 with
  | 0 => let d := fD w; let a := fA w; check [(!fX1 w && fB w != 0, .unusedField), (fX1 w, .immediateB), (fX0 w, .unusedField), (64 ≤ d.toNat, .sRegister), (32 ≤ a.toNat, .registerClass)] (.cgeta (fS w) d a)
  | 1 => let d := fD w; let a := fA w; check [(!fX1 w && fB w != 0, .unusedField), (fX1 w, .immediateB), (fX0 w, .unusedField), (64 ≤ d.toNat, .sRegister), (32 ≤ a.toNat, .registerClass)] (.cgetb (fS w) d a)
  | 2 => let d := fD w; let a := fA w; check [(!fX1 w && fB w != 0, .unusedField), (fX1 w, .immediateB), (fX0 w, .unusedField), (64 ≤ d.toNat, .sRegister), (32 ≤ a.toNat, .registerClass)] (.cgetl (fS w) d a)
  | 3 => let d := fD w; let a := fA w; check [(!fX1 w && fB w != 0, .unusedField), (fX1 w, .immediateB), (fX0 w, .unusedField), (64 ≤ d.toNat, .sRegister), (32 ≤ a.toNat, .registerClass)] (.cgetp (fS w) d a)
  | 4 => let d := fD w; let a := fA w; check [(!fX1 w && fB w != 0, .unusedField), (fX1 w, .immediateB), (fX0 w, .unusedField), (64 ≤ d.toNat, .sRegister), (32 ≤ a.toNat, .registerClass)] (.cgett (fS w) d a)
  | 5 => let d := fD w; let a := fA w; let b := fB w; let x := fX0 w; check [(fX1 w, .immediateB), (28 ≤ d.toNat && d.toNat < 32, .cDestination), (32 ≤ d.toNat, .registerClass), (32 ≤ a.toNat, .registerClass), (!fX1 w && 64 ≤ b.toNat, .sRegister)] (.cseta (fS w) d a b x)
  | 6 => let d := fD w; let a := fA w; let i := fI9 w; check [(28 ≤ d.toNat && d.toNat < 32, .cDestination), (32 ≤ d.toNat, .registerClass), (32 ≤ a.toNat, .registerClass)] (.cinc (fS w) d a i)
  | 7 => let d := fD w; let a := fA w; let b := fB w; let x := fX0 w; check [(fX1 w, .immediateB), (28 ≤ d.toNat && d.toNat < 32, .cDestination), (32 ≤ d.toNat, .registerClass), (32 ≤ a.toNat, .registerClass), (!fX1 w && 64 ≤ b.toNat, .sRegister)] (.csetb (fS w) d a b x)
  | 8 => let d := fD w; let a := fA w; let b := fB w; check [(fX1 w, .immediateB), (fX0 w, .unusedField), (28 ≤ d.toNat && d.toNat < 32, .cDestination), (32 ≤ d.toNat, .registerClass), (32 ≤ a.toNat, .registerClass), (!fX1 w && 64 ≤ b.toNat, .sRegister)] (.cprune (fS w) d a b)
  | 9 => let d := fD w; let a := fA w; let b := fB w; check [(fX1 w, .immediateB), (fX0 w, .unusedField), (28 ≤ d.toNat && d.toNat < 32, .cDestination), (32 ≤ d.toNat, .registerClass), (32 ≤ a.toNat, .registerClass), (!fX1 w && 32 ≤ b.toNat, .registerClass)] (.cseal (fS w) d a b)
  | 10 => let d := fD w; let a := fA w; let b := fB w; check [(fX1 w, .immediateB), (fX0 w, .unusedField), (28 ≤ d.toNat && d.toNat < 32, .cDestination), (32 ≤ d.toNat, .registerClass), (32 ≤ a.toNat, .registerClass), (!fX1 w && 32 ≤ b.toNat, .registerClass)] (.cunsl (fS w) d a b)
  | 11 => if fB w == 0 then (if fX0 w then (let d := fD w; let a := fA w; check [(fX1 w, .immediateB), (32 ≤ d.toNat, .registerClass), (32 ≤ a.toNat, .registerClass)] (.cmovS (fS w) d a)) else (let d := fD w; let a := fA w; check [(fX1 w, .immediateB), (28 ≤ d.toNat && d.toNat < 32, .cDestination), (32 ≤ d.toNat, .registerClass), (32 ≤ a.toNat, .registerClass)] (.cmov (fS w) d a))) else if fB w == 1 then (let d := fD w; let a := fA w; check [(fX0 w, .fieldValue), (fX1 w, .immediateB), (28 ≤ d.toNat && d.toNat < 32, .cDestination), (32 ≤ d.toNat, .registerClass), (8 ≤ a.toNat, .registerClass)] (.cmovFromVc (fS w) d a)) else if fB w == 2 then (let d := fD w; let a := fA w; check [(fX0 w, .fieldValue), (fX1 w, .immediateB), (8 ≤ d.toNat, .registerClass), (32 ≤ a.toNat, .registerClass)] (.cmovToVc (fS w) d a)) else if fB w == 3 then (let d := fD w; let a := fA w; check [(fX0 w, .fieldValue), (fX1 w, .immediateB), (8 ≤ d.toNat, .registerClass), (8 ≤ a.toNat, .registerClass)] (.cmovVc (fS w) d a)) else .error (if fX1 w then .immediateB else .fieldValue)
  | 12 => let d := fD w; let a := fA w; let b := fB w; check [(fX1 w, .immediateB), (fX0 w, .unusedField), (64 ≤ d.toNat, .sRegister), (32 ≤ a.toNat, .registerClass), (!fX1 w && 32 ≤ b.toNat, .registerClass)] (.ctest (fS w) d a b)
  | 13 => let t := fD w; let c := fC5 w; let o := fO7 w; let i := fI4 w; check [(28 ≤ t.toNat && t.toNat < 32, .cDestination), (32 ≤ t.toNat, .registerClass), (64 ≤ o.toNat, .sRegister)] (.cldc (fS w) t c o i)
  | 14 => let t := fD w; let c := fC5 w; let o := fO7 w; let i := fI4 w; check [(32 ≤ t.toNat, .registerClass), (64 ≤ o.toNat, .sRegister)] (.cstc (fS w) t c o i)
  | 15 => let t := fD w; let c := fC5 w; let o := fO7 w; let i := fI4 w; check [(8 ≤ t.toNat, .registerClass)] (.vcld (fS w) t c o i)
  | _ => .error .unassignedMajor

/-- Majors 0x70 to 0x7F of the opcode map (R60), with the scanner's reasons (R64). -/
def decodeRow7 (w : Word) : Except ScanReason Instr :=
  match (fMaj w).toNat % 16 with
  | 0 => let t := fD w; let c := fC5 w; let o := fO7 w; let i := fI4 w; check [(8 ≤ t.toNat, .registerClass)] (.vcst (fS w) t c o i)
  | 8 => let t := fD w; let c := fC5 w; let o := fO7 w; let i := fI4 w; check [] (.ld (fS w) t c o i)
  | 9 => let t := fD w; let c := fC5 w; let o := fO7 w; let i := fI4 w; check [] (.st (fS w) t c o i)
  | 10 => let t := fD w; let c := fC5 w; let o := fO7 w; let i := fI4 w; check [(64 ≤ o.toNat, .sRegister)] (.ldu (fS w) t c o i)
  | 11 => let t := fD w; let c := fC5 w; let o := fO7 w; let i := fI4 w; check [(64 ≤ o.toNat, .sRegister)] (.stu (fS w) t c o i)
  | 12 => let t := fD w; let c := fC5 w; let o := fO7 w; let i := fI4 w; check [(64 ≤ t.toNat, .sRegister), (64 ≤ o.toNat, .sRegister)] (.lds (fS w) t c o i)
  | 13 => let t := fD w; let c := fC5 w; let o := fO7 w; let i := fI4 w; check [(64 ≤ t.toNat, .sRegister), (64 ≤ o.toNat, .sRegister)] (.sts (fS w) t c o i)
  | 14 => let t := fD w; let c := fC5 w; let o := fO7 w; let i := fI4 w; check [(64 ≤ t.toNat, .sRegister), (64 ≤ o.toNat, .sRegister)] (.gath (fS w) t c o i)
  | 15 => let t := fD w; let c := fC5 w; let o := fO7 w; let i := fI4 w; check [(64 ≤ t.toNat, .sRegister), (64 ≤ o.toNat, .sRegister)] (.scat (fS w) t c o i)
  | _ => .error .unassignedMajor

/-- Majors 0x80 to 0x8F of the opcode map (R60), with the scanner's reasons (R64). -/
def decodeRow8 (w : Word) : Except ScanReason Instr :=
  match (fMaj w).toNat % 16 with
  | 0 => let t := fD w; let c := fC5 w; let o := fO7 w; let i := fI4 w; check [(1 < t.toNat, .fieldValue)] (.pref (fS w) t c o i)
  | 1 => let t := fD w; let c := fC5 w; let o := fO7 w; let e := fScope w; check [((w.toNat &&& 1) != 0, .unusedField), (4 < e.toNat, .fieldValue)] (.ldac (fS w) t c o e)
  | 2 => let t := fD w; let c := fC5 w; let o := fO7 w; let e := fScope w; check [((w.toNat &&& 1) != 0, .unusedField), (4 < e.toNat, .fieldValue)] (.strl (fS w) t c o e)
  | 3 => let d := fD w; let a := fA w; let b := fB w; let i := fX1 w; check [(fX0 w, .unusedField), (5 < d.toNat, .fieldValue), (!i && 64 ≤ a.toNat, .sRegister), (i && a != 0, .unusedField), (!i && b != 0, .unusedField)] (.waitc (fS w) d a b i)
  | 4 => let d := fD w; let a := fA w; let e := fX0 w; check [(!fX1 w && fB w != 0, .unusedField), (fX1 w, .immediateB), (64 ≤ d.toNat, .sRegister), (5 < a.toNat, .fieldValue)] (.rdcnt (fS w) d a e)
  | 5 => let t := fD w; let c := fC5 w; let o := fO7 w; let i := fI4 w; check [(32 ≤ t.toNat, .registerClass), (32 ≤ o.toNat, .registerClass)] (.tcpy (fS w) t c o i)
  | 6 => let t := fD w; let c := fC5 w; let o := fO7 w; check [(fI4 w != 0, .unusedField), (32 ≤ t.toNat, .registerClass), (64 ≤ o.toNat, .sRegister)] (.bcpy (fS w) t c o)
  | 7 => let t := fD w; let c := fC5 w; let o := fO7 w; check [(fI4 w != 0, .unusedField), (64 ≤ t.toNat, .sRegister), (64 ≤ o.toNat, .sRegister)] (.publ (fS w) t c o)
  | 8 => let p := fP3 w; let j := fJ19 w; check [(fN w, .fieldValue), (2 < p.toNat, .fieldValue)] (.fork (fS w) p j)
  | 9 => let p := fP3 w; check [(fN w, .fieldValue), (fJ19 w != 0, .unusedField), (2 < p.toNat, .fieldValue)] (.rdvz (fS w) p)
  | 10 => check [(fJ23 w != 0, .unusedField)] (.ende (fS w))
  | _ => .error .unassignedMajor

/-- Majors 0x90 to 0x9F of the opcode map (R60), with the scanner's reasons (R64). -/
def decodeRow9 (w : Word) : Except ScanReason Instr :=
  match (fMaj w).toNat % 16 with
  | 0 => let t := fD w; let c := fC5 w; let o := fO7 w; let e := fScope w; let q := fX0 w; check [(4 < e.toNat, .fieldValue)] (.aadd (fS w) t c o e q)
  | 1 => let t := fD w; let c := fC5 w; let o := fO7 w; let e := fScope w; let q := fX0 w; check [(4 < e.toNat, .fieldValue)] (.amin (fS w) t c o e q)
  | 2 => let t := fD w; let c := fC5 w; let o := fO7 w; let e := fScope w; let q := fX0 w; check [(4 < e.toNat, .fieldValue)] (.amax (fS w) t c o e q)
  | 3 => let t := fD w; let c := fC5 w; let o := fO7 w; let e := fScope w; let q := fX0 w; check [(4 < e.toNat, .fieldValue)] (.aand (fS w) t c o e q)
  | 4 => let t := fD w; let c := fC5 w; let o := fO7 w; let e := fScope w; let q := fX0 w; check [(4 < e.toNat, .fieldValue)] (.aor (fS w) t c o e q)
  | 5 => let t := fD w; let c := fC5 w; let o := fO7 w; let e := fScope w; let q := fX0 w; check [(4 < e.toNat, .fieldValue)] (.axor (fS w) t c o e q)
  | 6 => let t := fD w; let c := fC5 w; let o := fO7 w; let e := fScope w; let q := fX0 w; check [(4 < e.toNat, .fieldValue)] (.axchg (fS w) t c o e q)
  | 7 => let t := fD w; let c := fC5 w; let o := fO7 w; let e := fScope w; let q := fX0 w; check [(4 < e.toNat, .fieldValue)] (.acas (fS w) t c o e q)
  | 8 => let t := fD w; let c := fC5 w; let o := fO7 w; let e := fScope w; let q := fX0 w; check [(4 < e.toNat, .fieldValue)] (.amxix (fS w) t c o e q)
  | 9 => let t := fD w; let c := fC5 w; let o := fO7 w; let e := fScope w; let q := fX0 w; check [(4 < e.toNat, .fieldValue)] (.axadd (fS w) t c o e q)
  | 10 => let t := fD w; let c := fC5 w; let o := fO7 w; let e := fScope w; let q := fX0 w; check [(4 < e.toNat, .fieldValue)] (.axrd (fS w) t c o e q)
  | 11 => let t := fD w; let c := fC5 w; let o := fO7 w; let e := fScope w; let q := fX0 w; check [(64 ≤ t.toNat, .sRegister), (64 ≤ o.toNat, .sRegister), (4 < e.toNat, .fieldValue)] (.dqpsh (fS w) t c o e q)
  | 12 => let t := fD w; let c := fC5 w; let o := fO7 w; let e := fScope w; let q := fX0 w; check [(64 ≤ t.toNat, .sRegister), (64 ≤ o.toNat, .sRegister), (4 < e.toNat, .fieldValue)] (.dqpop (fS w) t c o e q)
  | 13 => let t := fD w; let c := fC5 w; let o := fO7 w; let e := fScope w; let q := fX0 w; check [(64 ≤ t.toNat, .sRegister), (64 ≤ o.toNat, .sRegister), (4 < e.toNat, .fieldValue)] (.dqstl (fS w) t c o e q)
  | 14 => let t := fD w; let c := fC5 w; let o := fO7 w; check [(fI4 w != 2, .fieldValue), (64 ≤ t.toNat, .sRegister), (64 ≤ o.toNat, .sRegister)] (.bari (fS w) t c o)
  | 15 => let t := fD w; let c := fC5 w; let o := fO7 w; check [(fI4 w != 2, .fieldValue), (64 ≤ t.toNat, .sRegister), (64 ≤ o.toNat, .sRegister)] (.bara (fS w) t c o)
  | _ => .error .unassignedMajor

/-- Majors 0xA0 to 0xAF of the opcode map (R60), with the scanner's reasons (R64). -/
def decodeRowA (w : Word) : Except ScanReason Instr :=
  match (fMaj w).toNat % 16 with
  | 0 => let t := fD w; let c := fC5 w; let o := fO7 w; check [(fI4 w != 2, .fieldValue), (64 ≤ t.toNat, .sRegister), (64 ≤ o.toNat, .sRegister)] (.barw (fS w) t c o)
  | 1 => let t := fD w; let c := fC5 w; let o := fO7 w; check [(fI4 w != 2, .fieldValue), (64 ≤ t.toNat, .sRegister), (64 ≤ o.toNat, .sRegister)] (.barx (fS w) t c o)
  | 8 => if fX0 w then (let n := fP3 w; let r := fREG w; check [(fCTL w != 1, .unusedField), (fOA w != 0, .unusedField), (fOB w != 0, .unusedField), (64 ≤ r.toNat, .sRegister)] (.mclmT (fS w) n r)) else (let r := fREG w; check [(fP3 w != 0, .unusedField), (fOA w != 0, .unusedField), (fOB w != 0, .unusedField), (fCTL w != 0, .unusedField), (64 ≤ r.toNat, .sRegister)] (.mclm (fS w) r))
  | 9 => let r := fREG w; check [(fP3 w != 0, .unusedField), (fOA w != 0, .unusedField), (fOB w != 0, .unusedField), (fCTL w != 0, .unusedField), (64 ≤ r.toNat, .sRegister)] (.mrls (fS w) r)
  | 10 => let t := fD w; let c := fC5 w; let o := fO7 w; let b := fX0 w; check [((w.toNat &&& 14) != 0, .unusedField), (16 ≤ t.toNat, .registerClass), (64 ≤ o.toNat, .sRegister)] (.mldo (fS w) t c o b)
  | 11 => let n := fP3 w; let a := fOA w; let b := fOB w; let k := fK3 w; let g := fX2 w; check [(fREG w != 0, .unusedField)] (.mma (fS w) n a b k g)
  | 12 => if fX2 w == 3 then .error (if fOA w != 0 || fOB w != 0 || fREG w != 0 || fK3 w != 0 then .unusedField else .fieldValue) else if fX2 w == 1 then (let n := fP3 w; check [(fK3 w != 0, .unusedField), (fOA w != 0, .unusedField), (fOB w != 0, .unusedField), (fREG w != 0, .unusedField)] (.mzeroF (fS w) n)) else if fX2 w == 2 then (check [(fK3 w != 0, .unusedField), (fP3 w != 0, .unusedField), (fOA w != 0, .unusedField), (fOB w != 0, .unusedField), (fREG w != 0, .unusedField)] (.mzeroT (fS w))) else (let n := fP3 w; check [(fK3 w != 0, .unusedField), (fOA w != 0, .unusedField), (fOB w != 0, .unusedField), (fREG w != 0, .unusedField)] (.mzero (fS w) n))
  | 13 => let n := fP3 w; let r := fREG w; let q := fX2 w; check [(fOA w != 0, .unusedField), (fOB w != 0, .unusedField), ((w.toNat &&& 28) != 0, .unusedField), (120 < r.toNat, .fieldValue)] (.mrda (fS w) n r q)
  | 14 => let n := fP3 w; let r := fREG w; let q := fX2 w; check [(fOA w != 0, .unusedField), (fOB w != 0, .unusedField), ((w.toNat &&& 28) != 0, .unusedField), (120 < r.toNat, .fieldValue)] (.mwra (fS w) n r q)
  | 15 => let n := fP3 w; let a := fOA w; let r := fREG w; let z := fX1 w; let f := fX0 w; check [(fOB w != 0, .unusedField), ((w.toNat &&& 28) != 0, .unusedField), (32 ≤ r.toNat, .registerClass)] (.mdrn (fS w) n a r z f)
  | _ => .error .unassignedMajor

/-- Majors 0xB0 to 0xBF of the opcode map (R60), with the scanner's reasons (R64). -/
def decodeRowB (w : Word) : Except ScanReason Instr :=
  match (fMaj w).toNat % 16 with
  | 0 => let t := fD w; let c := fC5 w; let o := fO7 w; let i := fI4 w; check [(t.toNat < 1 || 64 < t.toNat, .fieldValue), (64 ≤ o.toNat, .sRegister)] (.tldp (fS w) t c o i)
  | 1 => let n := fP3 w; let r := fREG w; check [(fOA w != 0, .unusedField), (fOB w != 0, .unusedField), (fCTL w != 0, .unusedField)] (.mscl (fS w) n r)
  | 2 => let c := fC5 w; let o := fO7 w; let i := fI4 w; check [(fD w != 0, .unusedField), (64 ≤ o.toNat, .sRegister)] (.mcab (fS w) c o i)
  | 3 => let t := fD w; let c := fC5 w; let o := fO7 w; let i := fI4 w; check [(8 ≤ t.toNat, .registerClass), (64 ≤ o.toNat, .sRegister)] (.accsv (fS w) t c o i)
  | 4 => let t := fD w; let c := fC5 w; let o := fO7 w; let i := fI4 w; check [(8 ≤ t.toNat, .registerClass), (64 ≤ o.toNat, .sRegister)] (.accrs (fS w) t c o i)
  | 5 => let d := fD w; check [(fA w != 0, .unusedField), (!fX1 w && fB w != 0, .unusedField), (fX1 w, .immediateB), (fX0 w, .unusedField), (64 ≤ d.toNat, .sRegister)] (.mstat (fS w) d)
  | 8 => let d := fD w; let a := fA w; let b := fB w; check [(!fX1 w, .fieldValue), (fX0 w, .unusedField), (32 ≤ a.toNat, .registerClass), (2 < b.toNat, .fieldValue)] (.shtrp (fS w) d a b)
  | 9 => let a := fA w; let b := fB w; let r := fX0 w; check [(fD w != 0, .unusedField), (fX1 w, .immediateB), (!fX1 w && 32 ≤ b.toNat, .registerClass)] (.shopn (fS w) a b r)
  | 10 => let d := fD w; let b := fB w; let r := fX0 w; check [(fA w != 0, .unusedField), (fX1 w, .immediateB), (!fX1 w && 32 ≤ b.toNat, .registerClass)] (.shrcv (fS w) d b r)
  | 11 => let d := fD w; let a := fA w; let b := fB w; check [(fX1 w, .immediateB), (fX0 w, .unusedField), (!fX1 w && 32 ≤ b.toNat, .registerClass)] (.shmul (fS w) d a b)
  | 12 => let d := fD w; let a := fA w; let f := fB w; check [(!fX1 w, .fieldValue), (fX0 w, .unusedField)] (.shtrc (fS w) d a f)
  | 13 => let d := fD w; let a := fA w; let b := fB w; check [(fX1 w, .immediateB), (fX0 w, .unusedField), (!fX1 w && 32 ≤ b.toNat, .registerClass)] (.shbtr (fS w) d a b)
  | 14 => let d := fD w; let a := fA w; let b := fB w; check [(fX1 w, .immediateB), (fX0 w, .unusedField), (!fX1 w && 32 ≤ b.toNat, .registerClass)] (.shcmp (fS w) d a b)
  | 15 => if fX0 w then (let d := fD w; let a := fA w; let b := fB w; check [(fX1 w, .immediateB), (!fX0 w, .fieldValue), (!fX1 w && 32 ≤ b.toNat, .registerClass)] (.shrvlR (fS w) d a b)) else (let a := fA w; let b := fB w; check [(fD w != 0, .unusedField), (fX1 w, .immediateB), (fX0 w, .unusedField), (!fX1 w && 32 ≤ b.toNat, .registerClass)] (.shrvl (fS w) a b))
  | _ => .error .unassignedMajor

/-- Majors 0xC0 to 0xCF of the opcode map (R60), with the scanner's reasons (R64). -/
def decodeRowC (w : Word) : Except ScanReason Instr :=
  match (fMaj w).toNat % 16 with
  | 0 => let t := fD w; let c := fC5 w; let o := fO7 w; check [(fI4 w != 0, .unusedField), (64 ≤ t.toNat, .sRegister), (64 ≤ o.toNat, .sRegister)] (.shdeal (fS w) t c o)
  | 1 => let d := fD w; let a := fA w; let k := fB w; check [(!fX1 w, .fieldValue), (fX0 w, .unusedField), (64 ≤ d.toNat, .sRegister), (32 ≤ a.toNat, .registerClass), (6 < k.toNat, .fieldValue)] (.shsta (fS w) d a k)
  | 2 => let d := fD w; let a := fA w; let b := fB w; check [(fX1 w, .immediateB), (fX0 w, .unusedField), (64 ≤ d.toNat, .sRegister), (64 ≤ a.toNat, .sRegister), (!fX1 w && 32 ≤ b.toNat, .registerClass)] (.shdsc (fS w) d a b)
  | 3 => let n := fP3 w; let a := fOA w; let b := fOB w; let r := fREG w; check [(fCTL w != 0, .unusedField), (32 ≤ r.toNat, .registerClass)] (.shmma (fS w) n a b r)
  | 8 => let t := fD w; let c := fC5 w; let o := fO7 w; let b := fX0 w; check [((w.toNat &&& 14) != 0, .unusedField), (64 ≤ t.toNat, .sRegister), (64 ≤ o.toNat, .sRegister)] (.rcpdef (fS w) t c o b)
  | 9 => let d := fD w; let a := fA w; check [(!fX1 w && fB w != 0, .unusedField), (fX1 w, .immediateB), (fX0 w, .unusedField), (64 ≤ d.toNat, .sRegister), (32 ≤ a.toNat, .registerClass)] (.rcppin (fS w) d a)
  | 10 => let d := fD w; let a := fA w; check [(!fX1 w && fB w != 0, .unusedField), (fX1 w, .immediateB), (fX0 w, .unusedField), (64 ≤ d.toNat, .sRegister), (32 ≤ a.toNat, .registerClass)] (.rcpunp (fS w) d a)
  | 11 => if fX0 w then (let d := fD w; let a := fA w; check [(!fX1 w && fB w != 0, .unusedField), (fX1 w, .immediateB), (!fX0 w, .fieldValue), (64 ≤ d.toNat, .sRegister), (32 ≤ a.toNat, .registerClass)] (.rcpdrpR (fS w) d a)) else (let d := fD w; let a := fA w; check [(!fX1 w && fB w != 0, .unusedField), (fX1 w, .immediateB), (fX0 w, .unusedField), (64 ≤ d.toNat, .sRegister), (32 ≤ a.toNat, .registerClass)] (.rcpdrp (fS w) d a))
  | 12 => let d := fD w; let a := fA w; check [(!fX1 w && fB w != 0, .unusedField), (fX1 w, .immediateB), (fX0 w, .unusedField), (64 ≤ d.toNat, .sRegister), (32 ≤ a.toNat, .registerClass)] (.rcpqry (fS w) d a)
  | _ => .error .unassignedMajor

/-- Majors 0xD0 to 0xDF of the opcode map (R60), with the scanner's reasons (R64). -/
def decodeRowD (w : Word) : Except ScanReason Instr :=
  match (fMaj w).toNat % 16 with
  | 0 => let t := fD w; let c := fC5 w; let o := fO7 w; let i := fI4 w; check [(32 ≤ t.toNat, .registerClass), (64 ≤ o.toNat, .sRegister)] (.enq (fS w) t c o i)
  | 1 => let t := fD w; let c := fC5 w; let o := fO7 w; check [(fI4 w != 0, .unusedField), (64 ≤ t.toNat, .sRegister), (64 ≤ o.toNat, .sRegister)] (.enqa (fS w) t c o)
  | 2 => let d := fD w; let a := fA w; check [(!fX1 w && fB w != 0, .unusedField), (fX1 w, .immediateB), (fX0 w, .unusedField), (3 < d.toNat, .fieldValue), (64 ≤ a.toNat, .sRegister)] (.cancl (fS w) d a)
  | 3 => let d := fD w; let a := fA w; check [(!fX1 w && fB w != 0, .unusedField), (fX1 w, .immediateB), (fX0 w, .unusedField), (d.toNat < 1 || 3 < d.toNat, .fieldValue), (64 ≤ a.toNat, .sRegister)] (.compl (fS w) d a)
  | 4 => let d := fD w; let i := fI16 w; check [(7 < d.toNat, .fieldValue)] (.teth (fS w) d i)
  | 5 => let a := fA w; check [(fD w != 0, .unusedField), (!fX1 w && fB w != 0, .unusedField), (fX1 w, .immediateB), (fX0 w, .unusedField)] (.qpsh (fS w) a)
  | 6 => let d := fD w; check [(fA w != 0, .unusedField), (!fX1 w && fB w != 0, .unusedField), (fX1 w, .immediateB), (fX0 w, .unusedField)] (.qpop (fS w) d)
  | 7 => let d := fD w; let a := fA w; check [(!fX1 w && fB w != 0, .unusedField), (fX1 w, .immediateB), (fX0 w, .unusedField), (64 ≤ d.toNat, .sRegister), (64 ≤ a.toNat, .sRegister)] (.sels (fS w) d a)
  | 8 => let d := fD w; let a := fA w; check [(!fX1 w && fB w != 0, .unusedField), (fX1 w, .immediateB), (fX0 w, .unusedField), (64 ≤ d.toNat, .sRegister), (64 ≤ a.toNat, .sRegister)] (.prio (fS w) d a)
  | 9 => let a := fA w; check [(fD w != 0, .unusedField), (!fX1 w && fB w != 0, .unusedField), (fX1 w, .immediateB), (fX0 w, .unusedField), (64 ≤ a.toNat, .sRegister)] (.phset (fS w) a)
  | _ => .error .unassignedMajor

/-- Majors 0xE0 to 0xEF of the opcode map (R60), with the scanner's reasons (R64). -/
def decodeRowE (w : Word) : Except ScanReason Instr :=
  match (fMaj w).toNat % 16 with
  | 0 => let i := fI16 w; check [(fD w != 0, .unusedField)] (.trap (fS w) i)
  | 1 => check [(fJ23 w != 0, .unusedField)] (.sret (fS w))
  | 2 => let d := fD w; let r := fI16 w; check [(64 ≤ d.toNat, .sRegister), (!sysReadable r, .systemRegister)] (.mfsr (fS w) d r)
  | 3 => if fI16 w == 0x0 then (let d := fD w; check [(64 ≤ d.toNat, .sRegister)] (.mtsrMode (fS w) d)) else if fI16 w == 0x10 then (let d := fD w; check [(64 ≤ d.toNat, .sRegister)] (.mtsrAccown (fS w) d)) else if fI16 w == 0x11 then (let d := fD w; check [(64 ≤ d.toNat, .sRegister)] (.mtsrPix (fS w) d)) else if fI16 w == 0x13 then (let d := fD w; check [(64 ≤ d.toNat, .sRegister)] (.mtsrFlags (fS w) d)) else if fI16 w == 0x20 then (let d := fD w; check [(64 ≤ d.toNat, .sRegister)] (.mtsrTrapcause (fS w) d)) else (let d := fD w; let r := fI16 w; check [(64 ≤ d.toNat, .sRegister), (!sysPlainWritable r, .systemRegister)] (.mtsr (fS w) d r))
  | 4 => let t := fD w; let c := fC5 w; let o := fO7 w; check [(fI4 w != 0, .unusedField), (64 ≤ t.toNat, .sRegister), (64 ≤ o.toNat, .sRegister)] (.pgmap (fS w) t c o)
  | 5 => if fX0 w then (check [(fD w != 0, .unusedField), (fA w != 0, .unusedField), (!fX1 w && fB w != 0, .unusedField), (fX1 w, .immediateB), (!fX0 w, .fieldValue)] (.lpinvW (fS w))) else (let a := fA w; let b := fB w; check [(fD w != 0, .unusedField), (fX1 w, .immediateB), (fX0 w, .unusedField), (32 ≤ a.toNat, .registerClass), (!fX1 w && 64 ≤ b.toNat, .sRegister)] (.lpinv (fS w) a b))
  | 6 => if fX0 w then (check [(fD w != 0, .unusedField), (fA w != 0, .unusedField), (!fX1 w && fB w != 0, .unusedField), (fX1 w, .immediateB), (!fX0 w, .fieldValue)] (.tlbiW (fS w))) else (let a := fA w; let b := fB w; check [(fD w != 0, .unusedField), (fX1 w, .immediateB), (fX0 w, .unusedField), (32 ≤ a.toNat, .registerClass), (!fX1 w && 64 ≤ b.toNat, .sRegister)] (.tlbi (fS w) a b))
  | 7 => let t := fD w; let c := fC5 w; let o := fO7 w; let i := fX0 w; check [((w.toNat &&& 14) != 0, .unusedField), (64 ≤ t.toNat, .sRegister), (64 ≤ o.toNat, .sRegister)] (.cflsh (fS w) t c o i)
  | 8 => let t := fD w; let c := fC5 w; let o := fO7 w; check [(fI4 w != 0, .unusedField), (64 ≤ t.toNat, .sRegister), (64 ≤ o.toNat, .sRegister)] (.cinv (fS w) t c o)
  | 9 => let d := fD w; let i := fI16 w; check [(64 ≤ d.toNat, .sRegister)] (.snap (fS w) d i)
  | 10 => check [(fJ23 w != 0, .unusedField)] (.halt (fS w))
  | 11 => let d := fD w; let a := fA w; check [(!fX1 w && fB w != 0, .unusedField), (fX1 w, .immediateB), (fX0 w, .unusedField), (64 ≤ d.toNat, .sRegister), (64 ≤ a.toNat, .sRegister)] (.pixrd (fS w) d a)
  | 12 => let a := fA w; let b := fB w; check [(fD w != 0, .unusedField), (fX1 w, .immediateB), (fX0 w, .unusedField), (64 ≤ a.toNat, .sRegister), (!fX1 w && 64 ≤ b.toNat, .sRegister)] (.pixwr (fS w) a b)
  | 13 => let t := fD w; let c := fC5 w; let o := fO7 w; check [(fI4 w != 0, .unusedField), (64 ≤ t.toNat, .sRegister), (64 ≤ o.toNat, .sRegister)] (.scrub (fS w) t c o)
  | _ => .error .unassignedMajor

/-- The meaning of a word, or the lowest reason for which the scanner rejects it (R60, R64). -/
def decodeWord (w : Word) : Except ScanReason Instr :=
  if w = 0 then .error .allZero else
  match (fMaj w).toNat / 16 with
  | 0 => decodeRow0 w
  | 1 => decodeRow1 w
  | 2 => decodeRow2 w
  | 3 => decodeRow3 w
  | 4 => decodeRow4 w
  | 5 => decodeRow5 w
  | 6 => decodeRow6 w
  | 7 => decodeRow7 w
  | 8 => decodeRow8 w
  | 9 => decodeRow9 w
  | 10 => decodeRowA w
  | 11 => decodeRowB w
  | 12 => decodeRowC w
  | 13 => decodeRowD w
  | 14 => decodeRowE w
  | _ => .error .unassignedMajor


/-- A word from its four bytes in memory, least significant first (R2, R48). -/
def wordOfBytes (b0 b1 b2 b3 : Byte) : Word :=
  BitVec.ofNat 32 (b0.toNat + b1.toNat * 2 ^ 8 + b2.toNat * 2 ^ 16 + b3.toNat * 2 ^ 24)

/-- Why bytes are no instruction: too few, or a word the scanner rejects. -/
inductive DecodeError where
  | tooShort | rejected (r : ScanReason)
  deriving DecidableEq, Repr

/-- The instruction at the head of the bytes, and the bytes after it. -/
def decodeBytes : List Byte → Except DecodeError (Instr × List Byte)
  | b0 :: b1 :: b2 :: b3 :: rest =>
    match decodeWord (wordOfBytes b0 b1 b2 b3) with
    | .ok i => .ok (i, rest)
    | .error r => .error (.rejected r)
  | _ => .error .tooShort

/-- The four bytes of a word as memory holds them. -/
def bytesOfWord (w : Word) : List Byte :=
  [BitVec.ofNat 8 w.toNat, BitVec.ofNat 8 (w.toNat / 2 ^ 8), BitVec.ofNat 8 (w.toNat / 2 ^ 16), BitVec.ofNat 8 (w.toNat / 2 ^ 24)]

/-- The instruction that the decoder reads from an instruction whose bits are `w`, bits above `nbits` zero. -/
def decodeTableWord (nbits w : Nat) : Option Instr :=
  match decodeBytes (bytesOfWord (BitVec.ofNat 32 (w % 2 ^ nbits))) with
  | .ok (i, _) => some i
  | .error _ => none

/-- Format F-R (R49). -/
def wordR (s : Bool) (m : Nat) (d a b : BitVec 7) (x1 x0 : Bool) : Word :=
  BitVec.ofNat 32 (s.toNat * 2 ^ 31 + m * 2 ^ 23 + d.toNat * 2 ^ 16 + a.toNat * 2 ^ 9 + b.toNat * 2 ^ 2 + x1.toNat * 2 + x0.toNat)
/-- Format F-I (R49). -/
def wordI (s : Bool) (m : Nat) (d a : BitVec 7) (i : BitVec 9) : Word :=
  BitVec.ofNat 32 (s.toNat * 2 ^ 31 + m * 2 ^ 23 + d.toNat * 2 ^ 16 + a.toNat * 2 ^ 9 + i.toNat)
/-- Formats F-L and F-S (R49). -/
def wordL (s : Bool) (m : Nat) (d : BitVec 7) (i : BitVec 16) : Word :=
  BitVec.ofNat 32 (s.toNat * 2 ^ 31 + m * 2 ^ 23 + d.toNat * 2 ^ 16 + i.toNat)
/-- Format F-J (R49). -/
def wordJ (s : Bool) (m : Nat) (j : BitVec 23) : Word :=
  BitVec.ofNat 32 (s.toNat * 2 ^ 31 + m * 2 ^ 23 + j.toNat)
/-- Format F-P (R49). -/
def wordP (s : Bool) (m : Nat) (p : BitVec 3) (n : Bool) (j : BitVec 19) : Word :=
  BitVec.ofNat 32 (s.toNat * 2 ^ 31 + m * 2 ^ 23 + p.toNat * 2 ^ 20 + n.toNat * 2 ^ 19 + j.toNat)
/-- Format F-M (R49). -/
def wordM (s : Bool) (m : Nat) (t : BitVec 7) (c : BitVec 5) (o : BitVec 7) (i : BitVec 4) : Word :=
  BitVec.ofNat 32 (s.toNat * 2 ^ 31 + m * 2 ^ 23 + t.toNat * 2 ^ 16 + c.toNat * 2 ^ 11 + o.toNat * 2 ^ 4 + i.toNat)
/-- Format F-T (R49). -/
def wordT (s : Bool) (m : Nat) (acc : BitVec 3) (oa ob : BitVec 4) (reg : BitVec 7) (ctl : BitVec 5) : Word :=
  BitVec.ofNat 32 (s.toNat * 2 ^ 31 + m * 2 ^ 23 + acc.toNat * 2 ^ 20 + oa.toNat * 2 ^ 16 + ob.toNat * 2 ^ 12 + reg.toNat * 2 ^ 5 + ctl.toNat)

/-- The word of an instruction (R48, R49), written from the same tables; none for the rows without words. -/
def encode : Instr → Option Word
  | .setm sw h i => some (wordL sw 0x1 (0#6 ++ BitVec.ofBool h) i)
  | .setms sw a => some (wordR sw 0x2 0#7 a 0#7 false false)
  | .getm sw d => some (wordR sw 0x3 d 0#7 0#7 false false)
  | .nop sw => some (wordJ sw 0x4 0#23)
  | .bra sw j => some (wordJ sw 0x5 j)
  | .brp sw p n j => some (wordP sw 0x6 p n j)
  | .sjoin sw j => some (wordJ sw 0x7 j)
  | .join sw => some (wordJ sw 0x8 0#23)
  | .call sw j => some (wordJ sw 0x9 j)
  | .ret sw a => some (wordR sw 0xa 0#7 a 0#7 false false)
  | .jmpc sw a => some (wordR sw 0xb 0#7 a 0#7 false false)
  | .jmpcLink sw d a => some (wordR sw 0xb d a 0#7 false true)
  | .exit sw => some (wordJ sw 0xc 0#23)
  | .yield sw => some (wordJ sw 0xd 0#23)
  | .sadd sw d a b i => some (wordR sw 0x10 d a b i false)
  | .ssub sw d a b i => some (wordR sw 0x11 d a b i false)
  | .smul sw d a b i => some (wordR sw 0x12 d a b i false)
  | .smulh sw d a b i u => some (wordR sw 0x13 d a b i u)
  | .sand sw d a b i => some (wordR sw 0x14 d a b i false)
  | .sor sw d a b i => some (wordR sw 0x15 d a b i false)
  | .sxor sw d a b i => some (wordR sw 0x16 d a b i false)
  | .sshl sw d a b i => some (wordR sw 0x17 d a b i false)
  | .sshr sw d a b i => some (wordR sw 0x18 d a b i false)
  | .ssra sw d a b i => some (wordR sw 0x19 d a b i false)
  | .smin sw d a b i u => some (wordR sw 0x1a d a b i u)
  | .smax sw d a b i u => some (wordR sw 0x1b d a b i u)
  | .scmp sw c p a b i u => some (wordR sw 0x1c (c ++ p) a b i u)
  | .ssel sw d a b => some (wordR sw 0x1d d a b false false)
  | .sbfx sw d a b x => some (wordR sw 0x1e d a b false x)
  | .spopc sw d a => some (wordR sw 0x1f d a 0#7 false false)
  | .spopcP sw d a => some (wordR sw 0x1f d a 0#7 false true)
  | .smovi sw d i => some (wordL sw 0x20 d i)
  | .slui sw d i => some (wordL sw 0x21 d i)
  | .pand sw d a b => some (wordR sw 0x58 d a b false false)
  | .por sw d a b => some (wordR sw 0x59 d a b false false)
  | .pxor sw d a b => some (wordR sw 0x5a d a b false false)
  | .pnot sw d a => some (wordR sw 0x5b d a 0#7 false false)
  | .pmov sw d a => some (wordR sw 0x5c d a 0#7 false false)
  | .pmovFromS sw d a => some (wordR sw 0x5c d a 1#7 false false)
  | .pmovToS sw d a => some (wordR sw 0x5c d a 2#7 false false)
  | .pmovMask sw d => some (wordR sw 0x5c d 0#7 3#7 false false)
  | .vadd sw d a b i => some (wordR sw 0x28 d a b i false)
  | .vsub sw d a b i => some (wordR sw 0x29 d a b i false)
  | .vmul sw d a b i => some (wordR sw 0x2a d a b i false)
  | .vmulh sw d a b i => some (wordR sw 0x2b d a b i false)
  | .vmad sw d a b i => some (wordR sw 0x2c d a b i false)
  | .vmin sw d a b i => some (wordR sw 0x2d d a b i false)
  | .vmax sw d a b i => some (wordR sw 0x2e d a b i false)
  | .vabs sw d a => some (wordR sw 0x2f d a 0#7 false false)
  | .vneg sw d a => some (wordR sw 0x30 d a 0#7 false false)
  | .vand sw d a b i => some (wordR sw 0x31 d a b i false)
  | .vor sw d a b i => some (wordR sw 0x32 d a b i false)
  | .vxor sw d a b i => some (wordR sw 0x33 d a b i false)
  | .vnot sw d a => some (wordR sw 0x34 d a 0#7 false false)
  | .vshl sw d a b i => some (wordR sw 0x35 d a b i false)
  | .vshr sw d a b i => some (wordR sw 0x36 d a b i false)
  | .vsra sw d a b i => some (wordR sw 0x37 d a b i false)
  | .vcmp sw c p a b i => some (wordR sw 0x38 (c ++ p) a b i false)
  | .vsel sw d a b i => some (wordR sw 0x39 d a b i false)
  | .vmov sw d a => some (wordR sw 0x3a d a 0#7 false false)
  | .vmovImm sw d b => some (wordR sw 0x3a d 0#7 b true false)
  | .vmovs sw d a => some (wordR sw 0x3b d a 0#7 false false)
  | .vmovsToS sw d a => some (wordR sw 0x3b d a 0#7 false true)
  | .vlid sw d g => some (wordR sw 0x3c d 0#7 0#7 false g)
  | .vclz sw d a => some (wordR sw 0x3d d a 0#7 false false)
  | .vpopc sw d a => some (wordR sw 0x3e d a 0#7 false false)
  | .vdiv sw d a b i => some (wordR sw 0x3f d a b i false)
  | .vrcp sw d a => some (wordR sw 0x40 d a 0#7 false false)
  | .vrsq sw d a => some (wordR sw 0x41 d a 0#7 false false)
  | .vex2 sw d a => some (wordR sw 0x42 d a 0#7 false false)
  | .vlg2 sw d a => some (wordR sw 0x43 d a 0#7 false false)
  | .vsqrt sw d a => some (wordR sw 0x44 d a 0#7 false false)
  | .vcvt sw d a => some (wordR sw 0x48 d a 0#7 false false)
  | .vpack sw d a b h => some (wordR sw 0x49 d a b false h)
  | .vunpk sw d a g => some (wordR sw 0x4a d a g true false)
  | .vqnt sw d a b => some (wordR sw 0x4b d a b false false)
  | .vdqnt sw d a b => some (wordR sw 0x4c d a b false false)
  | .vcbk sw d a b => some (wordR sw 0x4d d a b false false)
  | .vrng sw d b i => some (wordR sw 0x4e d 0#7 b i false)
  | .rseed sw d a => some (wordR sw 0x4f d a 0#7 false false)
  | .vshfl sw d a b i => some (wordR sw 0x50 d a b i false)
  | .vbfly sw d a b => some (wordR sw 0x51 d a b true false)
  | .vball sw d a => some (wordR sw 0x52 d a 0#7 false false)
  | .vany sw d a => some (wordR sw 0x53 d a 0#7 false false)
  | .vall sw d a => some (wordR sw 0x54 d a 0#7 false false)
  | .vscan sw d a x => some (wordR sw 0x55 d a 0#7 false x)
  | .vmxix sw d a b => some (wordR sw 0x56 d a b false false)
  | .vmxixC sw d a b => some (wordR sw 0x56 d a b false true)
  | .vmxixD sw d a => some (wordR sw 0x56 d a 0#7 true true)
  | .vreds sw d a x => some (wordR sw 0x57 d a 0#7 false x)
  | .cgeta sw d a => some (wordR sw 0x60 d a 0#7 false false)
  | .cgetb sw d a => some (wordR sw 0x61 d a 0#7 false false)
  | .cgetl sw d a => some (wordR sw 0x62 d a 0#7 false false)
  | .cgetp sw d a => some (wordR sw 0x63 d a 0#7 false false)
  | .cgett sw d a => some (wordR sw 0x64 d a 0#7 false false)
  | .cseta sw d a b x => some (wordR sw 0x65 d a b false x)
  | .cinc sw d a i => some (wordI sw 0x66 d a i)
  | .csetb sw d a b x => some (wordR sw 0x67 d a b false x)
  | .cprune sw d a b => some (wordR sw 0x68 d a b false false)
  | .cseal sw d a b => some (wordR sw 0x69 d a b false false)
  | .cunsl sw d a b => some (wordR sw 0x6a d a b false false)
  | .cmov sw d a => some (wordR sw 0x6b d a 0#7 false false)
  | .cmovS sw d a => some (wordR sw 0x6b d a 0#7 false true)
  | .cmovFromVc sw d a => some (wordR sw 0x6b d a 1#7 false false)
  | .cmovToVc sw d a => some (wordR sw 0x6b d a 2#7 false false)
  | .cmovVc sw d a => some (wordR sw 0x6b d a 3#7 false false)
  | .ctest sw d a b => some (wordR sw 0x6c d a b false false)
  | .cldc sw t c o i => some (wordM sw 0x6d t c o i)
  | .cstc sw t c o i => some (wordM sw 0x6e t c o i)
  | .vcld sw t c o i => some (wordM sw 0x6f t c o i)
  | .vcst sw t c o i => some (wordM sw 0x70 t c o i)
  | .ld sw t c o i => some (wordM sw 0x78 t c o i)
  | .st sw t c o i => some (wordM sw 0x79 t c o i)
  | .ldu sw t c o i => some (wordM sw 0x7a t c o i)
  | .stu sw t c o i => some (wordM sw 0x7b t c o i)
  | .lds sw t c o i => some (wordM sw 0x7c t c o i)
  | .sts sw t c o i => some (wordM sw 0x7d t c o i)
  | .gath sw t c o i => some (wordM sw 0x7e t c o i)
  | .scat sw t c o i => some (wordM sw 0x7f t c o i)
  | .pref sw t c o i => some (wordM sw 0x80 t c o i)
  | .ldac sw t c o e => some (wordM sw 0x81 t c o (e ++ 0#1))
  | .strl sw t c o e => some (wordM sw 0x82 t c o (e ++ 0#1))
  | .waitc sw d a b i => some (wordR sw 0x83 d a b i false)
  | .rdcnt sw d a e => some (wordR sw 0x84 d a 0#7 false e)
  | .tcpy sw t c o i => some (wordM sw 0x85 t c o i)
  | .bcpy sw t c o => some (wordM sw 0x86 t c o 0#4)
  | .publ sw t c o => some (wordM sw 0x87 t c o 0#4)
  | .fork sw p j => some (wordP sw 0x88 p false j)
  | .rdvz sw p => some (wordP sw 0x89 p false 0#19)
  | .ende sw => some (wordJ sw 0x8a 0#23)
  | .aadd sw t c o e q => some (wordM sw 0x90 t c o (e ++ BitVec.ofBool q))
  | .amin sw t c o e q => some (wordM sw 0x91 t c o (e ++ BitVec.ofBool q))
  | .amax sw t c o e q => some (wordM sw 0x92 t c o (e ++ BitVec.ofBool q))
  | .aand sw t c o e q => some (wordM sw 0x93 t c o (e ++ BitVec.ofBool q))
  | .aor sw t c o e q => some (wordM sw 0x94 t c o (e ++ BitVec.ofBool q))
  | .axor sw t c o e q => some (wordM sw 0x95 t c o (e ++ BitVec.ofBool q))
  | .axchg sw t c o e q => some (wordM sw 0x96 t c o (e ++ BitVec.ofBool q))
  | .acas sw t c o e q => some (wordM sw 0x97 t c o (e ++ BitVec.ofBool q))
  | .amxix sw t c o e q => some (wordM sw 0x98 t c o (e ++ BitVec.ofBool q))
  | .axadd sw t c o e q => some (wordM sw 0x99 t c o (e ++ BitVec.ofBool q))
  | .axrd sw t c o e q => some (wordM sw 0x9a t c o (e ++ BitVec.ofBool q))
  | .dqpsh sw t c o e q => some (wordM sw 0x9b t c o (e ++ BitVec.ofBool q))
  | .dqpop sw t c o e q => some (wordM sw 0x9c t c o (e ++ BitVec.ofBool q))
  | .dqstl sw t c o e q => some (wordM sw 0x9d t c o (e ++ BitVec.ofBool q))
  | .bari sw t c o => some (wordM sw 0x9e t c o 2#4)
  | .bara sw t c o => some (wordM sw 0x9f t c o 2#4)
  | .barw sw t c o => some (wordM sw 0xa0 t c o 2#4)
  | .barx sw t c o => some (wordM sw 0xa1 t c o 2#4)
  | .mclm sw r => some (wordT sw 0xa8 0#3 0#4 0#4 r 0#5)
  | .mclmT sw n r => some (wordT sw 0xa8 n 0#4 0#4 r 1#5)
  | .mrls sw r => some (wordT sw 0xa9 0#3 0#4 0#4 r 0#5)
  | .mldo sw t c o b => some (wordM sw 0xaa t c o (0#3 ++ BitVec.ofBool b))
  | .mma sw n a b k g => some (wordT sw 0xab n a b 0#7 (k ++ g))
  | .mzero sw n => some (wordT sw 0xac n 0#4 0#4 0#7 0#5)
  | .mzeroF sw n => some (wordT sw 0xac n 0#4 0#4 0#7 1#5)
  | .mzeroT sw => some (wordT sw 0xac 0#3 0#4 0#4 0#7 2#5)
  | .mrda sw n r q => some (wordT sw 0xad n 0#4 0#4 r (0#3 ++ q))
  | .mwra sw n r q => some (wordT sw 0xae n 0#4 0#4 r (0#3 ++ q))
  | .mdrn sw n a r z f => some (wordT sw 0xaf n a 0#4 r (0#3 ++ BitVec.ofBool z ++ BitVec.ofBool f))
  | .tldp sw t c o i => some (wordM sw 0xb0 t c o i)
  | .mscl sw n r => some (wordT sw 0xb1 n 0#4 0#4 r 0#5)
  | .mcab sw c o i => some (wordM sw 0xb2 0#7 c o i)
  | .accsv sw t c o i => some (wordM sw 0xb3 t c o i)
  | .accrs sw t c o i => some (wordM sw 0xb4 t c o i)
  | .mstat sw d => some (wordR sw 0xb5 d 0#7 0#7 false false)
  | .shtrp sw d a b => some (wordR sw 0xb8 d a b true false)
  | .shopn sw a b r => some (wordR sw 0xb9 0#7 a b false r)
  | .shrcv sw d b r => some (wordR sw 0xba d 0#7 b false r)
  | .shmul sw d a b => some (wordR sw 0xbb d a b false false)
  | .shtrc sw d a f => some (wordR sw 0xbc d a f true false)
  | .shbtr sw d a b => some (wordR sw 0xbd d a b false false)
  | .shcmp sw d a b => some (wordR sw 0xbe d a b false false)
  | .shrvl sw a b => some (wordR sw 0xbf 0#7 a b false false)
  | .shrvlR sw d a b => some (wordR sw 0xbf d a b false true)
  | .shdeal sw t c o => some (wordM sw 0xc0 t c o 0#4)
  | .shsta sw d a k => some (wordR sw 0xc1 d a k true false)
  | .shdsc sw d a b => some (wordR sw 0xc2 d a b false false)
  | .shmma sw n a b r => some (wordT sw 0xc3 n a b r 0#5)
  | .rcpdef sw t c o b => some (wordM sw 0xc8 t c o (0#3 ++ BitVec.ofBool b))
  | .rcppin sw d a => some (wordR sw 0xc9 d a 0#7 false false)
  | .rcpunp sw d a => some (wordR sw 0xca d a 0#7 false false)
  | .rcpdrp sw d a => some (wordR sw 0xcb d a 0#7 false false)
  | .rcpdrpR sw d a => some (wordR sw 0xcb d a 0#7 false true)
  | .rcpqry sw d a => some (wordR sw 0xcc d a 0#7 false false)
  | .enq sw t c o i => some (wordM sw 0xd0 t c o i)
  | .enqa sw t c o => some (wordM sw 0xd1 t c o 0#4)
  | .cancl sw d a => some (wordR sw 0xd2 d a 0#7 false false)
  | .compl sw d a => some (wordR sw 0xd3 d a 0#7 false false)
  | .teth sw d i => some (wordL sw 0xd4 d i)
  | .qpsh sw a => some (wordR sw 0xd5 0#7 a 0#7 false false)
  | .qpop sw d => some (wordR sw 0xd6 d 0#7 0#7 false false)
  | .sels sw d a => some (wordR sw 0xd7 d a 0#7 false false)
  | .prio sw d a => some (wordR sw 0xd8 d a 0#7 false false)
  | .phset sw a => some (wordR sw 0xd9 0#7 a 0#7 false false)
  | .trap sw i => some (wordL sw 0xe0 0#7 i)
  | .sret sw => some (wordJ sw 0xe1 0#23)
  | .mfsr sw d r => some (wordL sw 0xe2 d r)
  | .mtsr sw d r => some (wordL sw 0xe3 d r)
  | .mtsrMode sw d => some (wordL sw 0xe3 d 0#16)
  | .mtsrAccown sw d => some (wordL sw 0xe3 d 16#16)
  | .mtsrPix sw d => some (wordL sw 0xe3 d 17#16)
  | .mtsrFlags sw d => some (wordL sw 0xe3 d 19#16)
  | .mtsrTrapcause sw d => some (wordL sw 0xe3 d 32#16)
  | .pgmap sw t c o => some (wordM sw 0xe4 t c o 0#4)
  | .lpinv sw a b => some (wordR sw 0xe5 0#7 a b false false)
  | .lpinvW sw => some (wordR sw 0xe5 0#7 0#7 0#7 false true)
  | .tlbi sw a b => some (wordR sw 0xe6 0#7 a b false false)
  | .tlbiW sw => some (wordR sw 0xe6 0#7 0#7 0#7 false true)
  | .cflsh sw t c o i => some (wordM sw 0xe7 t c o (0#3 ++ BitVec.ofBool i))
  | .cinv sw t c o => some (wordM sw 0xe8 t c o 0#4)
  | .snap sw d i => some (wordL sw 0xe9 d i)
  | .halt sw => some (wordJ sw 0xea 0#23)
  | .pixrd sw d a => some (wordR sw 0xeb d a 0#7 false false)
  | .pixwr sw a b => some (wordR sw 0xec 0#7 a b false false)
  | .scrub sw t c o => some (wordM sw 0xed t c o 0#4)
  | .hostEnq _ _ _ => none
  | .hostEnqa _ _ _ => none
  | .hostRead _ _ _ _ => none
  | .hostWrite _ _ _ _ => none
  | .capw _ _ _ _ => none
  | .hostOpcodeUnassigned _ _ => none
  | .wingCreate _ _ => none
  | .wingDestroy _ => none
  | .quota _ _ _ => none
  | .stage2TableWrite _ _ _ _ => none
  | .graphCreate _ _ _ _ => none
  | .jobCreate _ _ => none
  | .bind _ _ => none
  | .unbind _ _ => none
  | .deal _ _ => none
  | .suspendBinding _ _ => none
  | .resumeBinding _ _ => none
  | .preEmptWing _ => none
  | .restoreWing _ _ _ => none
  | .saveOut _ => none
  | .unitPreEmpt _ _ => none
  | .haltResume _ _ => none
  | .haltEnd _ _ => none
  | .stage2Answer _ _ _ => none
  | .poolRefill _ _ _ => none
  | .wingReset _ => none
  | .hostCancel _ _ => none
  | .hostScrub _ _ _ _ _ => none
  | .hostRevocationSweep _ _ _ => none
  | .logEnable _ _ _ _ _ => none
  | .harvest _ _ _ => none
  | .logDisable _ => none
  | .clockRaise _ _ => none
  | .keyRoll _ _ => none
  | .powerCap _ _ => none
  | .snapshotArm _ _ => none
  | .snapshotTrigger _ => none
  | .snapshotReadout _ => none
  | .hostAssociationCreate _ _ _ => none
  | .hostAssociationRemove _ _ => none
  | .levelClose _ _ => none
  | .stage1Map _ _ _ _ => none
  | .unsupportedOptionPacket _ => none
  | .deadGenerationPacket _ _ => none
  | .kgenRequestTimeout _ _ => none
  | .powerOn _ => none
  | .lidOverTemperature => none
  | .dieOverTemperature => none
  | .ballastExchange _ _ => none
  | .unitStart _ _ => none
  | .unitRetirement _ => none
  | .levelCompletion _ => none
  | .phaseStart _ => none
  | .nodeTimerExpiry _ => none
  | .agingThreshold _ => none
  | .countedAccessComplete _ _ => none
  | .barrierDelivery _ _ _ => none
  | .publFlip _ => none
  | .contextSwap _ => none
  | .stopTimeout _ => none
  | .shadowOrHubError _ => none
  | .matrixUncorrectableError _ _ _ => none
  | .registerUncorrectableError _ => none
  | .unitRelaunch _ _ => none
  | .gateExchangeComplete _ _ => none
  | .turnstileTimeout _ _ => none
  | .revocationSweepStart => none
  | .revocationSweepComplete => none
  | .recipeBuildComplete _ _ => none
  | .recipeBuildFailure _ _ => none
  | .budgetWindow _ => none
  | .vitrineLatch => none
  | .clockChangeoverComplete => none
  | .gateUncorrectableError _ _ => none
  | .lidTemperatureNormal => none

end Sys2Proof
end

