-- ==== Sys2Proof/Machine/Tail.lean ====
section
/-! DEFINITION. The Tail (R284, R287-R292): the validity of a program, and its run on one element. -/
namespace Sys2Proof.Machine

/-- The fields of a Tail word (R287). -/
structure TailWord where
  op : Nat
  d : Nat
  a : Nat
  b : Nat
  i : Bool
  ty : Nat
  imm : Nat
  deriving DecidableEq, Repr, Inhabited

/-- Splits a Tail word. -/
def tailWord (w : BitVec 32) : TailWord :=
  let n := w.toNat
  { op := bits n 31 28, d := bits n 27 25, a := bits n 24 22, b := bits n 21 19, i := bit n 18, ty := bits n 17 16,
    imm := bits n 15 0 }

/-- A floating-point target of R290. -/
def tailFloat (t : Nat) : Bool := t == 8 || t == 9 || t == 0xA || t == 0xB || t == 0xC
/-- An integer target of R290. -/
def tailInt (t : Nat) : Bool := t == 0 || t == 1 || t == 2 || t == 3 || t == 4 || t == 5

/-- A pair of R290 for ECVT: the source by TY, the target by type code. -/
def tailPair (ty t : Nat) : Bool := if ty = 3 then t == 0x10 || t == 0x12 else tailFloat t || tailInt t

/-- A Tail word obeys R287 to R291: unused fields zero, I and TY only where allowed. -/
def tailWordOk (w : BitVec 32) : Bool :=
  let x := tailWord w
  let b0 := x.b == 0
  let i0 := !x.i
  let m0 := x.imm == 0
  let second := if x.i then b0 else m0
  match x.op with
  | 0 => second
  | 1 => second
  | 2 => second
  | 3 => second && x.ty != 3
  | 4 => second && x.ty != 3
  | 5 => second && x.ty != 3
  | 6 => b0 && i0 && x.ty == 0 && decide (x.imm < 256)
  | 7 => b0 && i0 && m0
  | 8 => b0 && i0 && m0
  | 9 => b0 && i0 && decide (x.imm < 256) && decide (bits x.imm 7 5 ≤ 5) && tailPair x.ty (x.imm % 32)
  | 10 => b0 && i0 && x.ty != 3 && decide (x.imm < 32) && (tailFloat x.imm || tailInt x.imm)
  | 11 => if x.i then x.a == 0 && b0 else b0 && x.ty == 0 && m0
  | 12 => x.d == 0 && b0 && i0 && x.ty == 0 && decide (x.imm ≤ 2)
  | 13 => x.d == 0 && b0 && i0 && x.ty == 0 && m0
  | _ => x.d == 0 && x.a == 0 && b0 && i0 && x.ty == 0 && m0

/-- The size that an ESTO word stores. -/
def estoSize (w : BitVec 32) : Option Nat :=
  let x := tailWord w
  if x.op = 12 then some (2 ^ x.imm) else none

/-- A loaded program is valid (R301). -/
def tailValid (ws : List (BitVec 32)) : Bool :=
  let sizes := ws.filterMap estoSize
  ws.all tailWordOk && sizes.all (· == sizes.headD 0) && ws.any fun w => (tailWord w).op == 15

/-- ENOP. -/
def tailNop : BitVec 32 := 0xE000_0000#32
/-- The identity program (R284). -/
def tailIdentity : List (BitVec 32) := [0xC000_0002#32, 0xF000_0000#32] ++ List.replicate 62 tailNop
/-- The Tail program of a matrix unit: the identity while TP is clear. -/
def tailProgram (m : Matrix) : List (BitVec 32) := if m.tp then m.tail else tailIdentity
/-- The program up to its first EEND. -/
def tailBody (ws : List (BitVec 32)) : List (BitVec 32) := ws.takeWhile fun w => (tailWord w).op != 15
/-- w of R300: the size of the ESTOs of the loaded program, 0 without one. -/
def tailWidth (ws : List (BitVec 32)) : Nat := (ws.filterMap estoSize).headD 0
/-- The program uses ELUT, EBIA or ESCL (R300). DESIGN CHOICE: a word after the first EEND, which never runs, is not used; the width
w is that of every ESTO of the loaded words (log 57). -/
def tailUsesSide (ws : List (BitVec 32)) : Bool :=
  (tailBody ws).any fun w => let o := (tailWord w).op; o == 6 || o == 7 || o == 8

/-- RNE to F32 with SAT = 0 (R288). -/
def f32 (v : Val) : Nat := (cvtf 8 { mode := 0, sat := false } v).pat
/-- The element type of a TY. -/
def tyType : Nat → Nat | 0 => 8 | 1 => 0 | 2 => 1 | _ => 0x10

/-- Add, subtract or multiply under a TY (R288). -/
def tailArith (op ty a b : Nat) : Nat :=
  if ty = 0 then
    let x := valueOf 8 a
    let y := valueOf 8 b
    match op with
    | 0 => f32 (addVal 0 x y).1
    | 1 => f32 (addVal 0 x (negVal y)).1
    | _ => f32 (mulVal x y).1
  else match op with
    | 0 => (a + b) % 2 ^ 32
    | 1 => (a + 2 ^ 32 - b) % 2 ^ 32
    | _ => (a * b) % 2 ^ 32

/-- ECLP (R289). -/
def tailClip (ty a s : Nat) : Nat :=
  match ty with
  | 0 =>
    if isNan (valueOf 8 a) then nanPat 8
    else minMax 8 false (minMax 8 true a (s % 2 ^ 31 + 2 ^ 31)) (s % 2 ^ 31)
  | 2 => min a s
  | _ =>
    let l := (sext 32 s).natAbs
    wrap 32 (min (max (sext 32 a) (-(l : Int))) l)

/-- A word of the side slot (R292). -/
def sideWord (side : List Byte) (off : Nat) : Nat := leNat ((side.drop off).take 4)

/-- ELUT (R291). -/
def tailLut (a imm : Nat) (side : List Byte) : Nat :=
  let x := valueOf 8 a
  let sh := sext 8 imm
  let seg : Nat := match x with
    | .nan => 0
    | .inf neg => if neg then 0 else 127
    | .fin neg m e =>
      let q : Int := if neg then -(m : Int) else m
      let k := e + sh
      let f : Int := q * (2 ^ k.toNat : Nat) / (2 ^ (-k).toNat : Nat)
      (min (max (f + 64) 0) 127).toNat
  let mk := valueOf 8 (sideWord side (8 * seg))
  let bk := valueOf 8 (sideWord side (8 * seg + 4))
  match x with
  | .nan => nanPat 8
  | .inf _ => if isZero mk then f32 bk else f32 (fmaVal 0 mk x bk).1
  | _ => f32 (fmaVal 0 mk x bk).1

/-- The value of a source under a TY. -/
def tyVal (ty a : Nat) : Val := valueOf (tyType ty) a

/-- ECVT (R290): the result and whether it counts. -/
def tailCvt (ty a imm r : Nat) : Nat × Bool :=
  let t := imm % 32
  if ty = 3 then (a % 2 ^ widthOf t, false)
  else
    let k : Rnd := { mode := bits imm 7 5, sat := true, r := r % 2 ^ 24 }
    if tailFloat t then
      let x := cvtf t k (tyVal ty a)
      (x.pat, x.fl &&& (fOVF + fINV) != 0)
    else if ty = 0 then
      let x := cvti t k (tyVal ty a)
      (x.pat, x.fl &&& fINV != 0)
    else
      let x := intres t true (intOf (tyType ty) a)
      (x.pat, x.fl != 0)

/-- The magnitude of the largest finite value of a floating-point target, an integer for an integer source. -/
def maxMag (t : Nat) : Val := valueOf t (maxPat t)

/-- ESAT (R290): the value clamped to the target's finite range, kept in TY. DESIGN CHOICE: a NaN passes unchanged, as R290 says, with
its own pattern, canonical or not (R125; log 57). -/
def tailSat (ty a t : Nat) : Nat :=
  if ty = 0 then
    let v := valueOf 8 a
    if isNan v then a
    else if tailFloat t then
      if cmpVal (if negOf v then negVal v else v) (maxMag t) = .gt then f32 (maxMag t) + (if negOf v then 2 ^ 31 else 0) else a
    else
      let hi := ofScaled (highest t) 0 false
      let lo := ofScaled (lowest t) 0 false
      let rtz (x : Val) : Nat := (cvtf 8 { mode := 1, sat := false } x).pat
      if cmpVal v hi = .gt then rtz hi else if cmpVal v lo = .lt then rtz lo else a
  else
    let x := intOf (tyType ty) a
    if tailFloat t then
      match maxMag t with
      | .fin _ m e =>
        let l : Int := (m * 2 ^ e.toNat : Nat)
        wrap 32 (min (max x (-l)) l)
      | _ => a
    else wrap 32 (min (max x (lowest t)) (highest t))

/-- The widened immediate (R287). -/
def tailImm (ty imm : Nat) : Nat :=
  match ty with
  | 0 => imm * 65536
  | 1 => wrap 32 (sext 16 imm)
  | _ => imm

/-- The registers of a Tail run, its output and its overflow count. -/
structure TailState where
  e : List Nat
  out : Option (Nat × Nat) := none
  ovf : Nat := 0

/-- Adds 1 to the overflow count, which saturates (R290). -/
def tailHit (t : TailState) (hit : Bool) : TailState := if hit then { t with ovf := min (t.ovf + 1) 65535 } else t

/-- One Tail word (R289); `j` is the element index, `r` the random bits of R131. -/
def tailStep (side : List Byte) (j r : Nat) (t : TailState) (w : BitVec 32) : TailState :=
  let x := tailWord w
  let a := nth 0 t.e x.a
  let s := if x.i then tailImm x.ty x.imm else nth 0 t.e x.b
  let set (v : Nat) : TailState := { t with e := setNth t.e x.d (v % 2 ^ 32) }
  match x.op with
  | 0 => set (tailArith 0 x.ty a s)
  | 1 => set (tailArith 1 x.ty a s)
  | 2 => set (tailArith 2 x.ty a s)
  | 3 => set (minMax (tyType x.ty) true a s)
  | 4 => set (minMax (tyType x.ty) false a s)
  | 5 => set (tailClip x.ty a s)
  | 6 => set (tailLut a x.imm side)
  | 7 => set (tailArith 0 x.ty a (sideWord side (1024 + 4 * j)))
  | 8 => set (tailArith 2 x.ty a (sideWord side (1152 + 4 * j)))
  | 9 => let v := tailCvt x.ty a x.imm r; tailHit (set v.1) v.2
  | 10 => let v := tailSat x.ty a x.imm; tailHit (set v) (v != a)
  | 11 => set (if x.i then tailImm x.ty x.imm else a)
  | 12 => { t with out := some (2 ^ x.imm, a % 2 ^ (8 * 2 ^ x.imm)) }
  | 13 => tailHit t (a != 0)
  | _ => t

/-- The Tail on element (i, j) (R288), with the lane that rnd32 takes: the output with its size, and the overflow count after
it. -/
def tailRun (ws : List (BitVec 32)) (side : List Byte) (seed dix lane e0 i j ovf : Nat) : TailState :=
  (tailBody ws).foldl (tailStep side j (rnd32 seed dix lane j)) { e := [e0, j, i, 0, 0, 0, 0, 0], ovf := ovf }

end Sys2Proof.Machine
end

