-- ==== Sys2Proof/Machine/Matrix.lean ====
section
/-! DEFINITION. The matrix unit (R274-R304): claims, the accumulator owner, MMA, the moves of tiles, the drain and the
loads of matrix storage. -/
namespace Sys2Proof.Machine

/-- The rows of a row-wise instruction (R280): the guard mask; in a sequencer, over all 32 rows. -/
def rowMask (c : Ctx) : BitVec 32 := if isSeq c.src then rowGuard c else guardOf c
/-- The rows, ascending. -/
def rowsOf (c : Ctx) : List Nat := lanesOf (rowMask c)

/-- A trap of a row-wise matrix instruction: TRAPLANES is the guard mask (R57), which a matrix sequencer forms over all 32 rows
(R280). -/
def matTrap (c : Ctx) (cause : Nat) : Trap := { cause := cause, lanes := some (rowMask c) }

-- Claims.

/-- The slot mask of a register. -/
def claimMask (c : Ctx) (r : BitVec 7) : BitVec 16 := (opS c r).setWidth 16

/-- MCLM (R294). -/
def execMclm (sw : Bool) (r : BitVec 7) (s : State) : Out :=
  runState s (.only .seqMatrix) fun c =>
    let m := matOf s c.k
    let v := claimMask c r
    let e := (c.k, c.src, v)
    let held := (maskSlots v).all (claimedBy m c.k)
    if held || (canClaim m c.k v && !m.waiting.contains e) then
      .ok (finish (setMat s c.k (claimAll m c.k v)) c sw)
    else
      let m := if m.waiting.contains e then m else { m with waiting := m.waiting ++ [e] }
      .ok (waitWith (setMat s c.k m) c .claim)

/-- MCLM.t (R294). -/
def execMclmT (sw : Bool) (n : BitVec 3) (r : BitVec 7) (s : State) : Out :=
  runState s (.only .seqMatrix) fun c =>
    let m := matOf s c.k
    let v := claimMask c r
    let ok := canClaim m c.k v
    let s := setMat s c.k (if ok then claimAll m c.k v else m)
    .ok (finishRegs s c sw fun g => writeP c g n.toNat (if ok then BitVec.allOnes 32 else 0))

-- Order within the unit.

/-- What a matrix instruction reads or writes: slots, tiles, the Tail program. -/
structure MatUse where
  slots : List Nat := []
  tiles : List Nat := []
  tail  : Bool := false

/-- A load of the wave that the instruction must wait for (R281). -/
def loadsInto (u : MatUse) : AccKind → Bool
  | .loadSlot o _ _ => u.slots.contains o
  | .loadTile t _ _ => u.tiles.contains t
  | .loadTail _ _ _ => u.tail
  | _ => false

/-- The sources that issue matrix instructions. -/
def matSrcs : List Src := [.slotA, .slotB, .seqMatrix]

/-- The progress of a source's running instruction. -/
def srcProg (w : Wave) (x : Src) : Option DWord := if isSeq x then (seqOf w x).prog else (slotOf w x).prog

/-- A matrix instruction waits: part-way through it holds the matrix unit of its alcove (R329). -/
def matWait (s : State) (c : Ctx) : State := waitWith s c (if (srcProg c.w c.src).isSome then .part else .poll)

/-- Some source of an alcove, other than a given one, runs a matrix instruction that is part-way (R286, R329). -/
def matMidway (s : State) (alc k : Nat) (src : Src) : Bool :=
  s.waves.any fun e => alcOf e.1 == alc && e.2.used && matSrcs.any fun x => !(e.1 == k && x == src) && srcHold e.2 x == .part

/-- The instruction must wait: for loads of its wave (R281), for the other slot's matrix instruction that has stopped
part-way or is at the gate (R280), for a matrix instruction that another source of the alcove has part-way (R329). -/
def matBusy (s : State) (c : Ctx) (u : MatUse) : Bool :=
  let o := slotOf c.w (otherSrc c.src)
  c.w.accs.any (fun a => !a.performed && loadsInto u a.kind)
    || (!isSeq c.src && (o.prog.getD o.pix != 0
        || c.w.accs.any fun a => !a.performed && a.src == otherSrc c.src && a.kind == .gate true))
    || matMidway s (alcOf c.k) c.k c.src

/-- MRLS (R294), once no matrix instruction of the alcove is part-way (R280, R281). -/
def execMrls (sw : Bool) (r : BitVec 7) (s : State) : Out :=
  runState s (.only .seqMatrix) fun c =>
    let v := claimMask c r
    if matBusy s c { slots := maskSlots v } then .ok (waitWith s c .poll)
    else .ok (finish (setMat s c.k (releaseSlots (matOf s c.k) c.k v)) c sw)

/-- acccheck passes (R282). -/
def accOk (m : Matrix) (ctx : BitVec 32) : Bool :=
  m.accown == ctx || m.accown == 0 || (m.live == 0 && !m.tp)

/-- acccheck (R282): trap 0x0D with the context in TRAPADDR. -/
def accCheck (s : State) (c : Ctx) (rowwise : Bool) : Except Trap PUnit :=
  let x := (unitOf s c.k).ctxid
  if accOk (matOf s c.k) x then .ok ⟨⟩
  else
    let t : Trap := if rowwise then matTrap c 0x0D else { cause := 0x0D }
    .error { t with addr := x.setWidth 64 }

/-- acctake (R282). -/
def accTake (s : State) (c : Ctx) : State :=
  setMat s c.k { matOf s c.k with accown := (unitOf s c.k).ctxid }

/-- A live bit set or cleared. -/
def setLive (m : Matrix) (n : Nat) (v : Bool) : Matrix :=
  let b := 1#8 <<< n
  { m with live := if v then m.live ||| b else m.live &&& ~~~b }
/-- The Tail program memory reset to the identity program (R284). -/
def resetTail (m : Matrix) : Matrix := { m with tp := false, tail := [] }
/-- A tile's word. -/
def tileGet (m : Matrix) (n i j : Nat) : Nat := (tget 0 m.tiles (n * 1024 + 32 * i + j)).toNat
/-- Writes a tile's word. -/
def tileSet (m : Matrix) (n i j v : Nat) : Matrix :=
  { m with tiles := tset 0 m.tiles (n * 1024 + 32 * i + j) (BitVec.ofNat 32 v) }
/-- Rewrites the words of the given rows of a tile from the words that the rows hold. -/
def tileMap (m : Matrix) (n : Nat) (rows : List Nat) (f : Nat → Nat → Nat → Nat) : Matrix :=
  rows.foldl (fun m i => (List.range 32).foldl (fun m j => tileSet m n i j (f i j (tileGet m n i j))) m) m

/-- An accumulator-class instruction (R282): `pre` gives a trap for a type; acccheck; `slots` that must be claimed
(R275); the waits of R281; acctake; then the effect. -/
def accInstr (s : State) (a : Where) (rowwise : Bool) (bad : Ctx → Bool) (need : Ctx → List Nat) (u : Ctx → MatUse)
    (f : Ctx → State → Except Trap State) : Out :=
  runState s a fun c => do
    trapIf (bad c) (matTrap c 0x0A)
    accCheck s c rowwise
    trapIf ((need c).any fun i => decide (15 < i) || !claimedBy (matOf s c.k) c.k i) (if rowwise then matTrap c 0x0E else { cause := 0x0E })
    if matBusy s c (u c) then .ok (matWait s c)
    else f c (accTake s c)

/-- An effect on the matrix unit alone, after which the source moves on. -/
def matEffect (sw : Bool) (f : Ctx → Matrix → Matrix) (c : Ctx) (s : State) : Except Trap State :=
  .ok (finish (setMat s c.k (f c (matOf s c.k))) c sw)

-- MMA.

/-- K per step of a type pair (R277), and whether the tile is F32. -/
def mmaPair (et st : Nat) : Option (Nat × Bool) :=
  let f8 (t : Nat) : Bool := t == 0xB || t == 0xC
  let i8 (t : Nat) : Bool := t == 4 || t == 5
  if (et = 9 ∧ st = 9) ∨ (et = 0xA ∧ st = 0xA) then some (32, true)
  else if f8 et && (f8 st || st == 0x15) then some (64, true)
  else if i8 et && i8 st then some (64, false)
  else if i8 et && st == 0x14 then some (64, true)
  else if et = 0x10 ∧ (st = 0 ∨ st = 1) then some (16, false)
  else none

/-- An element of `z` bytes at a byte of a slot. -/
def slotElem (m : Matrix) (o z at_ : Nat) : Nat := leNat (tbytes m.slots (o * 2176 + at_) z)
/-- A sideband byte of a slot. -/
def sideByte (m : Matrix) (o at_ : Nat) : Nat := (tget 0 m.slots (o * 2176 + 2048 + at_)).toNat

/-- The integer sum of the products of an element (R277, R279). -/
def mmaInt (m : Matrix) (et st kk sa sb i j : Nat) : Int :=
  let za := widthOf et / 8
  let zb := widthOf st / 8
  (List.range kk).foldl (fun n k =>
    n + intOf et (slotElem m sa za (za * (kk * i + k))) * intOf st (slotElem m sb zb (zb * (kk * j + k)))) 0

/-- The products of an element of a floating-point step, each exact (R277-R279). -/
def mmaTerms (m : Matrix) (et st kk sa sb gs i j : Nat) : List Val :=
  let za := widthOf et / 8
  let a (k : Nat) := slotElem m sa za (za * (kk * i + k))
  if st = 0x14 then
    (List.range 2).map fun b =>
      let p := sideByte m sb (64 * b + 2 * j) + 256 * sideByte m sb (64 * b + 2 * j + 1)
      let n := (List.range 32).foldl (fun n k =>
        n + intOf et (a (32 * b + k)) * (sext 8 (slotElem m sb 1 (kk * j + 32 * b + k)) - pairZp p)) 0
      match k8Val (p % 256) with
      | .fin _ sm se => ofScaled (n * sm) se false
      | v => v
  else if st = 0x15 then
    let ws := (List.range 8).flatMap fun t =>
      codeWeights m.cabinet (slotElem m sb 2 (512 * gs + 16 * j + 2 * t)) (sideByte m sb (32 * gs + j))
    (List.range 64).map fun k => (mulVal (valueOf et (a k)) (nth .nan ws k)).1
  else
    let zb := widthOf st / 8
    (List.range kk).map fun k => (mulVal (valueOf et (a k)) (valueOf st (slotElem m sb zb (zb * (kk * j + k))))).1

/-- accres under F32 (R279). -/
def accres (c : Nat) (ps : List Val) : Nat :=
  f32 (ps.foldl (fun x p => (addVal 0 x p).1) (valueOf 8 c))

/-- One K-step on the given rows of a tile (R296). -/
def mmaStep (m : Matrix) (n et st kk : Nat) (fl : Bool) (sa sb gs : Nat) (rows : List Nat) : Matrix :=
  let out := tileMap m n rows fun i j c =>
    if fl then accres c (mmaTerms m et st kk sa sb gs i j) else wrap 32 (c + mmaInt m et st kk sa sb i j)
  if rows.isEmpty then m else setLive out n true

/-- The B slot and K-group of a step (R296). -/
def mmaB (st ob g i : Nat) : Nat × Nat := if st = 0x15 then (ob + (g + i) / 4, (g + i) % 4) else (ob + i, 0)

/-- The slots that an MMA names. -/
def mmaSlots (st oa ob g n : Nat) : List Nat := (List.range n).flatMap fun i => [oa + i, (mmaB st ob g i).1]

/-- MMA (R296): one K-step at each issue, PIX.DONE counting them; an empty guard applies none. -/
def execMma (sw : Bool) (n : BitVec 3) (a b : BitVec 4) (k : BitVec 3) (g : BitVec 2) (s : State) : Out :=
  let cnt := k.toNat + 1
  accInstr s (.rows true) true
    (fun c => (mmaPair (modeEty c.rd.mode) (modeSty c.rd.mode)).isNone || (g != 0 && modeSty c.rd.mode != 0x15))
    (fun c => mmaSlots (modeSty c.rd.mode) a.toNat b.toNat g.toNat cnt)
    (fun c => { slots := mmaSlots (modeSty c.rd.mode) a.toNat b.toNat g.toNat cnt, tiles := [n.toNat] })
    fun c s =>
      let et := modeEty c.rd.mode
      let st := modeSty c.rd.mode
      let d := bits c.pix.toNat 15 0
      if st = 0x15 && mcabPending c.w then .ok (matWait s c)
      else if (rowsOf c).isEmpty || decide (cnt ≤ d) then .ok (finish s c sw)
      else
        let (kk, fl) := (mmaPair et st).getD (0, false)
        let (sb, gs) := mmaB st b.toNat g.toNat d
        let s := setMat s c.k (mmaStep (matOf s c.k) n.toNat et st kk fl (a.toNat + d) sb gs (rowsOf c))
        if d + 1 = cnt then .ok (finish s c sw)
        else
          .ok (stepOn s c .part (BitVec.ofNat 64 (d + 1)))

-- Tiles.

/-- MZERO (R297). -/
def execMzero (sw : Bool) (n : BitVec 3) (s : State) : Out :=
  accInstr s (.rows true) true (fun _ => false) (fun _ => []) (fun _ => { tiles := [n.toNat] })
    (matEffect sw fun c m =>
      let out := tileMap m n.toNat (rowsOf c) fun _ _ _ => 0
      if (rowsOf c).isEmpty then m else setLive out n.toNat true)
/-- MZERO.f (R297). -/
def execMzeroF (sw : Bool) (n : BitVec 3) (s : State) : Out :=
  accInstr s (.only .seqMatrix) false (fun _ => false) (fun _ => []) (fun _ => { tiles := [n.toNat] })
    (matEffect sw fun _ m => setLive m n.toNat false)
/-- MZERO.t (R297). -/
def execMzeroT (sw : Bool) (s : State) : Out :=
  accInstr s (.only .seqMatrix) false (fun _ => false) (fun _ => []) (fun _ => { tail := true })
    (matEffect sw fun _ m => resetTail m)

/-- MRDA (R298). -/
def execMrda (sw : Bool) (n : BitVec 3) (r : BitVec 7) (q : BitVec 2) (s : State) : Out :=
  accInstr s (.rows false) true (fun _ => false) (fun _ => []) (fun _ => { tiles := [n.toNat] })
    fun c s =>
      let m := matOf s c.k
      .ok (finishRegs s c sw fun g => (rowsOf c).foldl (fun g i => (List.range 8).foldl (fun g x =>
        setV g (r.toNat + x) i (BitVec.ofNat 32 (tileGet m n.toNat i (8 * q.toNat + x)))) g) g)
/-- MWRA (R298). -/
def execMwra (sw : Bool) (n : BitVec 3) (r : BitVec 7) (q : BitVec 2) (s : State) : Out :=
  accInstr s (.rows false) true (fun _ => false) (fun _ => []) (fun _ => { tiles := [n.toNat] })
    (matEffect sw fun c m =>
      let out := (rowsOf c).foldl (fun m i => (List.range 8).foldl (fun m x =>
        tileSet m n.toNat i (8 * q.toNat + x) (getV c.rd (r.toNat + x) i).toNat) m) m
      if (rowsOf c).isEmpty then m else setLive out n.toNat true)
/-- MSCL (R299). -/
def execMscl (sw : Bool) (n : BitVec 3) (r : BitVec 7) (s : State) : Out :=
  accInstr s (.rows false) true (fun _ => false) (fun _ => []) (fun _ => { tiles := [n.toNat] })
    (matEffect sw fun c m =>
      let out := tileMap m n.toNat (rowsOf c) fun i _ x =>
        accres 0 [(mulVal (valueOf 8 x) (valueOf 8 (getV c.rd r.toNat i).toNat)).1]
      if (rowsOf c).isEmpty then m else setLive out n.toNat true)

-- Transfers.

/-- The checks at issue of a transfer of `n` bytes from `x` on: capcheck and an alignment (R293). -/
def bulkCheck (s : State) (c : Ctx) (cap : Cap) (x : Int) (n : Nat) (right al : Nat) : Except Trap PUnit :=
  let mis : Option Nat := if x % (al : Int) ≠ 0 then some 0x1A else none
  match minCause (capCause cap x n [right] (worldOf s c.k) (scrWin s c.k)) mis with
  | some e => .error { cause := e, addr := BitVec.ofNat 64 (wrap 64 x) }
  | none => .ok ⟨⟩

/-- An access of a matrix transfer; its errors name no lanes (R204, R281, log 26). -/
def bulkAcc (c : Ctx) (path : Nat) (k : AccKind) : Access :=
  { path := path, kind := k, pc := c.pc, src := c.src, mask := some 0 }

/-- MLDO (R295): translated at issue, line by line; line i stands as lane 32 + i. -/
def execMldo (sw : Bool) (t : BitVec 7) (cr : BitVec 5) (o : BitVec 7) (b : Bool) (s : State) : Out :=
  runState s (.only .seqMatrix) fun c => do
    let cap := opC c cr.toNat
    let x := addrS c cap o 0
    let n := if b then 2176 else 2048
    trapIf (!claimedBy (matOf s c.k) c.k t.toNat) { cause := 0x0E }
    bulkCheck s c cap x n pLD 1
    unheld s c do
    let q : AccReq := { cap := cap, n := 128, rights := [pLD], align := 128, need := .read, scalar := true }
    let (s', r) ← checkLanes s c q ((List.range (n / 128)).map fun i => { lane := 32 + i, x := x + (128 * i : Nat) })
    if matBusy s c { slots := [t.toNat] } then .ok (waitWith s c .poll)
    else match r with
      | none => .ok s'
      | some l =>
        .ok (issueAcc s' c sw { bulkAcc c (pathFor cap 0) (.loadSlot t.toNat x.toNat (l.locs.map fun e => (e.1 - 32, e.2))) with
          err := l.err.map ({ · with lanes := 0 }) })

/-- TLDP (R301). -/
def execTldp (sw : Bool) (t : BitVec 7) (cr : BitVec 5) (o : BitVec 7) (i : BitVec 4) (s : State) : Out :=
  let pre (c : Ctx) : Cap × Int := (opC c cr.toNat, addrS c (opC c cr.toNat) o (4 * i.toNat))
  runState s (.only .seqMatrix) fun c => do
    accCheck s c false
    let (cap, x) := pre c
    bulkCheck s c cap x (4 * t.toNat) pLD 4
    unheld s c <| if matBusy s c { tail := true } || decide (Config.counterMax ≤ countOf c.w (pathFor cap 0)) then
      .ok (waitWith s c .poll)
    else withPages s c cap x.toNat (4 * t.toNat) .read fun s ts =>
      .ok (issueAcc (accTake s c) c sw { bulkAcc c (pathFor cap 0) (.loadTail t.toNat cap x.toNat) with trs := ts })

/-- MCAB (R302). -/
def execMcab (sw : Bool) (cr : BitVec 5) (o : BitVec 7) (i : BitVec 4) (s : State) : Out :=
  runState s (.only .seqMatrix) fun c => do
    let cap := opC c cr.toNat
    let x := addrS c cap o (2048 * i.toNat)
    bulkCheck s c cap x 2048 pLD 128
    unheld s c <| if matBusy s c {} then .ok (waitWith s c .poll)
    else withPages s c cap x.toNat 2048 .read fun s ts =>
      .ok (issueAcc s c sw { bulkAcc c (pathFor cap 0) (.loadCabinet cap x.toNat) with trs := ts })

/-- The bytes of a tile row. -/
def tileRow (m : Matrix) (n i : Nat) : List Byte := (List.range 32).flatMap fun j => natLe 4 (tileGet m n i j)

/-- ACCSV (R303): the tile is read at issue (R281). -/
def execAccsv (sw : Bool) (t : BitVec 7) (cr : BitVec 5) (o : BitVec 7) (i : BitVec 4) (s : State) : Out :=
  runState s (.only .seqMatrix) fun c => do
    let cap := opC c cr.toNat
    let x := addrS c cap o (4096 * i.toNat)
    bulkCheck s c cap x 4096 pST 128
    unheld s c <| if matBusy s c { tiles := [t.toNat] } || decide (Config.counterMax ≤ countOf c.w (pathFor cap 1)) then
      .ok (waitWith s c .poll)
    else withPages s c cap x.toNat 4096 .write fun s ts =>
      let m := matOf s c.k
      let rows := (List.range 32).map fun r => (r, 0#64, x.toNat + 128 * r, tileRow m t.toNat r)
      .ok (issueAcc (setMat s c.k (setLive m t.toNat false)) c sw { bulkAcc c (pathFor cap 1) (.drain cap rows) with trs := ts })

/-- ACCRS (R303). -/
def execAccrs (sw : Bool) (t : BitVec 7) (cr : BitVec 5) (o : BitVec 7) (i : BitVec 4) (s : State) : Out :=
  runState s (.only .seqMatrix) fun c => do
    let cap := opC c cr.toNat
    let x := addrS c cap o (4096 * i.toNat)
    bulkCheck s c cap x 4096 pLD 128
    unheld s c <| if matBusy s c { tiles := [t.toNat] } then .ok (waitWith s c .poll)
    else withPages s c cap x.toNat 4096 .read fun s ts =>
      .ok (issueAcc s c sw { bulkAcc c (pathFor cap 0) (.loadTile t.toNat cap x.toNat) with trs := ts })

-- The drain.

/-- The lane of rnd32 (R131): a row's own lane (R288), and lane 0 in a sequencer. -/
def rndLane (c : Ctx) (i : Nat) : Nat := if isSeq c.src then 0 else i

/-- Runs the Tail over a row (R300): the bytes to store with their addresses, and the overflow count. -/
def drainRow (c : Ctx) (m : Matrix) (n w x : Nat) (side : List Byte) (i ovf : Nat) : List (Nat × List Byte) × Nat :=
  (List.range 32).foldl (fun (acc : List (Nat × List Byte) × Nat) j =>
    let r := tailRun (tailProgram m) side c.rd.seed.toNat c.dix.toNat (rndLane c i) (tileGet m n i j) i j acc.2
    match r.out with
    | some (sz, v) => (acc.1 ++ [(x + (32 * i + j) * w, natLe sz v)], r.ovf)
    | none => (acc.1, r.ovf)) ([], ovf)

/-- The drain's access while it grows. -/
def growingOf (w : Wave) (c : Ctx) : Option Nat :=
  (List.range w.accs.length).find? fun i => match w.accs[i]? with
    | some a => a.grows && a.src == c.src && a.pc == c.pc
    | none => false

/-- Adds runs of bytes to the drain's access, `more` saying whether rows are still to come; none where a new access
cannot be counted yet. -/
def growDrain (w : Wave) (c : Ctx) (path : Nat) (cap : Cap) (runs : List (Nat × DWord × Nat × List Byte)) (more : Bool)
    (a : Access) : Option Wave :=
  match growingOf w c with
  | some i =>
    let accs := w.accs.mapIdx fun j a => if j = i then
        match a.kind with
        | .drain k rs => { a with kind := .drain k (rs ++ runs), grows := more, performed := false }
        | _ => a
      else a
    some { w with accs := accs }
  | none =>
    if Config.counterMax ≤ countOf w path then none
    else
      let a := { a with kind := .drain cap runs, grows := more }
      some { w with counts := tput w.counts path (countOf w path + 1), accs := w.accs ++ [a] }

/-- The drain that the source runs has met an error: it ends early (R204). -/
def drainFailed (w : Wave) (c : Ctx) : Bool :=
  w.accs.any fun a => a.grows && a.src == c.src && a.pc == c.pc && a.err.isSome

/-- One row of MDRN, or its overflow word (R300); `ts` are the translations of a drain that has not begun, and `s0` the state to
wait in. -/
def drainStep (s0 s : State) (c : Ctx) (sw : Bool) (n a : Nat) (z f : Bool) (cap : Cap) (ts : Table PageTr) : State :=
  let m := matOf s c.k
  let w := tailWidth (tailProgram m)
  let x := capAddr cap
  let s := accTake s c
  let path := pathFor cap 1
  let rows := rowsOf c
  let d := bits c.pix.toNat 15 0
  let ovf := bits c.pix.toNat 31 16
  let wv := waveAt s c.k
  let row := rows[d]?
  let (runs, cnt) := match row with
    | some i => drainRow c m n w x (tbytes m.slots (a * 2176) 2048) i ovf
    | none => ([], ovf)
  let last := decide (rows.length ≤ d + 1)
  let runs := runs.map (fun e => (row.getD 0, c.pix, e.1, e.2))
    ++ (if last then [(32, BitVec.ofNat 64 (cnt * 65536 + rows.length), x + 1024 * w, natLe 4 cnt)] else [])
  if rows.length < d then finish s c sw
  else if drainFailed wv c then
    finish (setWave s c.k { wv with accs := wv.accs.map fun q =>
      if q.grows && q.src == c.src && q.pc == c.pc then { q with grows := false } else q }) c sw
  else match growDrain wv c path cap runs (!last) (stamped s c { bulkAcc c path (.drain cap []) with trs := ts }) with
    | none => matWait s0 c
    | some wv =>
      let m := matOf s c.k
      let m := match row with
        | some i => if z then tileMap m n [i] (fun _ _ _ => 0) else m
        | none => m
      let m := if last && f then setLive m n false else m
      let s := setWave (setMat s c.k m) c.k wv
      if last then finish s c sw else stepOn s c .part (BitVec.ofNat 64 (cnt * 65536 + d + 1))

/-- MDRN (R300): one row at each issue, then the overflow word; its pages are translated at its first row (R252). -/
def execMdrn (sw : Bool) (n : BitVec 3) (a : BitVec 4) (r : BitVec 7) (z f : Bool) (s : State) : Out :=
  runState s (.rows true) fun c => do
    accCheck s c true
    let m := matOf s c.k
    let w := tailWidth (tailProgram m)
    if matBusy s c { tail := true } then .ok (matWait s c)
    else do
      let sideUsed := tailUsesSide (tailProgram m)
      trapIf (sideUsed && !claimedBy m c.k a.toNat) (matTrap c 0x0E)
      let cap := opC c r.toNat
      let x := capAddr cap
      (bulkCheck s c cap x (1024 * w + 4) pST 4).mapError fun t => { t with lanes := (matTrap c 0).lanes }
      if matBusy s c { tail := true, tiles := [n.toNat], slots := if sideUsed then [a.toNat] else [] }
          || ((growingOf c.w c).isNone && acqHeld c) then
        .ok (matWait s c)
      else if (growingOf c.w c).isSome || decide ((rowsOf c).length < bits c.pix.toNat 15 0) then .ok (drainStep s s c sw n.toNat a.toNat z f cap [])
      else withPages s c cap x (1024 * w + 4) .write fun s' ts => .ok (drainStep s s' c sw n.toNat a.toNat z f cap ts)

/-- MSTAT (R304, R329): it waits until the wave's earlier matrix instructions have been applied. -/
def execMstat (sw : Bool) (d : BitVec 7) (s : State) : Out :=
  runState s (.only .seqMatrix) fun c =>
    let m := matOf s c.k
    if c.w.accs.any (fun a => !a.performed && matrixLoad a.kind) || matBusy s c {} then .ok (waitWith s c .poll)
    else
      let slots (p : Nat × Nat → Bool) : Nat := (m.claims.filter p).foldl (fun n e => n + 2 ^ e.1) 0
      let v := slots (fun _ => true) * 2 ^ 32 + slots (fun e => e.2 == c.k) * 2 ^ 16
        + (if m.accown = (unitOf s c.k).ctxid then 512 else 0) + (if m.tp then 256 else 0) + m.live.toNat
      .ok (finishRegs s c sw fun g => setS g d.toNat (BitVec.ofNat 64 v))

end Sys2Proof.Machine
end

