-- ==== Sys2Proof/Machine/Shares.lean ====
section
/-! DEFINITION. The Turnstile (R332-R358): bindings, channels and pools, pairing and aborts, the exchanged products, and
the share instructions. -/
namespace Sys2Proof.Machine

-- Binding capabilities and pools.

/-- BIND of a binding capability (R334). -/
def bindNo (c : Cap) : Nat := bits (capAddr c) 31 24
/-- ROLE. -/
def bindRole (c : Cap) : Nat := bits (capAddr c) 23 22
/-- KIND. -/
def bindKind (c : Cap) : Nat := bits (capAddr c) 21 19
/-- A binding capability of a world (R334). -/
def bindCap (b role kind world : Nat) (reveal : Bool) : Cap :=
  let a := b * 2 ^ 24 + role * 2 ^ 22 + kind * 2 ^ 19
  mkCap a a a (if 2 ≤ role then 2 ^ pST else if reveal then 2 ^ pREVEAL else 0) 3 world

/-- The wing of a party of a binding. -/
def partyWing (b : Binding) (p : Nat) : Nat := if p = 0 then b.wing0 else b.wing1
/-- The party number of a wing: its PARTY (R332). -/
def partyOf (w : Wing) : Nat := if w.party then 1 else 0

/-- The lowest cause that a binding capability meets for a wing (R335). -/
def bindCause (s : State) (wing : Nat) (k : Cap) (dealer : Bool) : Option Nat :=
  let w := wingAt s wing
  let b := bindAt s (bindNo k)
  let formOk := if dealer then decide (2 ≤ bindRole k)
    else bindRole k == partyOf w && partyWing b (bindRole k) == wing
  if !k.tag then some 0x01
  else if capWorld k ≠ w.world || !formOk || !b.used then some 0x03
  else if capOtype k ≠ 3 then some 0x04
  else none

/-- A pool of a binding (R336). -/
def poolAt (b : Binding) (p kind : Nat) : Pool := tget {} b.pools (p * 8 + kind)
/-- The binding with a pool put. -/
def setPool (b : Binding) (p kind : Nat) (x : Pool) : Binding := { b with pools := tput b.pools (p * 8 + kind) x }
/-- The size of a record kind (R338). -/
def recSize : Nat → Nat
  | 0 => 256 | 1 => 512 | 2 => 1024 | 3 => 8320 | 4 => 2176 | _ => 512

/-- The number of record ids (R337). -/
def idMod : Nat := 2 ^ 40
/-- The records that a pool holds: TAIL − HEAD on 40 bits (R337). -/
def poolOcc (x : Pool) : Nat := (x.tail + idMod - x.head) % idMod
/-- The id after another (R337). -/
def nextId (id : Nat) : Nat := (id + 1) % idMod

/-- The address of a record (R337). -/
def recIpa (x : Pool) (kind id : Nat) : Nat := x.base + recSize kind * (id % x.cap)

/-- A byte of a party's pool through its stage 2, with the owner tag and the check code agreeing (R337, R407). -/
def poolByte (s : State) (w : Wing) (ipa : Nat) : Option Byte :=
  match s2Pa s w ipa true false with
  | none => none
  | some pa => if !ownerBad s w pa ipa 1 && !poisoned s pa 1 then some (readByte s pa) else none

/-- A record's bytes; none where the Turnstile cannot read it. -/
def readRecord (s : State) (w : Wing) (x : Pool) (kind id : Nat) : Option (List Byte) :=
  (List.range (recSize kind)).mapM fun i => poolByte s w (recIpa x kind id + i)

/-- What keeps the Turnstile from writing [ipa, ipa + n) through a stage 2, all in one page: no stage-2 right, another owner
tag, or a locked frame (R66, R67, R407). -/
def deviceBars (s : State) (w : Wing) (ipa n : Nat) : Option Nat :=
  match s2Pa s w ipa false true with
  | none => some 0x09
  | some pa => if ownerBad s w pa ipa n then some 0x06
      else if writeLocked s pa then some 0x08 else none

/-- A record written into a pool; the first page that a write does not reach ends it with a cause, the bytes before it
landed (R66). -/
def writeRecord (s : State) (w : Wing) (x : Pool) (kind id : Nat) (bs : List Byte) : State × Option Nat :=
  let a := recIpa x kind id
  (cutAt a bs.length 4).foldl (fun r p =>
    if r.2.isSome then r
    else match deviceBars r.1 w p.1 p.2, s2Pa r.1 w p.1 false true with
      | none, some pa => (writeMem r.1 pa ((bs.drop (p.1 - a)).take p.2), none)
      | e, _ => (r.1, e)) (s, none)

/-- A channel of a binding. -/
def chanAt (b : Binding) (ch : Nat) : Channel := tget {} b.channels ch
/-- The state with a channel put. -/
def setChan (s : State) (b ch : Nat) (x : Channel) : State :=
  let bd := bindAt s b
  setBind s b { bd with channels := tput bd.channels ch x }

/-- The channel of a wave: L mod 1,024. -/
def chanOf (s : State) (k : Nat) : Nat := ((unitOf s k).unitId * (unitOf s k).nwaves + (waveAt s k).waveId) % 1024

/-- The record kind of an operation (R338); none for a reveal. -/
def gateRec (o : GateOp) : Option Nat :=
  match o.kind with
  | .reveal _ => none
  | .btr => some 5
  | .cmp => some 4
  | .mma _ => some 3
  | _ => some (if o.ety = 0x12 then 0 else if o.ety = 0x10 then 1 else 2)

/-- Both operations are the same instruction with the same ETYPE (R339 step 1). -/
def gateSame (a b : GateOp) : Bool :=
  match a.kind, b.kind with
  | .open2, .open2 => a.ety == b.ety
  | .mul, .mul => a.ety == b.ety
  | .btr, .btr => true
  | .cmp, .cmp => true
  | .reveal _, .reveal _ => a.ety == b.ety
  | .mma _, .mma _ => true
  | _, _ => false

-- What an operation's end does to its wave.

/-- What the gate does to the wave of an operation: in its alcove, in a shadow array, or in a saved image (R342). -/
def onOp (s : State) (o : GateOp) (f : State → State) : State :=
  match o.img with
  | some no => onSaved s no f
  | none => onWave s o.wave f

/-- The wave of an operation as it stands. -/
def opWave (s : State) (o : GateOp) : Wave :=
  let home := alcOf o.wave
  let held (c : AlcContext) : Wave := nth {} c.waves (o.wave % 16)
  match o.img with
  | some no => match s.images[no - 1]? with
    | some im => held (nth {} im.ctxs ((im.home.findIdx? (· == home)).getD im.home.length))
    | none => {}
  | none => match (alcAt s home).wing, (alcAt s home).shadow with
    | some g, some (w, c) => if w = g && (wingAt s g).run == .swapped then held c else waveAt s o.wave
    | _, _ => waveAt s o.wave

/-- The first access of an exchange of a source that has not ended is marked as performed. -/
def endGateAcc (src : Src) (pc : DWord) : List Access → List Access
  | [] => []
  | a :: as =>
    let isGate := match a.kind with | .gate _ => true | _ => false
    if isGate && !a.performed && a.src == src && a.pc == pc then { a with performed := true } :: as
    else a :: endGateAcc src pc as

/-- The access of an operation ends and the SHX counter falls in order (R202, R348). -/
def endGateCount (s : State) (o : GateOp) (pc : DWord) : State :=
  let w := waveAt s o.wave
  let w := { w with accs := endGateAcc o.src pc w.accs }
  setWave s o.wave (completeRun w 5 w.accs.length)

/-- The slot that waits at the gate: in the wave, or in its trap frame. -/
def gateInFrame (w : Wave) (o : GateOp) : Bool :=
  w.frame.isSome && !((slotOf w o.src).hold == .gate && (slotOf w o.src).pc == o.pc)

/-- Maps a slot of the trap frame. -/
def mapFrameSlot (w : Wave) (src : Src) (f : Slot → Slot) : Wave :=
  { w with frame := w.frame.map fun fr => match src with
      | .slotB => { fr with b := f fr.b }
      | _ => { fr with a := f fr.a } }

/-- The PIX of an exchange that has made `n` steps: half rounds of SHCMP (R353), or DONE of SHMMA (R355). -/
def gatePix (k : GateKind) (n : Nat) : DWord :=
  match k with
  | .cmp => BitVec.ofNat 64 (n % 2 * 16 * 256 + n / 2)
  | .mma _ => BitVec.ofNat 64 n
  | _ => 0

/-- The steps that a PIX stands for; bits that its layout reserves are ignored (R315, R353). -/
def gateStart (k : GateKind) (pix : DWord) : Nat :=
  match k with
  | .cmp => min 14 (2 * bits pix.toNat 7 0 + (if bits pix.toNat 15 8 = 0 then 0 else 1))
  | .mma _ => min 2 (bits pix.toNat 15 0)
  | _ => 0

/-- An aborted operation writes no PIX and its opened values are discarded (R341). The gate answers an operation with a
trap (R341, R348): at the instruction; for a split open at the next SHRCV
(R350). -/
def gateTrap (s : State) (o : GateOp) (cause reason id : Nat) : State := onOp s o fun s =>
  let addr := BitVec.ofNat 64 (if cause = 0x0F then id % 2 ^ 40 * 256 + reason else 0)
  let w := waveAt s o.wave
  match o.kind, w.pending with
  | .open2, some p =>
    let s := endGateCount s o p.pc
    let w := waveAt s o.wave
    setWave s o.wave { w with pending := some { p with
      stage := if cause = 0x0F then .aborted reason id else .trapped cause } }
  | .open2, none => s
  | _, _ =>
    let s := endGateCount s o o.pc
    let w := { waveAt s o.wave with shares := none }
    if gateInFrame w o then
      setWave s o.wave (mapFrameSlot w o.src fun x => { x with hold := .gateTrap cause addr, pix := gatePix o.kind o.start, prog := none })
    else
      let w := putSlot w o.src { slotOf w o.src with hold := .none, pix := gatePix o.kind o.start, prog := none }
      takeTrap (setWave s o.wave w) o.wave o.src { cause := cause, addr := addr }

/-- An operation ends with a trap; the channel keeps an abort's reason. A unit that has ended takes none. -/
def gateEnd (s : State) (b ch : Nat) (o : GateOp) (cause reason id : Nat) : State :=
  let x := chanAt (bindAt s b) ch
  let s := if cause = 0x0F then setChan s b ch { x with abort := reason } else s
  if o.dead then s else gateTrap s o cause reason id

/-- The slot moves past its exchange. -/
def slotPast (x : Slot) (sw : Bool) : Slot :=
  { x with pc := x.pc + 4, dix := x.dix + 1, pix := 0, prog := none, hold := .none,
           snap := if sw then none else x.snap.filter fun n => !n.cut }

/-- The gate's result lands in the lanes of LIVE and the slot moves on (R348). -/
def gateLand (s : State) (o : GateOp) (f : RegFile → List Nat → RegFile) : State :=
  let s := endGateCount s o o.pc
  let w := waveAt s o.wave
  let w := { w with regs := keepWindow w (f w.regs (lanesOf w.live)) }
  if gateInFrame w o then
    let f := mapFrameSlot w o.src (slotPast · o.sw)
    setWave s o.wave (if bits w.trapCause.toNat 10 8 = srcNo o.src && w.trapPc = o.pc
      then { f with trapPc := o.pc + 4, trapPix := 0 } else f)
  else setWave s o.wave (putSlot w o.src (slotPast (slotOf w o.src) o.sw))

-- Records.

/-- Takes the record at HEAD from both pools and advances both (R339 steps 3 and 4); none where a pool cannot be read. -/
def takeRecord (s : State) (b kind : Nat) : Option (State × Nat × List Byte × List Byte) :=
  let bd := bindAt s b
  let p0 := poolAt bd 0 kind
  let p1 := poolAt bd 1 kind
  match readRecord s (wingAt s bd.wing0) p0 kind p0.head, readRecord s (wingAt s bd.wing1) p1 kind p1.head with
  | some r0, some r1 =>
    some (setBind s b (setPool (setPool bd 0 kind { p0 with head := nextId p0.head }) 1 kind { p1 with head := nextId p1.head }),
      p0.head, r0, r1)
  | _, _ => none

/-- What step 2 of R339 finds: a cause with its reason. -/
def poolFault (bd : Binding) (kind : Nat) : Option (Nat × Nat) :=
  let p0 := poolAt bd 0 kind
  let p1 := poolAt bd 1 kind
  if p0.head ≠ p1.head then some (0x0F, 0x04)
  else if poolOcc p0 = 0 ∨ poolOcc p1 = 0 then some (if kind = 4 then 0x1B else 0x10, 0)
  else none

/-- An exchange takes its record if it has not (R339): the state with the exchange, or the answer for both parties. -/
def exchangeTake (s : State) (b ch : Nat) (e : Exchange) : Except (Nat × Nat) (State × Exchange) :=
  match if e.op0.start ≠ 0 && e.op1.start ≠ 0 then none else gateRec e.op0, e.id with
  | some kind, none =>
    match poolFault (bindAt s b) kind with
    | some f => .error f
    | none => match takeRecord s b kind with
      | none => .error (0x0F, 0x03)
      | some (s, id, r0, r1) =>
        let x := chanAt (bindAt s b) ch
        .ok (setChan s b ch { x with lastId := id }, { e with id := some id, rec0 := r0, rec1 := r1 })
  | _, _ => .ok (s, e)

/-- Both operations of an exchange end with a trap. -/
def endBoth (s : State) (b ch : Nat) (e : Exchange) (cause reason : Nat) : State :=
  let id := e.id.getD 0
  gateEnd (gateEnd s b ch e.op0 cause reason id) b ch e.op1 cause reason id

/-- A pair at the gate (R339, R347). The record is taken now or when the exchange completes, a free choice. -/
def gatePair (s : State) (b ch : Nat) (o0 o1 : GateOp) : State :=
  let e : Exchange := { op0 := o0, op1 := o1 }
  let recv (o : GateOp) : Bool := match o.kind with | .reveal r => r | _ => false
  if o0.dead || o1.dead then endBoth s b ch e 0x0F 0x01
  else if !gateSame o0 o1 then endBoth s b ch e 0x0F 0x05
  else match gateRec o0 with
    | none =>
      if (!recv o0 && !recv o1) || (recv o0 && !o0.grant) || (recv o1 && !o1.grant) then endBoth s b ch e 0x17 0
      else
        let x := chanAt (bindAt s b) ch
        setChan s b ch { x with paired := x.paired ++ [e] }
    | some kind =>
      match if o0.start ≠ 0 && o1.start ≠ 0 then none else poolFault (bindAt s b) kind with
      | some f => endBoth s b ch e f.1 f.2
      | none =>
        let r := if Config.freePick s.fresh % 2 = 0 then exchangeTake (tick s) b ch e else .ok (tick s, e)
        match r with
        | .error f => endBoth (tick s) b ch e f.1 f.2
        | .ok (s, e) =>
          let x := chanAt (bindAt s b) ch
          setChan s b ch { x with paired := x.paired ++ [e] }

/-- Pairs the k-th operations of both parties (R336) while the binding is not suspended. -/
def gateMatch (s : State) (b ch : Nat) : Nat → State
  | 0 => s
  | n + 1 =>
    let bd := bindAt s b
    let x := chanAt bd ch
    match bd.suspended, x.wait0, x.wait1 with
    | false, o0 :: w0, o1 :: w1 =>
      gateMatch (gatePair (setChan s b ch { x with wait0 := w0, wait1 := w1 }) b ch o0 o1) b ch n
    | _, _, _ => s

/-- An operation reaches the gate (R336, R341): a void answers it; otherwise it waits to be paired. -/
def gateArrive (s : State) (b ch p : Nat) (o : GateOp) : State :=
  let x := chanAt (bindAt s b) ch
  let x := if p = 0 then { x with cnt0 := x.cnt0 + 1 } else { x with cnt1 := x.cnt1 + 1 }
  let o := { o with late := (bindAt s b).suspended }
  if p = 0 && decide (0 < x.void0) then gateEnd (setChan s b ch { x with void0 := x.void0 - 1 }) b ch o 0x0F 0x02 0
  else if p = 1 && decide (0 < x.void1) then gateEnd (setChan s b ch { x with void1 := x.void1 - 1 }) b ch o 0x0F 0x02 0
  else
    let x := if p = 0 then { x with wait0 := x.wait0 ++ [o] } else { x with wait1 := x.wait1 ++ [o] }
    let s := setChan s b ch x
    gateMatch s b ch (x.wait0.length + x.wait1.length)

-- Results.

/-- A little-endian element of a record. -/
def recElem (r : List Byte) (off z : Nat) : Nat := leNat ((r.drop off).take z)

/-- One party's share of a product (R343), `o` being the opened d and e. -/
def mulShare (n p : Nat) (a b c d e : Nat) : Nat := (c + d * b + e * a + (if p = 0 then d * e else 0)) % 2 ^ n
/-- An opened value (R343). -/
def opened (n x0 a0 x1 a1 : Nat) : Nat := (x0 + x1 + 2 ^ n * 2 - a0 - a1) % 2 ^ n

/-- The opened d or e of a vector record: `at_` is the byte of a or b of lane 0, `z` the stride. -/
def openLanes (n z at_ : Nat) (x0 x1 : List Nat) (r0 r1 : List Byte) : List Nat :=
  (List.range 32).map fun l => opened n (nth 0 x0 l) (recElem r0 (at_ + z * l) z) (nth 0 x1 l) (recElem r1 (at_ + z * l) z)

/-- A party's product shares of a vector record (R343). -/
def mulLanes (n p : Nat) (r : List Byte) (d e : List Nat) : List Nat :=
  let z := n / 8
  (List.range 32).map fun l =>
    mulShare n p (recElem r (16 + z * l) z) (recElem r (16 + 32 * z + z * l) z) (recElem r (16 + 64 * z + z * l) z)
      (nth 0 d l) (nth 0 e l)

/-- A party's AND share (R346), on words. -/
def andShare (p a b c eps rho : Nat) : Nat := c ^^^ (eps &&& b) ^^^ (rho &&& a) ^^^ (if p = 0 then eps &&& rho else 0)

/-- A party's AND shares of a BIT record (R352). -/
def andLanes (p : Nat) (r r0 r1 : List Byte) (o0 o1 : GateOp) : List Nat :=
  (List.range 32).map fun l =>
    let f (q : List Byte) (k : Nat) := recElem q (16 + 128 * k + 4 * l) 4
    let eps := nth 0 o0.x l ^^^ f r0 0 ^^^ nth 0 o1.x l ^^^ f r1 0
    let rho := nth 0 o0.y l ^^^ f r0 1 ^^^ nth 0 o1.y l ^^^ f r1 1
    andShare p (f r 0) (f r 1) (f r 2) eps rho

/-- A lane's comparison kit (R345). -/
structure Kit where
  r : Nat
  rb : Nat
  ba : Nat
  bb : Nat
  bc : Nat
  alp : Nat
  bet : Nat
  gam : Nat
  deriving DecidableEq, Repr

/-- The kit of a lane of a record. -/
def kitOf (r : List Byte) (l : Nat) : Kit :=
  let f (off z : Nat) := recElem r (128 + 64 * l + off) z
  { r := f 0 4, rb := f 4 4, ba := f 8 8, bb := f 16 8, bc := f 24 8, alp := f 32 4, bet := f 36 4, gam := f 40 4 }

/-- A bit as a number. -/
def bitN (v n : Nat) : Nat := v / 2 ^ n % 2

/-- AND(u, v, t, k) of R346 for both parties. -/
def andBits (k0 k1 : Kit) (u v : Nat × Nat) (t k : Nat) : Nat × Nat :=
  let n := 2 * t + k
  let eps := u.1 ^^^ bitN k0.ba n ^^^ u.2 ^^^ bitN k1.ba n
  let rho := v.1 ^^^ bitN k0.bb n ^^^ v.2 ^^^ bitN k1.bb n
  (andShare 0 (bitN k0.ba n) (bitN k0.bb n) (bitN k0.bc n) eps rho,
   andShare 1 (bitN k1.ba n) (bitN k1.bb n) (bitN k1.bc n) eps rho)

/-- The pairs (G, P), both parties' bits, that a round of R346 combines. -/
abbrev Carry := (Nat × Nat) × (Nat × Nat)

/-- One carry round (R346): the combined list and the next triple number. -/
def carryRound (k0 k1 : Kit) : Nat → List Carry → List Carry × Nat
  | t, h :: l :: rest =>
    let g := andBits k0 k1 h.2 l.1 t 0
    let p := andBits k0 k1 h.2 l.2 t 1
    let r := carryRound k0 k1 (t + 1) rest
    (((h.1.1 ^^^ g.1, h.1.2 ^^^ g.2), p) :: r.1, r.2)
  | t, l => (l, t)

/-- The carry rounds 2 to 6. -/
def carryRounds (k0 k1 : Kit) : Nat → Nat → List Carry → List Carry
  | 0, _, l => l
  | n + 1, t, l => let r := carryRound k0 k1 t l; carryRounds k0 k1 n r.2 r.1

/-- SHCMP on one lane (R346): both parties' shares of [x < 0]. -/
def cmpLane (x0 x1 : Nat) (k0 k1 : Kit) : Nat × Nat :=
  let cc := (x0 + k0.r + x1 + k1.r) % 2 ^ 32
  let l : List Carry := (List.range 31).map fun i =>
    let j := 30 - i
    let c := bitN cc j
    let nc := 1 - c
    ((bitN k0.rb j * nc, bitN k1.rb j * nc), (bitN k0.rb j ^^^ nc, bitN k1.rb j))
  let w := ((carryRounds k0 k1 5 0 l).headD ((0, 0), (0, 0))).1
  let s0 := w.1 ^^^ bitN k0.rb 31 ^^^ bitN cc 31
  let s1 := w.2 ^^^ bitN k1.rb 31
  let d := opened 32 s0 k0.alp 0 k1.alp
  let e := opened 32 0 k0.bet s1 k1.bet
  let z0 := mulShare 32 0 k0.alp k0.bet k0.gam d e
  let z1 := mulShare 32 1 k1.alp k1.bet k1.gam d e
  ((s0 + 2 ^ 33 - 2 * z0) % 2 ^ 32, (s1 + 2 ^ 33 - 2 * z1) % 2 ^ 32)

/-- A party's product share of a matrix record (R343, R355), element (i, j). -/
def mmaShare (p i j : Nat) (r : List Byte) (d e : List Nat) : Nat :=
  let ra (i k : Nat) := recElem r (128 + 4 * (16 * i + k)) 4
  let rb (k j : Nat) := recElem r (2176 + 4 * (16 * j + k)) 4
  (List.range 16).foldl (fun n k =>
    let dk := nth 0 d (16 * i + k)
    let ek := nth 0 e (16 * j + k)
    n + dk * rb k j + ra i k * ek + (if p = 0 then dk * ek else 0)) (recElem r (4224 + 128 * i + 4 * j) 4) % 2 ^ 32

/-- Writes share results into a register of the lanes of LIVE. -/
def landLanes (ety d : Nat) (vs : List Nat) (r : RegFile) (ls : List Nat) : RegFile :=
  ls.foldl (fun r l => laneSet r ety d l (nth 0 vs l)) r

/-- Both parties' lane shares of a comparison (R346), one party's. -/
def cmpLanes (e : Exchange) (p : Nat) : List Nat :=
  (List.range 32).map fun l =>
    let q := cmpLane (nth 0 e.op0.x l) (nth 0 e.op1.x l) (kitOf e.rec0 l) (kitOf e.rec1 l)
    if p = 0 then q.1 else q.2

/-- One party's product share of a matrix record, row by row (R343, R355). -/
def mmaLanes (e : Exchange) (p : Nat) : List Nat :=
  let d := (List.range 512).map fun i => opened 32 (nth 0 e.op0.x i) (recElem e.rec0 (128 + 4 * i) 4)
    (nth 0 e.op1.x i) (recElem e.rec1 (128 + 4 * i) 4)
  let ee := (List.range 512).map fun i => opened 32 (nth 0 e.op0.y i) (recElem e.rec0 (2176 + 4 * i) 4)
    (nth 0 e.op1.y i) (recElem e.rec1 (2176 + 4 * i) 4)
  (List.range 1024).map fun i => mmaShare p (i / 32) (i % 32) (if p = 0 then e.rec0 else e.rec1) d ee

/-- What a SHCMP gives a party. Where an operation has resumed from a PIX (R315), the shares of its rounds are the wave's
context of the same record where both parties hold it; else the spec states no value: a free value for each lane (log 5). -/
def cmpVals (s : State) (e : Exchange) (p : Nat) : List Nat :=
  if e.op0.start = 0 && e.op1.start = 0 then cmpLanes e p
  else match (opWave s e.op0).shares, (opWave s e.op1).shares with
    | some a, some b =>
      if e.op0.start ≠ 0 && e.op1.start ≠ 0 && !a.mma && !b.mma && a.id == b.id then (if p = 0 then a.vals else b.vals)
      else freeWords s 32
    | _, _ => freeWords s 32
where
  /-- Free words (log 5). -/
  freeWords (s : State) (n : Nat) : List Nat := (List.range n).map fun i => (Config.freeValue (s.fresh * 1024 + i)).toNat % 2 ^ 32

/-- The tile of a SHMMA rises by the product shares (R355). -/
def mmaLand (m : Matrix) (t : Nat) (vals : List Nat) : Matrix :=
  setLive (tileMap m t (List.range 32) fun i j c => (c + nth 0 vals (32 * i + j)) % 2 ^ 32) t true

/-- A SHMMA whose opened values are held updates its tile: the accumulator check and the effect are one (R282, R329,
R355). Where the check fails the instruction traps with DONE at 1; in a trap frame it is executed again. -/
def mmaFinish (s : State) (o : GateOp) (t : Nat) (vals : List Nat) : State :=
  let x := (unitOf s o.wave).ctxid
  if accOk (matOf s o.wave) x then
    gateLand (setMat s o.wave (mmaLand { matOf s o.wave with accown := x } t vals)) o fun r _ => r
  else
    let s := endGateCount s o o.pc
    let w := waveAt s o.wave
    let back (y : Slot) : Slot := { y with hold := .none, snap := none, pix := 1, prog := none }
    if gateInFrame w o then setWave s o.wave (mapFrameSlot w o.src back)
    else takeTrap (setWave s o.wave (putSlot w o.src (back (slotOf w o.src)))) o.wave o.src
      { cause := 0x0D, addr := x.setWidth 64 }

/-- One party's end of a completed exchange: `own` is its operation and record. -/
def gateResult (s : State) (e : Exchange) (p : Nat) : State :=
  let o := if p = 0 then e.op0 else e.op1
  onOp s o fun s =>
  let r := if p = 0 then e.rec0 else e.rec1
  let n := widthOf o.ety
  let z := n / 8
  let d := openLanes n z 16 e.op0.x e.op1.x e.rec0 e.rec1
  let ee := openLanes n z (16 + 32 * z) e.op0.y e.op1.y e.rec0 e.rec1
  match o.kind with
  | .open2 =>
    match (waitPending s o.wave) with
    | some q =>
      let s := endGateCount s o q.pc
      let w := waveAt s o.wave
      setWave s o.wave { w with pending := some { q with stage := .opened d ee, recBytes := r } }
    | none => s
  | .mul => gateLand s o (landLanes o.ety o.d (mulLanes n p r d ee))
  | .btr => gateLand s o (landLanes 1 o.d (andLanes p r e.rec0 e.rec1 e.op0 e.op1))
  | .cmp => gateLand s o (landLanes 0x10 o.d (cmpVals s e p))
  | .reveal recv =>
    let vs := (List.range 32).map fun l => (nth 0 e.op0.x l + nth 0 e.op1.x l) % 2 ^ n
    gateLand s o (if recv then landLanes o.ety o.d vs else fun r _ => r)
  | .mma t =>
    let vals := mmaLanes e p
    mmaFinish (setWave s o.wave { waveAt s o.wave with shares := some ⟨true, e.id.getD 0, vals⟩ }) o t vals
where
  /-- The wave's pending split open. -/
  waitPending (s : State) (k : Nat) : Option PendingOpen := (waveAt s k).pending

/-- A matrix instruction of another source is part-way in the alcove where a SHMMA is to update its tile (R329). -/
def mmaWaits (s : State) (e : Exchange) : Bool :=
  let waits (o : GateOp) : Bool := match o.kind with
    | .mma _ => o.img.isNone && !o.dead && matMidway s (alcOf o.wave) o.wave o.src
    | _ => false
  waits e.op0 || waits e.op1

/-- A paired exchange completes for both parties (R339, R343). -/
def gateComplete (s : State) (b ch : Nat) (e : Exchange) : State :=
  match exchangeTake s b ch e with
  | .error f => endBoth s b ch e f.1 f.2
  | .ok (s, e) => gateResult (gateResult (tick s) e 0) e 1

/-- The steps of an exchange before its last: 13 half rounds of a comparison, the opening of a matrix product. -/
def gateSteps : GateKind → Nat
  | .cmp => 13
  | .mma _ => 1
  | _ => 0

/-- A step of an exchange shows in the PIX of a slot that is stopped, and in the progress of one that runs (R314). The
shares of the rounds completed are wave context (R353, R355). -/
def noteStep (s : State) (e : Exchange) (p : Nat) : State :=
  let o := if p = 0 then e.op0 else e.op1
  onOp s o fun s =>
    let vals := match o.kind with | .mma _ => mmaLanes e p | _ => cmpVals s e p
    let isMma := match o.kind with | .mma _ => true | _ => false
    let v := gatePix o.kind e.prog
    let w := { waveAt s o.wave with shares := some ⟨isMma, e.id.getD 0, vals⟩ }
    setWave s o.wave
      (if gateInFrame w o then mapFrameSlot w o.src fun x => { x with pix := v, prog := none }
       else if w.stop = .running then putProg w o.src v
       else putSlot w o.src { slotOf w o.src with pix := v, prog := none })

/-- An exchange makes a step at the gate: its first word takes the record (R339 step 4). -/
def gateStep (s : State) (b ch : Nat) : State :=
  match (chanAt (bindAt s b) ch).paired with
  | [] => s
  | e :: es =>
    if gateSteps e.op0.kind ≤ e.prog || e.op0.start ≠ 0 || e.op1.start ≠ 0 then s
    else match exchangeTake s b ch e with
      | .error f => endBoth (setChan s b ch { chanAt (bindAt s b) ch with paired := es }) b ch e f.1 f.2
      | .ok (s, e) =>
        let e := { e with prog := e.prog + 1 }
        let s := setChan s b ch { chanAt (bindAt s b) ch with paired := e :: es }
        noteStep (noteStep s e 0) e 1

/-- A paired exchange aborts (R341); whether its record was taken by then is a free choice. -/
def gateAbort (s : State) (b ch : Nat) (e : Exchange) (reason : Nat) : State :=
  let r := if Config.freePick s.fresh % 2 = 0 then exchangeTake s b ch e else .ok (s, e)
  match r with
  | .ok (s, e) => endBoth (tick s) b ch e 0x0F reason
  | .error _ => endBoth (tick s) b ch e 0x0F reason

/-- Takes a paired exchange off its channel. -/
def unpair (s : State) (b ch : Nat) (e : Exchange) : State :=
  let x := chanAt (bindAt s b) ch
  setChan s b ch { x with paired := x.paired.filter (· != e) }

/-- Marks the operations of the waves of a list as those of an ended unit, and lets their accesses end (R341). -/
def killOps (ks : List Nat) (x : Channel) : Channel :=
  let f (o : GateOp) : GateOp := if o.img.isNone && ks.contains o.wave then { o with dead := true } else o
  { x with wait0 := x.wait0.map f, wait1 := x.wait1.map f,
           paired := x.paired.map fun e => { e with op0 := f e.op0, op1 := f e.op1 } }

/-- The exchanges of a channel that an ended unit was part of abort with reason 0x01 (R341). -/
def abortDead (s : State) (b ch : Nat) : State :=
  ((chanAt (bindAt s b) ch).paired.filter fun e => e.op0.dead || e.op1.dead).foldl
    (fun s e => gateAbort (unpair s b ch e) b ch e 0x01) s

/-- The exchange accesses of a wave end without a result. -/
def dropGateAccs (w : Wave) : Wave :=
  let w := { w with accs := w.accs.map fun a => match a.kind with | .gate _ => { a with performed := true } | _ => a }
  completeRun w 5 w.accs.length

/-- A unit's waves end during their exchanges (R341 reason 0x01). -/
def gateUnitEnded (s : State) (ks : List Nat) : State :=
  let s := mapWaves s (fun _ w => dropGateAccs w) ks
  s.bindings.foldl (fun s e => (bindAt s e.1).channels.foldl (fun s c =>
    abortDead (setChan s e.1 c.1 (killOps ks (chanAt (bindAt s e.1) c.1))) e.1 c.1) s) s

/-- A wing is reset (R342): every channel of its bindings resets; the peers' outstanding operations abort. -/
def gateWingReset (s : State) (wing : Nat) (ks : List Nat) : State :=
  let s := gateUnitEnded s ks
  s.bindings.foldl (fun s e =>
    if e.2.used && (e.2.wing0 == wing || e.2.wing1 == wing) then
      (bindAt s e.1).channels.foldl (fun s c =>
        let x := chanAt (bindAt s e.1) c.1
        let s := setChan s e.1 c.1 { x with wait0 := [], wait1 := [], paired := [], void0 := 0, void1 := 0, cnt0 := 0, cnt1 := 0 }
        let s := x.paired.foldl (fun s q => gateAbort s e.1 c.1 q 0x01) s
        (x.wait0 ++ x.wait1).foldl (fun s o => gateEnd s e.1 c.1 o 0x0F 0x01 0) s) s
    else s) s

/-- A binding is destroyed (R341 reason 0x06): every outstanding operation aborts, a split open that has not reached the gate
too, and every unspent record is spent. -/
def gateUnbind (s : State) (b : Nat) : State :=
  let s := (bindAt s b).channels.foldl (fun s c =>
    let x := chanAt (bindAt s b) c.1
    let s := setChan s b c.1 { x with wait0 := [], wait1 := [], paired := [] }
    let s := x.paired.foldl (fun s q => gateAbort s b c.1 q 0x06) s
    (x.wait0 ++ x.wait1).foldl (fun s o => gateEnd s b c.1 o 0x0F 0x06 0) s) s
  let lost (w : Wave) : Wave := match w.pending with
    | some p => if p.binding = b && p.stage == .waitY then
        completeRun { w with accs := w.accs.map fun a => match a.kind with
                                 | .gate _ => if a.pc = p.pc then { a with performed := true } else a
                                 | _ => a
                             pending := some { p with stage := .aborted 0x06 0 } } 5 w.accs.length
      else w
    | none => w
  mapEveryWave (setBind s b {}) lost

-- The instructions.

/-- A type of the share instructions. -/
def tShare (t : Nat) : Bool := t == 0x10 || t == 0x11 || t == 0x12

/-- The whole lanes of a register under a type. -/
def shareLanes (c : Ctx) (t n : Nat) : List Nat := (List.range 32).map (laneGet c.rd t n)

/-- The checks that the share instructions make before a binding's (R348): type, tether, divergence, odd V pairs. -/
def shareBad (c : Ctx) (exch : Bool) (ok : Bool) (fs : List (BitVec 7)) : Bool :=
  !ok || c.w.tether || (exch && c.w.divd ≠ 0) || fs.any (oddPair (modeEty c.rd.mode))

/-- An exchange operation that parks its slot (R348): its checks, then its arrival at the gate. A SHMMA whose PIX says that
its opened values are held updates its tile from the wave's context; where the wave holds none, the spec states no value: a
free one (R315, R355, log 5). -/
def exchangeOp (s : State) (sw : Bool) (ok : Nat → Bool) (fs : List (BitVec 7)) (breg : Nat)
    (pre : Ctx → Except Trap Bool) (done : Ctx → Bool) (kind : GateKind) (ety : Nat → Nat) (d : Nat)
    (x y : Ctx → List Nat) (take : Ctx → State → State) : Out :=
  runState s .wave fun c => do
    match c.hold with
    | .gateTrap cause addr => .error { cause := cause, addr := addr }
    | _ =>
      trapIf (shareBad c true (ok (modeEty c.rd.mode)) fs) { cause := 0x0A }
      let busy ← pre c
      let k := opC c breg
      match bindCause s (wingNoOf s c.k) k false with
      | some e => .error { cause := e }
      | none =>
        if busy || decide (Config.counterMax ≤ countOf c.w 5) then .ok (waitWith s c .poll)
        else
          let s := take c s
          if done c then .ok (finish s c sw)
          else match kind, decide (gateStart kind c.pix = 1) with
          | .mma t, true =>
            let vals := match c.w.shares with
              | some ⟨true, _, vs⟩ => vs
              | _ => cmpVals.freeWords s 1024
            .ok (finish (tick (setMat s c.k (mmaLand (matOf s c.k) t vals))) c sw)
          | _, _ =>
            let isMma := match kind with | .mma _ => true | _ => false
            let a : Access := { path := 5, kind := .gate isMma, pc := c.pc, src := c.src }
            let w := waveAt s c.k
            let s := setWave s c.k { w with counts := tput w.counts 5 (countOf w 5 + 1), accs := w.accs ++ [a] }
            let o : GateOp := { wave := c.k, src := c.src, kind := kind, ety := ety (modeEty c.rd.mode), d := d,
                                x := x c, y := y c, grant := capHas k pREVEAL, pc := c.pc, sw := sw,
                                start := gateStart kind c.pix }
            .ok (gateArrive (waitWith s c .gate) (bindNo k) (chanOf s c.k) (bindRole k) o)

/-- SHMUL (R349). -/
def execShmul (sw : Bool) (d a b : BitVec 7) (s : State) : Out :=
  exchangeOp s sw tShare [d, a] b.toNat (fun _ => .ok false) (fun _ => false) .mul id d.toNat
    (fun c => shareLanes c (modeEty c.rd.mode) a.toNat) (fun c => shareLanes c (modeEty c.rd.mode) d.toNat) (fun _ s => s)

/-- SHBTR (R352): 32-bit words, ETYPE ignored. -/
def execShbtr (sw : Bool) (d a b : BitVec 7) (s : State) : Out :=
  exchangeOp s sw (fun _ => true) [] b.toNat (fun _ => .ok false) (fun _ => false) .btr (fun _ => 1) d.toNat
    (fun c => shareLanes c 1 a.toNat) (fun c => shareLanes c 1 d.toNat) (fun _ s => s)

/-- SHCMP (R353). -/
def execShcmp (sw : Bool) (d a b : BitVec 7) (s : State) : Out :=
  exchangeOp s sw (· == 0x10) [] b.toNat (fun _ => .ok false) (fun c => decide (7 ≤ bits c.pix.toNat 7 0)) .cmp id d.toNat
    (fun c => shareLanes c 0x10 a.toNat) (fun _ => []) (fun _ s => s)

/-- SHRVL (R354). -/
def execShrvl (sw : Bool) (a b : BitVec 7) (s : State) : Out :=
  exchangeOp s sw tShare [a] b.toNat (fun _ => .ok false) (fun _ => false) (.reveal false) id 0
    (fun c => shareLanes c (modeEty c.rd.mode) a.toNat) (fun _ => []) (fun _ s => s)
/-- SHRVL.r (R354). -/
def execShrvlR (sw : Bool) (d a b : BitVec 7) (s : State) : Out :=
  exchangeOp s sw tShare [d, a] b.toNat (fun _ => .ok false) (fun _ => false) (.reveal true) id d.toNat
    (fun c => shareLanes c (modeEty c.rd.mode) a.toNat) (fun _ => []) (fun _ s => s)

/-- SHMMA (R355): acccheck, unclaimed slots, then the binding; acctake when every check has passed. -/
def execShmma (sw : Bool) (n : BitVec 3) (a b : BitVec 4) (r : BitVec 7) (s : State) : Out :=
  let elems (c : Ctx) (o : Nat) : List Nat := (List.range 512).map fun i => slotElem (matOf s c.k) o 4 (4 * i)
  exchangeOp s sw (· == 0x10) [] r.toNat
    (fun c => do
      trapIf (modeSty c.rd.mode != 0x10) { cause := 0x0A }
      accCheck s c false
      trapIf (!claimedBy (matOf s c.k) c.k a.toNat || !claimedBy (matOf s c.k) c.k b.toNat) { cause := 0x0E }
      .ok (matBusy s c { slots := [a.toNat, b.toNat], tiles := [n.toNat] } || matMidway s (alcOf c.k) c.k c.src))
    (fun c => decide (2 ≤ bits c.pix.toNat 15 0)) (.mma n.toNat) (fun _ => 0x10) 0
    (fun c => elems c a.toNat) (fun c => elems c b.toNat) (fun c s => accTake s c)

/-- SHOPN (R350): role 0 opens the pending open; role 1 completes it into one exchange operation. An open that has aborted
meanwhile, with its binding, is reported at the next SHRCV (R341). -/
def execShopn (sw : Bool) (a b : BitVec 7) (r : Bool) (s : State) : Out :=
  runState s .wave fun c => do
    let t := modeEty c.rd.mode
    let gone := match c.w.pending with
      | some p => (match p.stage with | .aborted .. => p.y.isEmpty && p.kind == t | _ => false)
      | none => false
    let open_ := gone || match c.w.pending with | some p => p.stage == .waitY && p.kind == t | none => false
    trapIf (shareBad c true (tShare t) [a]) { cause := 0x0A }
    trapIf (if r then !open_ else c.w.pending.isSome) { cause := 0x0A }
    let k := opC c b.toNat
    match if r && gone then none else bindCause s (wingNoOf s c.k) k false with
    | some e => .error { cause := e }
    | none =>
      if r && gone then .ok (finish s c sw)
      else if r then
        match c.w.pending with
        | none => .error { cause := 0x0A }
        | some p =>
          let p := { p with y := shareLanes c t a.toNat, stage := .atGate }
          let o : GateOp := { wave := c.k, src := c.src, kind := .open2, ety := t, d := 0, x := p.x, y := p.y, grant := false,
                              pc := p.pc, sw := sw }
          let s := setWave s c.k { c.w with pending := some p }
          .ok (gateArrive (finish s c sw) p.binding (chanOf s c.k) (bindRole k) o)
      else if Config.counterMax ≤ countOf c.w 5 then .ok (waitWith s c .poll)
      else
        let acc : Access := { path := 5, kind := .gate false, pc := c.pc, src := c.src }
        let w := { c.w with counts := tput c.w.counts 5 (countOf c.w 5 + 1), accs := c.w.accs ++ [acc]
                            pending := some { binding := bindNo k, kind := t, x := shareLanes c t a.toNat, pc := c.pc } }
        .ok (finish (setWave s c.k w) c sw)

/-- SHRCV (R350). -/
def execShrcv (sw : Bool) (d b : BitVec 7) (r : Bool) (s : State) : Out :=
  runState s .wave fun c => do
    let t := modeEty c.rd.mode
    trapIf (shareBad c false (tShare t) [d]) { cause := 0x0A }
    match c.w.pending with
    | none => .error { cause := 0x0A }
    | some p =>
      trapIf (p.stage == .waitY || p.kind != t) { cause := 0x0A }
      let clear (w : Wave) : Wave := { w with pending := none, current := none }
      match p.stage, bindCause s (wingNoOf s c.k) (opC c b.toNat) false with
      | .aborted reason id, _ =>
        .ok (takeTrap (setWave s c.k (clear c.w)) c.k c.src
          { cause := 0x0F, addr := BitVec.ofNat 64 (id % 2 ^ 40 * 256 + reason), pc := some p.pc })
      | .trapped cause, _ => .ok (takeTrap (setWave s c.k (clear c.w)) c.k c.src { cause := cause, pc := some p.pc })
      | _, some e => .error { cause := e }
      | stage, none =>
        match stage with
        | .opened dv ev =>
          let p := if r then { p with gotE := true } else { p with gotD := true }
          let w := { c.w with regs := keepWindow c.w (landLanes t d.toNat (if r then ev else dv) c.w.regs (lanesOf c.w.live)) }
          let w := if p.gotD && p.gotE then { w with pending := none, current := some { kind := t, bytes := p.recBytes } }
                   else { w with pending := some p }
          .ok (setWave s c.k (advance c sw w))
        | _ => .ok (waitWith s c .poll)

/-- SHTRP (R350): the wave's own shares of the current record. -/
def execShtrp (sw : Bool) (d a b : BitVec 7) (s : State) : Out :=
  runState s .lanes fun c => do
    let t := modeEty c.rd.mode
    trapIf (shareBad c false (tShare t) [d]) (guardTrap c 0x0A)
    match c.w.current with
    | none => .error (guardTrap c 0x0A)
    | some q =>
      trapIf (q.kind != t) (guardTrap c 0x0A)
      match bindCause s (wingNoOf s c.k) (opC c a.toNat) false with
      | some e => .error (guardTrap c e)
      | none =>
        let z := widthOf t / 8
        .ok (setWave s c.k (advance c sw (putLive c.w c.src ((active c).foldl (fun g l =>
          laneSet g t d.toNat l (recElem q.bytes (16 + 32 * z * b.toNat + z * l) z)) c.live))))

/-- The truncated share of a party (R344). -/
def truncShare (n p f x : Nat) : Nat :=
  if p = 0 then x / 2 ^ f else (2 ^ n - (2 ^ n - x) % 2 ^ n / 2 ^ f) % 2 ^ n

/-- SHTRC (R351). -/
def execShtrc (sw : Bool) (d a f : BitVec 7) (s : State) : Out :=
  runLocal s sw .lanes fun c =>
    let t := modeEty c.rd.mode
    let n := widthOf t
    if shareBad c false (tShare t) [d, a] || decide (n ≤ f.toNat) then .error (guardTrap c 0x0A)
    else .ok ((active c).foldl (fun r l =>
      laneSet r t d.toNat l (truncShare n (partyOf (wingOf s c.k)) f.toNat (laneGet c.rd t a.toNat l))) c.live)

/-- SHDEAL at issue (R356). -/
def execShdeal (sw : Bool) (t : BitVec 7) (cr : BitVec 5) (o : BitVec 7) (s : State) : Out :=
  runState s .wave fun c => do
    trapIf c.w.tether { cause := 0x0A }
    let k := opC c cr.toNat
    let x := addrS c k o 0
    let mis : Option Nat := if x % 128 ≠ 0 then some 0x1A else none
    match minCause (capProps k [pLD, pLDC] (worldOf s c.k)) mis with
    | some e => .error { cause := e, addr := if e = 0x1A then BitVec.ofNat 64 (wrap 64 x) else 0 }
    | none =>
      unheld s c (.ok (issueAcc s c sw
        { path := 5, kind := .deal t.toNat (wrap 64 x) k, pc := c.pc, src := c.src, engine := true }))

/-- The pool word (R357). -/
def poolWord (x : Pool) : DWord := BitVec.ofNat 64 (poolOcc x * 2 ^ 40 + x.head % idMod)
/-- The channel word (R357). -/
def chanWord (x : Channel) (pend : Bool) : DWord :=
  BitVec.ofNat 64 ((if pend then 2 ^ 48 else 0) + x.lastId % 2 ^ 40 * 256 + x.abort % 256)

/-- SHSTA (R357). -/
def execShsta (sw : Bool) (d a k : BitVec 7) (s : State) : Out :=
  runState s .wave fun c => do
    trapIf c.w.tether { cause := 0x0A }
    let q := opC c a.toNat
    match bindCause s (wingNoOf s c.k) q false with
    | some e => .error { cause := e }
    | none =>
      let b := bindAt s (bindNo q)
      let v := if k.toNat = 0 then chanWord (chanAt b (chanOf s c.k)) c.w.pending.isSome
        else poolWord (poolAt b (bindRole q) (k.toNat - 1))
      .ok (finishRegs s c sw fun r => setS r d.toNat v)

/-- SHDSC (R358): HEAD rises to s[A][39:0] while the pool holds a record. -/
def execShdsc (sw : Bool) (d a b : BitVec 7) (s : State) : Out :=
  runState s .wave fun c => do
    let v := (opS c a).toNat
    let kind := bits v 42 40
    trapIf (c.w.tether || decide (6 ≤ kind)) { cause := 0x0A }
    let q := opC c b.toNat
    match bindCause s (wingNoOf s c.k) q false with
    | some e => .error { cause := e }
    | none =>
      let bd := bindAt s (bindNo q)
      let x := poolAt bd (bindRole q) kind
      let h := (x.head + min (v % idMod - x.head) (poolOcc x)) % idMod
      let s := setBind s (bindNo q) (setPool bd (bindRole q) kind { x with head := h })
      .ok (finishRegs s c sw fun r => setS r d.toNat (BitVec.ofNat 64 h))

end Sys2Proof.Machine
end

