-- ==== Sys2Proof/Machine/Landing.lean ====
section
/-! DEFINITION. How loads, stores, atomics, deque and barrier operations perform after issue (R202, R204, R242-R251,
R257-R271): what is found at a location, what is written, and what lands in a register (R26). -/
namespace Sys2Proof.Machine

/-- A strong access (R241). -/
def strongAcc (a : Access) : Bool :=
  a.acq || a.rel || match a.kind with
    | .atomic .. => true
    | .cas .. => true
    | .axadd .. => true
    | .axrd .. => true
    | .deque .. => true
    | .bar .. => true
    | _ => false

/-- The lowest byte of [pa, pa + n) that the record of a strong access of another size covers (R251). -/
def mixedAt (s : State) (pa n : Nat) : Option Nat :=
  ((granulesOf pa n).filterMap fun g => match tlook s.strong g with
    | some (p, m) => if m ≠ n && overlaps p m pa n then some (max p pa) else none
    | none => none).head?

/-- Records a strong access in its granules (R251). -/
def noteStrong (s : State) (pa n : Nat) : State :=
  { s with strong := (granulesOf pa n).foldl (fun t g => tput t g (pa, n)) s.strong }

/-- What an access finds at a location: nothing against it, a cause with its address, or a build to wait for. -/
inductive LocAns where
  | ok | err (cause addr : Nat) | park (id : Nat)
  deriving DecidableEq, Repr, Inhabited

/-- What access `a` of wave `k` finds at a location for `n` bytes (R204, R259, R316, R369, R371, R407): owner tag, shadowed
page or locked frame, recipe, mixed sizes, uncorrectable data. -/
def locAns (s : State) (k : Nat) (a : Access) (wr atom : Bool) (l : Loc) (n : Nat) : LocAns :=
  match l with
  | .scr off => if scrPoisoned s k off n then .err 0x15 off else .ok
  | .mem va pa ipa =>
    let w := wingOf s k
    let shd := atom && wr && match s1Walk s w va with | .leaf e _ _ => leafShd e | _ => false
    if ownerBad s w pa ipa n then .err 0x06 va
    else if wr && (shd || lockBars s (if a.engine then s.fresh else a.no) pa) then .err 0x08 va
    else match tileAns w (unitOf s k).build va wr atom with
      | .end_ c => .err c va
      | .park id => .park id
      | .pass =>
        match if strongAcc a && w.mixed then mixedAt s pa n else none with
        | some b => .err 0x13 (va + (b - pa))
        | none => if poisoned s pa n then .err 0x15 va else .ok

/-- Changes an access of a wave. -/
def setAcc (s : State) (k i : Nat) (f : Access → Access) : State :=
  let w := waveAt s k
  setWave s k { w with accs := w.accs.mapIdx fun j a => if j = i then f a else a }

/-- Completes what may complete on a path of a wave (R202). -/
def settle (s : State) (k path : Nat) : State :=
  let w := waveAt s k
  setWave s k (completeRun w path w.accs.length)

/-- The lanes of a list that fail, with cause and address, and the first build that some lane waits for. -/
structure Parts where
  bad  : List (Nat × Nat × Nat)
  park : Option Nat

/-- What the lanes of an access find; lanes that waited for a build that has failed end with 0x11 (R372). -/
def partsOf (s : State) (k : Nat) (a : Access) (wr atom : Bool) (n : Nat) (ls : List (Nat × Loc)) : Parts :=
  let ans := ls.map fun e => (e, locAns s k a wr atom e.2 n)
  { bad := ans.filterMap fun e => match e.2, e.1.2 with
      | .err c x, _ => some (e.1.1, c, x)
      | .park id, .mem va _ _ => if a.hold == .recipeFailed id then some (e.1.1, 0x11, va) else none
      | _, _ => none
    park := (ans.filterMap fun e => match e.2 with
      | .park id => if a.hold == .recipeFailed id then none else some id
      | _ => none).head? }

/-- A lane fails. -/
def failing (p : Parts) (lane : Nat) : Bool := p.bad.any (·.1 == lane)

/-- The deferred error of failing lanes: the lowest cause and the lanes that carry it (R62, R204). -/
def badErr (a : Access) (bad : List (Nat × Nat × Nat)) : Option AccErr :=
  match bad.foldl (fun m b => minCause m (some b.2.1)) none with
  | none => none
  | some e => some (lanesErr a.mask.isSome (a.mask.getD 0) e ((bad.filter (·.2.1 == e)).map fun b => (b.1, b.2.2)))

/-- An access waits for a build (R370). -/
def parkAcc (s : State) (k i id : Nat) : State :=
  startNeed (setAcc s k i ({ · with hold := .recipe id })) (unitOf s k).wing id

/-- The place of a location: two virtual addresses of one byte are one place. -/
def placeOf : Loc → Bool × Nat
  | .mem _ pa _ => (false, pa)
  | .scr off => (true, off)

/-- The lanes that a move performs: those of the mask, all where it is 0, with the lanes that share their places. -/
def chosenLanes (n : Nat) (ls : List (Nat × Loc)) : List (Nat × Loc) :=
  if n = 0 then ls
  else
    let at_ := (ls.filter fun e => bit n e.1).map fun e => placeOf e.2
    ls.filter fun e => at_.contains (placeOf e.2)

/-- Accesses that no build can be started for leave FAIL in an ABSENT record (R366, R372). -/
def noteFails (s : State) (k : Nat) (bad : List (Nat × Nat × Nat)) : State :=
  bad.foldl (fun s b => noteFail s (unitOf s k).wing (unitOf s k).build b.2.1 b.2.2) s

-- Races.

/-- The access adds into an accumulator cell or works on a deque. -/
def cellOp : AccKind → Bool
  | .axadd .. => true
  | .deque .. => true
  | _ => false
/-- A plain store. -/
def plainStore (a : Access) : Bool :=
  !strongAcc a && match a.kind with
    | .store .. => true
    | .storeC .. => true
    | _ => false
/-- A transfer that no address order of its wave holds (R243, R252). -/
def transferKind : AccKind → Bool
  | .rows .. => true
  | .tcpy .. => true
  | .bcpy .. => true
  | .deal .. => true
  | _ => false
/-- A plain write (R240, R241): a plain store, a drain or a transfer. -/
def plainWrite (a : Access) : Bool :=
  plainStore a || transferKind a.kind || match a.kind with
    | .drain .. => true
    | _ => false
/-- The size of a lane's access. -/
def kindSize : AccKind → Nat
  | .loadV _ n _ => n
  | .loadS .. => 8
  | .loadC .. => 16
  | .loadVC .. => 16
  | .store ws => ((ws.head?).map (·.2.2.length)).getD 0
  | .storeC .. => 16
  | .atomic _ _ n _ _ => n
  | .cas n _ _ => n
  | .axadd .. => 64
  | .axrd .. => 64
  | .deque .. => 64
  | _ => 8
/-- Two outstanding accesses whose common bytes are undefined where no order holds between them: strong ones of different
sizes (R250), a plain write and an operation on a cell or a deque (R265, R267). -/
def racing (a b : Access) : Bool :=
  (strongAcc a && strongAcc b && kindSize a.kind != kindSize b.kind)
    || (cellOp a.kind && plainWrite b) || (cellOp b.kind && plainWrite a)

/-- The physical ranges of [ipa, ipa + n) of a wing. -/
def ipaRanges (s : State) (w : Wing) (ipa n : Nat) : List (Bool × Nat × Nat) :=
  (cutAt ipa n (n / 4096 + 2)).filterMap fun p => (s2Pa s w p.1 false false).map fun pa => (false, pa, p.2)

/-- The ring that a SHDEAL at `x` writes (R356). -/
def dealRanges (s : State) (k : Nat) (cap : Cap) (x : Nat) : List (Bool × Nat × Nat) :=
  match capRanges s k cap x 16 with
  | [] => []
  | (scr, at_, _) :: _ =>
    let b := readCapLoc s k (if scr then .scr at_ else .mem x at_ 0)
    let bd := bindAt s (bindNo b)
    let q := poolAt bd (bindRole b - 2) (bindKind b)
    ipaRanges s (wingAt s (partyWing bd (bindRole b - 2))) q.base (q.cap * recSize (bindKind b))

/-- The header and the live entries of a deque (R266, R267). -/
def dequeLive (s : State) (k va : Nat) (h : Loc) : List (Bool × Nat × Nat) :=
  locRange h 64 :: match dequeHdr (leNat (readLoc s k h 64)) with
    | some d => (List.range ((d.bottom + 2 ^ 64 - d.top) % 2 ^ 64)).flatMap fun j => vaRanges s k (va + 64 + 8 * ((d.top + j) % d.cap)) 8
    | none => []

/-- The bytes of an access in which a race shows: for a transfer the bytes that it writes. -/
def raceRanges (s : State) (k : Nat) (a : Access) : List (Bool × Nat × Nat) :=
  match a.kind with
  | .deque _ _ va h _ _ => dequeLive s k va h
  | .rows true word _ _ z _ =>
    let (len, rows, _, dest) := gatherWord word
    capRanges s k z dest (rows * len)
  | .rows false word base m _ idx => (idx.getD []).flatMap fun i => capRanges s k m (base + i).toNat (gatherWord word).1
  | .tcpy dst _ _ _ (some d) => (List.range (tensorSize d)).flatMap fun l =>
      capRanges s k dst (tensorAddr (capAddr dst) ((d.dims.zip (tensorIndex d.dims l)).map fun e => ((e.2 : Int), e.1.dstr))).toNat (2 ^ d.esz)
  | .bcpy dst _ len => capRanges s k dst (capAddr dst) len
  | .deal _ x cap => dealRanges s k cap x
  | q => kindRanges s k q

/-- The common bytes of two ranges; a cell of R265 counts whole. -/
def commonBytes (whole : Bool) (x y : Bool × Nat × Nat) : Option (Bool × Nat × Nat) :=
  if x.1 == y.1 && overlaps x.2.1 x.2.2 y.2.1 y.2.2 then
    let lo := max x.2.1 y.2.1
    let hi := min (x.2.1 + x.2.2) (y.2.1 + y.2.2)
    some (if whole then (x.1, lo / 64 * 64, (hi + 63) / 64 * 64 - lo / 64 * 64) else (x.1, lo, hi - lo))
  else none

/-- An access is an AXADD. -/
def isAxadd : AccKind → Bool
  | .axadd .. => true
  | _ => false

/-- The bytes of ranges of an access of wave `k` on which an outstanding access races with it: one of another wave, or, for a
transfer, of its own. -/
def racedBytes (s : State) (k : Nat) (a : Access) (rs : List (Bool × Nat × Nat)) (e : Nat × Wave) (b : Access) :
    List (Bool × Nat × Nat) :=
  if (e.1 = k && !(transferKind a.kind || transferKind b.kind)) || b.performed || !racing a b then []
  else ((raceRanges s e.1 b).filter fun q => !q.1 || decide (e.2.unit = (waveAt s k).unit)).flatMap fun q =>
    rs.filterMap (commonBytes (isAxadd a.kind || isAxadd b.kind) q)

/-- Free values in the bytes of ranges (R250). -/
def scramble (s : State) (k : Nat) (rs : List (Bool × Nat × Nat)) : State :=
  rs.foldl (fun s r =>
    let bs := (List.range r.2.2).map fun j => BitVec.ofNat 8 (Config.freePick (s.fresh * 2 ^ 50 + j))
    tick (if r.1 then putScr s k r.2.1 bs else writeMem s r.2.1 bs)) s

/-- The ranges that a move of access `a` of wave `k` over `rs` leaves undefined, and the state in which the racing accesses
know them too. DEDUCED: the accesses race where both are outstanding (log 54). -/
def races (s : State) (k : Nat) (a : Access) (rs : List (Bool × Nat × Nat)) : List (Bool × Nat × Nat) × State :=
  let old := a.race.flatMap fun q => rs.filterMap (commonBytes false q)
  let now := (s.waves.filter (·.2.used)).flatMap fun e => e.2.accs.flatMap (racedBytes s k a rs e)
  if now.isEmpty then (old, s)
  else (old ++ now, { s with waves := s.waves.map fun e =>
    (e.1, { e.2 with accs := e.2.accs.map fun b => { b with race := b.race ++ racedBytes s k a rs e b } }) })

/-- Bytes of access `a` land at a place by `f`; what races there is left undefined (R250, R265, R267). -/
def landing (s : State) (k : Nat) (a : Access) (rs : List (Bool × Nat × Nat)) (f : State → State) : State :=
  let r := races s k a rs
  scramble (f r.2) k r.1

/-- A plain write that is no counted access. -/
def plainAccess : Access := { path := 0, kind := .store [], pc := 0, src := .slotA }

/-- A plain write of the host to physical bytes, by `f`: it races as one of no wave. -/
def hostLands (s : State) (pa n : Nat) (f : State → State) : State := landing s (2 ^ 32) plainAccess [(false, pa, n)] f

/-- A register cell that lands: its number and its write. -/
abbrev LandCell := Nat × (RegFile → RegFile)

/-- The number of a V register cell. -/
def cellV (t lane : Nat) : Nat := t * 32 + lane
/-- The number of an S register. -/
def cellS (t : Nat) : Nat := 2 ^ 20 + t
/-- The number of a C register. -/
def cellC (t : Nat) : Nat := 2 ^ 21 + t
/-- The number of a VC register cell. -/
def cellVC (t lane : Nat) : Nat := 2 ^ 22 + t * 32 + lane

/-- The landing of an element of `n` bytes in a lane. -/
def landV (t n lane v : Nat) : List LandCell :=
  (cellV t lane, fun r => setV r t lane (BitVec.ofNat 32 v)) ::
    (if n = 8 then [(cellV (t + 1) lane, fun r => setV r (t + 1) lane (BitVec.ofNat 32 (v / 2 ^ 32)))] else [])
/-- The landing of an S register. -/
def landS (t : Nat) (v : DWord) : List LandCell := [(cellS t, fun r => setS r t v)]

/-- A later access of the path has landed a cell already: the later load's value stands (R26). -/
def laterLanded (w : Wave) (i path cell : Nat) : Bool := (w.accs.drop (i + 1)).any fun a => a.path == path && a.landed.contains cell

/-- Lands register cells of an access of a wave; an ended wave has no registers (R96). -/
def landCells (s : State) (k i : Nat) (cs : List LandCell) : State :=
  let w := waveAt s k
  match w.accs[i]? with
  | none => s
  | some a =>
    let now := if waveEnded w then [] else cs.filter fun e => !laterLanded w i a.path e.1
    let s := setWave s k (putLive w .slotA (now.foldl (fun r e => e.2 r) w.regs))
    setAcc s k i fun a => { a with landed := a.landed ++ cs.map (·.1) }

/-- Records the strong accesses of lanes in a wing in the mixed-size debug mode, where the L2 holds the line (R251, R363). -/
def noteLanes (s : State) (k : Nat) (a : Access) (n : Nat) (ls : List (Nat × Loc)) : State :=
  if strongAcc a && (wingOf s k).mixed then
    ls.foldl (fun s e => match e.2 with | .mem va pa _ => if bypassed s k va then s else noteStrong s pa n | _ => s) s
  else s

/-- An access goes on with the lanes that are left and an error joined; with none left it has performed (R202), and the flags
that an AXRD has gathered are set unless it met an error (R264). -/
def goOn (s : State) (k i : Nat) (kind : AccKind) (left : Bool) (e : Option AccErr) : State :=
  let s := setAcc s k i fun a => { a with kind := kind, err := joinErr a.err e, performed := !left, hold := .none }
  let s := match e with
    | some x => uncorrFound s (wingNoOf s k) x.cause.toNat
    | none => s
  match (waveAt s k).accs[i]? with
  | some a =>
    let s := if a.performed && a.err.isNone && a.fl != 0 then setWave s k (orFlags (waveAt s k) (BitVec.ofNat 32 a.fl)) else s
    settle s k a.path
  | none => s

/-- Lanes of a load perform (R204, R211): `f` gives what a lane lands. -/
def performLoad (s : State) (k i m : Nat) (a : Access) (n : Nat) (ls : List (Nat × Loc))
    (kind : List (Nat × Loc) → AccKind) (f : State → Nat → Loc → List LandCell) : Option State :=
  let now := chosenLanes m ls
  let p := partsOf s k a false false n now
  if now.isEmpty && !ls.isEmpty then none
  else match p.park with
    | some id => some (parkAcc (goOn (noteFails s k p.bad) k i (kind (ls.filter fun e => !failing p e.1)) true (badErr a p.bad)) k i id)
    | none =>
      let ok := now.filter fun e => !failing p e.1
      let rest := ls.filter fun e => !now.contains e
      let r := races s k a (ok.map fun e => locRange e.2 n)
      let s := scramble r.2 k r.1
      let s := landCells (noteLanes (noteFails s k p.bad) k a n ok) k i (ok.flatMap fun e => f s e.1 e.2)
      some (goOn s k i (kind rest) (!rest.isEmpty) (badErr a p.bad))

/-- Lanes of a store perform, the highest lane last (R211). -/
def performStore {α : Type} (s : State) (k i m : Nat) (a : Access) (n : Nat) (ls : List (Nat × Loc × α))
    (kind : List (Nat × Loc × α) → AccKind) (f : State → Loc → α → State) : Option State :=
  let now := chosenLanes m (ls.map fun e => (e.1, e.2.1))
  let p := partsOf s k a true false n now
  if now.isEmpty && !ls.isEmpty then none
  else
    let has (e : Nat × Loc × α) : Bool := now.any (·.1 == e.1)
    let ok := ls.filter fun e => has e && !failing p e.1
    let rest := ls.filter fun e => !has e
    let r := races s k a (ok.map fun e => locRange e.2.1 n)
    let s := ok.foldl (fun s e => f s e.2.1 e.2.2) (noteLanes r.2 k a n (ok.map fun e => (e.1, e.2.1)))
    some (goOn (scramble s k r.1) k i (kind rest) (!rest.isEmpty) (badErr a p.bad))

/-- The groups of lanes that name the same place (R258), lanes ascending. -/
def groupsOf {α : Type} (ls : List (Nat × Loc × α)) : List (Loc × List (Nat × α)) :=
  let at_ := (ls.map fun e => placeOf e.2.1).eraseDups
  at_.filterMap fun q =>
    let g := ls.filter fun e => placeOf e.2.1 == q
    (g.head?).map fun e => (e.2.1, g.map fun e => (e.1, e.2.2))

/-- Groups of an atomic perform (R258): a failing lane ends all that is left, with no write (R259). `f` applies a group
to the state and gives what lands. DESIGN CHOICE: what races with an access that is not outstanding has the value of the
serial order of the moves (log 54). -/
def performAtomic {α : Type} (s : State) (k i m : Nat) (a : Access) (wr : Bool) (n : Nat) (ls : List (Nat × Loc × α))
    (kind : List (Nat × Loc × α) → AccKind) (f : State → Loc → List (Nat × α) → State × List LandCell) : Option State :=
  let locs := ls.map fun e => (e.1, e.2.1)
  let now := chosenLanes m locs
  let p := partsOf s k a wr true n locs
  if now.isEmpty && !ls.isEmpty then none
  else match if p.bad.any (·.2.1 == 0x11) then none else p.park with
    | some id => some (parkAcc s k i id)
    | none =>
      if p.bad.isEmpty then
        let has (e : Nat × Loc × α) : Bool := now.any (·.1 == e.1)
        let rest := ls.filter fun e => !has e
        let r := races s k a (now.map fun e => locRange e.2 n)
        let s := noteLanes (scramble r.2 k r.1) k a n now
        let q := (groupsOf (ls.filter has)).foldl (fun (q : State × List LandCell) g =>
          let t := f q.1 g.1 g.2
          (t.1, q.2 ++ t.2)) (s, [])
        some (goOn (landCells (scramble q.1 k (if wr then r.1 else [])) k i q.2) k i (kind rest) (!rest.isEmpty) none)
      else some (goOn (noteFails s k p.bad) k i (kind []) false (badErr a p.bad))

/-- One group of a read-modify-write (R260, R262): each lane lands the value that the lanes below it left. -/
def rmwGroup (k : Nat) (op : AtomOp) (ety n t : Nat) (s : State) (l : Loc) (g : List (Nat × Nat)) :
    State × List LandCell :=
  let r := g.foldl (fun (r : Nat × List LandCell) e => (atomF op ety r.1 e.2, r.2 ++ landV t n e.1 r.1))
    (leNat (readLoc s k l n), [])
  (writeLoc s k l (natLe n r.1), r.2)

/-- One group of ACAS (R261): it writes only where some lane's comparison holds. -/
def casGroup (k n t : Nat) (s : State) (l : Loc) (g : List (Nat × Nat × Nat)) : State × List LandCell :=
  let r := g.foldl (fun (r : (Nat × Bool) × List LandCell) e =>
      let hit := r.1.1 == e.2.1
      ((if hit then e.2.2 else r.1.1, r.1.2 || hit), r.2 ++ landV t n e.1 r.1.1))
    ((leNat (readLoc s k l n), false), [])
  (if r.1.2 then writeLoc s k l (natLe n r.1.1) else s, r.2)

/-- One group of AXADD (R263). A plain write that races with it: `races` (R265, log 54). -/
def axaddGroup (k ety : Nat) (s : State) (l : Loc) (g : List (Nat × Nat)) : State × List LandCell :=
  let cell := g.foldl (fun c e => cellAdd c (valueOf ety e.2)) (leNat (readLoc s k l 64))
  (writeLoc s k l (natLe 64 cell), [])

/-- One group of AXRD (R264): its FLAGS bits are gathered in access `i`. -/
def axrdGroup (k i ety t : Nat) (mode : BitVec 32) (seed : DWord) (dix : BitVec 48) (s : State) (l : Loc)
    (g : List (Nat × PUnit)) : State × List LandCell :=
  let cell := leNat (readLoc s k l 64)
  let one (lane : Nat) : Res :=
    cellRead ety { mode := modeRound mode, sat := modeSat mode, r := rnd32 seed.toNat dix.toNat lane 0 % 2 ^ 24 } cell
  let fl := g.foldl (fun f e => f ||| (one e.1).fl) 0
  (setAcc s k i fun a => { a with fl := a.fl ||| fl }, g.flatMap fun e => landV t 4 e.1 (one e.1).pat)

/-- An error of a wave-uniform access. -/
def oneErr (a : Access) (cause addr : Nat) : Option AccErr := badErr a [(0, cause, addr)]

/-- The translation of [va, va + n) of an access after issue: the one made at issue where there is one (R252). -/
def reachAt (s : State) (k lane : Nat) (a : Access) (va n : Nat) (need : Need) : Reach :=
  match tlook a.trs (va / 65536) with
  | some t => if t.cause = 0 then .ok (t.pa + va % 65536) (t.ipa + va % 65536) else .err t.cause
  | none => reachOf a.hold va n (translateAs s k lane va need a.hold)

/-- The access waits for the host's answer to a stage-2 fault (R233). -/
def holdS2 (s : State) (k i va ipa kind : Nat) (src : Src) (need : Need) (rd : Bool := false) : State :=
  setAcc (sendS2 s k src (some i) va ipa kind need 0 rd) k i ({ · with hold := .s2 s.nextTok })

/-- The 8 bytes of a deque header's counter that an operation changes, by their offset. -/
def dequeWrite (op : DequeOp) (h : DequeHdr) : Nat × List Byte :=
  match op with
  | .steal => (0, natLe 8 h.top)
  | _ => (8, natLe 8 h.bottom)

/-- A deque operation performs (R266, R267): one step on header and entry; an entry is written by a push and read by the
others, whose step needs both rights. What races with it: `performAtomic` (log 54). -/
def performDeque (s : State) (k i : Nat) (a : Access) (op : DequeOp) (t va : Nat) (hd : Loc) (val : DWord) (cap : Cap) :
    State :=
  let done (s : State) (e : Option AccErr) : State := goOn s k i (.loadVC 0 []) false e
  let p := partsOf s k a true true 64 [(0, hd)]
  match p.park, p.bad with
  | some id, _ => parkAcc s k i id
  | none, b :: bs => done (noteFails s k (b :: bs)) (badErr a (b :: bs))
  | none, [] =>
    match dequeHdr (leNat (readLoc s k hd 64)) with
    | none => done s (oneErr a 0x0A va)
    | some h => match dequeStep op h with
      | none =>
        if op = .push then done s (oneErr a 0x19 va)
        else done (landCells (noteLanes s k a 64 [(0, hd)]) k i (landS t dequeEmpty)) none
      | some (e, h') =>
        let ev := va + 64 + 8 * e
        match capCause cap ev 8 [pLD, pST] (worldOf s k) 0 with
        | some c => done s (oneErr a c ev)
        | none => match reachOf a.hold ev 8 (atomTr s k ev (op != .push) a.hold) with
          | .err c => done s (oneErr a c ev)
          | .s2 ipa kind => holdS2 s k i ev ipa kind a.src .write (op != .push)
          | .ok pa ipa =>
            let el := Loc.mem ev pa ipa
            let q := partsOf s k a true true 8 [(0, el)]
            match q.park, q.bad with
            | some id, _ => parkAcc s k i id
            | none, b :: bs => done (noteFails s k (b :: bs)) (badErr a (b :: bs))
            | none, [] =>
              let z := races s k a [locRange hd 64, locRange el 8]
              let s := noteLanes (noteLanes (scramble z.2 k z.1) k a 64 [(0, hd)]) k a 8 [(0, el)]
              let r := BitVec.ofNat 64 (leNat (readLoc s k el 8))
              let s := if op = .push then writeLoc s k el (natLe 8 val.toNat) else s
              let (off, bs) := dequeWrite op h'
              let s := scramble (writeLoc s k (locAdd hd off) bs) k z.1
              done (if op = .push then s else landCells s k i (landS t r)) none

/-- A barrier operation performs (R269). -/
def performBar (s : State) (k i : Nat) (a : Access) (op : BarOp) (t off : Nat) (val : DWord) : State :=
  let l := Loc.scr off
  let old := BitVec.ofNat 64 (leNat (readLoc s k l 8))
  if scrPoisoned s k off 8 then goOn s k i (.loadVC 0 []) false (oneErr a 0x15 off)
  else match barStep op old val with
  | none => goOn s k i (.loadVC 0 []) false (oneErr a 0x18 off)
  | some v =>
    let r := races s k a [(true, off, 8)]
    goOn (landCells (scramble (writeLoc r.2 k l (natLe 8 v.toNat)) k r.1) k i (landS t old)) k i (.loadVC 0 []) false none

end Sys2Proof.Machine
end

