-- ==== Sys2Proof/Machine/Transfers.lean ====
section
/-! DEFINITION. How engine transfers, matrix transfers and SHDEAL perform, unit by unit (R205-R207, R215-R219, R252,
R270, R281, R295-R303, R356). -/
namespace Sys2Proof.Machine

-- Reaching bytes through a capability after issue.

/-- Why a unit of a transfer does not land: an error, a stage-2 fault, or a build to wait for. -/
inductive Stop where
  | err (cause addr : Nat)
  | s2 (va ipa kind : Nat) (need : Need)
  | park (id : Nat)
  deriving DecidableEq, Repr, Inhabited

/-- The location of one piece of an access (R227, R206, R371, R407). -/
def reachPiece (s : State) (k : Nat) (a : Access) (cap : Cap) (need : Need) (p : Nat × Nat) : Except Stop (Loc × Nat) :=
  let found (l : Loc) : Except Stop (Loc × Nat) := match locAns s k a (need != .read) false l p.2 with
    | .ok => .ok (l, p.2)
    | .err c x => .error (.err c x)
    | .park id => .error (if a.hold = .recipeFailed id then .err 0x11 p.1 else .park id)
  if capHas cap pSCRATCH then found (.scr p.1)
  else match reachAt s k 33 a p.1 p.2 need with
    | .err c => .error (.err c p.1)
    | .s2 ipa kind => .error (.s2 p.1 ipa kind need)
    | .ok pa ipa => found (.mem p.1 pa ipa)

/-- The pieces of [x, x + n) through a capability. -/
def capPieces (cap : Cap) (x n : Nat) : List (Nat × Nat) :=
  if capHas cap pSCRATCH then (if n = 0 then [] else [(x, n)]) else cutAt x n (n / 4096 + 2)

/-- The locations of the bytes [x, x + n) of an access, piece by piece. -/
def segsVia (s : State) (k : Nat) (a : Access) (cap : Cap) (x n : Nat) (need : Need) : Except Stop (List (Loc × Nat)) :=
  (capPieces cap x n).mapM (reachPiece s k a cap need)

/-- The located pieces before the first that fails, and why it fails. -/
def segsBefore (f : Nat × Nat → Except Stop (Loc × Nat)) : List (Nat × Nat) → List (Loc × Nat) × Option Stop
  | [] => ([], none)
  | p :: ps => match f p with
    | .error e => ([], some e)
    | .ok l => ((l :: (segsBefore f ps).1), (segsBefore f ps).2)

/-- The bytes at located pieces. -/
def readSegs (s : State) (k : Nat) (l : List (Loc × Nat)) : List Byte := l.flatMap fun e => readLoc s k e.1 e.2

/-- Writes bytes at located pieces. -/
def writeSegs (s : State) (k : Nat) : List (Loc × Nat) → List Byte → State
  | [], _ => s
  | (l, n) :: rest, bs => writeSegs (writeLoc s k l (bs.take n)) k rest (bs.drop n)

/-- Bytes of an access land at located pieces. -/
def landSegs (s : State) (k : Nat) (a : Access) (l : List (Loc × Nat)) (bs : List Byte) : State :=
  landing s k a (l.map fun e => locRange e.1 e.2) fun s => writeSegs s k l bs

/-- A capability of an access lands in a granule. -/
def landCap (s : State) (k : Nat) (a : Access) (l : Loc) (c : Cap) : State :=
  landing s k a [locRange l 16] fun s => writeCapLoc s k l c

/-- The bytes [x, x + n) read through a capability. -/
def readVia (s : State) (k : Nat) (a : Access) (cap : Cap) (x n : Nat) : Except Stop (List Byte) := do
  let l ← segsVia s k a cap x n .read
  .ok (readSegs s k l)

/-- The pages that an engine reached enter the TLB of its core (R229). -/
def noteTlb (s : State) (k va : Nat) (need : Need) : State := noteLane s k 33 va (trFresh s (wingOf s k) va need)

-- Running a transfer.

/-- One unit of a transfer: its effect, the scratch bytes it wrote, and what stops it: after an error the bytes before it have
landed (R66, R369), and a unit that waits has landed nothing. -/
abbrev UnitStep := State → Nat → State × Nat × Option Stop

/-- A unit that cannot start. -/
def unitStop (s : State) (e : Stop) : State × Nat × Option Stop := (s, 0, some e)

/-- Bytes that a unit writes through a capability from `y` on. -/
def landVia (s : State) (k : Nat) (a : Access) (cap : Cap) (y : Nat) (bs : List Byte) (need : Need) : State × Nat × Option Stop :=
  let r := segsBefore (reachPiece s k a cap need) (capPieces cap y bs.length)
  match r.2 with
  | none => (landSegs s k a r.1 bs, if capHas cap pSCRATCH then bs.length else 0, none)
  | some (.err c x) => (landSegs s k a r.1 bs, 0, some (.err c x))
  | some e => unitStop s e

/-- Units `i`, `i + 1`, … land until one stops: the state, the unit it stopped at and the scratch bytes written. -/
def runUnits (f : UnitStep) : Nat → Nat → State → Nat → State × Nat × Nat × Option Stop
  | 0, i, s, w => (s, i, w, none)
  | n + 1, i, s, w =>
    match f s i with
    | (s, v, none) => runUnits f n (i + 1) s (w + v)
    | (s, v, some e) => (s, i, w + v, some e)

/-- After an error at a unit, each later unit may or may not land (R215-R217): a free choice for each. -/
def strayUnits (f : UnitStep) (pick : Nat) : Nat → Nat → State → Nat → State × Nat
  | 0, _, s, w => (s, w)
  | n + 1, i, s, w =>
    if Config.freePick (pick * 2 ^ 50 + i) % 2 = 0 then
      match f s i with
      | (s, v, none) => strayUnits f pick n (i + 1) s (w + v)
      | _ => strayUnits f pick n (i + 1) s w
    else strayUnits f pick n (i + 1) s w

/-- Scratch bytes that a bound transfer has written are still to be counted on its barrier word (R270). -/
def owe (w : Nat) (a : Access) : Access := if a.bound.isSome then { a with deliv := a.deliv + w } else a

/-- A transfer waits (R233, R370), with the progress it has made. -/
def stopAt (s : State) (k i prog w : Nat) (e : Stop) : State :=
  let s := setAcc s k i fun a => owe w { a with prog := prog }
  match e with
  | .s2 va ipa kind need => holdS2 s k i va ipa kind ((((waveAt s k).accs[i]?).map (·.src)).getD Src.seqCopy) need
  | .park id => parkAcc s k i id
  | .err .. => s

/-- A transfer ends with an error (R204) or well. -/
def endTransfer (s : State) (k i w : Nat) (e : Option AccErr) : State :=
  let s := setAcc s k i fun a => owe w { a with performed := true, hold := .none, err := joinErr a.err e }
  match (waveAt s k).accs[i]? with
  | some a => settle s k a.path
  | none => s

/-- Moves a transfer of `total` units by at most `n` further ones, all where `n` is 0. `pix` gives TRAPPIX of a unit;
`stray` whether later units may land after an error. -/
def moveUnits (s : State) (k i n : Nat) (a : Access) (total : Nat) (pix : Nat → Nat) (stray : Bool) (f : UnitStep) :
    State :=
  let left := total - a.prog
  let r := runUnits f (if n = 0 then left else min n left) a.prog s 0
  let s := tick r.1
  match r.2.2.2 with
  | none => if r.2.1 < total then setAcc s k i fun a => owe r.2.2.1 { a with prog := r.2.1, hold := .none }
            else endTransfer s k i r.2.2.1 none
  | some (.err c x) =>
    let e : AccErr := { cause := BitVec.ofNat 8 c, addr := BitVec.ofNat 64 x, pix := BitVec.ofNat 64 (pix r.2.1) }
    let q := if stray then strayUnits f s.fresh (total - r.2.1 - 1) (r.2.1 + 1) s r.2.2.1 else (s, r.2.2.1)
    endTransfer (tick (noteFails q.1 k [(0, c, x)])) k i q.2 (some e)
  | some e => stopAt s k i r.2.1 r.2.2.1 e

/-- A transfer that has moved nothing ends with a cause. -/
def failTransfer (s : State) (k i c : Nat) (x : Int) : State :=
  endTransfer s k i 0 (some { cause := BitVec.ofNat 8 c, addr := BitVec.ofNat 64 (wrap 64 x) })

/-- The lowest cause of a list of causes with addresses, the first of its kind. -/
def lowestCause : List (Option Nat × Int) → Option (Nat × Int)
  | [] => none
  | (none, _) :: t => lowestCause t
  | (some c, x) :: t => match lowestCause t with
    | some (d, y) => if d < c then some (d, y) else some (c, x)
    | none => some (c, x)

/-- The cause of misalignment. -/
def misCause (x : Int) (n : Nat) : Option Nat := if x % (n : Int) ≠ 0 then some 0x1A else none

/-- The scratch bytes that a write of `n` bytes through a capability counts. -/
def scrBytes (cap : Cap) (n : Nat) : Nat := if capHas cap pSCRATCH then n else 0

-- GATH and SCAT.

/-- One row of a GATH or SCAT. -/
def rowStep (k : Nat) (a : Access) (gather : Bool) (len dest : Nat) (base : Int) (m z : Cap) (idx : List Int) : UnitStep :=
  fun s i =>
    let x := (base + nth 0 idx i).toNat
    let q := dest + i * len
    match if gather then readVia s k a m x len else readVia s k a z q len with
    | .error e => unitStop s e
    | .ok bs => if gather then landVia s k a z q bs .engine else landVia s k a m x bs .engine

/-- GATH and SCAT perform (R215): the row list is read and every row checked before a row moves. DESIGN CHOICE: LIST and DEST
are checked as the addresses that the field table gives them (log 26). -/
def performRows (s : State) (k i n : Nat) (a : Access) (gather : Bool) (word : DWord) (base : Int) (m z : Cap)
    (idx : Option (List Int)) : State :=
  let (len, rows, list, dest) := gatherWord word
  let wd := worldOf s k
  let win := scrWin s k
  match idx with
  | some l => moveUnits s k i n a rows id true (rowStep k a gather len dest base m z l)
  | none =>
    if rows = 0 then endTransfer s k i 0 none
    else match lowestCause [(capCause z list (4 * rows) [pLD, pST] wd win, (list : Int)), (misCause list 4, (list : Int)),
        (misCause dest 16, (dest : Int))] with
    | some (c, x) => failTransfer s k i c x
    | none => match readVia s k a z list (4 * rows) with
      | .error (.err c x) => failTransfer (noteFails s k [(0, c, x)]) k i c x
      | .error e => stopAt s k i 0 0 e
      | .ok bs =>
        let l := (List.range rows).map fun j => sext 32 (fld bs (4 * j) 4)
        let bad := (List.range rows).flatMap fun j =>
          let x := base + nth 0 l j
          let q := dest + j * len
          [(capCause m x len [if gather then pLD else pST] wd win, x), (misCause x 16, x),
           (capCause z q len [pLD, pST] wd win, (q : Int))]
        match lowestCause bad with
        | some (c, x) => failTransfer s k i c x
        | none =>
          let s := setAcc s k i ({ · with kind := .rows gather word base m z (some l) })
          moveUnits s k i n a rows id true (rowStep k a gather len dest base m z l)

-- TCPY.

/-- The descriptor that 64 + 32 × RANK bytes hold; none where a field is invalid (R216, R217). -/
def tensorDesc (bs : List Byte) : Option TensorDesc :=
  let h := leNat (bs.take 64)
  let rank := bits h 7 0
  let esz := bits h 10 8
  let dims := (List.range rank).map fun j =>
    let d := fld bs (64 + 32 * j) 32
    ({ ext := bits d 31 0, box := bits d 63 32, start := sext 32 (bits d 95 64), sstr := sext 64 (bits d 191 128),
       dstr := sext 64 (bits d 255 192) } : TensorDim)
  let resv := (List.range rank).any fun j => bits (fld bs (64 + 32 * j) 32) 127 96 ≠ 0
  if bits h 511 192 ≠ 0 ∨ bits h 63 14 ≠ 0 ∨ bit h 11 ∨ resv ∨ 4 < esz ∨ rank = 0 ∨ 16 < rank ∨ dims.any (·.box == 0)
      ∨ 2 ^ 48 < dims.foldl (fun p d => p * d.box) 1 ∨ (bit h 12 ∧ esz ≠ 4) then none
  else some { esz := esz, tags := bit h 12, skip := bit h 13, fill := natLe (2 ^ esz) (bits h 191 64), dims := dims }

/-- The checks of one side over the coordinate ranges [lo, hi] of each dimension with its stride: the extremes by
capcheck, and alignment (R217). -/
def extremes (cap : Cap) (z : Nat) (rights : List Nat) (wd win : Nat) (base : Int) (r : List (Int × Int × Int)) :
    List (Option Nat × Int) :=
  let low := tensorAddr base (r.map fun e => (if 0 ≤ e.2.2 then e.1 else e.2.1, e.2.2))
  let high := tensorAddr base (r.map fun e => (if 0 ≤ e.2.2 then e.2.1 else e.1, e.2.2))
  let steps := r.filterMap fun e => if e.1 < e.2.1 then some (low + (e.2.2.natAbs : Int)) else none
  [(capCause cap low z rights wd win, low), (capCause cap high z rights wd win, high), (misCause low z, low)]
    ++ steps.map fun x => (misCause x z, x)

/-- The range of box indices of a dimension that lie in the source tensor. -/
def inRange (d : TensorDim) : Int × Int := (max 0 (-d.start), min ((d.box : Int) - 1) ((d.ext : Int) - 1 - d.start))

/-- The checks before any element moves (R217). -/
def tensorChecks (dst src : Cap) (d : TensorDesc) (wd win : Nat) : Option (Nat × Int) :=
  let z := 2 ^ d.esz
  let ranges := d.dims.map fun x => (x, inRange x)
  let some_ := ranges.all fun e => decide (e.2.1 ≤ e.2.2)
  let srcSide := if some_ then
      extremes src z (if d.tags then [pLD, pLDC] else [pLD]) wd win (capAddr src)
        (ranges.map fun e => (e.1.start + e.2.1, e.1.start + e.2.2, e.1.sstr))
    else []
  let dstSide :=
    if d.skip && !some_ then []
    else extremes dst z (if d.tags then [pST, pSTC] else [pST]) wd win (capAddr dst)
      (ranges.map fun e => if d.skip then (e.2.1, e.2.2, e.1.dstr) else (0, (e.1.box : Int) - 1, e.1.dstr))
  lowestCause (srcSide ++ dstSide)

/-- A copied granule as it arrives (R175, R185): its tag cleared where it is confined or revoked. -/
def carryCap (s : State) (k : Nat) (c : Cap) : Cap :=
  let g := wingOf s k
  let c := filterCap s c
  if confined c g.privBase (g.privBase + g.privLen) then { c with tag := false } else c

/-- One element of a tensor copy; where source and destination of one copy overlap, the element is read as it stood
before this move or as it stands, a free choice (R217). -/
def tensorStep (s0 : State) (k : Nat) (a : Access) (dst src : Cap) (d : TensorDesc) : UnitStep := fun s l =>
  let z := 2 ^ d.esz
  let ix := (d.dims.zip (tensorIndex d.dims l)).map fun e => (e.1, (e.2 : Int))
  let inr := ix.all fun e => decide (0 ≤ e.1.start + e.2) && decide (e.1.start + e.2 < e.1.ext)
  let x := (tensorAddr (capAddr src) (ix.map fun e => (e.1.start + e.2, e.1.sstr))).toNat
  let y := (tensorAddr (capAddr dst) (ix.map fun e => (e.2, e.1.dstr))).toNat
  if inr then
    match segsVia s k a src x z .read, segsVia s k a dst y z .engine with
    | .error e, _ => unitStop s e
    | _, .error e => unitStop s e
    | .ok ls, .ok ld =>
      let s := noteTlb (noteTlb s k x .read) k y .engine
      let from_ := if Config.freePick (s0.fresh * 2 ^ 50 + l) % 2 = 0 then s0 else s
      match d.tags, ls, ld with
      | true, (p, _) :: _, (q, _) :: _ => (landCap s k a q (carryCap s k (readCapLoc from_ k p)), scrBytes dst z, none)
      | _, _, _ => (landSegs s k a ld (readSegs from_ k ls), scrBytes dst z, none)
  else if d.skip then (s, 0, none)
  else landVia s k a dst y d.fill .engine

/-- TCPY performs (R216, R217): the descriptor is read and every element checked before one moves. -/
def performTcpy (s : State) (k i n : Nat) (a : Access) (dst src desc : Cap) (daddr : Nat) (d : Option TensorDesc) : State :=
  let wd := worldOf s k
  let win := scrWin s k
  match d with
  | some d => moveUnits s k i n a (tensorSize d) id true (tensorStep s k a dst src d)
  | none =>
    let check (m : Nat) := lowestCause [(capCause desc daddr m [pLD] wd win, (daddr : Int)), (misCause daddr 64, (daddr : Int))]
    let read : Except (Stop ⊕ (Nat × Int)) TensorDesc :=
      match check 64 with
      | some e => .error (.inr e)
      | none => match readVia s k a desc daddr 64 with
        | .error e => .error (.inl e)
        | .ok h =>
          let rank := bits (leNat h) 7 0
          if rank = 0 ∨ 16 < rank then .error (.inr (0x0A, daddr))
          else match check (64 + 32 * rank) with
            | some e => .error (.inr e)
            | none => match readVia s k a desc daddr (64 + 32 * rank) with
              | .error e => .error (.inl e)
              | .ok bs => match tensorDesc bs with
                | none => .error (.inr (0x0A, daddr))
                | some d => .ok d
    match read with
    | .error (.inl (.err c x)) => failTransfer (noteFails s k [(0, c, x)]) k i c x
    | .error (.inl e) => stopAt s k i 0 0 e
    | .error (.inr (c, x)) => failTransfer s k i c x
    | .ok d => match tensorChecks dst src d wd win with
      | some (c, x) => failTransfer s k i c x
      | none =>
        let s := setAcc s k i ({ · with kind := .tcpy dst src desc daddr (some d) })
        moveUnits s k i n a (tensorSize d) id true (tensorStep s k a dst src d)

-- BCPY.

/-- The bytes of a destination that its unit `j` covers: a granule or a part of one, from the end that R218 names. -/
def bytePiece (dst len : Nat) (up : Bool) (j : Nat) : Nat × Nat :=
  let gs := granulesOf dst len
  let g := nth 0 gs (if up then j else gs.length - 1 - j)
  (max dst (g * 16), min (dst + len) (g * 16 + 16))

/-- The source bytes that a piece [x, x + z) of a copy of [src, src + len) still has to read, so that each granule of the source
is read once (R249): `have_` bytes of the piece were read with the piece before it. -/
def byteSource (src len x z have_ : Nat) (up : Bool) : Nat × Nat :=
  if z ≤ have_ then (x, 0)
  else if up then (x + have_, min (src + len) ((x + z + 15) / 16 * 16) - (x + have_))
  else (max src (x / 16 * 16), x + z - have_ - max src (x / 16 * 16))

/-- The bytes of a piece and those read ahead for the next one. -/
def byteSplit (buf bs : List Byte) (z : Nat) (up : Bool) : List Byte × List Byte :=
  if up then ((buf ++ bs).take z, (buf ++ bs).drop z)
  else ((bs ++ buf).drop ((bs ++ buf).length - z), (bs ++ buf).take ((bs ++ buf).length - z))

/-- The bytes of [x, x + n) of a source that lie at a place which the copy is about to write: kept as they stand, with the tags
of their granules, since the result is as if they had been read before (R218). -/
def keepBytes (s : State) (k : Nat) (cap : Cap) (x n : Nat) (d : Bool × Nat × Nat) : Table (Byte × Bool) :=
  (capPieces cap x n).flatMap fun p =>
    match if capHas cap pSCRATCH then some p.1 else rawPa s (wingOf s k) p.1 with
    | none => []
    | some at_ => match commonBytes false (capHas cap pSCRATCH, at_, p.2) d with
      | none => []
      | some (_, lo, m) => (List.range m).map fun i =>
        let l := if capHas cap pSCRATCH then Loc.scr (lo + i) else .mem 0 (lo + i) 0
        let g := if capHas cap pSCRATCH then Loc.scr ((lo + i) / 16 * 16) else .mem 0 ((lo + i) / 16 * 16) 0
        (p.1 + (lo - at_) + i, (nth 0 (readLoc s k l 1) 0, (readCapLoc s k g).tag))

/-- Source bytes from `x` on, those that were kept in the place of those that stand there. -/
def fromKept (t : Table (Byte × Bool)) (x : Nat) (bs : List Byte) : List Byte :=
  bs.mapIdx fun i b => ((tlook t (x + i)).map (·.1)).getD b

/-- The capability of a source granule: the kept one, or the one that stands there. -/
def keptCap (t : Table (Byte × Bool)) (x : Nat) (c : Cap) : Cap :=
  match tlook t x with
  | none => c
  | some e => capOfBytes (fromKept t x (List.replicate 16 0)) e.2

/-- One piece of a byte copy; whole granules carry tags where both addresses are multiples of 16 (R218, R175). Source bytes that it
overwrites and that are still to be read are kept. -/
def byteStep (k i : Nat) (a : Access) (dst src : Cap) (len : Nat) : UnitStep := fun s j =>
  let up := decide (capAddr dst < capAddr src)
  let (lo, hi) := bytePiece (capAddr dst) len up j
  let x := capAddr src + (lo - capAddr dst)
  let z := hi - lo
  let now := ((waveAt s k).accs[i]?).getD a
  let buf := now.buf
  let q := byteSource (capAddr src) len x z buf.length up
  match segsVia s k a src q.1 q.2 .read, segsVia s k a dst lo z .engine with
  | .error e, _ => unitStop s e
  | _, .error e => unitStop s e
  | .ok ls, .ok ld =>
    let s := noteTlb (noteTlb s k x .read) k lo .engine
    let tagged := capAddr dst % 16 = 0 ∧ capAddr src % 16 = 0 ∧ z = 16 ∧ capHas src pLDC ∧ capHas dst pSTC
    let r := byteSplit buf (fromKept now.kept q.1 (readSegs s k ls)) z up
    let past := if up then q.1 + q.2 else capAddr src
    let left := if up then capAddr src + len - past else q.1 - past
    let kept := ld.flatMap fun e => keepBytes s k src past left (locRange e.1 e.2)
    let s := setAcc s k i fun b => { b with kept := kept.foldl (fun t e => if (tlook t e.1).isSome then t else tput t e.1 e.2) b.kept }
    match decide tagged, ls, ld with
    | true, (p, _) :: _, (l, _) :: _ => (landCap s k a l (carryCap s k (keptCap now.kept q.1 (readCapLoc s k p))), scrBytes dst z, none)
    | _, _, _ => (setAcc (landSegs s k a ld r.1) k i ({ · with buf := r.2 }), scrBytes dst z, none)

/-- BCPY performs (R218); its progress counts bytes, and nothing lands beyond an error. -/
def performBcpy (s : State) (k i n : Nat) (a : Access) (dst src : Cap) (len : Nat) : State :=
  let wd := worldOf s k
  let win := scrWin s k
  let x := capAddr src
  let y := capAddr dst
  match if a.prog = 0 then lowestCause [(capCause src x len [pLD] wd win, (x : Int)), (capCause dst y len [pST] wd win, (y : Int))]
      else none with
  | some (c, x) => failTransfer s k i c x
  | none =>
    let up := decide (y < x)
    moveUnits s k i n a (granulesOf y len).length
      (fun j => ((List.range j).map fun q => (bytePiece y len up q).2 - (bytePiece y len up q).1).sum) false
      (byteStep k i a dst src len)

-- PUBL.

/-- The leaf entries of the pages of a range, by the intermediate address of the entry and by its contents. -/
def publLeaves (s : State) (k : Nat) (a : Access) (x len : Nat) : Except Stop (List (Nat × Nat)) :=
  (List.range (len / 65536)).mapM fun j =>
    let va := x + j * 65536
    if failedAt a.hold va 65536 then .error (.err 0x09 va)
    else match s1Walk s (wingOf s k) va with
      | .s2 ipa => .error (if hostFailed a.hold then .err 0x09 va else .s2 va ipa 0 .read)
      | .bad c => .error (.err c va)
      | .miss _ _ => .error (.err 0x08 va)
      | .leaf e _ at_ => if leafShd e then .ok (at_, e) else .error (.err 0x08 va)

/-- PUBL performs (R206, R207, R219): the selector of every page inverts in one step, and every cached translation of the pages
goes. -/
def performPubl (s : State) (k i : Nat) (a : Access) (scr : Bool) (x len : Nat) : State :=
  if scr && decide (len ≠ 0) then failTransfer s k i 0x08 x
  else match publLeaves s k a x len with
    | .error (.err c va) => failTransfer s k i c va
    | .error e => stopAt s k i 0 0 e
    | .ok l =>
      let w := wingOf s k
      let s := (l.eraseDups).foldl (fun s e => match s2Pa s w e.1 false false with
        | some pa => writeMem s pa (natLe 8 (e.2 ^^^ 2 ^ 56))
        | none => s) s
      endTransfer (invalidate s (wingNoOf s k) x (x + len) true) k i 0 none

-- Matrix transfers.

/-- Bytes written into a slot's storage. -/
def putSlotBytes (m : Matrix) (o at_ : Nat) (bs : List Byte) : Matrix :=
  { m with slots := tputBytes m.slots (o * 2176 + at_) bs }

/-- A mix of old and new: each byte of the new ones lands or not, a free choice (R295, R303). -/
def mixBytes (pick : Nat) (old new : List Byte) : List Byte :=
  (List.range new.length).map fun i => if Config.freePick (pick * 2 ^ 50 + i) % 2 = 0 then nth 0 new i else nth 0 old i

/-- A matrix transfer ends with an error (R204). -/
def bulkFail (s : State) (k i : Nat) (a : Access) (c x : Nat) : State :=
  goOn (noteFails s k [(0, c, x)]) k i (.loadVC 0 []) false (oneErr a c x)

/-- The lines of MLDO land (R295), each at its number; after an error the other lines land in part, a free choice. -/
def performSlot (s : State) (k i : Nat) (a : Access) (o base : Nat) (segs : List (Nat × Loc)) : State :=
  let p := partsOf s k a false false 128 segs
  match p.park with
  | some id =>
    let s := goOn (noteFails s k p.bad) k i (.loadSlot o base (segs.filter fun e => !failing p e.1)) true (badErr a p.bad)
    parkAcc s k i id
  | none =>
    let failed := !p.bad.isEmpty || a.err.isSome
    let m := segs.foldl (fun m e =>
      if failing p e.1 then m
      else
        let new := readLoc s k e.2 128
        let old := tbytes m.slots (o * 2176 + 128 * e.1) 128
        putSlotBytes m o (128 * e.1) (if failed then mixBytes (s.fresh * 64 + e.1) old new else new)) (matOf s k)
    goOn (tick (setMat (noteFails s k p.bad) k m)) k i (.loadVC 0 []) false (badErr a p.bad)

/-- MCAB performs (R302), 128 bytes a unit. -/
def performCabinet (s : State) (k i n : Nat) (a : Access) (cap : Cap) (x : Nat) : State :=
  let left := 16 - a.prog
  let r := runUnits (fun s j => match readVia s k a cap (x + 128 * j) 128 with
    | .error e => unitStop s e
    | .ok bs =>
      let m := matOf s k
      (setMat s k { m with cabinet := tputBytes m.cabinet (128 * j) bs }, 0, none)) (if n = 0 then left else min n left) a.prog s 0
  match r.2.2.2 with
  | none => if r.2.1 < 16 then setAcc r.1 k i ({ · with prog := r.2.1, hold := .none }) else goOn r.1 k i (.loadVC 0 []) false none
  | some (.err c x) => bulkFail r.1 k i a c x
  | some e => stopAt r.1 k i r.2.1 0 e

/-- TLDP performs (R301), with its acccheck and acctake in the step of its effect (R329): DESIGN CHOICE: where another context has
taken the accumulators since its issue, it ends with 0x0D and changes nothing. DESIGN CHOICE: a valid program that equals the
identity program sets TP too (R301, R284; log 57). -/
def performTail (s : State) (k i : Nat) (a : Access) (n : Nat) (cap : Cap) (x : Nat) : State :=
  match readVia s k a cap x (4 * n) with
  | .error (.s2 va ipa kind need) => stopAt s k i 0 0 (.s2 va ipa kind need)
  | .error (.park id) => stopAt s k i 0 0 (.park id)
  | r =>
  let ctx := (unitOf s k).ctxid
  if !accOk (matOf s k) ctx then goOn s k i (.loadVC 0 []) false (oneErr a 0x0D ctx.toNat)
  else
  let s := setMat s k { matOf s k with accown := ctx }
  match r with
  | .error (.err c y) => bulkFail (setMat s k (resetTail (matOf s k))) k i a c y
  | .error _ => s
  | .ok bs =>
    let ws := (List.range n).map fun j => BitVec.ofNat 32 (fld bs (4 * j) 4)
    if tailValid ws then
      goOn (setMat s k { matOf s k with tp := true, tail := ws ++ List.replicate (64 - n) tailNop }) k i (.loadVC 0 []) false none
    else bulkFail (setMat s k (resetTail (matOf s k))) k i a 0x0A x

/-- The words of a tile replaced by the bytes of its image, row by row, from row `r` on. -/
def putTileRow (m : Matrix) (t r : Nat) (bs : List Byte) : Matrix :=
  (List.range 32).foldl (fun m j => tileSet m t r j (fld bs (4 * j) 4)) m

/-- ACCRS performs (R303): after an error the tile holds a mix of old and loaded words, a free choice, and is LIVE as the access
completes even so (R204). -/
def performTile (s : State) (k i : Nat) (a : Access) (t : Nat) (cap : Cap) (x : Nat) : State :=
  let rows := (List.range 32).map fun r => readVia s k a cap (x + 128 * r) 128
  let wait := rows.findSome? fun r => match r with | .error (.s2 a b c d) => some (Stop.s2 a b c d) | .error (.park id) => some (.park id) | _ => none
  match wait with
  | some e => stopAt s k i 0 0 e
  | none =>
    let bad := rows.filterMap fun r => match r with | .error (.err c x) => some (0, c, x) | _ => none
    let failed := !bad.isEmpty
    let m := (List.range 32).foldl (fun m r => match nth (.error (.park 0)) rows r with
      | .ok bs =>
        if failed then
          (List.range 32).foldl (fun m j =>
            if Config.freePick (s.fresh * 2 ^ 50 + 32 * r + j) % 2 = 0 then tileSet m t r j (fld bs (4 * j) 4) else m) m
        else putTileRow m t r bs
      | .error _ => m) (matOf s k)
    goOn (tick (setMat (noteFails s k bad) k (setLive m t true))) k i (.loadVC 0 []) false (badErr a bad)

/-- More rows of a drain may come: its source is still part-way through it (R286). -/
def stillGrows (w : Wave) (a : Access) : Bool :=
  let at_ (x : Slot) : Bool := x.pc == a.pc && x.prog.getD x.pix != 0
  a.grows && match a.src with
    | .slotA => at_ w.a || (w.frame.map fun f => at_ f.a).getD false
    | .slotB => at_ w.b || (w.frame.map fun f => at_ f.b).getD false
    | x => let q := seqOf w x; q.running && q.pc == a.pc && q.prog.getD q.pix != 0

/-- A drain has stored its rows and waits for more. -/
def drainWaits (w : Wave) (a : Access) : Bool :=
  match a.kind with
  | .drain _ [] => stillGrows w a
  | _ => false

/-- Rows of a drain or of ACCSV are stored (R300, R303). -/
def performDrain (s : State) (k i n : Nat) (a : Access) (cap : Cap) (rows : List (Nat × DWord × Nat × List Byte)) : State :=
  let m := if n = 0 then rows.length else min n rows.length
  let r := runUnits (fun s j =>
    let e := nth (0, 0, 0, []) rows j
    let l := landVia s k a cap e.2.2.1 e.2.2.2 .write
    (l.1, 0, l.2.2)) m 0 s 0
  let more := stillGrows (waveAt s k) a
  let rest := rows.drop r.2.1
  match r.2.2.2 with
  | none => goOn r.1 k i (.drain cap rest) (!rest.isEmpty || more) none
  | some (.err c x) =>
    let e := nth (0, 0, 0, []) rows r.2.1
    let er := (badErr a [(e.1, c, x)]).map ({ · with pix := e.2.1 })
    goOn r.1 k i (.drain cap []) more er
  | some e =>
    let s := setAcc r.1 k i ({ · with kind := .drain cap rest })
    stopAt s k i 0 0 e

-- SHDEAL.

/-- The header of a record: its id and kind (R338). -/
def recHeader (bs : List Byte) : Nat × Nat := (bits (fld bs 0 16) 39 0, bits (fld bs 0 16) 47 40)

/-- One record dealt by access `a` of a wave (R356): the status that stops the deal, or 256 and the cause of a write that fails
(R66, R407), or the state. -/
def dealRecord (s : State) (wave : Nat) (a : Access) (k : Cap) (bs : List Byte) : State × Option Nat :=
  let b := bindNo k
  let p := bindRole k - 2
  let kind := bindKind k
  let bd := bindAt s b
  let x := poolAt bd p kind
  if poolOcc x = x.cap then (s, some 1)
  else if (recHeader bs).2 ≠ kind then (s, some 4)
  else if (recHeader bs).1 ≠ x.tail then (s, some 2)
  else
    let w := wingAt s (partyWing bd p)
    let r := races s wave a (ipaRanges s w (recIpa x kind x.tail) bs.length)
    match writeRecord r.2 w x kind x.tail bs with
    | (s, some c) => (scramble s wave r.1, some (256 + c))
    | (s, none) =>
      let s := scramble s wave r.1
      (setBind s b (setPool (bindAt s b) p kind { x with tail := nextId x.tail }), none)

/-- The status word of R356. -/
def dealWord (dealt status : Nat) : DWord := BitVec.ofNat 64 (dealt % 2 ^ 32 * 256 + status % 256)

/-- SHDEAL performs (R356), at most `n` records where `n` is not 0. -/
def performDeal (s : State) (k i n : Nat) (a : Access) (t x : Nat) (cap : Cap) : State :=
  let wd := worldOf s k
  let win := scrWin s k
  let fin (s : State) (word : DWord) : State := goOn (landCells s k i (landS t word)) k i (.loadVC 0 []) false none
  let fail (s : State) (c y pix : Nat) : State := goOn (noteFails s k [(0, c, y)]) k i (.loadVC 0 []) false
    ((oneErr { a with mask := some 0 } c y).map ({ · with pix := BitVec.ofNat 64 pix }))
  match capCause cap x 128 [pLD, pLDC] wd win with
  | some c => fail s c x 0
  | none => match segsVia s k a cap x 128 .read with
    | .error (.err c y) => fail s c y 0
    | .error e => stopAt s k i a.prog 0 e
    | .ok l =>
      let bs := readSegs s k l
      let b := filterCap s (readCapLoc s k ((l.head?.map (·.1)).getD (.scr 0)))
      let cnt := fld bs 16 4
      if (bindCause s (wingNoOf s k) b true).isSome || fld bs 20 108 ≠ 0 || 6 ≤ bindKind b then fin s (dealWord a.prog 3)
      else
        let z := recSize (bindKind b)
        match capCause cap x (128 + cnt * z) [pLD, pLDC] wd win with
        | some c => fail s c (x + 128 + a.prog * z) 0
        | none =>
          let left := cnt - a.prog
          let r := runUnits (fun s j => match readVia s k a cap (x + 128 + j * z) z with
            | .error e => unitStop s e
            | .ok bs => match dealRecord s k a b bs with
              | (s, none) => (s, 0, none)
              | (s, some e) => (s, 0, some (.err (256 + e) 0))) (if n = 0 then left else min n left) a.prog s 0
          match r.2.2.2 with
          | none => if r.2.1 < cnt then setAcc r.1 k i ({ · with prog := r.2.1, hold := .none }) else fin r.1 (dealWord r.2.1 0)
          | some (.err c y) =>
            if 512 ≤ c then fail r.1 (c - 512) (x + 128 + r.2.1 * z) r.2.1
            else if 256 ≤ c then fin r.1 (dealWord r.2.1 (c - 256))
            else fail r.1 c y r.2.1
          | some e => stopAt r.1 k i r.2.1 0 e

end Sys2Proof.Machine
end

