-- ==== Sys2Proof/Machine/Recipes.lean ====
section
/-! DEFINITION. CFLSH and CINV (R377) and the recipe instructions (R378, R379). -/
namespace Sys2Proof.Machine

-- Reaching memory at once, for uncounted accesses.

/-- What an instruction that makes an uncounted access needs of the access functions. -/
def immAccess (c : Ctx) : Access := { path := 6, kind := .loadVC 0 [], pc := c.pc, src := c.src, hold := c.hold }

/-- The source waits for the host or for a build, or traps at once (R234, R370, R378), FAIL noted where no build could start
(R366). -/
def stopNow (s : State) (c : Ctx) : Stop → Except Trap State
  | .err cause x => .ok (takeTrap (noteFails s c.k [(0, cause, x)]) c.k c.src { cause := cause, addr := BitVec.ofNat 64 x })
  | .s2 va ipa kind need => .ok (waitWith (sendS2 s c.k c.src none va ipa kind need) c (.s2 s.nextTok))
  | .park id => .ok (startNeed (waitWith s c (.recipe id)) (wingNoOf s c.k) id)

/-- The located piece that holds a byte, at that byte. -/
def segAt : List (Loc × Nat) → Nat → Loc
  | [], _ => .scr 0
  | (l, n) :: t, off => if off < n then locAdd l off else segAt t (off - n)

/-- The ranges of located pieces. -/
def segRanges (l : List (Loc × Nat)) : List (Bool × Nat × Nat) := l.map fun e => locRange e.1 e.2

/-- The capability at an offset of located pieces, through the revocation filter (R185). -/
def segCap (s : State) (k : Nat) (l : List (Loc × Nat)) (off : Nat) : Cap := filterCap s (readCapLoc s k (segAt l off))

/-- The check at issue of an instruction that refuses scratch capabilities (R376, R379): capcheck, then alignment. -/
def plainCheck (s : State) (c : Ctx) (cap : Cap) (x : Int) (n : Nat) (rights : List Nat) (al : Nat) : Except Trap PUnit :=
  let scr : Option Nat := if capHas cap pSCRATCH then some 0x03 else none
  match minCause (minCause (capCause cap x n rights (worldOf s c.k) (scrWin s c.k)) scr) (misCause x al) with
  | some e => .error { cause := e, addr := BitVec.ofNat 64 (wrap 64 x) }
  | none => .ok ⟨⟩

-- CFLSH and CINV.

/-- CFLSH and CINV at issue (R377). -/
def flushIssue (sw : Bool) (rights : List Nat) (al : Nat) (kind : Nat → Nat → AccKind) (t : BitVec 7) (cr : BitVec 5)
    (o : BitVec 7) (s : State) (c : Ctx) : Except Trap State := do
  let cap := opC c cr.toNat
  let x := addrS c cap o 0
  let n := (opS c t).toNat
  plainCheck s c cap x n rights al
  if n % al ≠ 0 then .error { cause := 0x1A, addr := BitVec.ofNat 64 x.toNat }
  else unheld s c <| .ok (issueAcc s c sw { path := 1, kind := kind x.toNat n, pc := c.pc, src := c.src, mask := some c.mask })

/-- CFLSH (R377). -/
def execCflsh (sw : Bool) (t : BitVec 7) (cr : BitVec 5) (o : BitVec 7) (i : Bool) (s : State) : Out :=
  runState s .wave fun c => flushIssue sw [pLD] 1 (.flush i) t cr o s c
/-- CINV (R377). -/
def execCinv (sw : Bool) (t : BitVec 7) (cr : BitVec 5) (o : BitVec 7) (s : State) : Out :=
  runSys s fun c => flushIssue sw [pST] 128 .discard t cr o s c

/-- The translation of CINV (R377): a write, which a shadowed page takes in its current frame. -/
def invTr (s : State) (k va : Nat) (h : Hold) : Tr :=
  let w := wingOf s k
  match stage1Of va h with
  | some (ipa, e, sh) => trStage2 s w ipa e sh .write
  | none => if inScan w va then .fault 0x07 else match s1Walk s w va with
    | .s2 a => .s2 a 0
    | .bad c => .fault c
    | .miss _ _ => .fault 0x07
    | .leaf e sh _ => if leafW e || leafShd e then trStage2 s w (s1Ipa e sh va false) e sh .write else .fault 0x08

/-- The current frame's address of a line for CFLSH and CINV (R377). -/
def lineReach (s : State) (k : Nat) (a : Access) (va : Nat) (inv : Bool) : Except Stop Nat :=
  match if inv then reachOf a.hold va 128 (invTr s k va a.hold) else reachAt s k 33 a va 128 .read with
  | .err c => .error (.err c va)
  | .s2 ipa kind => .error (.s2 va ipa kind (if inv then .write else .read))
  | .ok pa ipa =>
    if ownerBad s (wingOf s k) pa ipa 128 then .error (.err 0x06 va)
    else if inv && writeLocked s pa then .error (.err 0x08 va)
    else if poisoned s pa 1 then .error (.err 0x15 va)
    else .ok pa

/-- The unpinned PRESENT tile that holds an address. -/
def dropAt (s : State) (wing va : Nat) : Option Nat :=
  (findTile (wingAt s wing) va).filter fun id => droppable (recipeAt (wingAt s wing) id)

/-- CFLSH and CINV perform, line by line (R377); `gone` says that the copies of the lines go (CFLSH.i), and with them the records
of strong accesses (R251). -/
def performFlush (s : State) (k i n : Nat) (a : Access) (inv gone : Bool) (x len : Nat) : State :=
  let lines := linesOf x len
  let wing := wingNoOf s k
  moveUnits s k i n { a with bound := none } lines.length (fun _ => 0) false fun s j =>
    let va := nth 0 lines j * 128
    match lineReach s k a va inv with
    | .error e => unitStop s e
    | .ok pa =>
      if inv then match dropAt s wing va with
        | some id => (tendBuilds (dropTile s wing id) wing, 0, none)
        | none => (discardLine s (lineOf pa), 0, none)
      else
        let s := cleanLine s (lineOf pa)
        (if gone && (dropAt s wing va).isNone then forgetStrong s (lineOf pa) else s, 0, none)

-- RCPDEF.

/-- The status word of the recipe instructions (R379). -/
def recipeStatus (result id : Nat) : DWord := BitVec.ofNat 64 (result * 2 ^ 56 + id % 65536)

/-- The leaf's POLICY of a page, where it is mapped. -/
def pagePolicy (s : State) (w : Wing) (va : Nat) : Option Nat :=
  match s1Walk s w va with
  | .leaf e _ _ => some (leafPolicy e)
  | _ => none

/-- TILE meets R364 but for its pages. -/
def tileOk (c : Cap) (world : Nat) : Bool :=
  let n := capTop c - capBase c
  plainCap c world [pLD, pST, pRECIPE] && capBase c % 4096 == 0 && n % 4096 == 0 && decide (4096 ≤ n) && decide (n ≤ 262144)

/-- Two capabilities' bounds share a byte. -/
def boundsMeet (a b : Cap) : Bool := decide (capBase a < capTop b) && decide (capBase b < capTop a)

/-- A source meets R365: its pages of POLICY 4 lie in a recorded tile, and it does not overlap the new tile. -/
def sourceOk (s : State) (w : Wing) (tile c : Cap) : Bool :=
  let lo := (capBase c).toNat / 65536
  let hi := ((capTop c).toNat + 65535) / 65536
  !boundsMeet tile c && (!((List.range (hi - lo)).any fun i => pagePolicy s w ((lo + i) * 65536) == some 4)
    || w.recipes.any fun e => covers e.2 c)

/-- A record block (R364): its bytes and its seven capabilities. -/
structure RecipeBlock where
  bytes : List Byte
  caps  : List Cap

/-- The record of a block, and whether the block is valid (R364, R365). -/
def parseRecipe (s : State) (wing : Nat) (b : RecipeBlock) : Bool × Recipe :=
  let w := wingAt s wing
  let f := fld b.bytes
  let c (i : Nat) := nth {} b.caps i
  match parseGeom (f 128 8) (f 136 8) with
  | none => (false, {})
  | some (i, nsrc) =>
    let srcs := (List.range nsrc).map fun j => c (3 + j)
    let privsz := f 144 4
    let ok := tileOk (c 0) w.world && sentryCap (c 1) w.world && (c 2).tag && hasAll (c 2) [pLD]
      && srcs.all (fun q => q.tag && hasAll q [pLD] && sourceOk s w (c 0) q)
      && ((List.range (4 - nsrc)).all fun j => c (3 + nsrc + j) == {})
      && f 126 2 == 0 && f 148 44 == 0 && privsz % 4096 == 0 && decide (48 * i.ddepth ≤ privsz)
    (ok, { used := true, tile := c 0, srcs := srcs,
           info := { i with code := c 1, args := c 2, seed := BitVec.ofNat 64 (f 112 8),
                            dixb := BitVec.ofNat 48 (f 120 6), privsz := privsz, prio := 47 } })

/-- The results other than 0x00 that apply to a definition (R379). -/
def recipeFaults (s : State) (wing : Nat) (ok : Bool) (r : Recipe) : List Nat :=
  let w := wingAt s wing
  let base := (capBase r.tile).toNat
  let n := ((capTop r.tile).toNat - base) / 4096
  (if tfree 0 w.recipes ≤ 65535 then [] else [0x01])
    ++ (if ok && w.recipes.any (fun e => e.2.used && boundsMeet r.tile e.2.tile) then [0x02] else [])
    ++ (if ok && (List.range n).any (fun i => pagePolicy s w (base + 4096 * i) != some 4) then [0x03] else [])
    ++ (if ok then [] else [0x04])
    ++ (if ok && (decide (w.resvSlots < r.info.nwaves + r.info.tethers) || decide (w.resvPages < r.info.scr / 4096)) then [0x09] else [])

-- The Catalogue's backing region (R364).

/-- The number of a record's state (R379). -/
def recipeStateNo : RecipeState → Nat | .absent => 1 | .building => 2 | .present => 3

/-- The physical address of bytes of the backing region that the device may write: stage 2 maps them and no lock bars the frame (R66,
R228). -/
def backPa (s : State) (wing ipa : Nat) : Option Nat := (s2Pa s (wingAt s wing) ipa false false).filter fun pa => !writeLocked s pa

/-- Bytes written by the device at an intermediate address; where they cannot be written, nothing is. -/
def backBytes (s : State) (wing ipa : Nat) (bs : List Byte) : State :=
  match backPa s wing ipa with
  | some pa => writeMem s pa bs
  | none => s

/-- The device's state of a record in bytes 192–255 of its backing copy. DESIGN CHOICE: their layout (log 32). -/
def backState (s : State) (wing id : Nat) : State :=
  let w := wingAt s wing
  let r := recipeAt w id
  backBytes s wing (w.catIpa + 256 * id + 192)
    (natLe 64 (recipeStateNo r.st + (if r.fail then 256 else 0) + (if r.dead then 512 else 0) + r.pins * 2 ^ 16 + r.level * 2 ^ 32))

/-- A record's block in bytes 0–191 of its backing copy, with the tags of its capability fields. -/
def backBlock (s : State) (wing id : Nat) (b : RecipeBlock) : State :=
  let a := (wingAt s wing).catIpa + 256 * id
  let s := backBytes s wing a b.bytes
  match backPa s wing a with
  | some pa => (List.range 7).foldl (fun s i => setMemTag s (pa + 16 * i) (nth {} b.caps i).tag) s
  | none => s

/-- The backing copies of a wing's records as a swap or a migration sees them. -/
def backRecords (s : State) (wing : Nat) : State :=
  ((wingAt s wing).recipes.map (·.1)).foldl (fun s id => backState s wing id) s

/-- A record enters the Catalogue at the lowest free id, or a result says why not; where several results apply, a free
choice among them. -/
def defineRecipe (s : State) (wing : Nat) (b : RecipeBlock) (build : Bool) : State × DWord :=
  let (ok, r) := parseRecipe s wing b
  let fs := recipeFaults s wing ok r
  if fs.isEmpty then
    let id := tfree 0 (wingAt s wing).recipes
    let s := backState (backBlock (setRecipe s wing id r) wing id b) wing id
    (if build then startNeed s wing id else s, recipeStatus 0 id)
  else (tick s, recipeStatus (nth 0 fs (Config.freePick s.fresh % fs.length)) 0)

/-- RCPDEF (R378). -/
def execRcpdef (sw : Bool) (t : BitVec 7) (cr : BitVec 5) (o : BitVec 7) (b : Bool) (s : State) : Out :=
  runState s .wave fun c => do
    let cap := opC c cr.toNat
    let x := addrS c cap o 0
    plainCheck s c cap x 192 [pLD, pLDC] 64
    unheld s c <| match segsVia s c.k (immAccess c) cap x.toNat 192 .read with
    | .error e => stopNow s c e
    | .ok l =>
      if heldBack s c.k c.w.accs (segRanges l) then .ok (waitWith s c .poll)
      else
        let blk : RecipeBlock := { bytes := readSegs s c.k l, caps := (List.range 7).map fun i => segCap s c.k l (16 * i) }
        let (s, v) := defineRecipe s (wingNoOf s c.k) blk b
        .ok (finishRegs s c sw fun r => setS r t.toNat v)

-- Acting on a record.

/-- An instruction on the record whose tile holds c[A].ADDR (R379): `f` gives the state with its status word. -/
def recipeOp (s : State) (sw : Bool) (d a : BitVec 7) (none_ : DWord) (f : State → Nat → Nat → Recipe → State × DWord) : Out :=
  runState s .wave fun c => do
    let cap := opC c a.toNat
    plainCheck s c cap (capAddr cap) 1 [pRECIPE] 1
    let wing := wingNoOf s c.k
    let (s, v) := match findTile (wingAt s wing) (capAddr cap) with
      | none => (s, none_)
      | some id => f s wing id (recipeAt (wingAt s wing) id)
    .ok (finishRegs s c sw fun r => setS r d.toNat v)

/-- RCPPIN (R379). -/
def execRcppin (sw : Bool) (d a : BitVec 7) (s : State) : Out :=
  recipeOp s sw d a (recipeStatus 5 0) fun s wing id r =>
    if 65535 ≤ r.pins then (s, recipeStatus 6 id)
    else (setRecipe s wing id { r with pins := r.pins + 1 }, recipeStatus 0 id)
/-- RCPUNP (R379). -/
def execRcpunp (sw : Bool) (d a : BitVec 7) (s : State) : Out :=
  recipeOp s sw d a (recipeStatus 5 0) fun s wing id r =>
    if r.pins = 0 then (s, recipeStatus 6 id)
    else (setRecipe s wing id { r with pins := r.pins - 1 }, recipeStatus 0 id)

/-- A record is pinned, BUILDING, or held as a source of a running build. -/
def recipeBusy (r : Recipe) : Bool := r.pins != 0 || r.held != 0 || r.st == .building

/-- RCPDRP (R379). -/
def execRcpdrp (sw : Bool) (d a : BitVec 7) (s : State) : Out :=
  recipeOp s sw d a (recipeStatus 5 0) fun s wing id r =>
    if recipeBusy r then (s, recipeStatus 7 id)
    else (if r.st = .present then tendBuilds (dropTile s wing id) wing else s, recipeStatus 0 id)

/-- Another record names a record as a source. -/
def namedAsSource (w : Wing) (id : Nat) : Bool :=
  w.recipes.any fun e => e.1 != id && e.2.used && (sourceIds w e.2).contains id

/-- RCPDRP.r (R379). -/
def execRcpdrpR (sw : Bool) (d a : BitVec 7) (s : State) : Out :=
  recipeOp s sw d a (recipeStatus 5 0) fun s wing id r =>
    let w := wingAt s wing
    if recipeBusy r then (s, recipeStatus 7 id)
    else if namedAsSource w id then (s, recipeStatus 8 id)
    else (setWing (backBytes s wing (w.catIpa + 256 * id) (List.replicate 256 0)) wing { w with recipes := tdel w.recipes id },
      recipeStatus 0 id)

/-- RCPQRY (R379). -/
def execRcpqry (sw : Bool) (d a : BitVec 7) (s : State) : Out :=
  recipeOp s sw d a 0 fun s _ id r =>
    (s, BitVec.ofNat 64 (r.pins * 2 ^ 48 + id * 2 ^ 16 + (if r.dead then 16 else 0) + (if r.fail then 8 else 0)
      + recipeStateNo r.st))

end Sys2Proof.Machine
end

