-- ==== Sys2Proof/Machine/Queues.lean ====
section
/-! DEFINITION. The queue instructions (R396-R403) and the delivery of node records (R390, R395, R397). -/
namespace Sys2Proof.Machine

-- Node records.

/-- The number of the sweep node (R184, log 13). -/
def sweepNode : Nat := 4096
/-- The node number of a node capability (R419, log 13): bits [15:0] of its ADDR, with the node's generation above them. -/
def nodeNo (c : Cap) : Nat := capAddr c % 65536

/-- A node capability names the node that has its number now, and no earlier one (R395). -/
def nodeLive (s : State) (n : Cap) : Bool :=
  let x := nodeAt s (nodeNo n)
  x.used && capAddr n / 65536 == x.gen % 2 ^ 32

/-- The record size that a node capability stands for; 16 where its node is gone (log 13). -/
def nodeRecSize (s : State) (n : Cap) : Nat :=
  if nodeNo n = sweepNode then 64 else if nodeLive s n then (nodeAt s (nodeNo n)).recSize else 16

/-- The lowest cause that a node capability meets (R397). -/
def nodeCause (n : Cap) (world : Nat) : Option Nat :=
  if !n.tag then some 0x01
  else if capWorld n ≠ world || !capHas n pENQ then some 0x03
  else if capOtype n ≠ 2 then some 0x04
  else none

/-- A node takes records: its graph lives and its input is open (R395). -/
def nodeOpen (s : State) (n : Nat) : Bool :=
  let x := nodeAt s n
  let l := levelAt s x.graph
  x.used && l.used && !l.cancelled && !l.reset && l.word.isNone && match l.body with
    | .graph _ closed => !closed
    | _ => false

/-- The request that a record for the sweep node makes (R184): its wing's world, its four fields; a reserved field that
is not zero is marked. DESIGN CHOICE: START and LEN that are no multiples of 16 are taken as they are (log 41). -/
def sweepRequest (s : State) (wing : Nat) (bytes : List Byte) (tags : List Bool) : SweepReq :=
  { world := (wingAt s wing).world, wing := wing,
    done := capOfBytes ((bytes.drop 48).take 16) (nth false tags 3), map := capOfBytes ((bytes.drop 32).take 16) (nth false tags 2),
    start := fld bytes 24 8, len := fld bytes 16 8, bad := fld bytes 0 16 ≠ 0 }

/-- The bin of a node has room (R390). -/
def binRoom (s : State) (n : Nat) : Bool :=
  if n = sweepNode then decide (s.sweepQ.length < 16) else decide ((nodeAt s n).bin.length < (nodeAt s n).capacity)

/-- Puts a record into a bin (R390). -/
def binPut (s : State) (wing n : Nat) (bytes : List Byte) (tags : List Bool) : State :=
  if n = sweepNode then { s with sweepQ := s.sweepQ ++ [sweepRequest s wing bytes tags] }
  else
    let x := nodeAt s n
    setNode s n { x with bin := x.bin ++ [{ bytes := bytes, tags := tags }] }

/-- The level id of a node's graph; 0 for the sweep node, and the id of no level where the capability's node is gone. -/
def nodeLevel (s : State) (n : Cap) : Nat :=
  if nodeNo n = sweepNode then 0 else if nodeLive s n then levelId s (nodeAt s (nodeNo n)).graph else 2 ^ 32

/-- The tags of a record through the revocation filter (R185). -/
def filterTags (s : State) (bytes : List Byte) (tags : List Bool) : List Bool :=
  tags.mapIdx fun g t => (filterCap s (capOfBytes ((bytes.drop (16 * g)).take 16) t)).tag

/-- An ENQ performs (R390, R395, R397): none while the bin is full; a record that reaches a node of another graph than the one
it was issued for is discarded. -/
def performEnq (s : State) (k i : Nat) (node level : Nat) (bytes : List Byte) (tags : List Bool) : Option State :=
  if node ≠ sweepNode && (!nodeOpen s node || levelId s (nodeAt s node).graph ≠ level) then
    some (goOn s k i (.loadVC 0 []) false (some { cause := 0x03 }))
  else if binRoom s node then
    some (goOn (binPut s (wingNoOf s k) node bytes (filterTags s bytes tags)) k i (.loadVC 0 []) false none)
  else none

/-- A cause that a counted access reports at its WAITC (R204, R397). -/
def lateCause (c : Nat) : Bool := c == 0x06 || c == 0x09 || c == 0x11 || c == 0x12 || c == 0x13 || c == 0x15

/-- ENQ (R397): the record is read at issue, after the wave's own earlier writes of it. -/
def execEnq (sw : Bool) (t : BitVec 7) (cr : BitVec 5) (o : BitVec 7) (i : BitVec 4) (s : State) : Out :=
  runState s .wave fun c => do
    let n := opC c t.toNat
    let cap := opC c cr.toNat
    let x := addrS c cap o (16 * i.toNat)
    let z := nodeRecSize s n
    let nc := nodeCause n (worldOf s c.k)
    match minCause nc (minCause (capCause cap x z [pLD] (worldOf s c.k) (scrWin s c.k)) (misCause x 16)) with
    | some e => .error { cause := e, addr := if nc = some e then 0 else BitVec.ofNat 64 (wrap 64 x) }
    | none => unheld s c <|
      let acc (kind : AccKind) (err : Option AccErr) : Access :=
        { path := 1, kind := kind, pc := c.pc, src := c.src, rel := true, mask := some c.mask, err := err }
      match segsVia s c.k (immAccess c) cap x.toNat z .read with
      | .error (.err e y) =>
        if lateCause e then .ok (issueAcc (noteFails s c.k [(0, e, y)]) c sw (acc (.loadVC 0 []) (some { cause := BitVec.ofNat 8 e, addr := BitVec.ofNat 64 y, lanes := c.mask })))
        else .error { cause := e, addr := BitVec.ofNat 64 y }
      | .error e => stopNow s c e
      | .ok l =>
        if heldBack s c.k c.w.accs (segRanges l) then .ok (waitWith s c .poll)
        else
          let bytes := readSegs s c.k l
          if !nodeHdrOk bytes then .error { cause := 0x0A, addr := BitVec.ofNat 64 x.toNat }
          else
            let tags := (List.range (z / 16)).map fun g =>
              capHas cap pLDC && (carryCap s c.k (readCapLoc s c.k (segAt l (16 * g)))).tag
            .ok (issueAcc s c sw (acc (.enq (nodeNo n) (nodeLevel s n) bytes tags) none))

/-- Every earlier access that a release waits for has performed (R213). -/
def releaseReady (accs : List Access) : Bool :=
  accs.all fun a => a.performed || a.path == 3 || a.path == 4

/-- The RESULT word of ENQA (R398). -/
def enqaWord (result id : Nat) : DWord := BitVec.ofNat 64 (result * 2 ^ 56 + id % 2 ^ 32)

/-- ENQA (R398): it waits as a release, then for the device to take or refuse the record. -/
def execEnqa (sw : Bool) (t : BitVec 7) (cr : BitVec 5) (o : BitVec 7) (s : State) : Out :=
  runState s .wave fun c => do
    let cap := opC c cr.toNat
    let x := addrS c cap o 0
    match minCause (capCause cap x 128 [pLD, pLDC, pENQ] (worldOf s c.k) (scrWin s c.k)) (misCause x 64) with
    | some e => .error { cause := e, addr := BitVec.ofNat 64 (wrap 64 x) }
    | none => unheld s c <| match segsVia s c.k (immAccess c) cap x.toNat 128 .read with
      | .error e => stopNow s c e
      | .ok l =>
        if !releaseReady c.w.accs || heldBack s c.k c.w.accs (segRanges l) then .ok (waitWith s c .busy)
        else
          let wing := wingNoOf s c.k
          let q (i : Nat) := segCap s c.k l (16 * i)
          match parseLaunch s wing (hasSys c) (readSegs s c.k l) (q 1) (q 2) (q 3) (q 4) with
          | .error code => match refuseLaunch s wing (q 3) code c.hold with
            | .ok s => .ok (finishRegs s c sw fun r => setS r t.toNat (enqaWord code 0))
            | .error (va, ipa, kind) => stopNow s c (.s2 va ipa kind .write)
          | .ok r => match enterLaunch s wing r with
            | none => .ok (waitWith s c .busy)
            | some (s, slot) => .ok (finishRegs s c sw fun r => setS r t.toNat (enqaWord 0 (levelId s slot)))

-- Levels.

/-- The live level of the issuing wing that an id names, of a kind (R399). -/
def ownLevel (s : State) (wing kind id : Nat) : Option Nat :=
  (findLevel s id).filter fun slot => (levelAt s slot).wing == wing && levelKind (levelAt s slot) == kind

/-- An instruction on a level: `f` is applied to a level that the id names. -/
def levelOp (s : State) (sw : Bool) (d a : BitVec 7) (f : State → Nat → State) : Out :=
  runState s .wave fun c =>
    match ownLevel s (wingNoOf s c.k) d.toNat ((opS c a).toNat % 2 ^ 32) with
    | some slot => .ok (finish (f s slot) c sw)
    | none => .ok (finish s c sw)

/-- CANCL (R39, R399). -/
def execCancl (sw : Bool) (d a : BitVec 7) (s : State) : Out := levelOp s sw d a cancelLevel
/-- COMPL (R399). -/
def execCompl (sw : Bool) (d a : BitVec 7) (s : State) : Out := levelOp s sw d a closeLevel

-- Tethers.

/-- The slot reserved for the tether of a wave (R42). -/
def reservedTether (s : State) (k : Nat) : Option Nat :=
  (unitOf s k).waves.find? fun t => (waveAt s t).tether && (waveAt s t).owner == k

/-- The tether as it starts (R42). -/
def startTether (c : Ctx) (entry : DWord) (key : Nat) (halted : Bool) (t : Wave) : Wave :=
  let regs : RegFile := [28, 29, 31].foldl (fun r n => setC r n (getC c.rd n)) { c := [(30, getC t.regs 30)], seed := c.rd.seed }
  { t with a := { pc := entry, mask := c.mask, dix := BitVec.ofNat 48 (c.dix.toNat + 2 ^ 40), st := .ready }, b := {},
           live := c.mask, jr := Config.noJoin, divd := 0, regs := regs, key := key,
           stop := if halted then .stopped else .running }

/-- TETH (R42, R400). -/
def execTeth (sw : Bool) (d : BitVec 7) (i : BitVec 16) (s : State) : Out :=
  runState s .wave fun c =>
    match if c.w.tether || c.w.hadTether then none else reservedTether s c.k with
    | none => .error { cause := 0x0A }
    | some t =>
      let s := setWave s t { startTether c (target c.pc i) s.nextKey (unitOf s c.k).halted (waveAt s t) with since := s.fresh }
      let s := { s with nextKey := s.nextKey + 1 }
      let s := setWave s c.k { waveAt s c.k with tethSlot := some t, hadTether := true, window := d.toNat * 16, queue := [] }
      .ok (finish s c sw)

/-- QPSH (R401). -/
def execQpsh (sw : Bool) (a : BitVec 7) (s : State) : Out :=
  runState s .lanes fun c =>
    if !c.w.tether then .error (guardTrap c 0x0A)
    else
      let o := waveAt s c.w.owner
      if 16 ≤ o.queue.length then .ok (waitWith s c .poll)
      else
        let e := (List.range 32).map fun l => if (guardOf c).getLsbD l then getV c.rd a.toNat l else 0
        .ok (finish (setWave s c.w.owner { o with queue := o.queue ++ [e] }) c sw)

/-- QPOP (R43, R401). -/
def execQpop (sw : Bool) (d : BitVec 7) (s : State) : Out :=
  runState s .lanes fun c =>
    if !c.w.hadTether then .error (guardTrap c 0x0A)
    else match c.w.queue with
      | [] =>
        if c.w.tethSlot.isSome then .ok (waitWith s c .poll)
        else .ok (finishRegs s c sw fun r => addFlags ((active c).foldl (fun r l => setV r d.toNat l 0) r) fINV)
      | e :: es =>
        let s := setWave s c.k { c.w with queue := es }
        .ok (finishRegs s c sw fun r => (active c).foldl (fun r l => setV r d.toNat l (nth 0 e l)) r)

-- Phases and priority.

/-- PHSET (R402). -/
def execPhset (sw : Bool) (a : BitVec 7) (s : State) : Out :=
  runState s .wave fun c =>
    match phaseOf s (unitOf s c.k) with
    | none => .ok (finish s c sw)
    | some p =>
      let l := levelAt s p
      match l.body with
      | .phase j i op z out ch =>
        let v := opS c a
        .ok (finish (setLevel s p { l with body := .phase j i op z (if out.toNat < v.toNat then v else out) ch }) c sw)
      | _ => .ok (finish s c sw)

/-- The schedule chosen for a class in the phase of a unit, 0xFF where there is none (R402). -/
def chosenSchedule (s : State) (u : Unit) (cls : Nat) : Nat :=
  match (phaseOf s u).map fun p => (levelAt s p).body with
  | some (.phase _ _ _ _ _ ch) => (ch[cls]?).getD 0xFF
  | _ => 0xFF

/-- SELS (R402). -/
def execSels (sw : Bool) (d a : BitVec 7) (s : State) : Out :=
  runLocal s sw .wave fun c =>
    .ok (setS c.live d.toNat (BitVec.ofNat 64 (chosenSchedule s (unitOf s c.k) (opS c a).toNat)))

/-- PRIO (R403). -/
def execPrio (sw : Bool) (d a : BitVec 7) (s : State) : Out :=
  runState s .wave fun c =>
    let p := (opS c a).toNat
    if p = 46 && !hasSys c then .error { cause := 0x03 }
    else if 47 ≤ p || c.w.prio = 47 then .error { cause := 0x0A }
    else
      let s := setWave s c.k { c.w with prio := p }
      .ok (finishRegs s c sw fun r => setS r d.toNat (BitVec.ofNat 64 c.w.prio))

end Sys2Proof.Machine
end

