-- ==== Sys2Proof/Machine/Scalar.lean ====
section
/-! DEFINITION. The scalar integer and predicate instructions (R113-R119) and the MODE instructions (R99-R101). -/
namespace Sys2Proof.Machine

/-- The shared form of R113: s[D] := f(a, b). -/
def scalar2 (s : State) (sw : Bool) (d a b : BitVec 7) (i : Bool) (f : DWord → DWord → DWord) : Out :=
  runLocal s sw .any fun c => .ok (setS c.live d.toNat (f (opS c a) (opB c b i)))

/-- A left shift by the whole of a 64-bit amount. -/
def shl64 (a b : DWord) : DWord := if b.toNat < 64 then a <<< b.toNat else 0
/-- A logical right shift by the whole of a 64-bit amount. -/
def shr64 (a b : DWord) : DWord := if b.toNat < 64 then a >>> b.toNat else 0
/-- An arithmetic right shift by the whole of a 64-bit amount. -/
def sra64 (a b : DWord) : DWord := BitVec.sshiftRight a (min b.toNat 64)
/-- The high half of a product, signed or unsigned. -/
def mulh64 (u : Bool) (a b : DWord) : DWord :=
  if u then BitVec.ofNat 64 (a.toNat * b.toNat / 2 ^ 64)
  else BitVec.ofInt 64 (a.toInt * b.toInt / (2 ^ 64 : Int))
/-- a < b, signed or unsigned. -/
def lt64 (u : Bool) (a b : DWord) : Bool := if u then a.ult b else a.slt b
/-- The smaller. -/
def min64 (u : Bool) (a b : DWord) : DWord := if lt64 u b a then b else a
/-- The larger. -/
def max64 (u : Bool) (a b : DWord) : DWord := if lt64 u a b then b else a
/-- The bit field of R116. -/
def bfx64 (x : Bool) (a b : DWord) : DWord :=
  let pos := bits b.toNat 5 0
  let len := min (bits b.toNat 14 8) 64
  let f := a.toNat / 2 ^ pos % 2 ^ len
  if x && decide (0 < len) && decide (2 ^ (len - 1) ≤ f) then BitVec.ofInt 64 ((f : Int) - (2 ^ len : Nat))
  else BitVec.ofNat 64 f
/-- The number of one bits of a number, of its low `n` bits. -/
def popc (v : Nat) : Nat → Nat
  | 0 => 0
  | n + 1 => v % 2 + popc (v / 2) n
/-- A comparison of R114. -/
def cond64 (cc : Nat) (u : Bool) (a b : DWord) : Bool :=
  match cc with
  | 0 => a == b
  | 1 => a != b
  | 2 => lt64 u a b
  | 3 => !lt64 u b a
  | 4 => lt64 u b a
  | _ => !lt64 u a b

/-- SADD (R113). -/
def execSadd (sw : Bool) (d a b : BitVec 7) (i : Bool) (s : State) : Out := scalar2 s sw d a b i (· + ·)
/-- SSUB (R113). -/
def execSsub (sw : Bool) (d a b : BitVec 7) (i : Bool) (s : State) : Out := scalar2 s sw d a b i (· - ·)
/-- SMUL (R113). -/
def execSmul (sw : Bool) (d a b : BitVec 7) (i : Bool) (s : State) : Out := scalar2 s sw d a b i (· * ·)
/-- SMULH (R113). -/
def execSmulh (sw : Bool) (d a b : BitVec 7) (i u : Bool) (s : State) : Out := scalar2 s sw d a b i (mulh64 u)
/-- SAND (R113). -/
def execSand (sw : Bool) (d a b : BitVec 7) (i : Bool) (s : State) : Out := scalar2 s sw d a b i (· &&& ·)
/-- SOR (R113). -/
def execSor (sw : Bool) (d a b : BitVec 7) (i : Bool) (s : State) : Out := scalar2 s sw d a b i (· ||| ·)
/-- SXOR (R113). -/
def execSxor (sw : Bool) (d a b : BitVec 7) (i : Bool) (s : State) : Out := scalar2 s sw d a b i (· ^^^ ·)
/-- SSHL (R113). -/
def execSshl (sw : Bool) (d a b : BitVec 7) (i : Bool) (s : State) : Out := scalar2 s sw d a b i shl64
/-- SSHR (R113). -/
def execSshr (sw : Bool) (d a b : BitVec 7) (i : Bool) (s : State) : Out := scalar2 s sw d a b i shr64
/-- SSRA (R113). -/
def execSsra (sw : Bool) (d a b : BitVec 7) (i : Bool) (s : State) : Out := scalar2 s sw d a b i sra64
/-- SMIN (R113). -/
def execSmin (sw : Bool) (d a b : BitVec 7) (i u : Bool) (s : State) : Out := scalar2 s sw d a b i (min64 u)
/-- SMAX (R113). -/
def execSmax (sw : Bool) (d a b : BitVec 7) (i u : Bool) (s : State) : Out := scalar2 s sw d a b i (max64 u)
/-- SCMP (R114): a predicate, written under R98. -/
def execScmp (sw : Bool) (cc : BitVec 4) (p : BitVec 3) (a b : BitVec 7) (i u : Bool) (s : State) : Out :=
  runLocal s sw .any fun c =>
    .ok (writeP c c.live p.toNat (if cond64 cc.toNat u (opS c a) (opB c b i) then BitVec.allOnes 32 else 0))
/-- SSEL (R115). -/
def execSsel (sw : Bool) (d a b : BitVec 7) (s : State) : Out :=
  runLocal s sw .any fun c => .ok (setS c.live d.toNat (if opS c d ≠ 0 then opS c a else opS c b))
/-- SBFX (R116). -/
def execSbfx (sw : Bool) (d a b : BitVec 7) (x : Bool) (s : State) : Out := scalar2 s sw d a b false (bfx64 x)
/-- SPOPC of an S register (R117). -/
def execSpopc (sw : Bool) (d a : BitVec 7) (s : State) : Out :=
  runLocal s sw .any fun c => .ok (setS c.live d.toNat (BitVec.ofNat 64 (popc (opS c a).toNat 64)))
/-- SPOPC of a predicate: all its 32 bits (R117). -/
def execSpopcP (sw : Bool) (d a : BitVec 7) (s : State) : Out :=
  runLocal s sw .any fun c => .ok (setS c.live d.toNat (BitVec.ofNat 64 (popc (getP c.rd a.toNat).toNat 32)))
/-- SMOVI (R118). -/
def execSmovi (sw : Bool) (d : BitVec 7) (i : BitVec 16) (s : State) : Out :=
  runLocal s sw .any fun c => .ok (setS c.live d.toNat (i.signExtend 64))
/-- SLUI (R118). -/
def execSlui (sw : Bool) (d : BitVec 7) (i : BitVec 16) (s : State) : Out :=
  runLocal s sw .any fun c => .ok (setS c.live d.toNat (opS c d <<< 16 + i.setWidth 64))

/-- A predicate instruction with a P destination (R119, R98). -/
def predOp (s : State) (sw : Bool) (d : BitVec 7) (f : Ctx → BitVec 32) : Out :=
  runLocal s sw .any fun c => .ok (writeP c c.live d.toNat (f c))

/-- PAND (R119). -/
def execPand (sw : Bool) (d a b : BitVec 7) (s : State) : Out :=
  predOp s sw d fun c => getP c.rd a.toNat &&& getP c.rd b.toNat
/-- POR (R119). -/
def execPor (sw : Bool) (d a b : BitVec 7) (s : State) : Out :=
  predOp s sw d fun c => getP c.rd a.toNat ||| getP c.rd b.toNat
/-- PXOR (R119). -/
def execPxor (sw : Bool) (d a b : BitVec 7) (s : State) : Out :=
  predOp s sw d fun c => getP c.rd a.toNat ^^^ getP c.rd b.toNat
/-- PNOT (R119). -/
def execPnot (sw : Bool) (d a : BitVec 7) (s : State) : Out := predOp s sw d fun c => ~~~(getP c.rd a.toNat)
/-- PMOV pD, pA (R119). -/
def execPmov (sw : Bool) (d a : BitVec 7) (s : State) : Out := predOp s sw d fun c => getP c.rd a.toNat
/-- PMOV pD, sA (R119). -/
def execPmovFromS (sw : Bool) (d a : BitVec 7) (s : State) : Out := predOp s sw d fun c => (opS c a).setWidth 32
/-- PMOV sD, pA: all 32 bits (R119). -/
def execPmovToS (sw : Bool) (d a : BitVec 7) (s : State) : Out :=
  runLocal s sw .any fun c => .ok (setS c.live d.toNat ((getP c.rd a.toNat).setWidth 64))
/-- PMOV pD, mask (R119). -/
def execPmovMask (sw : Bool) (d : BitVec 7) (s : State) : Out := predOp s sw d fun c => c.mask

/-- A MODE value that puts a reserved value in some field (R55, R100). -/
def modeBad (m : BitVec 32) : Bool :=
  let asg (t : Nat) : Bool := decide (t ≤ 0xD) || t == 0x10 || t == 0x11 || t == 0x12 || t == 0x14 || t == 0x15
  bits m.toNat 31 21 != 0 || bits m.toNat 15 14 != 0 || decide (9 ≤ modeGuard m) || decide (6 ≤ modeRound m)
    || !asg (modeEty m) || !asg (modeSty m)

/-- SETM (R99): half of MODE, from the next run on. -/
def execSetm (sw : Bool) (h : Bool) (i : BitVec 16) (s : State) : Out :=
  runLocal s sw .any fun c =>
    let m := c.live.mode
    .ok { c.live with mode := if h then i ++ m.extractLsb' 0 16 else m.extractLsb' 16 16 ++ i }
/-- SETMS (R100). -/
def execSetms (sw : Bool) (a : BitVec 7) (s : State) : Out :=
  runLocal s sw .any fun c =>
    let m := (opS c a).setWidth 32
    if modeBad m then .error { cause := 0x0A } else .ok { c.live with mode := m }
/-- GETM (R101). -/
def execGetm (sw : Bool) (d : BitVec 7) (s : State) : Out :=
  runLocal s sw .any fun c => .ok (setS c.live d.toNat (c.rd.mode.setWidth 64))

end Sys2Proof.Machine
end

