-- ==== Sys2Proof/Machine/System.lean ====
section
/-! DEFINITION. Trap handlers, system registers, progress indices, HALT and SNAP (R323-R328, R427). -/
namespace Sys2Proof.Machine

/-- TRAP (R324). -/
def execTrap (_sw : Bool) (i : BitVec 16) (s : State) : Out :=
  runState s .wave fun _ => .error { cause := 0x14, addr := i.setWidth 64, next := true }

/-- SRET (R325): a double fault is checked first (R313). -/
def execSret (_sw : Bool) (s : State) : Out :=
  runSys s fun c =>
    match c.w.frame with
    | none => .error { cause := 0x0A }
    | some fr =>
      let r := returnOf c.sys
      if sretFaults c.w fr r then .ok (endUnit s c.w.unit .failed 0)
      else .ok (resumeUnit (setWave s c.k (leaveHandler c.w fr r (unitOf s c.k).held.isSome)) c.w.unit)

-- System registers.

/-- PHASESZ of a unit (R393). -/
def phaseSize (s : State) (u : Unit) : DWord :=
  match (phaseOf s u).map fun p => (levelAt s p).body with
  | some (.phase _ _ _ z _ _) => z
  | _ => 0

/-- The value of a system register as it stood at the start of the run (R24, R69, R326); DIX is the instruction's own. -/
def sysRead (s : State) (c : Ctx) (n : Nat) : DWord :=
  let u := unitOf s c.k
  let w := c.w
  let num (v : Nat) : DWord := BitVec.ofNat 64 v
  let held := tget 0 c.sys n
  match n with
  | 0x000 => c.rd.mode.setWidth 64
  | 0x002 => num w.waveId
  | 0x003 => num u.unitId
  | 0x004 => num u.x
  | 0x005 => num u.y
  | 0x006 => num u.z
  | 0x007 => num u.lx
  | 0x008 => num u.ly
  | 0x009 => num u.lz
  | 0x00A => num u.nwaves
  | 0x00B => phaseSize s u
  | 0x00C => c.dix.setWidth 64
  | 0x00D => c.rd.seed
  | 0x00E => num (partyOf (wingOf s c.k))
  | 0x00F => num (worldOf s c.k)
  | 0x010 => held
  | 0x011 => held
  | 0x012 => held
  | 0x013 => c.rd.flags.setWidth 64
  | 0x014 => held
  | 0x020 => held
  | 0x021 => held
  | 0x022 => held
  | 0x023 => held
  | 0x024 => held
  | 0x025 => held
  | 0x026 => held
  | _ => 0

/-- The registers that only the supervisor may read (R69). -/
def sysReadNeeds (n : Nat) : Bool := decide (0x020 ≤ n)

/-- MFSR (R326). -/
def execMfsr (sw : Bool) (d : BitVec 7) (r : BitVec 16) (s : State) : Out :=
  let f (c : Ctx) : Except Trap State := .ok (finishRegs s c sw fun g => setS g d.toNat (sysRead s c r.toNat))
  if sysReadNeeds r.toNat then runSys s f else runState s .wave f

/-- The wave after a write of a trap register (R326); SEED is a register of its own file. -/
def trapRegWrite (w : Wave) (n : Nat) (v : DWord) : Wave :=
  match n with
  | 0x021 => { w with trapPc := v &&& ~~~3#64 }
  | 0x022 => { w with trapAddr := v }
  | 0x023 => { w with trapLanes := v.setWidth 32 }
  | 0x024 => { w with skid := v.setWidth 8 }
  | 0x025 => { w with trapVec := v &&& ~~~3#64 }
  | 0x026 => { w with trapPix := v }
  | _ => w

/-- MTSR to SEED and to the trap registers without a rule of their own (R326). -/
def execMtsr (sw : Bool) (d : BitVec 7) (r : BitVec 16) (s : State) : Out :=
  if r.toNat = 0x00D then runLocal s sw .wave fun c => .ok { c.live with seed := opS c d }
  else runSys s fun c => .ok (finish (setWave s c.k (trapRegWrite c.w r.toNat (opS c d))) c sw)

/-- MTSR to MODE (R55, R326). -/
def execMtsrMode (sw : Bool) (d : BitVec 7) (s : State) : Out :=
  runLocal s sw .wave fun c =>
    let m := (opS c d).setWidth 32
    if modeBad m then .error { cause := 0x0A } else .ok { c.live with mode := m }

/-- MTSR to ACCOWN (R283): the Tail program memory is reset; live bits and tiles stay. It waits for a matrix instruction
that the alcove has part-way: that one's check and effect are one (R329). -/
def execMtsrAccown (sw : Bool) (d : BitVec 7) (s : State) : Out :=
  runSys s fun c =>
    if matMidway s (alcOf c.k) c.k c.src then .ok (waitWith s c .poll)
    else .ok (finish (setMat s c.k { resetTail (matOf s c.k) with accown := (opS c d).setWidth 32 }) c sw)

/-- MTSR to PIX (R315, R326): the value outlives the instruction. -/
def execMtsrPix (sw : Bool) (d : BitVec 7) (s : State) : Out :=
  runSys s fun c =>
    let s := finish s c sw
    .ok (setWave s c.k (putPix (waveAt s c.k) c.src (opS c d)))

/-- MTSR to FLAGS (R70): reserved bits are written as zero. -/
def execMtsrFlags (sw : Bool) (d : BitVec 7) (s : State) : Out :=
  runLocal s sw .wave fun c => .ok { c.live with flags := (opS c d).setWidth 32 &&& 31#32 }

/-- MTSR to TRAPCAUSE (R309, R326). -/
def execMtsrTrapcause (sw : Bool) (d : BitVec 7) (s : State) : Out :=
  runSys s fun c =>
    let v := (opS c d).setWidth 32
    if 5 ≤ bits v.toNat 10 8 then .error { cause := 0x0A }
    else .ok (finish (setWave s c.k { c.w with trapCause := v &&& 0xFFF#32 }) c sw)

-- Progress indices.

/-- PIXRD (R327): the index as it stood at the start of the run (R24, R323). -/
def execPixrd (sw : Bool) (d a : BitVec 7) (s : State) : Out :=
  runState s .wave fun c =>
    let k := (opS c a).toNat % 8
    if 5 ≤ k then .error { cause := 0x0A }
    else .ok (finishRegs s c sw fun r => setS r d.toNat (tget 0 c.sys (0x100 + k)))

/-- The wave with a progress index written in a handler (R327); `src` is SRC of TRAPCAUSE. -/
def pixWrite (w : Wave) (src k : Nat) (v : DWord) : Wave :=
  if k = src then { w with trapPix := v }
  else match k with
    | 0 => mapFrameSlot w .slotA ({ · with pix := v })
    | 1 => mapFrameSlot w .slotB ({ · with pix := v })
    | _ => putPix w (srcOf k) v

/-- PIXWR (R327). -/
def execPixwr (sw : Bool) (a b : BitVec 7) (s : State) : Out :=
  runSys s fun c =>
    let k := (opS c a).toNat % 8
    if c.w.frame.isNone || decide (5 ≤ k) then .error { cause := 0x0A }
    else .ok (finish (setWave s c.k (pixWrite c.w (returnOf c.sys).src k (opS c b))) c sw)

-- HALT.

/-- The halting wave stops past its HALT; its sequencers stop with it. -/
def haltHere (c : Ctx) (w : Wave) : Wave :=
  let w := mapSeqs (haltHolds (goTo c (c.pc + 4) w)) stopSeq
  { w with stop := .stopped, pre := false, skid := match w.stop with | .running => 0 | _ => w.skid }

/-- HALT (R328): the unit stops under R306 with no handler and is held for the host. -/
def execHalt (_sw : Bool) (s : State) : Out :=
  runSys s fun c =>
    let s := haltUnit s c.w.unit c.k
    let s := dropClaims s [c.k]
    let s := setWave s c.k (haltHere c (waveAt s c.k))
    let u := unitAt s c.w.unit
    let hs := if c.w.frame.isSome then u.heldHandlers ++ [c.k] else u.heldHandlers
    let s := setUnit s c.w.unit { u with held := some (u.held.getD (c.k, c.src)), heldHandlers := hs }
    .ok (emit s (.halted u.wing u.ctxid c.pc))

-- SNAP.

/-- SNAP (R427): it triggers or joins a capture and waits for the latch edge. -/
def execSnap (sw : Bool) (d : BitVec 7) (i : BitVec 16) (s : State) : Out :=
  runState s .wave fun c =>
    match c.hold with
    | .latched n => .ok (finishRegs s c sw fun r => setS r d.toNat (BitVec.ofNat 64 n))
    | _ =>
      let g := wingOf s c.k
      if g.armed.program && s.capHeld.isNone then .ok (waitWith (capTrigger s [(c.k, c.pc, i)]) c .latch)
      else
        let s := if g.armed.program then capTrigger s [] else s
        .ok (finishRegs s c sw fun r => setS r d.toNat 0)

end Sys2Proof.Machine
end

