-- ==== Sys2Proof/Machine/Paging.lean ====
section
/-! DEFINITION. Stage-1 tables as PGMAP and the host's map command change them (R228, R235-R238, R428), the
executable-page scanner and its write locks (R63-R67), and the invalidations (R239). -/
namespace Sys2Proof.Machine

-- Write locks.

/-- The physical frame of an IPA page of a wing. -/
def pageFrame (s : State) (w : Wing) (p : Nat) : Option Nat := (s2Pa s w (p * 65536) false false).map frameOf

/-- One more executable entry locks each page (R63, R67). -/
def lockPages (s : State) (wing : Nat) (ps : List Nat) : State :=
  let w := wingAt s wing
  let s := (ps.filterMap (pageFrame s w)).foldl addLock s
  setWing s wing { w with lockedIpa := w.lockedIpa ++ ps }

/-- One executable entry less for each page; the last one clears the lock (R66). -/
def unlockPages (s : State) (wing : Nat) (ps : List Nat) : State :=
  let w := wingAt s wing
  let s := (ps.filterMap (pageFrame s w)).foldl dropLock s
  setWing s wing { w with lockedIpa := ps.foldl (fun l p => l.erase p) w.lockedIpa }

/-- A kind whose writes are issued with the instruction and land when it performs; an engine transfer issues each write as it
lands it. -/
def writesIssued : AccKind → Bool
  | .store _ => true
  | .storeC _ => true
  | .atomic .. => true
  | .cas .. => true
  | .axadd .. => true
  | .deque .. => true
  | .drain .. => true
  | .discard .. => true
  | _ => false

/-- Every wave with its number, those in shadow arrays too. -/
def allWaves (s : State) : List (Nat × Wave) :=
  s.waves ++ s.alcoves.flatMap fun e => match e.2.shadow with
    | some (_, c) => c.waves.zipIdx.map fun w => (e.1 * 16 + w.2, w.1)
    | none => []

/-- A write issued before move `no` to one of the frames, from any world, has not landed (R63 step 2). -/
def writesPending (s : State) (frames : List Nat) (no : Nat) : Bool :=
  (allWaves s).any fun e => e.2.used && e.2.accs.any fun a => !a.performed && writesIssued a.kind && decide (a.no < no)
    && (kindRanges s e.1 a.kind).any fun r => !r.1 && frames.contains (frameOf r.2.1)

-- Requests.

/-- The fields of a request word (R236). -/
structure MapReq where
  op     : Nat
  size   : Nat
  x      : Bool
  w      : Bool
  rd     : Bool
  policy : Nat
  wayp   : Nat
  bad    : Bool
  deriving DecidableEq, Repr, Inhabited

/-- A request word's fields (R236). -/
def mapReq (r : DWord) : MapReq :=
  let n := r.toNat
  { op := bits n 63 60, size := bits n 59 56, x := bit n 54, w := bit n 53, rd := bit n 52, policy := bits n 51 48,
    wayp := bits n 47 44, bad := bit n 55 || bits n 43 0 ≠ 0 || 4 < bits n 63 60 || 2 < bits n 59 56 || 4 < bits n 51 48 }

/-- The bits of a page of a SIZE, and the level of its leaf (R223). -/
def sizeBits : Nat → Nat | 0 => 16 | 1 => 21 | _ => 30
/-- The level of a leaf of a SIZE. -/
def sizeLevel : Nat → Nat | 0 => 4 | 1 => 3 | _ => 2

/-- The status word of R65 and R238. -/
def mapStatus (result reason wordix : Nat) : DWord := BitVec.ofNat 64 (result * 2 ^ 56 + reason % 256 * 2 ^ 48 + wordix % 2 ^ 28)
/-- The status word of a request that is done. -/
def mapDone (frame : Nat) : DWord := BitVec.ofNat 64 (frame / 65536 % 2 ^ 32 * 65536)

/-- Where the tables lead for a leaf at a level (R223). -/
inductive Descent where
  | at_ (entry e : Nat)
  | above
  | missing (level entry : Nat)
  | s2 (ipa : Nat)
  | bad (cause : Nat)
  deriving DecidableEq, Repr, Inhabited

/-- Goes down the tables from a level, `n` levels left, to the level of a leaf. -/
def descend (s : State) (w : Wing) (va goal : Nat) : Nat → Nat → Nat → Descent
  | 0, level, table => .missing level (entryAt table level va)
  | n + 1, level, table =>
    let a := entryAt table level va
    match s2Pa s w a true false with
    | none => .s2 a
    | some pa => match entryBad s w pa a with
      | some c => .bad c
      | none =>
        let e := readNat s pa 8
        if level = goal then .at_ a e
        else if s1LeafOk e && decide (2 ≤ level) then .above
        else if nonLeafOk e then descend s w va goal n (level + 1) (nextTable e)
        else .missing level a

/-- The size of a table of a level. -/
def tableBytes (level : Nat) : Nat := if level = 4 then 256 else 4096

/-- The free place for a table in a frame (IPA), the lowest aligned one. -/
def freePlace (tables : List (Nat × Nat)) (frame size : Nat) : Option Nat :=
  ((List.range (65536 / size)).map fun i => frame + i * size).find? fun a => !(tables.any fun t => overlaps t.1 t.2 a size)

/-- The frames that tables have been carved from. -/
def carvedFrames (tables : List (Nat × Nat)) : List Nat := (tables.map fun t => t.1 / 65536 * 65536).eraseDups

/-- Places tables of the given levels: their addresses, with the frames of `fresh` used in order where no frame has room;
none where those run out. -/
def placeTables : List (Nat × Nat) → List Nat → List Nat → List Nat → Option (List Nat × List Nat)
  | _, _, _, [] => some ([], [])
  | tables, frames, fresh, l :: ls =>
    let z := tableBytes l
    match frames.findSome? fun f => freePlace tables f z with
    | some a => (placeTables (tables ++ [(a, z)]) frames fresh ls).map fun r => (a :: r.1, r.2)
    | none => match fresh with
      | [] => none
      | f :: fs => (placeTables (tables ++ [(f, z)]) (frames ++ [f]) fs ls).map fun r => (f :: r.1, f :: r.2)

/-- The new frames that tables of the given levels need, at most three. -/
def framesNeeded (w : Wing) (levels : List Nat) : Nat :=
  ((List.range 5).find? fun n => (placeTables w.tables (carvedFrames w.tables) ((List.range n).map fun i => 2 ^ 60 + i * 65536) levels).isSome).getD 4

/-- Takes frames out of a pool, in an order that the device chooses (R237). -/
def takeFrames (pick : Nat) : Nat → List Nat → List Nat
  | 0, _ => []
  | n + 1, pool =>
    if pool.isEmpty then [] else
      let f := nth 0 pool (Config.freePick (pick * 8 + n) % pool.length)
      f :: takeFrames pick n (pool.erase f)

/-- What a mapping request answers: a status; a word to scan first with the pages to lock; a shortfall of frames; a
stage-2 fault of a table entry or of a frame; the cause with which the read of a table entry ends. -/
inductive MapAns where
  | status (s : State) (v : DWord)
  | scan (s : State) (pages got : List Nat)
  | short (n : Nat)
  | s2 (ipa kind : Nat)
  | bad (cause : Nat)
  deriving Inhabited

/-- The IPA pages of a leaf. -/
def leafPages (frame sh : Nat) : List Nat := (List.range (2 ^ (sh - 16))).map (frame / 65536 + ·)

/-- A leaf entry's fields (R225). -/
def leafEntry (r : MapReq) (frame : Nat) (pool shd sel : Bool) : Nat :=
  r.policy * 2 ^ 61 + r.wayp * 2 ^ 57 + (if sel then 2 ^ 56 else 0) + (if shd then 2 ^ 55 else 0)
    + (if pool then 2 ^ 54 else 0) + frame / 65536 % 2 ^ 32 * 65536 + (if r.x then 16 else 0) + (if r.w then 8 else 0)
    + (if r.rd then 4 else 0) + 3

/-- The entries of a table. -/
def tableEntries (s : State) (w : Wing) (at_ size : Nat) : List Nat :=
  (List.range (size / 8)).map fun i => match s2Pa s w (at_ + 8 * i) false false with
    | some pa => readNat s pa 8
    | none => 0

/-- Some leaf lies below a table of a level, `n` levels deep. -/
def tableLive (s : State) (w : Wing) : Nat → Nat → Nat → Bool
  | 0, _, _ => false
  | n + 1, at_, level => (tableEntries s w at_ (tableBytes level)).any fun e =>
      (decide (2 ≤ level) && s1LeafOk e) || (decide (level < 4) && nonLeafOk e && tableLive s w n (nextTable e) (level + 1))

/-- The tables of a wing below its root, with their levels. -/
def tablesBelow (s : State) (w : Wing) : Nat → Nat → Nat → List (Nat × Nat × Nat)
  | 0, _, _ => []
  | n + 1, at_, level =>
    (List.range (tableBytes level / 8)).flatMap fun i =>
      let a := at_ + 8 * i
      match s2Pa s w a false false with
      | none => []
      | some pa =>
        let e := readNat s pa 8
        if decide (level < 4) && nonLeafOk e then
          let t := nextTable e
          (a, t, level + 1) :: tablesBelow s w n t (level + 1)
        else []

/-- A device write into a stage-1 table, logged as any write (R413). -/
def writeTable (s : State) (w : Wing) (ipa v : Nat) : State :=
  match s2Pa s w ipa false false with
  | some pa => writeMem s pa (natLe 8 v)
  | none => s

/-- Table frames none of whose tables has a leaf below it return to the pool; the entries that name their tables are
cleared (R228). -/
def reapTables (s : State) (wing : Nat) : State :=
  let w := wingAt s wing
  let below := tablesBelow s w 4 w.s1root 0
  let dead := (carvedFrames w.tables).filter fun f =>
    below.all fun t => t.2.1 / 65536 * 65536 ≠ f || !tableLive s w 5 t.2.1 t.2.2
  let s := below.foldl (fun s t => if dead.contains (t.2.1 / 65536 * 65536) then writeTable s w t.1 0 else s) s
  setWing s wing { wingAt s wing with
    tables := w.tables.filter fun t => !dead.contains (t.1 / 65536 * 65536)
    tableFrames := w.tableFrames.filter fun f => !dead.contains (f * 65536)
    pool := w.pool ++ dead }

/-- A stage-2 check of frames for RD and W (R237): the first page that fails. -/
def frameFault (s : State) (w : Wing) (ps : List Nat) : Option Nat :=
  (ps.find? fun p => (s2Pa s w (p * 65536) true true).isNone).map (· * 65536)

/-- A pool frame zeroed, with clear tags and its OWNER (R235); a locked one cannot be written (R66). -/
def zeroFrame (s : State) (w : Wing) (ipa : Nat) : State :=
  match s2Pa s w ipa false false with
  | some pa => if writeLocked s pa then s else scrubFrame s (frameOf pa) (s2Owner s w ipa)
  | none => s

/-- The pool frames that a request can reserve: those that the device can zero (R66, R235). -/
def freeFrames (s : State) (w : Wing) : List Nat :=
  w.pool.filter fun f => match s2Pa s w f false false with
    | some pa => !writeLocked s pa
    | none => true

/-- Links new tables, one level below the other, from an entry down: the entry of the leaf. -/
def linkTables (s : State) (w : Wing) (va : Nat) : Nat → Nat → List Nat → State × Nat
  | entry, _, [] => (s, entry)
  | entry, level, t :: ts =>
    linkTables (writeTable s w entry (t / 256 * 256 + 1)) w va (entryAt t (level + 1) va) (level + 1) ts

/-- Installs a leaf (R237): the frames are taken, the missing tables built, the leaf written. -/
def installLeaf (s : State) (wing va : Nat) (r : MapReq) (frame : Nat) (pool : List Nat) (level entry : Nat) (news : List Nat) :
    State :=
  let w := wingAt s wing
  let goal := sizeLevel r.size
  let levels := (List.range (goal - level)).map (level + 1 + ·)
  match placeTables w.tables (carvedFrames w.tables) news levels with
  | none => s
  | some (at_, used) =>
    let w' := { w with tables := w.tables ++ at_.zip (levels.map tableBytes),
                       tableFrames := w.tableFrames ++ used.map (· / 65536), pool := pool }
    let s := setWing s wing w'
    let s := used.foldl (fun s f => zeroFrame s w' f) s
    let (s, e) := linkTables s w' va entry level at_
    writeTable s w' e (leafEntry r frame (r.op = 0) (r.op = 2) false)

/-- The frames of a request out of those that it has reserved before and the pool: the leaf's frame, the frames for new tables,
all that are reserved, and the pool that is left. -/
def reserve (s : State) (w : Wing) (r : MapReq) (arg need : Nat) (got : List Nat) : Nat × List Nat × List Nat × List Nat :=
  let want := need + (if r.op = 0 then 1 else 0)
  let new := takeFrames s.fresh (want - got.length) (freeFrames s w)
  let all := got ++ new
  let rest := new.foldl (fun p f => p.erase f) w.pool
  if r.op = 0 then (nth 0 all 0, (all.drop 1).take need, all, rest) else (arg, all.take need, all, rest)

/-- A MAP* request (R237); `scanned` says that its frames have passed the scan, `got` are the frames it has reserved. -/
def mapNew (s : State) (wing va : Nat) (r : MapReq) (arg : Nat) (scanned : Bool) (got : List Nat) : MapAns :=
  let w := wingAt s wing
  let goal := sizeLevel r.size
  let go (level entry : Nat) : MapAns :=
    let need := framesNeeded w ((List.range (goal - level)).map (level + 1 + ·))
    let want := need + (if r.op = 0 then 1 else 0) - got.length
    if (freeFrames s w).length < want then .short (want - (freeFrames s w).length)
    else
      let (frame, news, all, rest) := reserve s w r arg need got
      let pages := leafPages frame (sizeBits r.size)
      let pages := if r.op = 2 then pages ++ leafPages (frame + 2 ^ sizeBits r.size) (sizeBits r.size) else pages
      match frameFault s w (pages ++ news.map (· / 65536)) with
      | some ipa => .s2 ipa 3
      | none =>
        let s := if r.op = 0 && got.isEmpty then zeroFrame s w frame else s
        if r.x && !scanned then .scan (setWing s wing { wingAt s wing with pool := rest }) pages all
        else
          let spare := all.drop (need + (if r.op = 0 then 1 else 0))
          let s := installLeaf s wing va r frame (rest ++ spare) level entry news
          .status (tick s) (mapDone frame)
  match descend s w va goal 5 0 w.s1root with
  | .s2 ipa => .s2 ipa 0
  | .bad c => .bad c
  | .above => .status s (mapStatus 6 0 0)
  | .at_ a e => if s1LeafOk e || nonLeafOk e then .status s (mapStatus 6 0 0) else go goal a
  | .missing level a => go level a

/-- PROTECT and UNMAP (R237). -/
def mapOld (s : State) (wing va : Nat) (r : MapReq) (scanned : Bool) : MapAns :=
  let w := wingAt s wing
  match descend s w va (sizeLevel r.size) 5 0 w.s1root with
  | .s2 ipa => .s2 ipa 0
  | .bad c => .bad c
  | .at_ a e =>
    if !s1LeafOk e then .status s (mapStatus 7 0 0)
    else
      let frame := bits e 47 16 * 65536
      let pages := leafPages frame (sizeBits r.size)
      let off := pages.map fun p => ((va, sizeBits r.size), p)
      if r.op = 3 then
        if (r.policy = 4) ≠ (leafPolicy e = 4) then .status s (mapStatus 5 0 0)
        else if r.x && leafShd e then .status s (mapStatus 3 0 0)
        else if r.x && !leafX e && !scanned then .scan s pages []
        else
          let s := writeTable s w a (leafEntry r frame (bit e 54) (leafShd e) (bit e 56))
          let x := wingAt s wing
          let s := if leafX e && !r.x then setWing s wing { x with unlocking := x.unlocking ++ off } else s
          .status s (mapDone frame)
      else
        let s := writeTable s w a 0
        let x := wingAt s wing
        let s := setWing s wing { x with
          unlocking := x.unlocking ++ (if leafX e then off else [])
          poolPending := x.poolPending ++ (if bit e 54 then [(va, frame)] else []) }
        .status (reapTables s wing) (mapDone frame)
  | _ => .status s (mapStatus 7 0 0)

/-- The results that need no table (R237): invalid, misaligned, write with execute, shadowed or recipe-backed execute. -/
def mapPre (r : MapReq) (va arg : Nat) : Option Nat :=
  let z := 2 ^ sizeBits r.size
  let map := r.op = 1 || r.op = 2
  if r.bad || (r.op = 0 && r.size ≠ 0) || (map && (arg % (if r.op = 2 then 2 * z else z) ≠ 0 || 2 ^ 48 ≤ arg)) || (r.op = 2 && r.w)
  then some 5
  else if va % z ≠ 0 then some 8
  else if r.w && r.x then some 2
  else if r.x && (r.op = 2 || r.policy = 4) then some 3
  else none

/-- PROTECT changes POLICY to or from 4 (R237). -/
def policyFlip (s : State) (w : Wing) (va : Nat) (r : MapReq) : Bool :=
  r.op = 3 && match descend s w va (sizeLevel r.size) 5 0 w.s1root with
    | .at_ _ e => s1LeafOk e && (r.policy = 4) ≠ (leafPolicy e = 4)
    | _ => false

/-- The whole request (R237). -/
def mapRun (s : State) (wing va : Nat) (r : MapReq) (arg : Nat) (scanned : Bool) (got : List Nat) : MapAns :=
  if !r.bad && policyFlip s (wingAt s wing) va r then .status s (mapStatus 5 0 0)
  else match mapPre r va arg with
    | some c => .status s (mapStatus c 0 0)
    | none => if r.op ≤ 2 then mapNew s wing va r arg scanned got else mapOld s wing va r scanned

-- The scan.

/-- The locks that scans under way hold on a frame. -/
def scanHolds (s : State) (f : Nat) : Nat :=
  s.wings.foldl (fun n e => n + (e.2.scans.flatMap fun q => (q.pages.filterMap (pageFrame s e.2)).filter (· = f)).length) 0

/-- A page's frame is locked and has been scanned: it maps executable again without a new scan (R63). -/
def scannedPage (s : State) (w : Wing) (p : Nat) : Bool :=
  match pageFrame s w p with
  | some f => decide (scanHolds s f < tget 0 s.locks f)
  | none => false

/-- What a scan of words finds: none that is rejected; the first that is, with its reason; or the cause with which the read of a
word ends. -/
inductive ScanAns where
  | pass | rejected (i reason : Nat) | bad (cause : Nat)
  deriving DecidableEq, Repr, Inhabited

/-- The word of a page list at an index, read through stage 2 (R67) with its owner tag compared (R407). -/
def scanWord (s : State) (w : Wing) (pages : List Nat) (i : Nat) : Except Nat Word :=
  let ipa := nth 0 pages (i / 16384) * 65536 + i % 16384 * 4
  match s2Pa s w ipa true false with
  | some pa => match entryBad s w pa ipa with
    | some c => .error c
    | none => .ok (BitVec.ofNat 32 (readNat s pa 4))
  | none => .ok 0

/-- Scans words `i`, `i + 1`, … ; the words of a scanned page pass. -/
def scanFrom (s : State) (w : Wing) (pages : List Nat) : Nat → Nat → ScanAns
  | 0, _ => .pass
  | n + 1, i =>
    if scannedPage s w (nth 0 pages (i / 16384)) then scanFrom s w pages n (i + 1)
    else match scanWord s w pages i with
      | .error c => .bad c
      | .ok v => match decodeWord v with
        | .ok _ => scanFrom s w pages n (i + 1)
        | .error r => .rejected i (scanCode r)

/-- A scan is over: its locks go and its frames return to the pool, unless the leaf it was for has been installed. -/
def endScan (s : State) (wing : Nat) (q : Option Scan) (keep : Bool) : State :=
  match q with
  | none => s
  | some c =>
    let s := if keep then s else unlockPages s wing c.pages
    let g := wingAt s wing
    setWing s wing { g with scans := g.scans.erase c, pool := if keep then g.pool else g.pool ++ c.got }

/-- A scan begins: the write locks are set first (R63 step 1). -/
def startScan (s : State) (wing : Nat) (q : Scan) : State :=
  let s := lockPages s wing q.pages
  let g := wingAt s wing
  setWing s wing { g with scans := g.scans ++ [q] }

/-- The slot in which a scan's PGMAP stands: the wave's, or the one that its trap frame keeps. -/
def scanSlot (w : Wave) (q : Scan) : Option Slot :=
  let pick (a b : Slot) : Slot := match q.src with | .slotB => b | _ => a
  match w.frame, q.handler with
  | some f, false => some (pick f.a f.b)
  | some _, true => some (pick w.a w.b)
  | none, false => some (pick w.a w.b)
  | none, true => none

/-- A scan's request is still there: its slot stands at its PGMAP, or the host's request is outstanding. -/
def scanAlive (s : State) (wing : Nat) (q : Scan) : Bool :=
  match q.host with
  | some (a, t) => s.assocs.any fun e => e.1 == a && e.2.pending.any fun r => r.token == t && r.op == 0x33
  | none =>
    let w := waveAt s q.wave
    w.used && wingNoOf s q.wave == wing && match scanSlot w q with
      | some x => x.st != .free && x.pc == q.pc
      | none => false

/-- A scan goes on: its source is not stopped. A scan that a halt has stopped resumes under its lock, and its request is
checked anew then (R237). -/
def scanRuns (s : State) (wing : Nat) (q : Scan) : Bool :=
  scanAlive s wing q && (q.host.isSome ||
    (let w := waveAt s q.wave
     w.stop == .running && (w.frame.isNone || q.handler) && (wingAt s wing).run == .running))

/-- Another request of the wing is in its scan: this one waits for it (R237). -/
def scanBusy (s : State) (wing : Nat) (mine : Option Scan) : Bool :=
  (wingAt s wing).scans.any fun q => some q != mine && scanRuns s wing q

/-- Scans whose request is gone end; those of a wing that is swapped out stand with its contexts (R317). -/
def tendScans (s : State) (wing : Nat) : State :=
  let g := wingAt s wing
  if g.run == .swapped then s
  else g.scans.foldl (fun s q => if scanAlive s wing q then s else endScan s wing (some q) false) s

-- PGMAP.

/-- The checks of PGMAP on its capability (R237). -/
def pgmapCause (k : Cap) (r : MapReq) (va world : Nat) : Option Nat :=
  let rights := (if r.rd then [pLD] else []) ++ (if r.w then [pST] else []) ++ (if r.x then [pEXEC] else [])
  if !k.tag then some 0x01
  else if r.size ≤ 2 ∧ ((va : Int) < capBase k ∨ capTop k < (va + 2 ^ sizeBits r.size : Nat)) then some 0x02
  else if capWorld k ≠ world then some 0x03
  else if r.op ≤ 3 && !hasAll k rights then some 0x03
  else if capOtype k ≠ 0 then some 0x04
  else none

/-- The scan that a PGMAP has under way. -/
def scanOf (s : State) (c : Ctx) : Option Scan :=
  (wingOf s c.k).scans.find? fun q => q.host.isNone && q.wave == c.k && q.src == c.src && q.handler == c.w.frame.isSome && q.pc == c.pc

/-- PGMAP goes on with an answer of the tables. -/
def pgmapGo (s : State) (c : Ctx) (sw : Bool) (t : BitVec 7) (va : Nat) (r : MapReq) (arg : Nat) (ans : MapAns) :
    Except Trap State :=
  let wing := wingNoOf s c.k
  let mine := scanOf s c
  let done (s : State) (v : DWord) : Except Trap State :=
    .ok (finishRegs (endScan s wing mine (v.toNat / 2 ^ 56 = 0)) c sw fun g => setS g t.toNat v)
  let fails (e : Nat) : State := takeTrap (endScan s wing mine false) c.k c.src { cause := e, addr := BitVec.ofNat 64 va }
  match ans with
  | .status s' v => done s' v
  | .bad e => .ok (fails e)
  | .s2 ipa kind => .ok (waitWith (sendS2 s c.k c.src none (if kind = 3 then 0 else va) ipa kind .write) c (.s2 s.nextTok))
  | .short n =>
    let tok := s.nextTok
    let s := { emit s (.refill wing tok n) with
      nextTok := tok + 1, tokens := s.tokens ++ [{ tok := tok, wave := c.k, src := c.src }] }
    .ok (waitWith s c (.refill tok))
  | .scan s' pages got =>
    let total := pages.length * 16384
    let install (s : State) (got : List Nat) : Except Trap State :=
      match mapRun s wing va r arg true got with
      | .status s' v => done (tick s') v
      | _ => done (tick s) (mapStatus 9 0 0)
    match mine with
    | none =>
      if pages.all (scannedPage s (wingAt s wing)) then install (lockPages s wing pages) []
      else .ok (waitWith (startScan s' wing { wave := c.k, src := c.src, handler := c.w.frame.isSome, pc := c.pc, va := va,
                                              sh := sizeBits r.size, pages := pages, since := s.fresh, got := got }) c .poll)
    | some q =>
      if q.pages ≠ pages then .ok (waitWith (endScan s wing mine false) c .poll)
      else if total < c.pix.toNat then .ok (finish (endScan s wing mine false) c sw)
      else if writesPending s (pages.filterMap (pageFrame s (wingAt s wing))) q.since then .ok (waitWith s c .poll)
      else
        let left := total - c.pix.toNat
        let n := 1 + Config.freePick s.fresh % left
        match scanFrom s (wingAt s wing) pages (min n left) c.pix.toNat with
        | .bad e => .ok (fails e)
        | .rejected i reason => done (tick s) (mapStatus 1 reason i)
        | .pass =>
          if left ≤ n then install s q.got
          else .ok (stepOn (tick s) c .poll (BitVec.ofNat 64 (c.pix.toNat + n)))

/-- PGMAP (R236-R238); what the host has refused or failed ends it (R234, R235). -/
def execPgmap (sw : Bool) (t : BitVec 7) (cr : BitVec 5) (o : BitVec 7) (s : State) : Out :=
  runSys s fun c =>
    let k := opC c cr.toNat
    let r := mapReq (opS c o)
    let va := capAddr k
    let arg := (opS c t).toNat
    let wing := wingNoOf s c.k
    let mine := scanOf s c
    let done (v : DWord) : Except Trap State := .ok (finishRegs (endScan s wing mine false) c sw fun g => setS g t.toNat v)
    match pgmapCause k r va (worldOf s c.k) with
    | some e => .error { cause := e, addr := BitVec.ofNat 64 va }
    | none => match c.hold with
      | .refused => done (mapStatus 4 0 0)
      | .s2failed kind _ _ => if kind = 3 then done (mapStatus 9 0 0) else .error { cause := 0x09, addr := BitVec.ofNat 64 va }
      | _ =>
        if scanBusy s wing mine then .ok (waitWith s c .poll)
        else
          let s := tendScans s wing
          pgmapGo s c sw t va r arg (mapRun s wing va r arg false ((mine.map (·.got)).getD []))

-- Invalidations.

/-- A transfer translates its pages as it moves (R205): once it has begun it may have used any page of its ranges. -/
def begunMoves (a : Access) : Bool :=
  (decide (0 < a.prog) || a.hold != .none) && match a.kind with
    | .rows .. => true
    | .tcpy .. => true
    | .bcpy .. => true
    | .publ .. => true
    | .deal .. => true
    | .flush .. => true
    | .discard .. => true
    | _ => false

/-- A range [lo, hi) overlaps a page, by its base and its size in bits. -/
def coversPage (lo hi : Nat) (p : Nat × Nat) : Bool := decide (lo < p.1 + 2 ^ p.2) && decide (p.1 < hi)

/-- An access of a wing has used a translation of a page of [lo, hi) and has not completed (R239), wherever its wave's context
stands. -/
def usesPages (s : State) (wing lo hi : Nat) : Bool :=
  let uses (w : Wave) : Bool := w.accs.any fun a => a.pages.any (coversPage lo hi) || begunMoves a
  (s.waves.any fun e => e.2.used && wingNoOf s e.1 == wing && uses e.2)
    || s.alcoves.any fun e => match e.2.shadow with
      | some (g, c) => g == wing && c.waves.any uses
      | none => false

/-- A TLBI over [lo, hi) has completed: pool frames and write locks of the pages that it overlaps are freed (R235, R66). -/
def freeAfterTlbi (s : State) (wing lo hi : Nat) : State :=
  let w := wingAt s wing
  let covered (va : Nat) : Bool := coversPage lo hi (va / 65536 * 65536, 16)
  let s := setWing s wing { w with
    pool := w.pool ++ (w.poolPending.filter fun q => covered q.1).map (·.2)
    poolPending := w.poolPending.filter fun q => !covered q.1
    unlocking := w.unlocking.filter fun q => !coversPage lo hi q.1 }
  unlockPages s wing ((w.unlocking.filter fun q => coversPage lo hi q.1).map (·.2))

/-- The checks of the ranged forms of TLBI and LPINV (R239). -/
def rangeCause (k : Cap) (n world : Nat) : Option Nat :=
  if !k.tag then some 0x01
  else if capWorld k ≠ world then some 0x03
  else if capOtype k ≠ 0 then some 0x04
  else if capAddr k % 65536 ≠ 0 ∨ n % 65536 ≠ 0 then some 0x1A
  else none

/-- TLBI over [lo, hi): it waits for the accesses that used the translations. -/
def tlbiRange (sw : Bool) (lo hi : Nat) (s : State) (c : Ctx) : Except Trap State :=
  let wing := wingNoOf s c.k
  if hi ≤ lo then .ok (finish s c sw)
  else
    let s := invalidate s wing lo hi true
    if usesPages s wing lo hi then .ok (waitWith s c .busy)
    else .ok (finish (freeAfterTlbi s wing lo hi) c sw)

/-- The range of a ranged form, or its trap. -/
def pageRange (s : State) (c : Ctx) (a b : BitVec 7) : Except Trap (Nat × Nat) :=
  let k := opC c a.toNat
  let n := (opS c b).toNat
  match rangeCause k n (worldOf s c.k) with
  | some e => .error { cause := e, addr := BitVec.ofNat 64 (capAddr k) }
  | none => .ok (capAddr k, capAddr k + n)

/-- TLBI cA, sB (R239). -/
def execTlbi (sw : Bool) (a b : BitVec 7) (s : State) : Out :=
  runSys s fun c => do
    let (lo, hi) ← pageRange s c a b
    tlbiRange sw lo hi s c
/-- TLBI.w (R239). -/
def execTlbiW (sw : Bool) (s : State) : Out := runSys s fun c => tlbiRange sw 0 (2 ^ 57) s c
/-- LPINV cA, sB (R239). -/
def execLpinv (sw : Bool) (a b : BitVec 7) (s : State) : Out :=
  runSys s fun c => do
    let (lo, hi) ← pageRange s c a b
    .ok (finish (if hi ≤ lo then s else invalidate s (wingNoOf s c.k) lo hi false) c sw)
/-- LPINV.w (R239). -/
def execLpinvW (sw : Bool) (s : State) : Out :=
  runSys s fun c => .ok (finish (invalidate s (wingNoOf s c.k) 0 (2 ^ 57) false) c sw)

end Sys2Proof.Machine
end

