-- ==== Sys2Proof/Machine/Scrub.lean ====
section
/-! DEFINITION. Scrubbing (R414): the rewriting of a frame with its receipt, and SCRUB (R415). -/
namespace Sys2Proof.Machine

/-- The counts of a receipt (R415). -/
structure Receipt where
  ret   : Nat := 0
  rep   : Nat := 0
  lines : Nat := 0
  deriving DecidableEq, Repr

/-- The word of a receipt. -/
def receiptWord (r : Receipt) : DWord := BitVec.ofNat 64 (r.ret % 65536 * 2 ^ 48 + r.rep % 65536 * 2 ^ 32 + r.lines % 2 ^ 32)
/-- The receipt that a word holds. -/
def receiptOf (v : DWord) : Receipt := { ret := bits v.toNat 63 48, rep := bits v.toNat 47 32, lines := bits v.toNat 31 0 }

/-- A scrub skips a frame: Lemsal has retired it, or a write lock or a table lock is set (R414, R66, R228). -/
def scrubSkips (s : State) (frame : Nat) : Bool := tget false s.retired frame || writeLocked s (frame * 65536)

/-- Rewrites the lines of a frame from `i` on, `n` of them: the first line whose rewrite fails, or the lines repaired.
The rewrite of a line that holds an uncorrectable error may fail, a free choice (log 5). -/
def scrubLines (s : State) (frame owner : Nat) : Nat → Nat → Nat → State × Nat × Option Nat
  | 0, _, rep => (s, rep, none)
  | n + 1, i, rep =>
    let line := frame * 512 + i
    if tget false s.poison line then
      if Config.freePick s.fresh % 2 = 1 then (tick s, rep, some i)
      else scrubLines (scrubLine (tick s) line owner) frame owner n (i + 1) (min (rep + 1) 65535)
    else scrubLines (scrubLine s line owner) frame owner n (i + 1) rep

/-- A page scrubbed: its frames, both of a shadowed page, with their owners; each rewritten frame is logged (R413, R415). A page with a frame that is skipped counts
once as retired, any other its 512 lines. The answer names a line of the page whose rewrite failed. -/
def scrubPage (s : State) : List (Nat × Nat) → Receipt → State × Receipt × Option Nat
  | fs, r =>
    let go := fs.foldl (fun (a : State × Nat × Option Nat) f =>
      if a.2.2.isSome || scrubSkips a.1 f.1 then a else scrubLines (logWrite a.1 (f.1 * 65536)) f.1 f.2 512 0 a.2.1) (s, r.rep, none)
    let r' := if fs.any (fun f => scrubSkips s f.1) then { r with rep := go.2.1, ret := min (r.ret + 1) 65535 }
      else { r with rep := go.2.1, lines := r.lines + 512 }
    (go.1, r', go.2.2)

/-- The frames of a page for a scrub (R414, R227): a write, allowed to a shadowed page too, on both its frames; what the host has
failed ends it (R234). A stage-2 fault is at an address with its KIND. -/
def scrubReach (s : State) (k va : Nat) (h : Hold) : Except (Nat ⊕ (Nat × Nat)) (List (Nat × Nat)) :=
  let w := wingOf s k
  match if failedAt h va 65536 then .fault 0x09 else translateAs s k 33 va .engine h with
  | .fault c => .error (.inl c)
  | .s2 ipa kind => .error (if hostFailed h then .inl 0x09 else .inr (ipa, kind))
  | .ok pa ipa leaf sh =>
    if leafShd leaf then
      [false, true].mapM fun other =>
        let x := s1Ipa leaf sh va other
        match s2Pa s w x false true with
        | some q => .ok (frameOf q, s2Owner s w x)
        | none => .error (.inr (x, 1))
    else .ok [(frameOf pa, s2Owner s w ipa)]

/-- Some byte of a 64 KiB page lies in a recorded tile. -/
def pageTiled (w : Wing) (va : Nat) : Bool := (List.range 16).any fun i => (findTile w (va + 4096 * i)).isSome

/-- Page `done` of a scrub of `pages` pages of [x, …). With RETIRED at its limit the receipt no longer tells the progress: from then on
the scrub goes on without a stop. -/
def scrubGo (sw : Bool) (t : BitVec 7) (c : Ctx) (x pages : Nat) : Nat → Nat → Receipt → State → Except Trap State
  | 0, _, r, s => .ok (finishRegs s c sw fun g => setS g t.toNat (receiptWord r))
  | n + 1, done, r, s =>
    let va := x + done * 65536
    match scrubReach s c.k va c.hold with
    | .error (.inl e) => .error { cause := e, addr := BitVec.ofNat 64 va }
    | .error (.inr (ipa, kind)) => .ok (waitWith (sendS2 s c.k c.src none va ipa kind .write) c (.s2 s.nextTok))
    | .ok fs =>
      if pageTiled (wingOf s c.k) va then .error { cause := 0x12, addr := BitVec.ofNat 64 va }
      else if heldBack s c.k c.w.accs (fs.map fun f => (false, f.1 * 65536, 65536)) then .ok (waitWith s c .poll)
      else
        let z := races (tick s) c.k plainAccess ((fs.filter fun f => !scrubSkips s f.1).map fun f => (false, f.1 * 65536, 65536))
        match scrubPage z.2 fs r with
        | (s, _, some i) => .ok (takeTrap s c.k c.src { cause := 0x15, addr := BitVec.ofNat 64 (va + 128 * i) })
        | (s, r', none) =>
          let s := scramble s c.k z.1
          if done + 1 = pages || r'.lines / 512 + r'.ret ≠ done + 1 then scrubGo sw t c x pages n (done + 1) r' s
          else .ok (stepOn s c .poll (receiptWord r'))

/-- SCRUB (R415), page by page: between pages it may be stopped, with its progress in PIX. An acquire of the wave holds it
(R243). -/
def execScrub (sw : Bool) (t : BitVec 7) (cr : BitVec 5) (o : BitVec 7) (s : State) : Out :=
  runSys s fun c =>
    let cap := opC c cr.toNat
    let x := addrS c cap o 0
    let n := (opS c t).toNat
    let scr : Option Nat := if capHas cap pSCRATCH then some 0x03 else none
    let mis : Option Nat := if x % 65536 ≠ 0 ∨ n % 65536 ≠ 0 then some 0x1A else none
    let big : Option Nat := if 2 ^ 39 ≤ n then some 0x0A else none
    match minCause (minCause (minCause (capCause cap x n [pST] (worldOf s c.k) (scrWin s c.k)) scr) mis) big with
    | some e => .error { cause := e, addr := BitVec.ofNat 64 (wrap 64 x) }
    | none =>
      let r := receiptOf c.pix
      let done := r.lines / 512 + r.ret
      let pages := n / 65536
      if pages < done then .ok (finish s c sw)
      else unheld s c (scrubGo sw t c x.toNat pages (pages - done) done r s)

end Sys2Proof.Machine
end

