-- ==== Sys2Proof/Machine/Sealing.lean ====
section
/-! DEFINITION. AES-256-XTS over 128-byte lines, by which a protected world's lines are sealed (R410), and the check code of a
context image, CRC-64 with the ECMA-182 polynomial (R413). Both are the published algorithms that the spec names (PRESUMED, log 56). -/
namespace Sys2Proof.Machine

-- The field of 256 elements.

/-- The double of an element. -/
def gfDouble (a : Nat) : Nat := if a < 128 then 2 * a else (2 * a) ^^^ 0x11B
/-- The product of two elements. -/
def gfMul (a b : Nat) : Nat :=
  (List.range 8).foldl (fun r i => gfDouble r ^^^ (if bit b (7 - i) then a else 0)) 0
/-- The inverse of an element, 0 for 0: its power 254. -/
def gfInv (a : Nat) : Nat :=
  let sq (x : Nat) : Nat := gfMul x x
  (List.range 6).foldl (fun (r : Nat × Nat) _ => (gfMul r.1 (sq r.2), sq r.2)) (sq a, sq a) |>.1
/-- A byte rotated left. -/
def rotByte (a n : Nat) : Nat := (a * 2 ^ n + a / 2 ^ (8 - n)) % 256
/-- The substitution of AES. -/
def subByte (a : Nat) : Nat :=
  let b := gfInv a
  b ^^^ rotByte b 1 ^^^ rotByte b 2 ^^^ rotByte b 3 ^^^ rotByte b 4 ^^^ 0x63
/-- Its inverse. -/
def unsubByte (a : Nat) : Nat := gfInv (rotByte a 1 ^^^ rotByte a 3 ^^^ rotByte a 6 ^^^ 0x05)

-- AES-256.

/-- Two byte strings combined by exclusive or. -/
def xorBytes (a b : List Nat) : List Nat := List.zipWith (· ^^^ ·) a b
/-- The next word of a key schedule from the words so far, latest first. -/
def nextKeyWord (ws : List (List Nat)) : List (List Nat) :=
  let i := ws.length
  let t := nth [] ws 0
  let t := if i % 8 = 0 then xorBytes ((t.drop 1 ++ t.take 1).map subByte) [2 ^ (i / 8 - 1), 0, 0, 0]
    else if i % 8 = 4 then t.map subByte else t
  xorBytes (nth [] ws 7) t :: ws
/-- The fifteen round keys of a 32-byte key. -/
def roundKeys (key : List Nat) : List (List Nat) :=
  let ws := ((List.range 52).foldl (fun ws _ => nextKeyWord ws)
    ((List.range 8).foldl (fun ws i => (key.drop (4 * i)).take 4 :: ws) [])).reverse
  (List.range 15).map fun r => ((ws.drop (4 * r)).take 4).flatten
/-- The rows of a block shifted by `n` times their number. -/
def shiftRows (n : Nat) (b : List Nat) : List Nat :=
  (List.range 16).map fun i => nth 0 b (i % 4 + 4 * ((i / 4 + n * (i % 4)) % 4))
/-- The columns of a block multiplied by a circulant matrix. -/
def mixColumns (m b : List Nat) : List Nat :=
  (List.range 16).map fun i =>
    (List.range 4).foldl (fun r j => r ^^^ gfMul (nth 0 m ((j + 4 - i % 4) % 4)) (nth 0 b (i / 4 * 4 + j))) 0
/-- A block of 16 bytes enciphered. -/
def encipher (ks : List (List Nat)) (b : List Nat) : List Nat :=
  let b := ((ks.drop 1).take 13).foldl (fun b k => xorBytes (mixColumns [2, 3, 1, 1] (shiftRows 1 (b.map subByte))) k)
    (xorBytes b (nth [] ks 0))
  xorBytes (shiftRows 1 (b.map subByte)) (nth [] ks 14)
/-- A block of 16 bytes deciphered. -/
def decipher (ks : List (List Nat)) (b : List Nat) : List Nat :=
  let b := (shiftRows 3 (xorBytes b (nth [] ks 14))).map unsubByte
  let b := (((ks.drop 1).take 13).reverse).foldl
    (fun b k => (shiftRows 3 (mixColumns [14, 11, 13, 9] (xorBytes b k))).map unsubByte) b
  xorBytes b (nth [] ks 0)

-- XTS.

/-- The tweak of the next block. -/
def nextTweak (t : List Nat) : List Nat :=
  let v := t.foldr (fun b r => b + 256 * r) 0
  let v := if bit v 127 then (2 * v % 2 ^ 128) ^^^ 0x87 else 2 * v
  (List.range 16).map fun i => v / 256 ^ i % 256

/-- A line under a world key (R410): the first half of the key for the data, the second for the tweak, which is the line's
number. -/
def xtsLine (f : List (List Nat) → List Nat → List Nat) (key : BitVec 512) (line : Nat) (bs : List Byte) : List Byte :=
  let k := (List.range 64).map fun i => key.toNat / 256 ^ i % 256
  let ks := roundKeys (k.take 32)
  let t := encipher (roundKeys (k.drop 32)) ((List.range 16).map fun i => line / 256 ^ i % 256)
  let go (r : List Nat × List Nat) (j : Nat) : List Nat × List Nat :=
    let p := ((bs.drop (16 * j)).take 16).map (·.toNat)
    (nextTweak r.1, r.2 ++ xorBytes (f ks (xorBytes p r.1)) r.1)
  (((List.range 8).foldl go (t, [])).2).map (BitVec.ofNat 8)

/-- A line sealed. -/
def sealLine (key : BitVec 512) (line : Nat) (bs : List Byte) : List Byte := xtsLine encipher key line bs
/-- A sealed line opened. -/
def openLine (key : BitVec 512) (line : Nat) (bs : List Byte) : List Byte := xtsLine decipher key line bs

-- The check code.

/-- The check code after a byte: the polynomial of ECMA-182, most significant bit first. -/
def crcStep (c : Nat) (b : Byte) : Nat :=
  (List.range 8).foldl (fun c _ => if bit c 63 then (2 * c % 2 ^ 64) ^^^ 0x42F0E1EBA9EA3693 else 2 * c) (c ^^^ b.toNat * 2 ^ 56)
/-- CRC-64 of bytes. -/
def crc64 (bs : List Byte) : Nat := bs.foldl crcStep 0

end Sys2Proof.Machine
end

