-- ==== Sys2Proof/Machine/Perform.lean ====
section
/-! DEFINITION. Which outstanding access may perform next, and its performing (R202, R213, R243, R252, log 6). -/
namespace Sys2Proof.Machine

/-- A hold that does not keep an access from performing: none, or one whose answer has come. -/
def holdOpen : Hold → Bool
  | .none => true
  | .busy => true
  | .s2again .. => true
  | .s2failed .. => true
  | .recipeFailed _ => true
  | _ => false

/-- A publication. -/
def isPubl : AccKind → Bool
  | .publ .. => true
  | _ => false

/-- The ranges that hold an access back; an engine transfer is ordered by no range (R252). -/
def ownRanges (s : State) (k : Nat) (a : Access) : List (Bool × Nat × Nat) := if a.engine then [] else kindRanges s k a.kind

/-- An access of a wave may perform: not before an acquire, an access to the same bytes, or, for a release, any access
that stands before it (R213, R243); a publication, after the copies issued before it (R206). -/
def accReady (s : State) (k i : Nat) (a : Access) : Bool :=
  let before := (waveAt s k).accs.take i
  !a.performed && holdOpen a.hold && !heldBack s k before (ownRanges s k a) && (!a.rel || releaseReady before)
    && !drainWaits (waveAt s k) a && (!isPubl a.kind || (before.all (fun b => b.path != 3 || accDone b) && !scanBusy s (wingNoOf s k) none))

/-- The node of an ENQ. -/
def enqNode : AccKind → Option Nat
  | .enq n .. => some n
  | _ => none

/-- A wave's ENQ to a node was issued before a move and could be accepted now (R390). -/
def enqAhead (s : State) (n no : Nat) : Bool :=
  s.waves.any fun e => e.2.used && (List.range e.2.accs.length).any fun j =>
    match e.2.accs[j]? with
    | some b => enqNode b.kind == some n && decide (b.no < no) && accReady s e.1 j b
    | none => false

/-- An ENQ waits for those that were issued to its node before it, by a wave or by the host (R390). -/
def enqWaits (s : State) (a : Access) : Bool :=
  match enqNode a.kind with
  | some n => enqAhead s n a.no || (nodeAt s n).port.any fun r => decide (r.no < a.no)
  | none => false

-- Accesses of a wing that has moved (R205).

/-- A kind with its lanes located anew; lanes for which `f` gives none are left out. -/
def relocKind (f : Loc → Option Loc) : AccKind → AccKind
  | .loadV t n ls => .loadV t n (ls.filterMap fun e => (f e.2).map fun l => (e.1, l))
  | .loadS t l => match f l with | some l => .loadS t l | none => .loadVC 0 []
  | .loadC t l => match f l with | some l => .loadC t l | none => .loadVC 0 []
  | .loadVC t ls => .loadVC t (ls.filterMap fun e => (f e.2).map fun l => (e.1, l))
  | .store ws => .store (ws.filterMap fun e => (f e.2.1).map fun l => (e.1, l, e.2.2))
  | .storeC ws => .storeC (ws.filterMap fun e => (f e.2.1).map fun l => (e.1, l, e.2.2))
  | .atomic op ety n t ls => .atomic op ety n t (ls.filterMap fun e => (f e.2.1).map fun l => (e.1, l, e.2.2))
  | .cas n t ls => .cas n t (ls.filterMap fun e => (f e.2.1).map fun l => (e.1, l, e.2.2))
  | .axadd ety ls => .axadd ety (ls.filterMap fun e => (f e.2.1).map fun l => (e.1, l, e.2.2))
  | .axrd ety t m sd dx ls => .axrd ety t m sd dx (ls.filterMap fun e => (f e.2).map fun l => (e.1, l))
  | .deque op t va h v c => match f h with | some h => .deque op t va h v c | none => .loadVC 0 []
  | .loadSlot o b ls => .loadSlot o b (ls.filterMap fun e => (f e.2).map fun l => (e.1, l))
  | x => x

/-- The translation of a location of a kind, made anew. -/
def relocTr (s : State) (k : Nat) (a : Access) (va : Nat) : Tr :=
  let rmw (rd : Bool) : Tr := atomTr s k va rd a.hold
  match a.kind with
  | .store _ => trHeld s (wingOf s k) va .write a.hold
  | .storeC _ => trHeld s (wingOf s k) va .write a.hold
  | .atomic .. => rmw true
  | .cas .. => rmw true
  | .axadd .. => rmw false
  | .deque .. => rmw true
  | .drain .. => trHeld s (wingOf s k) va .write a.hold
  | _ => trHeld s (wingOf s k) va .read a.hold

/-- An access that a migration has brought is located anew before it performs (R205): it waits for the host where a stage-2
fault comes up; lanes that fail end with their cause, an atomic as a whole (R259). It keeps its place in the issue order. -/
def relocate (s : State) (k i : Nat) (a : Access) : State :=
  let at_ (va : Nat) : Reach := reachOf a.hold va 1 (relocTr s k a va)
  let ans := (kindLanes a.kind).filterMap fun e => match e.2 with
    | .mem va _ _ => some (e.1, va, at_ va)
    | .scr _ => none
  let pages := a.trs.map fun e => (e.1, at_ (e.1 * 65536))
  let fails := ans.filterMap fun e => match e.2.2 with | .err c => some (e.1, c, e.2.1) | _ => none
  let all : List (Nat × Reach) := ans.map (·.2) ++ pages.map fun e => (e.1 * 65536, e.2)
  match all.findSome? fun e => match e.2 with | .s2 ipa kind => some (e.1, ipa, kind) | _ => none with
  | some (va, ipa, kind) => holdS2 s k i va ipa kind a.src (if writesIssued a.kind then .write else .read)
  | none =>
    let f (l : Loc) : Option Loc := match l with
      | .mem va _ _ => match at_ va with | .ok pa ipa => some (.mem va pa ipa) | _ => none
      | l => some l
    let whole := writesIssued a.kind && !plainStore a && !fails.isEmpty
    let kind := if whole then .loadVC 0 [] else relocKind f a.kind
    let trs : Table PageTr := pages.map fun e => (e.1, match e.2 with
      | .ok pa ipa => { pa := pa, ipa := ipa }
      | .err c => { cause := c }
      | .s2 .. => {})
    setAcc s k i fun a => { a with kind := kind, stale := false, hold := .none, trs := trs,
                                   pages := pagesOf s k (kindLocs kind) trs, err := joinErr a.err (badErr a fails) }

/-- The effect of an access by its kind; `n` is the lane mask, or the number of units, that the move performs, 0 for
all. -/
def performKind (s : State) (k i n : Nat) (a : Access) : Option State :=
  match a.kind with
  | .loadV t z ls => performLoad s k i n a z ls (.loadV t z) fun s e l => landV t z e (leNat (readLoc s k l z))
  | .loadS t l => performLoad s k i 0 a 8 [(0, l)] (fun _ => .loadVC 0 []) fun s _ l =>
      landS t (BitVec.ofNat 64 (leNat (readLoc s k l 8)))
  | .loadC t l => performLoad s k i 0 a 16 [(0, l)] (fun _ => .loadVC 0 []) fun s _ l =>
      [(cellC t, fun r => setC r t (filterCap s (readCapLoc s k l)))]
  | .loadVC t ls => performLoad s k i n a 16 ls (.loadVC t) fun s e l =>
      [(cellVC t e, fun r => setVC r t e (filterCap s (readCapLoc s k l)))]
  | .store ws => performStore s k i n a (((ws.head?).map (·.2.2.length)).getD 0) ws .store fun s l bs => writeLoc s k l bs
  | .storeC ws => performStore s k i n a 16 ws .storeC fun s l c => writeCapLoc s k l (filterCap s c)
  | .atomic op ety z t ls => performAtomic s k i n a true z ls (.atomic op ety z t) (rmwGroup k op ety z t)
  | .cas z t ls => performAtomic s k i n a true z ls (.cas z t) (casGroup k z t)
  | .axadd ety ls => performAtomic s k i n a true 64 ls (.axadd ety) (axaddGroup k ety)
  | .axrd ety t m sd dx ls => performAtomic s k i n a false 64 (ls.map fun e => (e.1, e.2, PUnit.unit))
      (fun r => .axrd ety t m sd dx (r.map fun e => (e.1, e.2.1))) (axrdGroup k i ety t m sd dx)
  | .deque op t va h v c => some (performDeque s k i a op t va h v c)
  | .bar op t off v => some (performBar s k i a op t off v)
  | .rows g wd base m z idx => some (performRows s k i n a g wd base m z idx)
  | .tcpy d f c x desc => some (performTcpy s k i n a d f c x desc)
  | .bcpy d f len => some (performBcpy s k i n a d f len)
  | .publ scr x len => some (performPubl s k i a scr x len)
  | .loadSlot o b sg => some (performSlot s k i a o b sg)
  | .loadCabinet c x => some (performCabinet s k i n a c x)
  | .loadTail m c x => if matMidway s (alcOf k) k a.src then none else some (performTail s k i a m c x)
  | .loadTile t c x => some (performTile s k i a t c x)
  | .drain c rows => some (performDrain s k i n a c rows)
  | .deal t x c => some (performDeal s k i n a t x c)
  | .gate _ => none
  | .enq node lv bs ts => if enqWaits s a then none else performEnq s k i node lv bs ts
  | .flush inv x len => some (performFlush s k i n a false inv x len)
  | .discard x len => some (performFlush s k i n a true true x len)

/-- Access `i` of wave `k` performs; none where it may not. -/
def perform (s : State) (k i n : Nat) : Option State :=
  match (waveAt s k).accs[i]? with
  | none => none
  | some a => if !accReady s k i a then none else if a.stale then some (relocate s k i a) else performKind s k i n a

/-- The place of the oldest access on a path. -/
def oldestIdx (w : Wave) (path : Nat) : Option Nat := w.accs.findIdx? fun a => a.path == path

/-- COUNTED_ACCESS_COMPLETE (R202): the oldest access on a path performs and completes. -/
def execCountedAccessComplete (k : Nat) (path : BitVec 3) (s : State) : Out :=
  match oldestIdx (waveAt s k) path.toNat with
  | none => .next s
  | some i => .next (settle ((perform s k i 0).getD s) k path.toNat)

/-- PUBL_FLIP (R206): the oldest copy-path access, a publication, performs. -/
def execPublFlip (k : Nat) (s : State) : Out :=
  match oldestIdx (waveAt s k) 3 with
  | none => .next s
  | some i => match (waveAt s k).accs[i]? with
    | some a => if isPubl a.kind then .next (settle ((perform s k i 0).getD s) k 3) else .next s
    | none => .next s

/-- The progress that an error of a transfer reports, in the units of its description (R204). -/
def transferPix (a : Access) : Nat :=
  match a.kind with
  | .bcpy d f len => ((List.range a.prog).map fun j =>
      let p := bytePiece (capAddr d) len (decide (capAddr d < capAddr f)) j
      p.2 - p.1).sum
  | _ => a.prog

/-- BARRIER_DELIVERY (R270): bytes that the oldest owing transfer of a path has landed are counted on its barrier word;
a count out of range ends the transfer with cause 0x18. -/
def execBarrierDelivery (k : Nat) (path : BitVec 3) (n : Nat) (s : State) : Out :=
  let w := waveAt s k
  match w.accs.findIdx? fun a => a.path == path.toNat && a.bound.isSome && decide (0 < a.deliv) with
  | none => .next s
  | some i => match w.accs[i]? with
    | none => .next s
    | some a =>
      let off := a.bound.getD 0
      let l := Loc.scr off
      let m := if n = 0 then a.deliv else min n a.deliv
      match barDeliver (BitVec.ofNat 64 (leNat (readLoc s k l 8))) m (a.performed && a.err.isSome) with
      | some v =>
        let s := setAcc (writeLoc s k l (natLe 8 v.toNat)) k i fun a => { a with deliv := a.deliv - m }
        .next (settle s k a.path)
      | none =>
        let s := setAcc s k i fun a => { a with performed := true, deliv := 0, bound := none, hold := .none,
                                                err := joinErr a.err (some { cause := 0x18, addr := BitVec.ofNat 64 off, pix := BitVec.ofNat 64 (transferPix a) }) }
        .next (settle s k a.path)

end Sys2Proof.Machine
end

