-- ==== Sys2Proof/Machine/Units.lean ====
section
/-! DEFINITION. Units (R33-R36, R41, R42, R176, R272, R386, R391): where they fit, how they start and retire, their
relaunch (R285, R316), and the events of levels, nodes and builds. -/
namespace Sys2Proof.Machine

-- Placement.

/-- The free wave slots of a wing on a core. -/
def freeSlots (s : State) (g : Wing) (core : Nat) : List Nat :=
  (coreSlots g core).filter fun k => !(waveAt s k).used && !(alcAt s (alcOf k)).retired

/-- Pairs up the members of a list. -/
def pairUp : List Nat → List (Nat × Nat)
  | a :: b :: t => (a, b) :: pairUp t
  | _ => []

/-- The pairs of free slots of one alcove. -/
def alcPairs (free : List Nat) : List (Nat × Nat) :=
  ((free.map alcOf).eraseDups).flatMap fun a => pairUp (free.filter fun k => alcOf k == a)

/-- Slots for `n` waves and the tethers of the first `t` of them, each tether in its wave's alcove (R42): the waves, then
the tethers. A wave without a tether takes a slot without a partner where there is one, so that as many pairs as can be are left
for the next unit (R272). -/
def placeIn (free : List Nat) (n t : Nat) : Option (List Nat) :=
  let pairs := alcPairs free
  let flat (l : List (Nat × Nat)) : List Nat := l.flatMap fun p => [p.1, p.2]
  let rest := ((free.filter fun k => !(flat pairs).contains k) ++ flat (pairs.drop t)).take (n - t)
  if pairs.length < t || rest.length < n - t then none
  else some ((pairs.take t).map (·.1) ++ rest ++ (pairs.take t).map (·.2))

/-- A list of slots is a placement of that form. -/
def placeOk (free slots : List Nat) (n t : Nat) : Bool :=
  decide (slots.length = n + t) && decide (slots.eraseDups.length = slots.length) && slots.all free.contains
    && (List.range t).all fun i => alcOf (nth 0 slots (n + i)) == alcOf (nth 0 slots i)

/-- The core of a unit. -/
def unitCore (u : Unit) : Nat := coreOf (alcOf (u.waves.headD 0))

/-- The scratch pages of the units of a list on a core. -/
def pagesOn (l : List (Nat × Unit)) (core : Nat) : Nat :=
  l.foldl (fun n e => if unitCore e.2 == core then n + e.2.scrSize / 4096 else n) 0

/-- The units whose contexts the alcoves hold. -/
def liveUnits (s : State) : Table Unit := s.units.filter fun e => e.2.used && (wingAt s e.2.wing).run != .swapped

/-- The scratch pages of builds of a wing on a core. -/
def buildPages (s : State) (wing core : Nat) : Nat :=
  pagesOn ((liveUnits s).filter fun e => e.2.wing == wing && e.2.build.isSome) core

/-- The scratch pages that a unit of a wing can take on a core (R391, R405): a build takes the reserve of its own wing. -/
def freePages (s : State) (wing core : Nat) (build : Bool) : Nat :=
  let world := (wingAt s wing).world
  let plain := pagesOn ((liveUnits s).filter fun e => (wingAt s e.2.wing).world == world && e.2.build.isNone) core
  let held := s.wings.foldl (fun n e =>
    if e.2.used && e.2.world == world then
      let b := buildPages s e.1 core
      n + (if e.2.resvCore == core && !(build && e.1 == wing) then max e.2.resvPages b else b)
    else n) 0
  bankPages s world - plain - held

/-- What may start: the next unit of a launch, or a batch of a node. -/
inductive Start where
  | launch (slot : Nat) | node (n : Nat)
  deriving DecidableEq, Repr, Inhabited

/-- A candidate to start with its shape and the die that it prefers. -/
structure Cand where
  start : Start
  info  : LaunchInfo
  build : Option Nat := none
  die   : Option Nat := none
  deriving DecidableEq, Repr, Inhabited

/-- The free slots of a wing's recompute reserve. -/
def freeReserve (s : State) (g : Wing) : List Nat := (freeSlots s g g.resvCore).filter (reserveSlots g).contains

/-- The reserve of the wing holds a build (R370, R391). -/
def reserveFits (s : State) (wing : Nat) (c : Cand) : Bool :=
  let g := wingAt s wing
  c.build.isSome && (placeIn (freeReserve s g) c.info.nwaves c.info.tethers).isSome
    && decide (buildPages s wing g.resvCore + c.info.scr / 4096 ≤ g.resvPages)

/-- The free slots for a unit on a core (R391, R370): those outside the reserve; for a build, those of the reserve where it
fits there, else all. -/
def slotsFor (s : State) (wing core : Nat) (c : Cand) : List Nat :=
  let g := wingAt s wing
  let free := freeSlots s g core
  if c.build.isNone then free.filter fun k => !(reserveSlots g).contains k
  else if !reserveFits s wing c then free
  else if core = g.resvCore then freeReserve s g else []

/-- A bounds length rounded to what a capability encodes, with the alignment that it needs (R171). -/
def windowShape (len : Nat) : Nat × Nat :=
  let e := (encExp 0 len 0 43).getD 42
  let al := max 4096 (2 ^ e)
  (alignUp len al, al)

/-- The lowest aligned free window of a private region (log 14). -/
def privPlace (lo len : Nat) (used : List (Nat × Nat)) (size : Nat) : Option Nat :=
  let (span, al) := windowShape size
  if size = 0 then some lo
  else
    let at_ := alignUp lo al :: used.map fun u => alignUp (max lo u.2) al
    let ok := at_.filter fun b => decide (b + span ≤ lo + len) && used.all fun u => !overlaps u.1 (u.2 - u.1) b span
    ok.foldl (fun m b => match m with | none => some b | some x => some (min x b)) none

/-- The windows of `n` waves, as far as the region has places. -/
def privPlaces (lo len size : Nat) : Nat → List (Nat × Nat) → List (Option Nat)
  | 0, _ => []
  | n + 1, used => match privPlace lo len used size with
    | none => none :: privPlaces lo len size n used
    | some b => some b :: privPlaces lo len size n (used ++ [(b, b + (windowShape size).1)])

/-- The private windows that a wing's waves hold. -/
def privUsed (s : State) (wing : Nat) : List (Nat × Nat) :=
  s.waves.filterMap fun e => if e.2.used && wingNoOf s e.1 == wing && decide (e.2.privBase < e.2.privTop) then some (e.2.privBase, e.2.privTop) else none

/-- The private windows for a unit, in the order of its slots. DESIGN CHOICE: a unit waits for no window, since R272 makes it wait for
slots and pages alone; a wave for which the region has no place has none, and no c30 (log 14). -/
def windowsFor (s : State) (wing : Nat) (i : LaunchInfo) : List (Option Nat) :=
  let g := wingAt s wing
  privPlaces g.privBase g.privLen i.privsz (i.nwaves + i.tethers) (privUsed s wing)

/-- The slots that a candidate would take on a core where its scratch pages are free too. -/
def placeOn (s : State) (wing core : Nat) (c : Cand) : Option (List Nat) :=
  if c.info.scr / 4096 ≤ freePages s wing core c.build.isSome
  then placeIn (slotsFor s wing core c) c.info.nwaves c.info.tethers else none

/-- The cores of a wing on a die. -/
def nearCores (g : Wing) (die : Option Nat) : List Nat := (wingCores g).filter fun c => die == some (c / 24)

/-- The cores of a wing in the order that a die prefers (R384). -/
def coresFor (g : Wing) (die : Option Nat) : List Nat :=
  let near := nearCores g die
  near ++ (wingCores g).filter fun c => !near.contains c

/-- A placement of a candidate on some core. -/
def place (s : State) (wing : Nat) (c : Cand) : Option (List Nat) :=
  (coresFor (wingAt s wing) c.die).findSome? fun core => placeOn s wing core c

/-- The pairs that a placement leaves. -/
def pairsLeft (free slots : List Nat) : Nat := (alcPairs (free.filter fun k => !slots.contains k)).length

/-- The placement that a move names, or one that the device chooses where it names none: on the preferred die while a core of it
is free (R384), and leaving as many pairs as the device's own choice (R272). -/
def chosenPlace (s : State) (wing : Nat) (c : Cand) (slots : List Nat) : Option (List Nat) :=
  if slots.isEmpty then place s wing c
  else
    let core := coreOf (alcOf (slots.headD 0))
    let near := nearCores (wingAt s wing) c.die
    let free := slotsFor s wing core c
    match placeOn s wing core c with
    | none => none
    | some p =>
      if placeOk free slots c.info.nwaves c.info.tethers && pairsLeft free slots == pairsLeft free p
        && (near.contains core || !near.any fun x => (placeOn s wing x c).isSome) then some slots else none

-- Selection (R391).

/-- A node's bin is due: it holds C records, or a timer or the closed input made it due (R40). -/
def nodeDue (x : Node) : Bool := !x.bin.isEmpty && (x.due || decide (x.count ≤ x.bin.length))

/-- The candidates of a wing. -/
def candidates (s : State) (wing : Nat) : List Cand :=
  let ls := s.levels.filterMap fun e =>
    let l := e.2
    match l.body with
    | .launch i g b => if l.used && l.wing == wing && decide (l.next < l.size) && !l.cancelled && !l.reset
        then some ({ start := .launch e.1, info := i, build := b, die := if b.isNone then some (g / 16) else none } : Cand) else none
    | _ => none
  let ns := s.nodes.filterMap fun e =>
    let x := e.2
    let l := levelAt s x.graph
    if x.used && l.used && l.wing == wing && answered x.hold && !l.cancelled && !l.reset && nodeDue x then
      let aff := match x.bin with | r :: _ => fld r.bytes 0 2 | [] => 0xFFFF
      some ({ start := .node e.1, info := x.info, die := if aff = 0xFFFF then none else some (aff % 128 / 16) } : Cand)
    else none
  ls ++ ns

/-- One candidate goes before another (R391). -/
def before (s : State) (a b : Cand) : Bool :=
  if a.info.prio ≠ b.info.prio then decide (b.info.prio < a.info.prio)
  else match a.start, b.start with
    | .node n, .node m =>
      let x := nodeAt s n
      let y := nodeAt s m
      let p := x.bin.length * y.count
      let q := y.bin.length * x.count
      if p = q then decide (n < m) else decide (q < p)
    | .node _, .launch _ => true
    | .launch _, .node _ => false
    | .launch x, .launch y => decide ((levelAt s x).seqNo < (levelAt s y).seqNo)

/-- The next unit of a wing that fits (R391). -/
def nextStart (s : State) (wing : Nat) : Option Cand :=
  ((candidates s wing).filter fun c => (place s wing c).isSome).foldl (fun m c => match m with
    | none => some c
    | some b => if before s c b then some c else some b) none

-- Starting.

/-- The permissions of c29 (R176): LD, ST, LDC, STC and SCRATCH. -/
def scrPerms : Nat := 0x10F
/-- The permissions of c30. -/
def privPerms : Nat := 0xF
/-- The permissions of the supervisor's code root: LD, EXEC, GLOBAL, SYS. -/
def supPerms : Nat := 0x831

/-- c28 of a launch (R176): LD, LDC and GLOBAL of its argument block, ADDR at the base; SCRATCH stays, as in every derivation
(R177). -/
def argsCap (a : Cap) : Cap :=
  let perms := 2 ^ pLD + 2 ^ pLDC + 2 ^ pGLOBAL + 2 ^ pSCRATCH
  withAddr (withPerms a (capPerms a &&& perms)) (capBase a).toNat

/-- The supervisor's code root of a wing (R176). DESIGN CHOICE: a code region that no encoding holds exactly is rounded outward, as
R171 rounds (log 57). -/
def supRoot (g : Wing) : Cap := mkCap g.codeBase (g.codeBase + g.codeLen) g.codeBase supPerms 0 g.world

/-- The bounds of a private window; none is empty. -/
def windowBounds (i : LaunchInfo) : Option Nat → Nat × Nat
  | none => (0, 0)
  | some b => (b, b + (if i.privsz = 0 then 0 else (windowShape i.privsz).1))

/-- c30 of a wave (R176). -/
def privCap (g : Wing) (i : LaunchInfo) (win : Option Nat) : Cap :=
  if win.isNone then {} else mkCap (windowBounds i win).1 (windowBounds i win).2 (windowBounds i win).1 privPerms 0 g.world

/-- The registers of a wave at unit start (R35). -/
def startRegs (g : Wing) (i : LaunchInfo) (args : Cap) (seed : DWord) (batch : Nat) (win : Option Nat) : RegFile :=
  let r : RegFile := { seed := seed }
  let r := setC r 28 args
  let r := setC r 29 (mkCap 0 i.scr 0 scrPerms 0 g.world)
  let r := setC r 30 (privCap g i win)
  let r := setC r 31 (withOtype i.code 0)
  if batch = 0 then r else setS r 0 (BitVec.ofNat 64 batch)

/-- The seed of a wave of a launch (R35). -/
def waveSeed (seed : DWord) (l : Nat) : DWord := seed + BitVec.ofNat 64 l * 0xD1B5_4A32_D192_ED03#64

/-- A wave at unit start (R35). -/
def startWave (g : Wing) (i : LaunchInfo) (u id unitId key : Nat) (args : Cap) (batch : Nat) (win : Option Nat) : Wave :=
  { used := true, unit := u, waveId := id, live := BitVec.allOnes 32, prio := i.prio, key := key,
    privBase := (windowBounds i win).1, privTop := (windowBounds i win).2,
    a := { pc := BitVec.ofNat 64 (capAddr i.code), mask := BitVec.allOnes 32, dix := i.dixb, st := .ready },
    regs := startRegs g i args (waveSeed i.seed (unitId * i.nwaves + id)) batch win }

/-- The slot reserved for the tether of a wave (R42). -/
def reserveWave (g : Wing) (i : LaunchInfo) (u id owner : Nat) (win : Option Nat) : Wave :=
  { used := true, unit := u, waveId := id + 16, tether := true, owner := owner, prio := i.prio,
    privBase := (windowBounds i win).1, privTop := (windowBounds i win).2, regs := setC {} 30 (privCap g i win) }

/-- A context number that no resident unit of the wing has (R282). -/
def freshCtx (s : State) (wing : Nat) : BitVec 32 :=
  let used := s.units.filterMap fun e => if e.2.used && e.2.wing == wing then some e.2.ctxid else none
  let c := ((List.range (used.length + 2)).map fun i => BitVec.ofNat 32 (s.nextCtx + i)).find? fun c => c != 0 && !used.contains c
  c.getD 1

/-- What a unit is started with. -/
structure UnitReq where
  info   : LaunchInfo
  level  : Nat
  node   : Option Nat := none
  unitId : Nat := 0
  args   : Cap
  batch  : Nat := 0
  build  : Option Nat := none
  die    : Option Nat := none
  deriving DecidableEq, Repr, Inhabited

-- The frames of scratch windows (R198).

/-- The page frames that a world's bank set has free on a core. -/
def bankFrames (s : State) (world core : Nat) : List Nat :=
  let used := (liveUnits s).flatMap fun e =>
    if (wingAt s e.2.wing).world == world && unitCore e.2 == core then e.2.frames else []
  (List.range (bankPages s world)).filter fun f => !used.contains f

/-- A unit with frames for the pages of its window: the lowest free ones, which changes no result. -/
def withFrames (s : State) (u : Unit) : Unit :=
  { u with frames := (bankFrames s (wingAt s u.wing).world (unitCore u)).take (u.scrSize / 4096) }

/-- The bank and the offset in it of a byte of a unit's window (R198). -/
def scrPlace (s : State) (u : Unit) (off : Nat) : Nat × Nat :=
  let world := (wingAt s u.wing).world
  let n := (worldAt s world).banks
  let c := off % 4096 / 128
  (tget 0 s.banks (unitCore u * 16 + world) + c % n, nth 0 u.frames (off / 4096) * (4096 / n) + c / n * 128 + off % 128)

/-- Places a unit with its waves and tethers in slots (R33-R35, R282); its supervisor record is still to be read. -/
def putUnit (s : State) (wing : Nat) (r : UnitReq) (slots : List Nat) : State × Nat :=
  let wins := windowsFor s wing r.info
  let g := wingAt s wing
  let i := r.info
  let n := s.nextUnit
  let ctx := freshCtx s wing
  let u : Unit :=
    { used := true, wing := wing, level := r.level, node := r.node, ctxid := ctx, unitId := r.unitId,
      x := r.unitId % i.lx, y := r.unitId / i.lx % i.ly, z := r.unitId / i.lx / i.ly, lx := i.lx, ly := i.ly, lz := i.lz,
      nwaves := i.nwaves, ddepth := i.ddepth, tethers := i.tethers, waves := slots, scrSize := i.scr, idem := i.idem,
      prio := i.prio, batch := r.batch, build := r.build, args := r.args, boot := some .none, die := r.die }
  let s := setUnit { s with nextUnit := n + 1, nextCtx := ctx.toNat + 1 } n (withFrames s u)
  let s := (List.range i.nwaves).foldl (fun s j =>
    setWave { s with nextKey := s.nextKey + 1 } (nth 0 slots j)
      { startWave g i n j r.unitId s.nextKey r.args r.batch (nth none wins j) with since := s.fresh }) s
  ((List.range i.tethers).foldl (fun s j =>
    setWave s (nth 0 slots (i.nwaves + j)) (reserveWave g i n j (nth 0 slots j) (nth none wins (i.nwaves + j)))) s, n)

/-- The bytes and capabilities of the supervisor record of a unit, or what stops its reading (R386). DESIGN CHOICE: its reserved
bytes 72–79 have no consequence (log 25). DESIGN CHOICE: the default record is read by IPA and has no VA; a stage-2 fault on it is
recorded with VA 0 and KIND 1 (R233; log 57). -/
def readSupv (s : State) (u : Unit) (info : LaunchInfo) : Except Stop (List Byte × List Cap) :=
  let k := u.waves.headD 0
  let g := wingAt s u.wing
  let h := u.boot.getD .none
  let segs : Except Stop (List (Loc × Nat)) := match info.supv with
    | some c => segsVia s k { path := 6, kind := .loadVC 0 [], pc := 0, src := .slotA, hold := h } c (capAddr c) 144 .read
    | none => (cutAt g.supvIpa 144 3).mapM fun p => match s2Pa s g p.1 true false with
      | none => .error (if hostFailed h then .err 0x09 0 else .s2 0 p.1 1 .read)
      | some pa =>
        if ownerBad s g pa p.1 p.2 then .error (.err 0x06 0)
        else if poisoned s pa p.2 then .error (.err 0x15 0) else .ok (.mem 0 pa p.1, p.2)
  match segs with
  | .error e => .error e
  | .ok l => .ok (readSegs s k l, (List.range 4).map fun i => segCap s k l (16 * i))

/-- The supervisor bank of a wave as a record gives it (R386). -/
def bankFrom (g : Wing) (bs : List Byte) (caps : List Cap) : Bank :=
  { caps := caps, pcc := supRoot g, s := (List.range 8).map fun i => BitVec.ofNat 64 (fld bs (80 + 8 * i) 8) }

/-- The launch information of a unit: its launch's, its node's, or its recipe's. -/
def unitInfo (s : State) (u : Unit) : LaunchInfo :=
  match u.node with
  | some n => (nodeAt s n).info
  | none => match (levelAt s u.level).body with
    | .launch i _ _ => i
    | _ => {}

/-- A unit reads its supervisor record, then runs; where that fails it ends as failed (R386). -/
def bootUnit (s : State) (n : Nat) : State :=
  let u := unitAt s n
  match readSupv s u (unitInfo s u) with
  | .ok (bs, caps) =>
    let vec := BitVec.ofNat 64 (fld bs 64 8) &&& ~~~3#64
    let s := mapWaves s (fun _ w => { w with bank := bankFrom (wingAt s u.wing) bs caps, trapVec := vec }) u.waves
    setUnit s n { u with boot := none }
  | .error (.err c x) =>
    let s := uncorrFound s u.wing c
    endUnit (setUnit (noteFails s (u.waves.headD 0) [(0, c, x)]) n { u with boot := none }) n .failed c
  | .error (.s2 va ipa kind need) =>
    let k := u.waves.headD 0
    let s' := sendS2 s k .slotA none va ipa kind need
    let s' := { s' with tokens := s'.tokens.map fun t => if t.tok = s.nextTok then { t with unit := some n } else t }
    setUnit s' n { u with boot := some (.s2 s.nextTok) }
  | .error (.park id) => startNeed (setUnit s n { u with boot := some (.recipe id) }) u.wing id

/-- The start of a unit whose build has ended can go on. -/
def bootOpen : Option Hold → Bool
  | some .busy => true
  | some (.recipeFailed _) => true
  | _ => false

/-- The units that waited for a build that has ended try again. -/
def bootWaiters (s : State) : State :=
  s.units.foldl (fun s e => if e.2.used && bootOpen e.2.boot then bootUnit s e.1 else s) s

/-- The argument block of a node holds its batches at 256-byte strides, in turn (R41, log 13): the address of a batch. -/
def batchAt (x : Node) : Nat :=
  let size := (capTop x.info.args - capBase x.info.args).toNat
  (capBase x.info.args).toNat + x.started % max 1 (size / (256 * x.count)) * (256 * x.count)

/-- Writes a record of a batch with its tags. -/
def putRecord (s : State) (g : Wing) (va : Nat) (r : BinRecord) : State :=
  let s := devWrite s g va r.bytes
  (List.range (r.bytes.length / 16)).foldl (fun s i =>
    if nth false r.tags i then match devPiece s g (va + 16 * i) 16 true .none with
      | .ok (pa, _) => setMemTag s pa true
      | .error _ => s
    else s) s

/-- A node waits for the host's answer to a stage-2 fault that the delivery of its batch meets (R233). -/
def nodeMiss (s : State) (m va ipa kind : Nat) : State :=
  let x := nodeAt s m
  let tok := s.nextTok
  let s := sendFault s (levelAt s x.graph).wing { tok := tok, wave := 0, src := .slotA, node := some m, kind := kind, va := va, ipa := ipa }
    (needBits .write kind false)
  setNode s m { x with hold := .s2 tok }

/-- Starts a candidate in slots (R391). A node whose batch meets a stage-2 fault waits for the host (R233). -/
def startCand (s : State) (wing : Nat) (c : Cand) (slots : List Nat) : State :=
  match c.start with
  | .launch l =>
    let x := levelAt s l
    let args := if c.build.isSome then c.info.args else argsCap c.info.args
    let (s, n) := putUnit s wing { info := c.info, level := l, unitId := x.next, args := args, build := c.build, die := c.die } slots
    bootUnit (setLevel s l { levelAt s l with next := x.next + 1 }) n
  | .node m =>
    let x := nodeAt s m
    let g := wingAt s wing
    let recs := x.bin.take x.count
    let rest := x.bin.drop x.count
    let va := batchAt x
    match devSegs s g va (256 * recs.length) true x.hold with
    | .error (.s2 a ipa kind) => nodeMiss s m a ipa kind
    | _ =>
      let args := mkCap va (va + 256 * recs.length) va (2 ^ pLD + 2 ^ pLDC + 2 ^ pGLOBAL) 0 g.world
      let (s, n) := putUnit s wing { info := x.info, level := x.graph, node := some m, args := args, batch := recs.length, die := c.die } slots
      let s := (recs.zipIdx).foldl (fun s e => putRecord s g (va + 256 * e.2) e.1) s
      let closed := match (levelAt s x.graph).body with | .graph _ cl => cl | _ => false
      bootUnit (setNode s m { x with bin := rest, started := x.started + 1, due := closed && !rest.isEmpty, hold := .none }) n

/-- UNIT_START (R391): the next unit of a running wing that fits starts; the move may name its slots. -/
def execUnitStart (wing : Nat) (slots : List Nat) (s : State) : Out :=
  let g := wingAt s wing
  if !g.used || g.run != .running then .next s
  else match nextStart s wing with
    | none => .next s
    | some c => match chosenPlace s wing c slots with
      | none => .next s
      | some p => .next (startCand s wing c p)

-- Ending.

/-- An access does not keep an ending unit: an exchange (R341), or a drain whose rows have all been stored. -/
def endsWith (a : Access) : Bool :=
  match a.kind with
  | .gate _ => true
  | .drain _ [] => true
  | _ => false

/-- Every wave, tether and sequencer of a unit has ended and every counter is zero (R36); of a unit that was ended, the
writes already issued have completed (R39). -/
def unitQuiet (s : State) (u : Unit) : Bool :=
  let ws := u.waves.map (waveAt s)
  match u.ending with
  | some _ => ws.all fun w => w.accs.all endsWith
  | none => u.boot.isNone && ws.all fun w => waveEnded w && !w.seqC.running && !w.seqM.running && !w.seqG.running && w.accs.isEmpty

/-- The storage of a unit goes back (R36, R274, R283): claims, the accumulator ownership in every alcove of its wing, wave slots,
scratch window. -/
def freeUnit (s : State) (n : Nat) : State :=
  let u := unitAt s n
  let s := u.waves.foldl releaseAll s
  let s := ((wingAt s u.wing).alcs).foldl (fun s a =>
    let x := alcAt s a
    if x.mat.accown == u.ctxid && u.ctxid != 0 then
      setAlc s a { x with mat := { resetTail x.mat with live := 0, accown := 0 } } else s) s
  let s := dropClaims s u.waves
  { s with waves := u.waves.foldl tdel s.waves, units := tdel s.units n,
           tokens := s.tokens.filter fun t => deviceToken t || (t.unit != some n && !u.waves.contains t.wave) }

/-- A unit retires (R36): it counts once at its level; a failure fails the level. -/
def retireUnit (s : State) (n : Nat) : State :=
  let u := unitAt s n
  let s := if u.ending.isSome then gateUnitEnded s u.waves else s
  let s := freeUnit s n
  let l := levelAt s u.level
  let bad := u.ending == some .failed
  let l' := { l with retired := l.retired + 1, failed := l.failed || bad, detail := if bad && !l.failed then u.firstCause else l.detail }
  let s := if u.level = 0 then s else setLevel s u.level l'
  if u.build.isSome && (bad || u.ending == some .cancelled) then stopLevel s u.level false else s

/-- UNIT_RETIREMENT (R36, R39, R313). -/
def execUnitRetirement (n : Nat) (s : State) : Out :=
  let u := unitAt s n
  if u.used && (wingAt s u.wing).run != .swapped && u.ending != some .relaunch && unitQuiet s u then .next (retireUnit s n)
  else .next s

/-- UNIT_RELAUNCH (R285): a halted idempotent unit starts again from its record, with a new context number. -/
def execUnitRelaunch (n : Nat) (slots : List Nat) (s : State) : Out :=
  let u := unitAt s n
  if !(u.used && u.ending == some .relaunch && (wingAt s u.wing).run == .running && unitQuiet s u) then .next s
  else if u.level = 0 then .next (retireUnit (setUnit s n { u with ending := some .failed }) n)
  else
    let i := unitInfo s u
    let t := freeUnit (gateUnitEnded s u.waves) n
    let c : Cand := { start := .launch u.level, info := i, build := u.build, die := u.die }
    match chosenPlace t u.wing c slots with
    | none => .next s
    | some p =>
      let (t, m) := putUnit t u.wing
        { info := i, level := u.level, node := u.node, unitId := u.unitId, args := u.args, batch := u.batch, build := u.build, die := u.die } p
      .next (bootUnit t m)

/-- Ends a unit after an uncorrectable error: it is relaunched where its record is idempotent, else it fails (R285). -/
def faultUnit (s : State) (n : Nat) : State :=
  let u := unitAt s n
  if u.used then endUnit s n (if u.idem then .relaunch else .failed) 0 else s

/-- MATRIX_UNCORRECTABLE_ERROR (R285): the matrix unit of an alcove reads an error for an instruction of wave `k`. -/
def execMatrixUncorrectableError (alc k : Nat) (inCabinet : Bool) (s : State) : Out :=
  let a := alcAt s alc
  match a.wing with
  | none => .next s
  | some wing =>
    if (wingAt s wing).run == .swapped then .next s
    else
      let claimers := a.mat.claims.map fun e => (waveAt s e.2).unit
      let owners := s.units.filterMap fun e => if e.2.used && e.2.wing == wing && e.2.ctxid == a.mat.accown && a.mat.accown != 0 then some e.1 else none
      let reader := if alcOf k = alc ∧ (waveAt s k).used then [(waveAt s k).unit] else []
      let s := ((claimers ++ owners ++ reader).eraseDups).foldl faultUnit s
      let m := (alcAt s alc).mat
      let m := { resetTail m with slots := [], tiles := [], claims := [], live := 0, accown := 0,
                                  cabinet := if inCabinet then [] else m.cabinet }
      .next (uncorrTrigger (setAlc s alc { alcAt s alc with mat := grantClaims m }) wing)

/-- REGISTER_UNCORRECTABLE_ERROR (R316): the wave's slot is rewritten with zeros. -/
def execRegisterUncorrectableError (k : Nat) (s : State) : Out :=
  let w := waveAt s k
  if !w.used then .next s
  else
    let wing := wingNoOf s k
    let s := faultUnit s w.unit
    let w := waveAt s k
    .next (uncorrTrigger (setWave s k { w with a := {}, b := {}, live := 0, jr := 0, divd := 0, regs := {}, frame := none, bank := {}, errs := [],
                                               trapCause := 0, trapPc := 0, trapAddr := 0, trapLanes := 0, trapPix := 0, skid := 0 }) wing)

-- Levels, phases, nodes and builds.

/-- A level is that of a recipe build. -/
def isBuild (l : Level) : Bool := match l.body with | .launch _ _ (some _) => true | _ => false

/-- LEVEL_COMPLETION (R37, R38, R389). -/
def execLevelCompletion (slot : Nat) (s : State) : Out :=
  if levelDone s slot && !isBuild (levelAt s slot) then .next (completeLevel s slot) else .next s

/-- PHASE_START (R392, R393). -/
def execPhaseStart (job : Nat) (s : State) : Out :=
  if phaseReady s job && (levelAt s job).running == 0 then .next (startPhase s job) else .next s

/-- NODE_TIMER_EXPIRY (R40). -/
def execNodeTimerExpiry (n : Nat) (s : State) : Out :=
  let x := nodeAt s n
  if x.used && x.timer != 0 && !x.bin.isEmpty then .next (setNode s n { x with due := true }) else .next s

/-- AGING_THRESHOLD (R394): the wave has been READY for 65,536 cycles without issuing a run. -/
def execAgingThreshold (k : Nat) (s : State) : Out :=
  let w := waveAt s k
  if w.used && (w.a.st == .ready || w.b.st == .ready) then .next (setWave s k { w with aged := true }) else .next s

/-- RECIPE_BUILD_COMPLETE (R370): every unit of a build has retired. -/
def execRecipeBuildComplete (wing id : Nat) (s : State) : Out :=
  let r := recipeAt (wingAt s wing) id
  let l := levelAt s r.level
  if r.used && r.st == .building && r.level != 0 && !l.failed && !l.cancelled && l.retired == l.size then
    let s := setLevel s r.level { l with used := false }
    .next (bootWaiters (buildDone s wing id))
  else .next s

/-- RECIPE_BUILD_FAILURE (R372): a unit of a build has retired as failed or cancelled, and none runs. -/
def execRecipeBuildFailure (wing id : Nat) (s : State) : Out :=
  let r := recipeAt (wingAt s wing) id
  let l := levelAt s r.level
  if r.used && r.st == .building && r.level != 0 && (l.failed || l.cancelled) && (unitsOf s r.level).isEmpty
      && !savedUnits s r.level then
    let s := setLevel s r.level { l with used := false }
    .next (bootWaiters (tendBuilds (buildFailed s wing 65536 id) wing))
  else .next s

end Sys2Proof.Machine
end

