-- ==== Sys2Proof/Machine/Wings.lean ====
section
/-! DEFINITION. A wing as a whole: pre-emption, context swap, save and restore (R317-R320, R413), wing reset (R321, R322),
destruction (R406), and the answers to TOKENs (R234, R235). -/
namespace Sys2Proof.Machine

/-- The live units of a wing, by number. -/
def wingUnits (s : State) (wing : Nat) : List Nat := (s.units.filter fun e => e.2.used && e.2.wing == wing).map (·.1)
/-- The wave slots of a wing that are in use. -/
def wingWaves (s : State) (wing : Nat) : List Nat :=
  (s.waves.filter fun e => e.2.used && wingNoOf s e.1 == wing).map (·.1)

-- Pre-emption.

/-- A wave still issues within its skid. -/
def skidding (w : Wave) : Bool := match w.stop with | .skidding _ => true | _ => false

/-- A halting wave stops: waits with no effect yet are left unissued (R306). -/
def stopNowWave (s : State) (k : Nat) : State :=
  let w := waveAt s k
  if w.used && skidding w then setWave s k { mapSeqs (haltHolds w) stopSeqNow with stop := .stopped } else s
where
  /-- A sequencer in its skid stops; it keeps what a restore must know of it (R317). -/
  stopSeqNow (q : Seq) : Seq := if q.stop = .running then q else { q with stop := .stopped }

/-- A wave that a pre-emption reaches stops within its skid, a running handler too, and its sequencers (R317, R306). -/
def stopWave (w : Wave) : Wave :=
  let w := mapSeqs w (haltSeq true)
  match w.stop with
  | .running => { w with stop := .skidding 0, skid := 0, pre := true }
  | _ => w

/-- The device halts every unit of a wing, with no handler entered (R317 step 1). -/
def stopWing (s : State) (wing : Nat) : State :=
  let ks := wingWaves s wing
  setWing (dropClaims (mapWaves s (fun _ => stopWave) ks) ks) wing { wingAt s wing with run := .stopping }

/-- Every alcove of a stopping wing has stopped issuing: no skid is left (R317, R320). -/
def wingStopped (s : State) (wing : Nat) : Bool :=
  (wingWaves s wing).all fun k => let w := waveAt s k; !skidding w || waveEnded w

/-- A wave after a restore (R317, R318): what the pre-emption stopped goes on; what a halt had stopped stays so. -/
def goesOn (w : Wave) : Wave :=
  let w := mapSeqs w fun q => if q.pre then { q with stop := .running, pre := false, snap := cutSnap q.hold q.snap } else q
  if w.pre then resumeWave w else w

/-- The windows of a wing's units take page frames anew (R200, R198). -/
def placeWindows (s : State) (wing : Nat) : State :=
  let us := wingUnits s wing
  let s := us.foldl (fun s n => setUnit s n { unitAt s n with frames := [] }) s
  us.foldl (fun s n => setUnit s n (withFrames s (unitAt s n))) s

/-- The waves of a wing resume after a restore (R318, R320); last-page registers start anew (R230). -/
def resumeWing (s : State) (wing : Nat) : State :=
  let s := mapWaves s (fun _ w => goesOn { w with lastPages := [] }) (wingWaves s wing)
  let s := { s with tlb := s.tlb.filter fun e => e.wing != wing }
  placeWindows (setWing s wing { wingAt s wing with run := .running }) wing

/-- CONTEXT_SWAP (R317 steps 2 and 3): a stopped wing's alcoves exchange their contexts with their shadow arrays; the backing copy
of the Catalogue holds the records as they are (R364). -/
def swapWing (s : State) (wing : Nat) : State :=
  let s := backRecords s wing
  setWing (shadowOut s wing) wing { wingAt s wing with run := .swapped }

/-- A running wing pauses and goes on (R19): a pre-emption whose skid ends at once, and its restore. -/
def pauseWing (s : State) (wing : Nat) : State :=
  if (wingAt s wing).run != .running then s
  else resumeWing ((wingWaves s wing).foldl stopNowWave (stopWing s wing)) wing

-- TOKENs (R234, R235).

/-- The association with a number. -/
def assocAt (s : State) (n : Nat) : Assoc := tget {} s.assocs n
/-- The state with an association put. -/
def setAssoc (s : State) (n : Nat) (a : Assoc) : State := { s with assocs := tput s.assocs n a }

/-- What an answer puts in place of a hold on a TOKEN. -/
def answerHold (tok : Nat) (h' : Hold) : Hold → Hold
  | .s2 t => if t = tok then h' else .s2 t
  | .refill t => if t = tok then h' else .refill t
  | .fetch h => .fetch (answerHold tok h' h)
  | h => h

/-- The hold that an answer leaves (R234, R235): a retry walks again from the stage that faulted. -/
def answeredHold (t : TokenWait) : Answer → Hold
  | .retry => if t.leaf = 0 then .busy else .s2again t.va t.ipa t.leaf t.sh
  | .fail => .s2failed t.kind t.lanes t.va
  | .refuse => .refused

/-- The answer to a TOKEN reaches who waits for it (R234, R235); that of a saved context is kept with it. -/
def answerToken (s : State) (tok : Nat) (a : Answer) : State :=
  match s.tokens.find? fun t => t.tok == tok with
  | none => { s with images := s.images.map fun im =>
      if im.tokens.any (fun t => t.tok == tok) then { im with answers := im.answers ++ [(tok, a)] } else im }
  | some t =>
    let h := answeredHold t a
    let s := { s with tokens := s.tokens.filter fun q => q.tok != tok }
    if t.sweep then
      let f (q : SweepReq) : SweepReq := { q with hold := answerHold tok h q.hold }
      { s with sweep := s.sweep.map f, sweepQ := s.sweepQ.map f }
    else match t.node with
    | some n => setNode s n { nodeAt s n with hold := answerHold tok h (nodeAt s n).hold }
    | none => match t.host, t.level, t.unit with
    | some (a, k), _, _ =>
      let x := assocAt s a
      setAssoc s a { x with pending := x.pending.map fun r => if r.token == k then { r with hold := h } else r }
    | none, some l, _ => setLevel s l { levelAt s l with hold := answerHold tok h (levelAt s l).hold }
    | none, none, some n =>
      if (unitAt s n).used then
        onContext s (unitAt s n).wing fun s => bootUnit (setUnit s n { unitAt s n with boot := some h }) n
      else s
    | none, none, none =>
      onWave s t.wave fun s => setWave s t.wave (mapHolds (waveAt s t.wave) (answerHold tok h))

-- Operations at the gate (R342).

/-- Maps the operations at the gate, which keep their places on their channels. -/
def mapGateOps (s : State) (f : GateOp → GateOp) : State :=
  { s with bindings := s.bindings.map fun b => (b.1, { b.2 with channels := b.2.channels.map fun c =>
      (c.1, { c.2 with wait0 := c.2.wait0.map f, wait1 := c.2.wait1.map f,
                       paired := c.2.paired.map fun e => { e with op0 := f e.op0, op1 := f e.op1 } }) }) }

/-- The outstanding operations of a list of waves are saved with their context; the gate keeps them for the image (R342). -/
def saveGateOps (s : State) (ks : List Nat) (no : Nat) : State :=
  mapGateOps s fun o => if o.img.isNone && ks.contains o.wave then { o with img := some no } else o

/-- The operations of an image are those of the waves that a restore brings it to. -/
def loadGateOps (s : State) (f : Nat → Nat) (no : Nat) : State :=
  mapGateOps s fun o => if o.img = some no then { o with wave := f o.wave, img := none } else o

-- Images (R319, R413).

/-- The shape table of a wing: its alcoves on each core it touches, ascending (R319). -/
def shapeOf (g : Wing) : List Nat := (wingCores g).map fun c => (coreAlcs g c).length

/-- The check of a restore (R319): a status, 0 where it may go on. -/
def restoreStatus (s : State) (wing : Nat) (im : CtxImage) (intact : Bool) : Nat :=
  let g := wingAt s wing
  if !intact then 0x04
  else if im.world ≠ g.world then 0x05
  else if im.shape ≠ shapeOf g ∨ im.party ≠ g.party ∨ im.banks ≠ (worldAt s g.world).banks then 0x01
  else if g.alcs.any (fun a => (alcAt s a).shadow.isSome) then 0x02
  else if g.run = .stopping ∨ !(wingWaves s wing).isEmpty ∨ !(wingUnits s wing).isEmpty then 0x03
  else 0

/-- The wave slot of a target wing that takes the place of one of the source's. -/
def remap (home alcs : List Nat) (k : Nat) : Nat :=
  match home.findIdx? (· == k / 16) with
  | some i => nth 0 alcs i * 16 + k % 16
  | none => k

/-- A wave with the wave slots it names renumbered. -/
def remapWave (f : Nat → Nat) (w : Wave) : Wave := { w with owner := f w.owner, tethSlot := w.tethSlot.map f }
/-- A matrix unit with its claims renumbered. -/
def remapMatrix (f : Nat → Nat) (m : Matrix) : Matrix :=
  { m with claims := m.claims.map fun e => (e.1, f e.2), waiting := m.waiting.map fun e => (f e.1, e.2) }

/-- The Catalogue as a migration brings it (R375): a PRESENT record that neither a pin nor a running build holds arrives
ABSENT. -/
def carriedRecipes (t : Table Recipe) : Table Recipe :=
  t.map fun e => (e.1, if droppable e.2 then { e.2 with st := .absent } else e.2)

/-- The Catalogue as it comes from another device: the counters of its builds stayed there, so that they are queued anew and hold
nothing yet. DESIGN CHOICE (log 15). -/
def foreignRecipes (t : Table Recipe) : Table Recipe :=
  carriedRecipes (t.map fun e => (e.1, { e.2 with level := 0, held := 0 }))

/-- An access as a migration brings it: what has not performed is located anew before it performs (R205, R229). -/
def carriedAcc (a : Access) : Access := { a with stale := !a.performed && !(kindLocs a.kind).isEmpty }

/-- The wave of an image in its new place. -/
def carriedWave (f : Nat → Nat) (w : Wave) : Wave :=
  let w := remapWave f w
  { w with accs := w.accs.map carriedAcc }

/-- A restore brings a context back to the wing that it left. -/
def sameWing (s : State) (wing : Nat) (im : CtxImage) : Bool := wing = im.wing && (wingAt s wing).gen = im.gen

/-- What the wing that an image left keeps of it once another wing has it: no scan is under way and no build runs there. -/
def leaveWing (s : State) (wing : Nat) : State :=
  let s := (wingAt s wing).scans.foldl (fun s q => endScan s wing (some q) false) s
  let g := wingAt s wing
  setWing s wing { g with recipes := g.recipes.map fun e =>
    (e.1, { e.2 with held := 0, level := 0, st := if e.2.st == .building then .absent else e.2.st }) }

/-- The Catalogue that a restore brings into another wing (R375), with the launches of the builds that run. -/
def loadWing (s : State) (wing : Nat) (im : CtxImage) : State :=
  if sameWing s wing im then s
  else
    let s := if (wingAt s im.wing).used && (wingAt s im.wing).gen = im.gen then leaveWing s im.wing else s
    let s := im.recipes.foldl (fun s e =>
      if e.2.st == .building && e.2.level != 0 then setLevel s e.2.level { levelAt s e.2.level with wing := wing } else s) s
    backRecords (setWing s wing { wingAt s wing with recipes := carriedRecipes im.recipes }) wing

/-- Loads an image into a wing (R319): contexts, units, TOKENs, Catalogue, and the host's answers that came meanwhile (R234). -/
def loadImage (s : State) (wing : Nat) (im : CtxImage) : State :=
  let alcs := (wingAt s wing).alcs
  let f := remap im.home alcs
  let s := (alcs.zip im.ctxs).foldl (fun s e =>
    putCtx s e.1 { waves := e.2.waves.map (carriedWave f), mat := remapMatrix f e.2.mat }) s
  let s := im.units.foldl (fun s e =>
    let s := if (levelAt s e.2.level).used && (levelAt s e.2.level).wing == im.wing then
        setLevel s e.2.level { levelAt s e.2.level with wing := wing } else s
    setUnit s e.1 { e.2 with wing := wing, waves := e.2.waves.map f, held := e.2.held.map (fun h => (f h.1, h.2)),
                             heldHandlers := e.2.heldHandlers.map f }) s
  let s := { s with tokens := s.tokens ++ im.tokens.map fun t => { t with wave := f t.wave } }
  let s := loadWing (loadGateOps s f im.no) wing im
  let s := { s with images := s.images.map fun q => if q.no = im.no then { q with spent := true } else q }
  im.answers.foldl (fun s e => answerToken s e.1 e.2) s

/-- The bank sets have frames for the windows of units that come back to a wing (R198, R200). -/
def roomFor (s : State) (wing : Nat) (us : List Unit) (f : Nat → Nat) : Bool :=
  let g := wingAt s wing
  (wingCores g).all fun c =>
    let need := us.foldl (fun n u => if coreOf (alcOf (f (u.waves.headD 0))) = c then n + u.scrSize / 4096 else n) 0
    decide (need ≤ (bankFrames s g.world c).length)

/-- A restore has room for the windows that come back; where it has none it waits. DESIGN CHOICE: no status is stated (log 41). -/
def restoreRoom (s : State) (wing image : Nat) : Bool :=
  if image = 0 then roomFor s wing ((wingUnits s wing).map (unitAt s)) id
  else match s.images[image - 1]? with
    | none => true
    | some im => roomFor s wing (im.units.map (·.2)) (remap im.home (wingAt s wing).alcs)

/-- A wave of an image that comes from another device, or a second time: its TOKENs mean nothing here, so what waits for the
host asks again (R233); so does what waits at a gate. DESIGN CHOICE: a split open that waits at a gate comes as one that was
aborted (log 15). -/
def foreignWave (unitNo : Nat → Nat) (w : Wave) : Wave :=
  let w := mapHolds { w with unit := unitNo w.unit } fun h => match h with
    | .s2 _ => .busy
    | .refill _ => .busy
    | .fetch _ => .none
    | .gate => .none
    | h => h
  dropGateAccs { w with pending := w.pending.map fun p => if p.stage == .atGate then { p with stage := .aborted 0x01 0 } else p }

/-- An image whose units take numbers of this device and count at no level of it: one of another device, whose level counters,
nodes and gate operations stayed behind, or one that a restore has used already. The units of its builds are gone, as the
builds are queued anew. DESIGN CHOICE (log 15). -/
def freshImage (s : State) (im : CtxImage) : State × CtxImage :=
  let kept := im.units.filter fun e => e.2.build.isNone
  let ns := kept.map (·.1)
  let f (n : Nat) : Nat := s.nextUnit + (ns.findIdx? (· == n)).getD ns.length
  let wave (w : Wave) : Wave := if w.used && ns.contains w.unit then foreignWave f w else {}
  let ctx (c : AlcContext) : AlcContext :=
    let stays (k : Nat) : Bool := ns.contains (nth ({} : Wave) c.waves (k % 16)).unit
    { waves := c.waves.map wave, mat := { c.mat with claims := c.mat.claims.filter fun q => stays q.2 } }
  ({ s with nextUnit := s.nextUnit + ns.length + 1 },
   { im with ctxs := im.ctxs.map ctx, units := kept.map fun e => (f e.1, { e.2 with level := 0, node := none }),
             recipes := foreignRecipes im.recipes, tokens := [], answers := [] })

/-- RESTORE_WING (R317, R319): from an image, or, where none is named, back from the shadow arrays. -/
def restoreWing (s : State) (wing : Nat) (image : Nat) (intact : Bool) : State × Nat :=
  if image = 0 then
    if (wingAt s wing).run == .swapped && inShadow s wing then (resumeWing (shadowIn s wing) wing, 0) else (s, 0x03)
  else match s.images[image - 1]? with
    | none => (s, 0x04)
    | some im =>
      let st := restoreStatus s wing im intact
      let r := if im.spent then freshImage s im else (s, im)
      if st = 0 then (tendBuilds (resumeWing (loadImage r.1 wing r.2) wing) wing, 0) else (s, st)

/-- SAVE_OUT (R413): the contexts in the shadow arrays become an image and the arrays stand empty; the backing copy of the
Catalogue holds the records as they are (R364). -/
def saveOut (s : State) (wing : Nat) : State × Nat :=
  let s := backRecords s wing
  let g := wingAt s wing
  let home := g.alcs
  let mine (t : TokenWait) : Bool := !deviceToken t && home.contains (alcOf t.wave)
  let us := wingUnits s wing
  let ctxs := home.map fun a => match (alcAt s a).shadow with | some (_, c) => c | none => {}
  let im : CtxImage :=
    { no := s.images.length + 1, wing := wing, gen := g.gen, world := g.world, prot := (worldAt s g.world).prot, party := g.party,
      banks := (worldAt s g.world).banks, shape := shapeOf g, home := home, ctxs := ctxs, units := us.map fun u => (u, unitAt s u),
      tokens := s.tokens.filter mine, recipes := g.recipes }
  let s := saveGateOps s (home.flatMap fun a => (List.range 16).map (a * 16 + ·)) im.no
  let s := home.foldl (fun s a => setAlc s a { alcAt s a with shadow := none }) s
  let s := { s with units := us.foldl tdel s.units, images := s.images ++ [im], tokens := s.tokens.filter fun t => !mine t }
  (s, s.images.length)

-- The image as bytes (R413), and images of other devices.

/-- The header of an image with a check code, and the shape table, padded up to the first alcove context (R413). -/
def imageHead (im : CtxImage) (len code : Nat) : List Byte :=
  let g := im.shape.length
  let off := alignUp (64 + g) 64
  natLe 4 (im.world % 16 + (if im.prot then 16 else 0) + (if im.party then 32 else 0))
    ++ natLe 4 (im.home.length + im.banks * 2 ^ 16 + g * 2 ^ 24) ++ natLe 8 len ++ natLe 8 off ++ List.replicate 32 0 ++ natLe 8 code
    ++ im.shape.map (BitVec.ofNat 8) ++ List.replicate (off - 64 - g) 0

/-- The bytes of an image: the header with its check code over the whole image, the shape table, and the alcove contexts, whose
encoding the spec does not give (log 15). -/
def imageBytes (im : CtxImage) : List Byte :=
  let ctxs := Config.contextBytes im.no
  let len := alignUp (64 + im.shape.length) 64 + ctxs.length
  imageHead im len (crc64 (imageHead im len 0 ++ ctxs)) ++ ctxs

/-- A context image of another device (R319, R413). The world key that comes with it is the world's key (R410). -/
def bringImage (s : State) (im : CtxImage) (key : Option (BitVec 512)) : State :=
  let r := freshImage s { im with no := s.images.length + 1, gen := 0, spent := false }
  let s := { r.1 with images := s.images ++ [r.2] }
  match key, tlook s.worlds im.world with
  | some k, some d => if d.prot then { s with worlds := tput s.worlds im.world { d with key := some k } } else s
  | _, _ => s

-- Reset and destruction.

/-- Completes the levels of a wing that may complete, children before parents. -/
def completeAll (s : State) (wing : Nat) : Nat → State
  | 0 => s
  | n + 1 =>
    let ready := s.levels.filter fun e => e.2.used && e.2.wing == wing && levelDone s e.1
    completeAll (ready.foldl (fun s e =>
      if isBuild e.2 then setLevel s e.1 { levelAt s e.1 with used := false } else completeLevel s e.1) s) wing n

/-- The units that saved images of a wing hold count at no level any more; those that a destruction cancels have counted there
(R406, R395). -/
def dropSaved (s : State) (wing : Nat) (count : Bool) : State :=
  let mine (im : CtxImage) : Bool := !im.spent && im.wing == wing && im.gen == (wingAt s wing).gen
  let ls := (s.images.filter mine).flatMap fun im => im.units.map (·.2.level)
  let s := if count then ls.foldl (fun s l => if l = 0 then s else setLevel s l { levelAt s l with retired := (levelAt s l).retired + 1 }) s else s
  { s with images := s.images.map fun im => if mine im then
      { im with units := im.units.map fun u => (u.1, { u.2 with level := 0, node := none, build := none }) } else im }

/-- Every level of a wing ends (R322 step 3, R406 step 1): as reset, or as cancelled. -/
def endLevels (s : State) (wing : Nat) (reset : Bool) : State :=
  (s.levels.filter fun e => e.2.used && e.2.wing == wing).foldl (fun s e => stopLevel s e.1 reset) s

/-- A wing's storage becomes zero (R322 step 4, R406 step 3). -/
def zeroWing (s : State) (wing : Nat) : State :=
  let g := wingAt s wing
  let ks := (s.waves.filter fun e => g.alcs.contains (alcOf e.1)).map (·.1)
  let us := wingUnits s wing
  let s := { s with waves := ks.foldl tdel s.waves, units := us.foldl tdel s.units,
                    tokens := s.tokens.filter fun t => deviceToken t || !g.alcs.contains (alcOf t.wave) }
  g.alcs.foldl (fun s a =>
    let x := alcAt s a
    setAlc s a { x with mat := {}, forkQ := [], shadow := none }) s

/-- A wing's builds are discarded (R372): no tile is held or pinned. -/
def clearBuilds (s : State) (wing : Nat) : State :=
  let g := wingAt s wing
  setWing s wing { g with recipes := g.recipes.map fun e => (e.1, { e.2 with st := .absent, pins := 0, held := 0, level := 0 }) }

/-- The non-posted requests of an association that name a wing. -/
def reqsOf (s : State) (wing : Nat) : List (Nat × HostReq) :=
  s.assocs.flatMap fun e => (e.2.pending.filter fun r => r.wing == wing).map fun r => (e.1, r)

/-- An association with a request taken off, and the keys that no request needs dropped (R422). -/
def dropReq (a : Assoc) (token : BitVec 32) : Assoc :=
  let p := a.pending.filter fun r => r.token != token
  { a with pending := p, gens := a.gens.take 1 ++ (a.gens.drop 1).filter fun g => p.any fun r => r.kgen == g }

/-- The completion of an opcode carries a word of 8 bytes (R419): the number of what was made, or a status word. -/
def wordOp (op : Nat) : Bool := [0x02, 0x10, 0x14, 0x15, 0x16, 0x18, 0x25, 0x30, 0x33].contains op

/-- LEN of a completion (R418). DESIGN CHOICE: its word counts 8 bytes (log 15). -/
def replyLen (op : Nat) (bytes : List Byte) : Nat := bytes.length + if wordOp op then 8 else 0

/-- Completes an outstanding request under its own key (R422). -/
def completeReq (s : State) (assoc : Nat) (r : HostReq) (status val : Nat) : State :=
  let s := emit s (.completion { assoc := assoc, len := replyLen r.op [], token := r.token, kgen := r.kgen, status := status,
                                 op := r.op, wing := BitVec.ofNat 8 r.wing } val [])
  setAssoc s assoc (dropReq (assocAt s assoc) r.token)

/-- The outstanding host requests of a wing are answered with an error completion (R322 step 2). -/
def failReqs (s : State) (wing : Nat) : State :=
  let s := { s with tokens := s.tokens.filter fun t => match t.host with
    | some (a, k) => !((reqsOf s wing).any fun e => e.1 == a && e.2.token == k)
    | none => true }
  (reqsOf s wing).foldl (fun s e => completeReq s e.1 e.2 0x05 0) s

/-- What a reset and a destruction share (R322 steps 1 to 4). The units that a destruction cancels retire, and count, before their
levels complete (R406, R395). -/
def haltWholeWing (s : State) (wing : Nat) (reset : Bool) : State :=
  let s := shadowIn s wing
  let s := (wingAt s wing).scans.foldl (fun s q => endScan s wing (some q) false) s
  let s := gateWingReset s wing (wingWaves s wing)
  let s := failReqs s wing
  let s := endLevels s wing reset
  let s := if reset then s else (wingUnits s wing).foldl retireUnit s
  let s := clearBuilds (zeroWing (dropSaved s wing (!reset)) wing) wing
  let s := completeAll s wing 4
  setWing s wing { wingAt s wing with run := if reset then .running else .ending }

/-- A wing reset with the trigger that the record names (R321, R322). -/
def resetWing (s : State) (wing trigger : Nat) : State :=
  if !(wingAt s wing).used || (wingAt s wing).run == .ending then s
  else
    let s := haltWholeWing s wing true
    let s := if (wingAt s wing).armed.reset then capTrigger s [] else s
    emit s (.wingReset wing trigger)

/-- The worlds from 1 to 15 that have a wing. -/
def liveWorlds (s : State) : List Nat := ((s.wings.filter fun e => e.2.used).map (·.2.world)).eraseDups

/-- A wing that is being destroyed has no level whose signal word is still to be written (R406). -/
def wingEnds (s : State) (wing : Nat) : Bool :=
  (wingAt s wing).run == .ending && !s.levels.any fun e => e.2.used && e.2.wing == wing

/-- The last steps of a destruction (R406): the wing's alcoves and bank groups are free. -/
def endWing (s : State) (wing : Nat) : State :=
  let g := wingAt s wing
  let s := g.alcs.foldl (fun s a => setAlc s a { alcAt s a with wing := none }) s
  let s := unlockPages s wing g.lockedIpa
  let s := setWing s wing {}
  let left (core : Nat) : Bool := s.wings.any fun e => e.2.used && e.2.world == g.world && !(coreAlcs e.2 core).isEmpty
  let s := (wingCores g).foldl (fun s c => if left c then s else { s with banks := tdel s.banks (c * 16 + g.world) }) s
  let s := { s with tlb := s.tlb.filter fun e => e.wing != wing }
  if (liveWorlds s).contains g.world then s else { s with worlds := tdel s.worlds g.world }

/-- WING_DESTROY (R406). A signal word that meets a stage-2 fault waits for the host, and the last steps wait for it. -/
def destroyWing (s : State) (wing : Nat) : State :=
  let s := haltWholeWing s wing false
  if wingEnds s wing then endWing s wing else s

/-- The destructions whose last signal word has been written end, with their commands. -/
def endWings (s : State) : State :=
  (s.wings.map (·.1)).foldl (fun s g =>
    if wingEnds s g then
      let rs := (reqsOf s g).filter fun e => e.2.op == 0x11
      rs.foldl (fun s e => completeReq s e.1 e.2 0 0) (endWing s g)
    else s) s

-- Device events of a wing.

/-- CONTEXT_SWAP (R317). The pre-empt commands of the wing complete. -/
def execContextSwap (wing : Nat) (s : State) : Out :=
  if (wingAt s wing).run == .stopping && wingStopped s wing && (alcsFree s wing) then
    .next (((reqsOf s wing).filter fun e => e.2.op == 0x1B).foldl (fun s e => completeReq s e.1 e.2 0 0) (swapWing s wing))
  else .next s
where
  /-- Every shadow array of the wing stands empty. -/
  alcsFree (s : State) (wing : Nat) : Bool := (wingAt s wing).alcs.all fun a => (alcAt s a).shadow.isNone

/-- STOP_TIMEOUT (R321): a halt or a pre-emption stop has not completed within 20 µs. -/
def execStopTimeout (wing : Nat) (s : State) : Out :=
  let late := (wingAt s wing).run == .stopping
    || (wingWaves s wing).any fun k => skidding (waveAt s k)
  if (wingAt s wing).used && late then .next (resetWing s wing 1) else .next s

/-- SHADOW_OR_HUB_ERROR (R321). -/
def execShadowOrHubError (wing : Nat) (s : State) : Out :=
  if (wingAt s wing).used then .next (uncorrTrigger (resetWing s wing 2) wing) else .next s

end Sys2Proof.Machine
end

