-- ==== Sys2Proof/Machine/HostLink.lean ====
section
/-! DEFINITION. The host link (R416-R422): how a message is taken and answered, host capabilities (R420), host memory
operations (R421), posts (R387, R390) and the packets that are dropped. -/
namespace Sys2Proof.Machine

-- Arrival and answers.

/-- An opcode is posted: it has no completion (R419). -/
def posted (op : Nat) : Bool := op == 0x01 || op == 0x04

/-- Answers a message (R419): a completion, or for a posted opcode an error record. -/
def reply (s : State) (h : HostHdr) (op status val : Nat) (bytes : List Byte) : State :=
  if posted op then (if status = 0 then s else emit s (.postedError h.token status))
  else
    let s := emit s (.completion { assoc := h.assoc, len := replyLen op bytes, token := h.token, kgen := h.kgen, status := status,
                                   op := op, wing := h.wing } val bytes)
    setAssoc s h.assoc (dropReq (assocAt s h.assoc) h.token)

/-- Answers a message with a status alone. -/
def refuse (s : State) (h : HostHdr) (op status : Nat) : Out := .next (reply s h op status 0 [])

/-- The outstanding request that a message made when it first came. -/
def reqOf (s : State) (h : HostHdr) (op : Nat) : Option HostReq :=
  (assocAt s h.assoc).pending.find? fun r => r.token == h.token && r.op == op

/-- Records an outstanding request with what it waits for and what it has come to (R422). -/
def await (s : State) (h : HostHdr) (op arg : Nat) (hold : Hold) (got : Nat := 0) (part : List Byte := []) : State :=
  let a := assocAt s h.assoc
  let r : HostReq := { token := h.token, kgen := h.kgen, op := op, wing := h.wing.toNat, arg := arg, got := got, part := part, hold := hold }
  setAssoc s h.assoc { a with pending := (a.pending.filter fun q => !(q.token == h.token && q.op == op)) ++ [r] }

/-- A message arrives (R417, R422, R423): one without an association reaches nothing; one under a dead key generation is
dropped and counted; before bring-up has ended it is busy; a LEN above 65,536 is malformed (R418); on a host association only
opcodes 0x01 to 0x05 go on. -/
def takeMsg (s : State) (h : HostHdr) (op : Nat) (f : State → Out) : Out :=
  let a := assocAt s h.assoc
  if !a.used then .next s
  else if !a.gens.contains h.kgen then .next { s with droppedKey := s.droppedKey + 1 }
  else if !s.up then refuse s h op 0x02
  else if 65536 < h.len.toNat then refuse s h op 0x06
  else if !a.manage && !(decide (1 ≤ op) && decide (op ≤ 5)) then refuse s h op 0x03
  else f s

/-- A message with a payload of bytes, which LEN counts (R418). -/
def takeBytes (s : State) (h : HostHdr) (op : Nat) (bs : List Byte) (f : State → Out) : Out :=
  takeMsg s h op fun s => if h.len.toNat < bs.length then refuse s h op 0x06 else f s

/-- A wing that lives: one that is being destroyed takes no command (R406). -/
def wingLives (s : State) (wing : Nat) : Bool := (wingAt s wing).used && (wingAt s wing).run != .ending

/-- A message that names a live wing; where it is none, STATUS 0x03. -/
def takeForWing (s : State) (h : HostHdr) (op : Nat) (f : State → Nat → Out) : Out :=
  takeMsg s h op fun s => if wingLives s h.wing.toNat then f s h.wing.toNat else refuse s h op 0x03

/-- R419 assigns the opcode to no message. -/
def unassignedOp (op : Nat) : Bool := op == 0 || (decide (0x06 ≤ op) && decide (op ≤ 0x0F)) || decide (0x34 ≤ op)

/-- HOST_OPCODE_UNASSIGNED (R419). -/
def execHostOpcodeUnassigned (h : HostHdr) (op : BitVec 8) (s : State) : Out :=
  if unassignedOp op.toNat then takeMsg s h op.toNat fun s => refuse s h op.toNat 0x06 else .next s

/-- UNSUPPORTED_OPTION_PACKET (R416). -/
def execUnsupportedOptionPacket (_port : BitVec 4) (s : State) : Out := .next { s with droppedOption := s.droppedOption + 1 }

/-- DEAD_GENERATION_PACKET (R422). -/
def execDeadGenerationPacket (assoc : Nat) (kgen : BitVec 2) (s : State) : Out :=
  let a := assocAt s assoc
  if a.used && !a.gens.contains kgen then .next { s with droppedKey := s.droppedKey + 1 } else .next s

/-- KGEN_REQUEST_TIMEOUT (R422). -/
def execKgenRequestTimeout (assoc : Nat) (token : BitVec 32) (s : State) : Out :=
  match (assocAt s assoc).pending.find? fun r => r.token == token with
  | none => .next s
  | some r =>
    let s := { s with tokens := s.tokens.filter fun t => t.host != some (assoc, token) }
    .next (completeReq s assoc r 0x04 0)

-- Capabilities in messages (R420).

/-- The roots of a wing (R176): permissions with base and top; the code root as the supervisor holds it. -/
def roots (g : Wing) : List (Nat × Nat × Nat) :=
  [(supPerms, g.codeBase, g.codeBase + g.codeLen),
   (2 ^ pLD + 2 ^ pST + 2 ^ pLDC + 2 ^ pSTC + 2 ^ pGLOBAL + 2 ^ pRECIPE + 2 ^ pENQ, g.dataBase, g.dataBase + g.dataLen),
   (privPerms, g.privBase, g.privBase + g.privLen), (scrPerms, 0, g.scrMax),
   (2 ^ pSEAL + 2 ^ pUNSEAL + 2 ^ pGLOBAL, 0, 16)]

/-- A capability passes R177 against a root; no tagged one reaches above 2^57 (R170). -/
def fromRoot (c : Cap) (r : Nat × Nat × Nat) : Bool :=
  decide (capE c ≤ 42) && decide (capTop c ≤ (2 ^ 57 : Nat)) && decide ((r.2.1 : Int) ≤ capBase c) && decide (capTop c ≤ (r.2.2 : Nat)) && capPerms c &&& r.1 == capPerms c
    && (capHas c pSCRATCH == bit r.1 pSCRATCH)

/-- A capability passes against a root of its world in a live wing. DESIGN CHOICE: OTYPE 1 and 4 to 15 pass as their bounds and
PERMS do; OTYPE 2 and 3 the host makes by its graph and bind commands alone (R169, log 15). DESIGN CHOICE: reserved bits [91:88] that are
not zero refuse no image, since R420 tests bounds, PERMS and WORLD alone; they stay (log 57). -/
def rooted (s : State) (c : Cap) : Bool :=
  capOtype c != 2 && capOtype c != 3 && s.wings.any fun e => e.2.used && e.2.world == capWorld c && (roots e.2).any (fromRoot c)

/-- A sealed node capability that names a live node of its world, or the world's sweep node (R420, R184). -/
def liveNodeCap (s : State) (c : Cap) : Bool :=
  capOtype c == 2 && decide (capE c ≤ 42) && capPerms c == 2 ^ pENQ && capTop c == capBase c
    && decide (0 ≤ capBase c) && decide (capTop c ≤ (2 ^ 57 : Nat))
    && (if nodeNo c = sweepNode then (liveWorlds s).contains (capWorld c)
        else nodeLive s c && (wingAt s (levelAt s (nodeAt s (nodeNo c)).graph).wing).world == capWorld c)

/-- The device accepts a capability image of a message as tagged (R420). -/
def hostCap (s : State) (im : BitVec 128) : Option Cap :=
  let c : Cap := ⟨true, im⟩
  if rooted s c || liveNodeCap s c then some c else none

/-- A capability image, or none for 16 zero bytes. -/
def hostCapOr0 (s : State) (im : BitVec 128) : Option Cap := if im = 0 then some {} else hostCap s im

-- Host memory operations (R420, R421).

/-- What a host memory operation meets: locations, a STATUS, or a build to wait for. -/
inductive HostReach where
  | ok (segs : List (Loc × Nat)) | bad (status : Nat) | park (id : Nat)
  deriving DecidableEq, Repr

/-- A write to a protected world's frame is a migration write (R410, R413): whole lines, sealed as they were copied, from a
management association into a wing that has run nothing. DESIGN CHOICE: R413 does not say how they are told (log 15). -/
def migrating (s : State) (h : HostHdr) (va n : Nat) : Bool :=
  (assocAt s h.assoc).manage && va % 128 == 0 && n % 128 == 0
    && (wingUnits s h.wing.toNat).isEmpty && (wingWaves s h.wing.toNat).isEmpty

/-- What a piece of a host memory operation meets (R227, R407, R369, R66); `sealed_` says that it brings sealed lines. -/
def hostPiece (s : State) (g : Wing) (va n : Nat) (write sealed_ : Bool) : HostReach :=
  match trFresh s g va (if write then .write else .read) with
  | .ok pa ipa _ _ =>
    if ownerBad s g pa ipa n then .bad 0x03
    else if write && (writeLocked s pa || ((worldAt s g.world).prot && !sealed_)) then .bad 0x03
    else match tileAns g none va write false with
      | .end_ _ => .bad 0x03
      | .park id => .park id
      | .pass => if poisoned s pa n then .bad 0x07 else .ok [(.mem va pa ipa, n)]
  | .fault c => .bad (if c = 0x15 then 0x07 else 0x03)
  | _ => .bad 0x03

/-- A host memory operation reaches its bytes, piece by piece: what the first piece that fails meets. -/
def hostReach (s : State) (h : HostHdr) (c : Option Cap) (off n : Nat) (rights : List Nat) (write : Bool)
    (sealed_ : Bool := false) : HostReach :=
  let g := wingAt s h.wing.toNat
  match c with
  | none => .bad 0x01
  | some c =>
    let x := capAddr c + off
    if !wingLives s h.wing.toNat || g.world ≠ capWorld c || (capCause c x n rights g.world 0).isSome then .bad 0x01
    else (cutAt x n (n / 4096 + 2)).foldl (fun a p => match a with
      | .ok l => match hostPiece s g p.1 p.2 write sealed_ with
        | .ok q => .ok (l ++ q)
        | e => e
      | e => e) (.ok [])

/-- The bytes of a physical range as a READ returns them: a protected world's are sealed (R410). -/
def wireBytes (s : State) (key : Option (BitVec 512)) (pa n : Nat) : List Byte :=
  match key with
  | none => readMem s pa n
  | some k => ((linesOf pa n).flatMap fun l => sealLine k l (readMem s (128 * l) 128)).drop (pa % 128) |>.take n

/-- The bytes that a READ returns. -/
def hostBytes (s : State) (g : Wing) (l : List (Loc × Nat)) : List Byte :=
  let d := worldAt s g.world
  l.flatMap fun e => match e.1 with
    | .mem _ pa _ => wireBytes s (if d.prot then d.key else none) pa e.2
    | .scr _ => []

/-- Writes what a WRITE brings, as a plain write of no wave, past the L2 where POLICY says so (R265, R363): sealed lines are
opened under the world's key (R410). -/
def hostPut (s : State) (w : Wing) (key : Option (BitVec 512)) : List (Loc × Nat) → List Byte → State
  | [], _ => s
  | (.mem va pa _, n) :: l, bs =>
    let now := bs.take n
    let now := match key with
      | none => now
      | some k => (List.range (n / 128)).flatMap fun i => openLine k (pa / 128 + i) ((now.drop (128 * i)).take 128)
    hostPut (hostLands s pa n fun s => writeVia s (leafBypass s w va) pa now) w key l (bs.drop n)
  | (.scr _, n) :: l, bs => hostPut s w key l (bs.drop n)

/-- A host message that has found uncorrectable data triggers a capture where its wing is armed for it (R426). -/
def uncorrHost (s : State) (h : HostHdr) (status : Nat) : State := if status = 0x07 then uncorrTrigger s h.wing.toNat else s

/-- A host READ that no build can serve sets FAIL in the ABSENT records of its range (R366). -/
def noteHostFail (s : State) (wing va n : Nat) : State :=
  (cutAt va n (n / 4096 + 2)).foldl (fun s p => noteFail s wing none 0x11 p.1) s

/-- HOST_READ (R419, R421): a read of an absent tile waits for the build (R370); where that build fails it ends with STATUS 0x03
(R372; log 15). What a `part` has read of it already stays read. -/
def execHostRead (h : HostHdr) (cap : BitVec 128) (off len : Nat) (s : State) : Out :=
  takeMsg s h 0x03 fun s =>
    let hold := ((reqOf s h 0x03).map (·.hold)).getD .none
    let part := ((reqOf s h 0x03).map (·.part)).getD []
    if len = 0 ∨ 4096 < len then refuse s h 0x03 0x06
    else match hostReach s h (hostCap s cap) (off + part.length) (len - part.length) [pLD] false with
      | .bad st => refuse (uncorrHost (noteHostFail s h.wing.toNat (capAddr ((hostCap s cap).getD {}) + off) len) h st) h 0x03 st
      | .park id =>
        if hold = .recipeFailed id then refuse s h 0x03 0x03
        else if hold = .recipe id then .next s
        else .next (startNeed (await s h 0x03 id (.recipe id) 0 part) h.wing.toNat id)
      | .ok l => .next (reply s h 0x03 0 0 (part ++ hostBytes s (wingAt s h.wing.toNat) l))

/-- The first `n` granules that a READ has still to read are read now, and the rest later: a READ as a whole is not indivisible
(R421). -/
def readPart (h : HostHdr) (cap : BitVec 128) (off len n : Nat) (s : State) : Out :=
  takeMsg s h 0x03 fun s =>
    let part := ((reqOf s h 0x03).map (·.part)).getD []
    let x := capAddr ((hostCap s cap).getD {}) + off + part.length
    let m := 16 * n - x % 16
    if m = 0 ∨ 4096 < len ∨ len ≤ part.length + m then .next s
    else match hostReach s h (hostCap s cap) (off + part.length) m [pLD] false with
      | .ok l => .next (await s h 0x03 0 .none 0 (part ++ hostBytes s (wingAt s h.wing.toNat) l))
      | _ => .next s

/-- HOST_WRITE (R419, R421): the bytes land and clear the tags of their granules (R174). A WRITE that is seen half landed is that of its
first granules, followed by that of the rest (log 59). -/
def execHostWrite (h : HostHdr) (cap : BitVec 128) (off : Nat) (data : List Byte) (s : State) : Out :=
  takeBytes s h 0x04 data fun s =>
    let d := worldAt s (wingAt s h.wing.toNat).world
    let in_ := d.prot && migrating s h (capAddr ((hostCap s cap).getD {}) + off) data.length
    match hostReach s h (hostCap s cap) off data.length [pST] true in_ with
    | .bad st => refuse (uncorrHost s h st) h 0x04 st
    | .park _ => refuse s h 0x04 0x03
    | .ok l => .next (hostPut s (wingAt s h.wing.toNat) (if d.prot then d.key else none) l data)

/-- An image may land in a granule of a CAPW (R419). -/
def capwImage (s : State) (g : Wing) (im : BitVec 128) (x : Int) : Option Cap :=
  (hostCap s im).filter fun c =>
    let inPriv := decide (capBase c < capTop c) && decide (capBase c < (g.privBase + g.privLen : Nat))
      && decide ((g.privBase : Int) < capTop c)
    capWorld c == g.world && !capHas c pSCRATCH
      && (!inPriv || (decide ((g.privBase : Int) ≤ x) && decide (x + 16 ≤ (g.privBase + g.privLen : Nat))))

/-- The images of a CAPW land, each in its granule at an address, as plain writes of no wave (R265, R363, R185). -/
def capwPut (w : Wing) (segs : List (Loc × Nat)) : Nat → List Cap → State → State
  | _, [], s => s
  | o, c :: cs, s =>
    let s := match segAt segs o with
      | .mem va pa _ => hostLands s pa 16 fun s => writeCapVia s w va pa (filterCap s c)
      | .scr _ => s
    capwPut w segs (o + 16) cs s

/-- CAPW (R419): all images land, each with its tag set, or none; a granule or an image that fails its check gives STATUS 0x01. -/
def execCapw (h : HostHdr) (cap : BitVec 128) (off : Nat) (images : List (BitVec 128)) (s : State) : Out :=
  takeMsg s h 0x05 fun s =>
    let n := images.length
    if off % 16 ≠ 0 ∨ n = 0 ∨ 256 < n ∨ h.len.toNat < 16 * n then refuse s h 0x05 0x06
    else
      let c := hostCap s cap
      let x := capAddr (c.getD {}) + off
      let g := wingAt s h.wing.toNat
      match hostReach s h c off (16 * n) [pST, pSTC] true with
      | .bad st => refuse (uncorrHost s h st) h 0x05 0x01
      | .park _ => refuse s h 0x05 0x01
      | .ok l =>
        if x % 16 ≠ 0 then refuse s h 0x05 0x01
        else match (List.range n).mapM fun i => capwImage s g (nth 0 images i) (x + 16 * i : Nat) with
          | none => refuse s h 0x05 0x01
          | some cs => .next (reply (capwPut g l 0 cs s) h 0x05 0 0 [])

-- Posting work.

/-- Records wait for a node at the host's port, or a wave's ENQ to it has been issued and could be accepted: one that comes now
goes behind them (R390). -/
def enqBehind (s : State) (n : Nat) : Bool := !(nodeAt s n).port.isEmpty || enqAhead s n (s.fresh + 1)

/-- The oldest record that waits at the port for a node is accepted where the bin has room and no ENQ issued before it could be
(R41, R390), and is refused where the node is gone (R395). -/
def tendPort (s : State) (n : Nat) : State :=
  let x := nodeAt s n
  match x.port with
  | [] => s
  | r :: rs =>
    if n ≠ sweepNode && !nodeOpen s n then setNode (emit s (.postedError r.token 0x03)) n { x with port := rs }
    else if binRoom s n && !enqAhead s n r.no then
      binPut (setNode s n { x with port := rs }) r.wing n r.bytes (List.replicate (r.bytes.length / 16) false)
    else s

/-- Every node takes the records at its port that it can. -/
def tendPorts (s : State) : State :=
  s.nodes.foldl (fun s e => e.2.port.foldl (fun s _ => tendPort s e.1) s) s

/-- HOST_ENQ (R419, R390): while the bin is full the record waits at the port (R41). -/
def execHostEnq (h : HostHdr) (cap : BitVec 128) (rec : List Byte) (s : State) : Out :=
  takeBytes s h 0x01 rec fun s =>
    match (hostCap s cap).filter fun c => capOtype c == 2 with
    | none => refuse s h 0x01 0x01
    | some c =>
      let n := nodeNo c
      if rec.length ≠ nodeRecSize s c || !nodeHdrOk rec then refuse s h 0x01 0x06
      else if n ≠ sweepNode && !nodeOpen s n then refuse s h 0x01 0x03
      else if binRoom s n && !enqBehind s n then .next (binPut s h.wing.toNat n rec (List.replicate (rec.length / 16) false))
      else
        let r : PortRec := { no := s.fresh, token := h.token, wing := h.wing.toNat, bytes := rec }
        .next (setNode s n { nodeAt s n with port := (nodeAt s n).port ++ [r] })

/-- The binding capability that a launch names (R334): numbers 0 to 255 name the party form of the wing; DESIGN CHOICE: number
256 × (1 + r + 2 × kind) + b names the dealer form of binding b with role 2 + r, as the message gives no field for it (log 15). -/
def bindForm (s : State) (wing n : Nat) : Option Cap :=
  let b := n % 256
  let d := n / 256
  let bd := bindAt s b
  let g := wingAt s wing
  let role := partyOf g
  if !bd.used then none
  else if d = 0 then
    if partyWing bd role = wing then some (bindCap b role 0 g.world (if role = 0 then bd.reveal0 else bd.reveal1)) else none
  else if (d - 1) / 2 ≤ 5 then some (bindCap b (2 + (d - 1) % 2) ((d - 1) / 2) g.world false)
  else none

/-- The binding capability of a launch lands in its granule of the argument block (R386, R334): a STATUS or the state. -/
def deliverBinding (s : State) (wing : Nat) (args : Cap) : Option (Nat × Nat) → Except Nat State
  | none => .ok s
  | some (b, off) =>
    let g := wingAt s wing
    let x := (capBase args).toNat + off
    match bindForm s wing b with
    | none => .error 0x03
    | some c =>
      if off % 16 ≠ 0 || x % 16 ≠ 0 || (capCause args x 16 [] g.world 0).isSome then .error 0x06
      else match devSegs s g x 16 true with
        | .ok ((pa, _) :: _) => .ok (writeCapVia s g x pa c)
        | _ => .error 0x03

/-- HOST_ENQA (R387, R398, R386): the completion carries the result word. -/
def execHostEnqa (h : HostHdr) (rec : List Byte) (bind : Option (Nat × Nat)) (s : State) : Out :=
  takeBytes s h 0x02 rec fun s =>
    let wing := h.wing.toNat
    let im (i : Nat) : BitVec 128 := BitVec.ofNat 128 (fld rec (16 * i) 16)
    if !wingLives s wing then refuse s h 0x02 0x01
    else if rec.length ≠ 128 then refuse s h 0x02 0x06
    else match hostCap s (im 1), hostCap s (im 2), hostCap s (im 3), hostCapOr0 s (im 4) with
      | some code, some args, some done, some supv =>
        match parseLaunch s wing true rec code args done supv with
        | .error e =>
          let hold := ((reqOf s h 0x02).map (·.hold)).getD .none
          match hold with
          | .s2 _ => .next s
          | _ => match refuseLaunch s wing done e hold with
            | .ok s => .next (reply s h 0x02 0 (enqaWord e 0).toNat [])
            | .error (va, ipa, kind) =>
              let s' := sendFault s wing { tok := 0, wave := 0, src := .slotA, host := some (h.assoc, h.token), kind := kind, va := va, ipa := ipa }
                (needBits .write kind false)
              .next (await s' h 0x02 0 (.s2 s.nextTok))
        | .ok r => match enterLaunch s wing r with
          | none => refuse s h 0x02 0x02
          | some (s', slot) => match deliverBinding s' wing args bind with
            | .error st => refuse s h 0x02 st
            | .ok s'' => .next (reply s'' h 0x02 0 (enqaWord 0 (levelId s'' slot)).toNat [])
      | _, _, _, _ => refuse s h 0x02 0x01

end Sys2Proof.Machine
end

