-- ==== Sys2Proof/Machine/Manage.lean ====
section
/-! DEFINITION. The management commands for wings and worlds (R404-R406, R412, R413), stage-2 tables (R67), graphs and jobs
(R419), pre-emption, restore and reset (R317-R322), units held by the host (R312, R328), and the answers to TOKENs (R234,
R235). -/
namespace Sys2Proof.Machine

-- Wing creation (R404).

/-- A field of a block, `n` bytes little-endian. -/
def blkCaps (bs : List Byte) (off n : Nat) : List (BitVec 16) :=
  (List.range n).map fun i => BitVec.ofNat 16 (fld bs (off + 2 * i) 2)

/-- The alcoves that the mask of a block names, ascending. -/
def blkAlcs (bs : List Byte) : List Nat := (List.range 768).filter fun a => bit (fld bs (8 + a / 8) 1) (a % 8)

/-- The quotas of a block. -/
def blkQuota (bs : List Byte) : QuotaSpec :=
  { l2q := fld bs 200 1, l2p := fld bs 201 1, budget := fld bs 204 4, msp := blkCaps bs 208 16 }

/-- The three regions of a block: base and length. -/
def blkRegions (bs : List Byte) : List (Nat × Nat) :=
  (List.range 3).map fun i => (fld bs (128 + 16 * i) 8, fld bs (136 + 16 * i) 8)

/-- The regions meet R404. -/
def regionsOk (l : List (Nat × Nat)) : Bool :=
  l.all (fun r => r.1 % 65536 == 0 && r.2 % 65536 == 0 && decide (0 < r.2) && decide (r.1 + r.2 ≤ 2 ^ 57))
    && (List.range l.length).all fun i => (List.range i).all fun j =>
      let a := nth (0, 0) l i; let b := nth (0, 0) l j
      !overlaps a.1 a.2 b.1 b.2

/-- A wing-creation block is well formed (R404). -/
def blockOk (bs : List Byte) : Bool :=
  let b0 := fld bs 0 1
  let banks := fld bs 1 1
  let resv := fld bs 4 4
  bs.length == 256 && bits b0 3 0 != 0 && bits b0 7 6 == 0 && [1, 2, 4, 8, 16, 32].contains banks && fld bs 2 2 == 0
    && decide (bits resv 4 0 ≤ 16) && bits resv 15 5 == 0 && decide (bits resv 25 16 ≤ 768) && bits resv 31 26 == 0
    && !(blkAlcs bs).isEmpty && fld bs 104 8 % 4096 == 0 && decide (fld bs 104 8 < 2 ^ 48)
    && regionsOk (blkRegions bs) && fld bs 176 8 % 4096 == 0
    && fld bs 184 8 % 65536 == 0 && decide (fld bs 184 8 + 2 ^ 24 ≤ 2 ^ 48) && fld bs 192 8 % 16 == 0 && decide (fld bs 192 8 < 2 ^ 48)
    && decide (fld bs 200 1 ≤ 15) && (bit b0 4 || fld bs 201 1 == 0) && fld bs 202 2 == 0 && fld bs 240 16 == 0

/-- The wing that a block describes. -/
def blkWing (bs : List Byte) : Wing :=
  let r := blkRegions bs
  { used := true, world := bits (fld bs 0 1) 3 0, party := bit (fld bs 0 1) 5, alcs := blkAlcs bs,
    codeBase := (nth (0, 0) r 0).1, codeLen := (nth (0, 0) r 0).2, dataBase := (nth (0, 0) r 1).1, dataLen := (nth (0, 0) r 1).2,
    privBase := (nth (0, 0) r 2).1, privLen := (nth (0, 0) r 2).2, s1root := fld bs 104 8,
    s2handle := BitVec.ofNat 128 (fld bs 112 16), tableFrames := [fld bs 104 8 / 65536], scrMax := fld bs 176 8,
    catIpa := fld bs 184 8, supvIpa := fld bs 192 8,
    resvSlots := bits (fld bs 4 4) 4 0, resvPages := bits (fld bs 4 4) 25 16 }

/-- The world that a block describes; a protected one has a key, a free value (R410). -/
def blkWorld (s : State) (bs : List Byte) : World :=
  { prot := bit (fld bs 0 1) 4, banks := fld bs 1 1, q := blkQuota bs,
    key := if bit (fld bs 0 1) 4 then some (Config.worldKey s.fresh) else none }

/-- Bank `b` of a core is free: no world's group there holds it. -/
def bankFree (s : State) (core b : Nat) : Bool :=
  (List.range 16).all fun w => match tlook s.banks (core * 16 + w) with
    | some base => !(decide (base ≤ b) && decide (b < base + (worldAt s w).banks))
    | none => true

/-- The lowest free aligned group of `n` banks on a core. -/
def freeBanks (s : State) (core n : Nat) : Option Nat :=
  ((List.range (32 / n)).map (· * n)).find? fun base => (List.range n).all fun i => bankFree s core (base + i)

/-- The bank groups of a world on the cores that a wing touches, those it lacks taken; none where a core has no room. -/
def takeBanks (s : State) (world n : Nat) : List Nat → Option State
  | [] => some s
  | c :: cs =>
    if (tlook s.banks (c * 16 + world)).isSome then takeBanks s world n cs
    else match freeBanks s c n with
      | some base => takeBanks { s with banks := tput s.banks (c * 16 + world) base } world n cs
      | none => none

/-- What the other worlds hold of a quota. -/
def otherWorlds (s : State) (world : Nat) (f : World → Nat) : Nat :=
  s.worlds.foldl (fun n e => if e.1 = world then n else n + f e.2) 0

/-- The memory-side ways of a world. -/
def mspWays (q : QuotaSpec) : BitVec 16 := q.msp.foldl (· ||| ·) 0

/-- Quotas cannot be granted to a world (R404, R408, R409, R411): a status, 0 where they can. -/
def quotaStatus (s : State) (world : Nat) (q : QuotaSpec) : Nat :=
  if 15 < otherWorlds s world (·.q.l2q) + q.l2q || q.l2q < q.l2p then 0x05
  else if s.worlds.any (fun e => e.1 ≠ world && mspWays e.2.q &&& mspWays q ≠ 0) then 0x06
  else if Config.stackCapacity < otherWorlds s world (·.q.budget) + q.budget then 0x07
  else 0

/-- More than one world would have a wing: the clock goes back to 850 MHz (R7). -/
def slowDown (s : State) : State :=
  if 1 < (liveWorlds s).length && (s.fast || s.clockChange == some true) then { s with clockChange := some false } else s

/-- The lowest wing number that is free. -/
def freeWing (s : State) : Option Nat := (List.range Config.wings).find? fun n => !(wingAt s n).used

/-- WING_CREATE on a block (R404, R405): the state with the wing's number, or a status. Where several statuses apply the
lowest is given. -/
def createWing (s : State) (bs : List Byte) : Except Nat (State × Nat) :=
  let g := blkWing bs
  let d := blkWorld s bs
  let first := (tlook s.worlds g.world).isNone
  if !blockOk bs then .error 0x01
  else if g.alcs.any fun a => (alcAt s a).wing.isSome || (alcAt s a).retired then .error 0x02
  else match freeWing s with
    | none => .error 0x03
    | some n =>
      let old := worldAt s g.world
      let s1 := if first then setWorld s g.world d else s
      match takeBanks s1 g.world d.banks (wingCores g), reserveCore (setWorld s g.world { old with banks := d.banks }) g with
      | some s2, some rc =>
        let st := if first then quotaStatus s g.world d.q
          else if old.prot ≠ d.prot ∨ old.banks ≠ d.banks ∨ old.q ≠ d.q then 0x08 else 0
        if st ≠ 0 then .error st
        else
          let s3 := g.alcs.foldl (fun s a => setAlc s a { alcAt s a with wing := some n }) s2
          .ok ({ slowDown (setWing s3 n { g with resvCore := rc, gen := s.nextSeq }) with nextSeq := s.nextSeq + 1 }, n)
      | _, _ => .error 0x04

/-- WING_CREATE (R404). -/
def execWingCreate (h : HostHdr) (block : List Byte) (s : State) : Out :=
  takeBytes s h 0x10 block fun s => match createWing s block with
    | .ok (s', n) => .next (reply s' h 0x10 0 n [])
    | .error st => refuse s h 0x10 st

/-- WING_DESTROY (R406): the completion comes when the wing is gone. -/
def execWingDestroy (h : HostHdr) (s : State) : Out :=
  takeMsg s h 0x11 fun s =>
    if (reqOf s h 0x11).isSome then .next s
    else if !wingLives s h.wing.toNat then refuse s h 0x11 0x03
    else
      let t := destroyWing s h.wing.toNat
      .next (if (wingAt t h.wing.toNat).run == .ending then await t h 0x11 0 .none else reply t h 0x11 0 0 [])

/-- A line of memory leaves the caches (R362, R367, R368, log 10): it is written back, or, in an unpinned recipe tile, the
tile is dropped; the strong-access records of its granules go with it (R251). -/
def evictLine (s : State) (line : Nat) : State :=
  let hit (w : Wing) : Option Nat := (w.recipes.find? fun e =>
    droppable e.2 && (tilePieces s w e.2).any fun pa => pa / 4096 == line / 32).map (·.1)
  let s := match s.wings.find? fun e => e.2.used && (hit e.2).isSome with
    | some e => match hit e.2 with
      | some id => tendBuilds (dropTile s e.1 id) e.1
      | none => s
    | none => cleanLine s line
  forgetStrong s line

/-- A line lies in a frame that a wing of the world maps, whatever its owner tag (R407). -/
def worldMaps (s : State) (world line : Nat) : Bool :=
  s.wings.any fun e => e.2.used && e.2.world == world && !(s2Inverse s e.2 (frameOf (128 * line))).isEmpty

/-- The lines of the droppable tiles of a world. -/
def tileLines (s : State) (world : Nat) : List Nat :=
  (s.wings.filter fun e => e.2.used && e.2.world == world).flatMap fun e =>
    (e.2.recipes.filter fun r => droppable r.2).flatMap fun r => (tilePieces s e.2 r.2).map (· / 128)

/-- The lines that the caches may hold for a world, of which something is known: those written since their last write-back, those
with the record of a strong access (R251), and its droppable tiles'. -/
def worldLines (s : State) (world : Nat) : List Nat :=
  let known : List Nat := (s.dirty.map fun e => e.1) ++ s.strong.map fun e => e.1 / 8
  (known.eraseDups.filter fun l => (tget 0 s.owners l).toNat == world || worldMaps s world l) ++ tileLines s world

/-- Ways leave a world (R412): the lines in them are written back, or dropped. Which lines lie there is a free choice; with no way
left, all do, and with no plaintext way every tile that may be dropped is (R368). -/
def leaveWays (s : State) (world : Nat) (q : QuotaSpec) : State :=
  let tiles := if (worldAt s world).prot && q.l2p == 0 then tileLines s world else []
  tick ((worldLines s world).foldl (fun t l =>
    if q.l2q == 0 || tiles.contains l || Config.freePick (s.fresh * 2 ^ 50 + l) % 2 = 0 then evictLine t l else t) s)

/-- A quota takes ways from a world: L2 ways, plaintext ways or memory-side ways (R412, R368). -/
def losesWays (old new : QuotaSpec) : Bool :=
  decide (new.l2q < old.l2q) || decide (new.l2p < old.l2p) || mspWays old &&& ~~~mspWays new != 0

/-- A world with new quotas: its budget holds from each stack's next window on (R412). -/
def newQuota (d : World) (q : QuotaSpec) : World :=
  { d with q := q, budgets := (List.range Config.dramStacks).map fun i => (i, (tlook d.budgets i).getD d.q.budget) }

/-- QUOTA (R405, R412). -/
def execQuota (h : HostHdr) (world : BitVec 4) (q : QuotaSpec) (s : State) : Out :=
  takeMsg s h 0x12 fun s =>
    let w := world.toNat
    let d := worldAt s w
    if !(liveWorlds s).contains w then refuse s h 0x12 0x03
    else if 15 < q.l2q || (!d.prot && q.l2p ≠ 0) || q.msp.length ≠ 16 then refuse s h 0x12 0x06
    else
      let st := quotaStatus s w q
      if st = 0 then
        let s := if losesWays d.q q then leaveWays s w q else s
        .next (reply (setWorld s w (newQuota d q)) h 0x12 0 0 [])
      else refuse s h 0x12 st

-- Stage-2 tables.

/-- A page that is locked for execution would lose its frame or RD, in whatever wing (R67). -/
def s2Breaks (s s' : State) : Bool :=
  s.wings.any fun e => e.2.used && (e.2.lockedIpa ++ e.2.unlocking.map (·.2)).any fun p =>
    s2Pa s' e.2 (p * 65536) true false != s2Pa s e.2 (p * 65536) false false

/-- STAGE2_TABLE_WRITE (R67, R226): the entry of the address in the wing's stage-2 table of the level. A locked frame is not written
(R66, R228). DESIGN CHOICE: where the levels above name no such table, or one outside DRAM (R15), STATUS 0x06 (log 8). -/
def execStage2TableWrite (h : HostHdr) (ipa : BitVec 48) (level : Nat) (entry : BitVec 64) (s : State) : Out :=
  takeForWing s h 0x13 fun s wing =>
    if level = 0 ∨ 4 < level then refuse s h 0x13 0x06
    else match s2TableFrom s ipa.toNat level 4 1 (s2Root (wingAt s wing)) with
      | none => refuse s h 0x13 0x06
      | some table =>
        let a := entryAt table level ipa.toNat
        let s' := writeMem s a (natLe 8 entry.toNat)
        if !entryInDram a then refuse s h 0x13 0x06
        else if writeLocked s a then refuse s h 0x13 0x03
        else if s2Breaks s s' then refuse s h 0x13 0x03 else .next (reply s' h 0x13 0 0 [])

-- Graphs and jobs (R419).

/-- The launch information of a node (R419, R390): a STATUS or the information. -/
def nodeInfo (s : State) (wing : Nat) (n : NodeSpec) : Except Nat LaunchInfo :=
  let w := wingAt s wing
  match hostCap s n.code, hostCap s n.args, hostCapOr0 s n.supv with
  | some code, some args, some supv =>
    match parseGeom n.geom.toNat n.res.toNat with
    | none => .error 0x06
    | some (i, nsrc) =>
      if nsrc ≠ 0 || n.dixb.toNat / 2 ^ 48 ≠ 0 || n.privsz.toNat % 4096 ≠ 0 || n.privsz.toNat < 48 * i.ddepth || 46 < n.prio
        || n.recSize < 16 || 256 < n.recSize || n.recSize % 16 ≠ 0 || n.count < 1 || 256 < n.count || n.capacity < n.count
        || 65535 < n.timer || launchSize i ≠ 1 then .error 0x06
      else if !sentryCap code w.world || !plainCap args w.world [pLD] || !supvOk supv w.world
        || capTop args - capBase args < (256 * n.count : Nat) then .error 0x01
      else if !fitsWing s w i then .error 0x02
      else .ok { i with code := code, args := args, supv := if supv = {} then none else some supv, seed := n.seed,
                        dixb := BitVec.ofNat 48 n.dixb.toNat, privsz := n.privsz.toNat, prio := n.prio, idem := n.idem }
  | _, _, _ => .error 0x01

/-- The bytes of record storage that the nodes of a hub die hold (R390). -/
def dieBytes (s : State) (die : Nat) : Nat :=
  s.nodes.foldl (fun n e => if e.2.used && e.1 / 1024 == die then n + e.2.capacity * e.2.recSize else n) 0

/-- The lowest free node on a hub die with room for a bin. -/
def freeNode (s : State) (size : Nat) : Option Nat :=
  (List.range 4096).find? fun n => !(nodeAt s n).used && decide (dieBytes s (n / 1024) + size ≤ 2 ^ 24)

/-- Allots the nodes of a graph: the state with their numbers. -/
def allotNodes (s : State) (graph : Nat) : List (NodeSpec × LaunchInfo) → Option (State × List Nat)
  | [] => some (s, [])
  | (n, i) :: ns => match freeNode s (n.capacity * n.recSize) with
    | none => none
    | some k =>
      let x : Node := { used := true, gen := (nodeAt s k).gen + 1, graph := graph, recSize := n.recSize, count := n.count, capacity := n.capacity, timer := n.timer, info := i }
      match allotNodes (setNode s k x) graph ns with
      | none => none
      | some (s', ks) => some (s', k :: ks)

/-- The sealed capability of a node (R419): OTYPE 2 with ENQ, its ADDR and bounds at the node's number, with its generation
above it (log 13). -/
def nodeCap (n gen world : Nat) : Cap :=
  let a := n % 65536 + gen % 2 ^ 32 * 65536
  mkCap a a a (2 ^ pENQ) 2 world

/-- GRAPH_CREATE (R419): the device allots the graph whole or refuses it. The sealed capabilities travel with the level id
(log 15). -/
def execGraphCreate (h : HostHdr) (done : BitVec 128) (parent : BitVec 32) (nodes : List NodeSpec) (s : State) : Out :=
  takeForWing s h 0x14 fun s wing =>
    let w := wingAt s wing
    match hostCap s done with
    | none => refuse s h 0x14 0x01
    | some d =>
      let ph : Option Nat := if parent = 0 then some 0 else openPhase s wing parent.toNat
      match nodes.mapM (nodeInfo s wing), ph with
      | .error st, _ => refuse s h 0x14 st
      | .ok _, none => refuse s h 0x14 0x03
      | .ok is, some p =>
        if !doneOk d w.world then refuse s h 0x14 0x01
        else if nodes.isEmpty then refuse s h 0x14 0x06
        else match newLevel s wing d p 0 (.graph [] false) with
          | none => refuse s h 0x14 0x02
          | some (s', slot) => match allotNodes s' slot (nodes.zip is) with
            | none => refuse s h 0x14 0x02
            | some (s', ks) =>
              let s' := setLevel s' slot { levelAt s' slot with body := .graph ks false }
              let s' := emit s' (.nodeCaps h.token (ks.map fun k => (nodeCap k (nodeAt s' k).gen w.world).bits))
              .next (reply s' h 0x14 0 (levelId s' slot) [])

/-- The images of a job descriptor (R393). -/
def jobCaps (s : State) (desc : List Byte) : Option (List Cap) :=
  ((List.range (fld desc 0 2)).mapM fun i => hostCap s (BitVec.ofNat 128 (fld desc (32 + 16 * i) 16)))

/-- JOB_CREATE (R393). -/
def execJobCreate (h : HostHdr) (desc : List Byte) (s : State) : Out :=
  takeForWing s h 0x15 fun s wing =>
    let w := wingAt s wing
    let nph := fld desc 0 2
    if h.len.toNat < desc.length then refuse s h 0x15 0x06
    else if nph = 0 ∨ fld desc 2 14 ≠ 0 ∨ desc.length ≠ 32 + 16 * nph then refuse s h 0x15 0x06
    else match hostCap s (BitVec.ofNat 128 (fld desc 16 16)), jobCaps s desc with
      | some d, some ps =>
        if !doneOk d w.world || ps.any fun p => !plainCap p w.world [pLD] then refuse s h 0x15 0x01
        else match newLevel s wing d 0 0 (.job ps 0 0 false) with
          | none => refuse s h 0x15 0x02
          | some (s', slot) => .next (reply s' h 0x15 0 (levelId s' slot) [])
      | _, _ => refuse s h 0x15 0x01

/-- HOST_CANCEL (R395): a stale id does nothing. -/
def execHostCancel (h : HostHdr) (id : BitVec 32) (s : State) : Out :=
  takeMsg s h 0x24 fun s => match findLevel s id.toNat with
    | some slot => .next (reply (cancelLevel s slot) h 0x24 0 0 [])
    | none => .next (reply s h 0x24 0 0 [])

/-- LEVEL_CLOSE (R399). -/
def execLevelClose (h : HostHdr) (id : BitVec 32) (s : State) : Out :=
  takeMsg s h 0x32 fun s => match findLevel s id.toNat with
    | some slot => .next (reply (closeLevel s slot) h 0x32 0 0 [])
    | none => .next (reply s h 0x32 0 0 [])

-- Pre-emption, restore and reset.

/-- PRE_EMPT_WING (R317, R319): it completes when the contexts have been swapped. -/
def execPreEmptWing (h : HostHdr) (s : State) : Out :=
  takeForWing s h 0x1B fun s wing =>
    let g := wingAt s wing
    if g.run ≠ .running then refuse s h 0x1B 0x03
    else if g.alcs.any fun a => (alcAt s a).shadow.isSome then refuse s h 0x1B 0x02
    else .next (await (stopWing s wing) h 0x1B 0 .none)

/-- RESTORE_WING (R319). It waits while the bank sets have no room for the windows that come back. -/
def execRestoreWing (h : HostHdr) (image : Nat) (intact : Bool) (s : State) : Out :=
  takeForWing s h 0x1C fun s wing =>
    let r := restoreWing s wing image intact
    if r.2 = 0 && !restoreRoom s wing image then .next (await s h 0x1C image .none) else .next (reply r.1 h 0x1C r.2 0 [])

/-- A sweep of a world runs. -/
def sweeping (s : State) (world : Nat) : Bool := match s.sweep with | some q => q.world == world | none => false

/-- SAVE_OUT (R413): the completion carries the image and its number (log 15). A sweep of the world completes first (R186). -/
def execSaveOut (h : HostHdr) (s : State) : Out :=
  takeForWing s h 0x1D fun s wing =>
    if (wingAt s wing).run ≠ .swapped || !inShadow s wing then refuse s h 0x1D 0x03
    else if sweeping s (wingAt s wing).world then .next (await s h 0x1D 0 .none)
    else
      let r := saveOut s wing
      .next (reply r.1 h 0x1D 0 r.2 ((r.1.images.getLast?.map imageBytes).getD []))

/-- WING_RESET (R321, R322). -/
def execWingReset (h : HostHdr) (s : State) : Out :=
  takeForWing s h 0x23 fun s wing => .next (reply (resetWing s wing 3) h 0x23 0 0 [])

-- Units (R312, R328).

/-- The resident unit of a wing with a CTXID. -/
def unitByCtx (s : State) (wing : Nat) (ctx : BitVec 32) : Option Nat :=
  (s.units.find? fun e => e.2.used && e.2.wing == wing && e.2.ctxid == ctx).map (·.1)

/-- The lowest-numbered wave of a unit, outside a handler, with a READY or PARKED slot, and that slot (R312). -/
def preEmptTarget (s : State) (u : Unit) : Option (Nat × Src) :=
  let ks := u.waves.filter fun k => let w := waveAt s k; w.frame.isNone && (w.a.st != .free || w.b.st != .free)
  let best := ks.foldl (fun (m : Option Nat) k => match m with
    | none => some k
    | some q => some (if (waveAt s k).waveId < (waveAt s q).waveId then k else q)) none
  best.map fun k => (k, if (waveAt s k).a.st = .free then .slotB else .slotA)

/-- UNIT_PRE_EMPT (R312). -/
def execUnitPreEmpt (h : HostHdr) (ctx : BitVec 32) (s : State) : Out :=
  takeForWing s h 0x1E fun s wing => match unitByCtx s wing ctx with
    | none => refuse s h 0x1E 0x03
    | some n =>
      let u := unitAt s n
      if (wingAt s wing).run ≠ .running ∨ u.held.isSome ∨ u.ending.isSome ∨ u.boot.isSome ∨ anyHandler s u.waves then refuse s h 0x1E 0x02
      else match preEmptTarget s u with
        | none => refuse s h 0x1E 0x02
        | some (k, src) => .next (reply (takeTrap s k src { cause := 0x16 }) h 0x1E 0 0 [])

/-- A command on a unit that HALT holds. -/
def heldUnit (s : State) (h : HostHdr) (op : Nat) (ctx : BitVec 32) (f : State → Nat → Nat → State) : Out :=
  takeForWing s h op fun s wing =>
    match (s.units.find? fun e => e.2.used && e.2.wing == wing && e.2.ctxid == ctx) with
    | none => refuse s h op 0x03
    | some (n, u) => match u.held with
      | none => refuse s h op 0x03
      | some (k, _) => .next (reply (onContext s wing fun s => f s n k) h op 0 0 [])

/-- A handler that a HALT held goes on, with the sequencers it has forked (R328, R308). -/
def resumeHandler (w : Wave) : Wave :=
  if w.frame.isNone then w
  else mapSeqs (resumeWave w) fun q => if q.handler then
    { q with stop := .running, pre := false, snap := if q.stop = .running then q.snap else cutSnap q.hold q.snap } else q

/-- The host resumes a held unit (R328): the handlers that a HALT holds go on; outside handlers the unit resumes. -/
def resumeHeld (s : State) (n _k : Nat) : State :=
  let u := unitAt s n
  let s := setUnit s n { u with held := none, heldHandlers := [] }
  resumeUnit (mapWaves s (fun _ w => resumeHandler w) u.heldHandlers) n

/-- HALT_RESUME (R328). -/
def execHaltResume (h : HostHdr) (ctx : BitVec 32) (s : State) : Out := heldUnit s h 0x1F ctx resumeHeld
/-- HALT_END (R328): the unit retires as failed. -/
def execHaltEnd (h : HostHdr) (ctx : BitVec 32) (s : State) : Out :=
  heldUnit s h 0x20 ctx fun s n _ => endUnit (setUnit s n { unitAt s n with held := none }) n .failed 0

-- TOKENs (R234, R235).

/-- STAGE2_ANSWER (R234). A TOKEN that nothing waits for is answered with nothing. -/
def execStage2Answer (h : HostHdr) (tok : BitVec 32) (retry : Bool) (s : State) : Out :=
  takeMsg s h 0x21 fun s =>
    .next (reply (answerToken s tok.toNat (if retry then .retry else .fail)) h 0x21 0 0 [])

/-- POOL_REFILL (R235): frames for the wing's pool, or a refusal. DESIGN CHOICE: frames that would bring the pool above 2^20 are
refused with STATUS 0x03, and one whose address is not a multiple of 64 KiB with 0x06 (log 57). -/
def execPoolRefill (h : HostHdr) (tok : BitVec 32) (frames : Option (List (BitVec 48))) (s : State) : Out :=
  takeForWing s h 0x22 fun s wing => match frames with
    | none => .next (reply (answerToken s tok.toNat .refuse) h 0x22 0 0 [])
    | some fs =>
      let g := wingAt s wing
      if fs.any (fun f => f.toNat % 65536 ≠ 0) then refuse s h 0x22 0x06
      else if 2 ^ 20 < g.pool.length + g.poolPending.length + fs.length then refuse s h 0x22 0x03
      else
        let s := setWing s wing { g with pool := g.pool ++ fs.map (·.toNat) }
        .next (reply (answerToken s tok.toNat .retry) h 0x22 0 0 [])

-- Dirty logging (R413).

/-- LOG_ENABLE (R413): the ring's size is a power of two from 1,024 to 2^20. -/
def execLogEnable (h : HostHdr) (ring idx bitmap : BitVec 48) (n : Nat) (s : State) : Out :=
  takeForWing s h 0x27 fun s wing =>
    if !((List.range 11).any fun i => n == 2 ^ (10 + i)) || ring.toNat % 8 ≠ 0 || idx.toNat % 8 ≠ 0 then refuse s h 0x27 0x06
    else
      .next (reply (setWing s wing { wingAt s wing with log := some ⟨ring.toNat, idx.toNat, bitmap.toNat, n⟩ }) h 0x27 0 0 [])

/-- One bit of a wing's bitmap cleared; a lock of its frame makes the write fail (R66). -/
def clearBit (s : State) (g : Wing) (l : DirtyLog) (p : Nat) : State :=
  match s2Pa s g (l.bitmap + p / 8) false false with
  | some pa =>
    let v := (readByte s pa).toNat
    if bit v (p % 8) && !writeLocked s pa then pokeMem s pa [BitVec.ofNat 8 (v - 2 ^ (p % 8))] else s
  | none => s

/-- HARVEST (R413): clears the bits of pages `first`, …, `count` of them. -/
def execHarvest (h : HostHdr) (first count : Nat) (s : State) : Out :=
  takeForWing s h 0x28 fun s wing =>
    let g := wingAt s wing
    match g.log with
    | none => refuse s h 0x28 0x03
    | some l =>
      if 2 ^ 32 < first + count then refuse s h 0x28 0x06
      else .next (reply ((List.range count).foldl (fun s i => clearBit s g l (first + i)) s) h 0x28 0 0 [])

/-- LOG_DISABLE (R413). -/
def execLogDisable (h : HostHdr) (s : State) : Out :=
  takeForWing s h 0x29 fun s wing => .next (reply (setWing s wing { wingAt s wing with log := none }) h 0x29 0 0 [])

-- Scrub and sweep.

/-- The frames of a host scrub's page: a physical page as it is, or the page's stage-2 frame with its owner. -/
def hostScrubPage (s : State) (g : Wing) (phys : Bool) (owner a : Nat) : Option (List (Nat × Nat)) :=
  if phys then (if a + 65536 ≤ Config.dramBytes then some [(a / 65536, owner)] else none)
  else (s2Pa s g a false true).map fun pa => [(frameOf pa, s2Owner s g a)]

/-- How a host scrub stands: done with a receipt, stopped by a STATUS, or waiting at a page for room in a dirty log (R413). -/
inductive ScrubEnd where
  | done (r : Receipt) | failed (status : Nat) | waits (page : Nat) (r : Receipt)

/-- The pages of a host scrub in turn, `n` of them from page `i` on: STATUS 0x03 for a frame that it does not reach, 0x07 for a
line whose rewrite fails (R414). -/
def hostScrubGo (g : Wing) (phys : Bool) (owner base : Nat) : Nat → Nat → Receipt → State → State × ScrubEnd
  | 0, _, r, s => (s, .done r)
  | n + 1, i, r, s => match hostScrubPage s g phys owner (base + i * 65536) with
    | none => (s, .failed 0x03)
    | some fs => if fs.any fun f => logBlocked s (f.1 * 65536) then (s, .waits i r) else match scrubPage (tick s) fs r with
      | (s, _, some _) => (s, .failed 0x07)
      | (s, r, none) => hostScrubGo g phys owner base n (i + 1) r s

/-- HOST_SCRUB (R414): the completion carries the receipt. While it waits it stays at the port and happens again. -/
def execHostScrub (h : HostHdr) (phys : Bool) (base len : Nat) (owner : BitVec 4) (s : State) : Out :=
  takeMsg s h 0x25 fun s =>
    let wing := h.wing.toNat
    if base % 65536 ≠ 0 ∨ len % 65536 ≠ 0 ∨ len < 65536 ∨ 2 ^ 39 - 65536 < len then refuse s h 0x25 0x06
    else if !phys && !wingLives s wing then refuse s h 0x25 0x03
    else
      let q := (reqOf s h 0x25).getD { token := h.token, kgen := h.kgen, op := 0x25, wing := wing }
      match hostScrubGo (wingAt s wing) phys owner.toNat base (len / 65536 - q.arg) q.arg (receiptOf (BitVec.ofNat 64 q.got)) s with
      | (s, .done r) => .next (reply s h 0x25 0 (receiptWord r).toNat [])
      | (s, .failed st) => refuse s h 0x25 st
      | (s, .waits page r) => .next (await s h 0x25 page .none (receiptWord r).toNat)

/-- The wing whose tables serve a sweep that the host asks for. DESIGN CHOICE: the header's WING where it is a live wing of the world,
else the lowest live wing of it (log 13). -/
def sweepWing (s : State) (h : HostHdr) (world : Nat) : Option Nat :=
  let mine (n : Nat) : Bool := wingLives s n && (wingAt s n).world == world
  if mine h.wing.toNat then some h.wing.toNat else (s.wings.map (·.1)).find? mine

/-- HOST_REVOCATION_SWEEP (R184, R419): the record joins the queue of sweeps. -/
def execHostRevocationSweep (h : HostHdr) (world : BitVec 4) (rec : List Byte) (s : State) : Out :=
  takeBytes s h 0x26 rec fun s =>
    let im (o : Nat) : Cap := (hostCap s (BitVec.ofNat 128 (fld rec o 16))).getD ⟨false, BitVec.ofNat 128 (fld rec o 16)⟩
    if rec.length ≠ 64 then refuse s h 0x26 0x06
    else match sweepWing s h world.toNat with
    | none => refuse s h 0x26 0x03
    | some wing =>
      if 16 ≤ s.sweepQ.length then refuse s h 0x26 0x02 else
      let q : SweepReq := { world := world.toNat, wing := wing, done := im 48, map := im 32, start := fld rec 24 8, len := fld rec 16 8, bad := fld rec 0 16 ≠ 0 }
      .next (reply { s with sweepQ := s.sweepQ ++ [q] } h 0x26 0 0 [])

-- Stage-1 map (R428).

/-- The permissions of the root of the region that holds [va, va + z), as PERMS bits. -/
def regionPerms (g : Wing) (va z : Nat) : Option Nat :=
  let inside (b l : Nat) : Bool := decide (b ≤ va) && decide (va + z ≤ b + l)
  if inside g.codeBase g.codeLen then some supPerms
  else if inside g.dataBase g.dataLen then some (2 ^ pLD + 2 ^ pST)
  else if inside g.privBase g.privLen then some privPerms
  else none

/-- The check of R428 in place of a capability. -/
def regionOk (g : Wing) (r : MapReq) (va : Nat) : Bool :=
  decide (r.size ≤ 2) && match regionPerms g va (2 ^ sizeBits r.size) with
    | some p => (!r.rd || bit p pLD) && (!r.w || bit p pST) && (!r.x || bit p pEXEC)
    | none => false

/-- The leaf that a request changes loses rights or changes POLICY or WAYP (R428). -/
def losesRights (s : State) (g : Wing) (va : Nat) (r : MapReq) : Bool :=
  r.op = 4 || (r.op = 3 && match descend s g va (sizeLevel r.size) 5 0 g.s1root with
    | .at_ _ e => (leafR e && !r.rd) || (leafW e && !r.w) || (leafX e && !r.x) || leafPolicy e ≠ r.policy || bits e 60 57 ≠ r.wayp
    | _ => false)

/-- A stage-1 map's answer is final: the completion carries it, and its scan is over (R63). -/
def mapFin (s : State) (h : HostHdr) (wing : Nat) (q : Option Scan) (v : DWord) : Out :=
  .next (reply (endScan s wing q (v.toNat / 2 ^ 56 = 0)) h 0x33 0 v.toNat [])

/-- The tables have answered with a status word, from state `s`: a UNMAP or a loss of rights is followed by an invalidation of the
page, and it completes when the accesses that used the translation have completed (R428, R239). -/
def mapDoneWith (s s' : State) (h : HostHdr) (wing va : Nat) (r : MapReq) (q : Option Scan) (v : DWord) : Out :=
  let hi := va + 2 ^ sizeBits r.size
  if v.toNat / 2 ^ 56 ≠ 0 ∨ !losesRights s (wingAt s wing) va r then mapFin s' h wing q v
  else
    let s' := endScan (invalidate s' wing va hi true) wing q true
    if usesPages s' wing va hi then .next (await s' h 0x33 0 .none (v.toNat + 1))
    else mapFin (freeAfterTlbi s' wing va hi) h wing none v

/-- A stage-1 map waits for the host: it is sent a record, and the request notes the TOKEN. -/
def mapWaits (s : State) (h : HostHdr) (wing va : Nat) (ans : MapAns) : State :=
  let tok := s.nextTok
  let t : TokenWait := { tok := tok, wave := 0, src := .slotA, host := some (h.assoc, h.token) }
  match ans with
  | .s2 ipa kind =>
    let s := sendFault s wing { t with kind := kind, va := if kind = 3 then 0 else va, ipa := ipa } (needBits .write kind false)
    await s h 0x33 0 (.s2 tok)
  | .short n =>
    let s := { emit s (.refill wing tok n) with nextTok := tok + 1, tokens := s.tokens ++ [t] }
    await s h 0x33 0 (.refill tok)
  | _ => s

/-- The STATUS of a host request whose read of a table or of a scanned word ends with a cause: 0x07 for uncorrectable data, 0x03 for
an owner tag (R419). -/
def badStatus (c : Nat) : Nat := if c = 0x15 then 0x07 else 0x03

/-- A stage-1 map in its scan `q` (R63): it waits for the writes issued before its locks, then its pages are scanned and the leaf
is installed. -/
def mapScan (s : State) (h : HostHdr) (wing va : Nat) (r : MapReq) (arg : Nat) (q : Scan) : Out :=
  if writesPending s (q.pages.filterMap (pageFrame s (wingAt s wing))) q.since then .next s
  else match scanFrom s (wingAt s wing) q.pages (q.pages.length * 16384) 0 with
    | .bad c => .next (reply (endScan s wing (some q) false) h 0x33 (badStatus c) 0 [])
    | .rejected i reason => mapFin s h wing (some q) (mapStatus 1 reason i)
    | .pass => match mapRun s wing va r arg true q.got with
      | .status s' v => mapDoneWith s s' h wing va r (some q) v
      | _ => mapFin s h wing (some q) (mapStatus 9 0 0)

/-- STAGE1_MAP (R428). While it waits (for a PGMAP's scan, for writes in flight to a frame that it scans, for accesses
that use a page, for the host's frames or stage-2 answer) the request is outstanding and its message happens again. DESIGN CHOICE:
where the host fails the stage-2 fault of a table entry the completion has STATUS 0x03, and 0x07 where a table read is uncorrectable
(R428 names no other than 0x00; log 57). -/
def execStage1Map (h : HostHdr) (va req frame : BitVec 64) (s : State) : Out :=
  takeForWing s h 0x33 fun s wing =>
    let r := mapReq req
    let va := va.toNat
    let hi := va + 2 ^ sizeBits r.size
    let q := (reqOf s h 0x33).getD { token := h.token, kgen := h.kgen, op := 0x33, wing := wing }
    let mine := (wingAt s wing).scans.find? fun c => c.host == some (h.assoc, h.token)
    let stop (st : Nat) : Out := .next (reply (endScan s wing mine false) h 0x33 st 0 [])
    if q.got ≠ 0 then
      if usesPages s wing va hi then .next s
      else mapFin (freeAfterTlbi s wing va hi) h wing none (BitVec.ofNat 64 (q.got - 1))
    else match q.hold with
      | .s2 _ => .next s
      | .refill _ => .next s
      | .refused => mapFin s h wing mine (mapStatus 4 0 0)
      | .s2failed kind _ _ => if kind = 3 then mapFin s h wing mine (mapStatus 9 0 0) else stop 0x03
      | _ =>
        if !regionOk (wingAt s wing) r va then mapFin s h wing mine (mapStatus 5 0 0)
        else if scanBusy s wing mine then .next (await s h 0x33 0 .none)
        else
          let s := tendScans s wing
          match mapRun s wing va r frame.toNat false ((mine.map (·.got)).getD []) with
          | .status s' v => mapDoneWith s s' h wing va r mine v
          | .bad c => stop (badStatus c)
          | .scan s' pages got =>
            if pages.all (scannedPage s (wingAt s wing)) then
              match mapRun (lockPages s wing pages) wing va r frame.toNat true got with
              | .status s' v => mapDoneWith s s' h wing va r mine v
              | _ => mapFin s h wing mine (mapStatus 9 0 0)
            else
              let new : Scan := { wave := 0, src := .slotA, handler := false, host := some (h.assoc, h.token), pc := 0, va := va,
                                  sh := sizeBits r.size, pages := pages, since := s.fresh, got := got }
              match mine with
              | some c => if c.pages = pages then mapScan s h wing va r frame.toNat c else .next (endScan s wing mine false)
              | none => mapScan (await (startScan s' wing new) h 0x33 0 .none) h wing va r frame.toNat new
          | ans => .next (mapWaits s h wing va ans)

end Sys2Proof.Machine
end

