-- ==== Sys2Proof/Machine/Sweep.lean ====
section
/-! DEFINITION. Revocation sweeps (R183-R186): where the device keeps capabilities, the clearing of their tags, and the
start and completion of a sweep. -/
namespace Sys2Proof.Machine

/-- A function on every capability of a register table. -/
def mapCapT (f : Cap → Cap) (t : Table Cap) : Table Cap :=
  t.filterMap fun e => let c := f e.2; if c = {} then none else some (e.1, c)
/-- How many capabilities of a table a function changes. -/
def cntCapT (f : Cap → Cap) (t : Table Cap) : Nat := (t.filter fun e => f e.2 != e.2).length
/-- How many capabilities of a list a function changes. -/
def cntCapL (f : Cap → Cap) (l : List Cap) : Nat := (l.filter fun c => f c != c).length

/-- A function on the capabilities of a register file. -/
def mapCapR (f : Cap → Cap) (r : RegFile) : RegFile := { r with c := mapCapT f r.c, vc := mapCapT f r.vc }
/-- A function on the capabilities of a supervisor bank. -/
def mapCapB (f : Cap → Cap) (b : Bank) : Bank := { b with caps := b.caps.map f, pcc := f b.pcc }
/-- A granule of bytes with a tag keeps it under a function on capabilities. -/
def keepsTag (f : Cap → Cap) (bs : List Byte) (g : Nat) (t : Bool) : Bool := (f (capOfBytes ((bs.drop (16 * g)).take 16) t)).tag
/-- A function on the capabilities that an access has still to store (R185). -/
def mapCapK (f : Cap → Cap) : AccKind → AccKind
  | .storeC ws => .storeC (ws.map fun e => (e.1, e.2.1, f e.2.2))
  | .enq n l bs ts => .enq n l bs (ts.mapIdx fun g t => keepsTag f bs g t)
  | k => k
/-- A function on the capabilities of a wave: registers, the registers of its sequencers, the bank, what its runs read, and what
its accesses have still to store. -/
def mapCapW (f : Cap → Cap) (w : Wave) : Wave :=
  let run (n : Snapshot) : Snapshot := { n with regs := mapCapR f n.regs }
  let slot (x : Slot) : Slot := { x with snap := x.snap.map run }
  let seq (q : Seq) : Seq := { q with regs := mapCapR f q.regs, snap := q.snap.map run }
  { w with accs := w.accs.map fun a => { a with kind := mapCapK f a.kind }, regs := mapCapR f w.regs, bank := mapCapB f w.bank, a := slot w.a, b := slot w.b, seqC := seq w.seqC, seqM := seq w.seqM,
           seqG := seq w.seqG, frame := w.frame.map fun fr => { fr with a := slot fr.a, b := slot fr.b } }
/-- How many registers of a wave a function changes. -/
def cntCapW (f : Cap → Cap) (w : Wave) : Nat :=
  let r (g : RegFile) : Nat := cntCapT f g.c + cntCapT f g.vc
  r w.regs + r w.seqC.regs + r w.seqM.regs + r w.seqG.regs + cntCapL f (w.bank.pcc :: w.bank.caps)

/-- A function on the capabilities of a launch. -/
def mapCapI (f : Cap → Cap) (i : LaunchInfo) : LaunchInfo := { i with code := f i.code, args := f i.args, supv := i.supv.map f }
/-- How many capabilities of a launch a function changes. -/
def cntCapI (f : Cap → Cap) (i : LaunchInfo) : Nat := cntCapL f (i.code :: i.args :: i.supv.toList)
/-- A function on the capabilities of a level. -/
def mapCapLevel (f : Cap → Cap) (l : Level) : Level :=
  { l with done := f l.done, body := match l.body with
      | .launch i g b => .launch (mapCapI f i) g b
      | .job ps n z c => .job (ps.map f) n z c
      | b => b }
/-- How many capabilities of a level a function changes. -/
def cntCapLevel (f : Cap → Cap) (l : Level) : Nat :=
  cntCapL f [l.done] + match l.body with
    | .launch i _ _ => cntCapI f i
    | .job ps _ _ _ => cntCapL f ps
    | _ => 0

/-- A function on the capabilities of a record. -/
def mapCapRec (f : Cap → Cap) (r : BinRecord) : BinRecord := { r with tags := r.tags.mapIdx fun g t => keepsTag f r.bytes g t }
/-- A function on the capabilities of a node and its bin. -/
def mapCapNode (f : Cap → Cap) (n : Node) : Node := { n with info := mapCapI f n.info, bin := n.bin.map (mapCapRec f) }
/-- How many capabilities of a node a function changes. -/
def cntCapNode (f : Cap → Cap) (n : Node) : Nat :=
  cntCapI f n.info + n.bin.foldl (fun k r => k + (r.tags.filter id).length - ((mapCapRec f r).tags.filter id).length) 0
/-- A function on the capabilities of a unit: its scratch granules and the ARGS it started with. -/
def mapCapU (f : Cap → Cap) (u : Unit) : Unit :=
  { u with args := f u.args, scrTags := u.scrTags.filter fun e => (f (capOfBytes (tbytes u.scr (16 * e.1) 16) e.2)).tag }
/-- How many scratch granules of a unit a function changes. -/
def cntCapU (f : Cap → Cap) (u : Unit) : Nat := u.scrTags.length - (mapCapU f u).scrTags.length
/-- The capabilities of a record of the Catalogue that a sweep looks at (R375). -/
def recipeCaps (r : Recipe) : List Cap := r.tile :: r.info.code :: r.info.args :: r.srcs
/-- A record of the Catalogue after a sweep: DEAD where it lost one of its tags (R375). -/
def mapCapRecipe (f : Cap → Cap) (r : Recipe) : Recipe :=
  { r with tile := f r.tile, info := mapCapI f r.info, srcs := r.srcs.map f, dead := r.dead || cntCapL f (recipeCaps r) != 0 }

/-- The granules of memory whose tag a function clears. -/
def lostGranules (s : State) (f : Cap → Cap) : List Nat :=
  (s.tags.filter fun e => e.2 && !(f (capOfBytes (readMem s (16 * e.1) 16) true)).tag).map (·.1)

/-- The DRAM image of a dirty line without the tags that a function clears. -/
def mapCapLine (f : Cap → Cap) (im : LineImage) : LineImage :=
  { im with tags := im.tags.filter fun g => (f (capOfBytes (tbytes im.bytes (16 * g) 16) true)).tag }

/-- Every table that holds capabilities, under a function on them (R185 steps 2 and 3). -/
def mapCaps (s : State) (f : Cap → Cap) : State :=
  { s with
    tags := (lostGranules s f).foldl tdel s.tags
    dirty := s.dirty.map fun e => (e.1, mapCapLine f e.2)
    waves := s.waves.map fun e => (e.1, mapCapW f e.2)
    units := s.units.map fun e => (e.1, mapCapU f e.2)
    alcoves := s.alcoves.map fun e => (e.1, { e.2 with shadow := e.2.shadow.map fun x => (x.1, { x.2 with waves := x.2.waves.map (mapCapW f) }) })
    levels := s.levels.map fun e => (e.1, mapCapLevel f e.2)
    nodes := s.nodes.map fun e => (e.1, mapCapNode f e.2)
    wings := s.wings.map fun e => (e.1, { e.2 with recipes := e.2.recipes.map fun r => (r.1, mapCapRecipe f r.2) })
    sweepQ := s.sweepQ.map fun q => { q with done := f q.done, map := f q.map } }

/-- How many tags of the Catalogue a function clears; the granules of its backing region count as memory (R364). -/
def cntRecipes (s : State) (f : Cap → Cap) (w : Wing) : Nat :=
  w.recipes.foldl (fun n e =>
    if (s2Pa s w (w.catIpa + 256 * e.1) false false).isSome then n else n + cntCapL f (recipeCaps e.2)) 0

/-- How many tags a function clears. -/
def cntCaps (s : State) (f : Cap → Cap) : Nat :=
  let sum {α : Type} (t : Table α) (g : α → Nat) : Nat := t.foldl (fun n e => n + g e.2) 0
  (lostGranules s f).length + sum s.waves (cntCapW f) + sum s.units (cntCapU f)
    + sum s.alcoves (fun a => match a.shadow with | some x => x.2.waves.foldl (fun n w => n + cntCapW f w) 0 | none => 0)
    + sum s.levels (cntCapLevel f) + sum s.nodes (cntCapNode f)
    + sum s.wings (cntRecipes s f)

/-- Drops the tiles of records that are DEAD, but those that are pinned or that a running build reads (R375, R367). -/
def dropDead (s : State) (wing : Nat) : State :=
  let s := ((wingAt s wing).recipes.filter fun e => e.2.dead && droppable e.2).foldl
    (fun s e => dropTile s wing e.1) s
  tendBuilds s wing

/-- MAP covers the bits of the range with LD (R184). -/
def sweepMapOk (q : SweepReq) : Bool := (capCause q.map (capAddr q.map) ((q.len / 16 + 7) / 8) [pLD] q.world 0).isNone

/-- A sweep's own access meets a stage-2 fault: the host is asked, and the sweep waits (R233). -/
def sweepMiss (s : State) (q : SweepReq) (va ipa kind : Nat) (wr : Bool) : State × SweepReq :=
  (sendFault s q.wing { tok := 0, wave := 0, src := .slotA, sweep := true, kind := kind, va := va, ipa := ipa }
    (needBits (if wr then .write else .read) kind false), { q with hold := .s2 s.nextTok })

/-- A sweep waits for no answer of the host. -/
def sweepIdle (q : SweepReq) : Bool := match q.hold with | .s2 _ => false | _ => true

/-- REVOCATION_SWEEP_START (R184, R185 step 1): the oldest request starts, once its bitmap can be read. DESIGN CHOICE: a part of
the bitmap that cannot be read revokes nothing (log 41). -/
def execRevocationSweepStart (s : State) : Out :=
  match s.sweep, s.sweepQ with
  | none, q :: qs =>
    let start (q : SweepReq) : Out := .next { s with sweepQ := qs, sweep := some { q with hold := .none } }
    if !sweepIdle q then .next s
    else if !sweepMapOk q then start { q with map := {} }
    else match devBytes s (wingAt s q.wing) (capAddr q.map) ((q.len / 16 + 7) / 8) q.hold with
      | .error (.s2 va ipa kind) =>
        let r := sweepMiss s q va ipa kind false
        .next { r.1 with sweepQ := r.2 :: qs }
      | _ => start q
  | _, _ => .next s

/-- The completion word's status (R184). DESIGN CHOICE: a reserved field that is not zero goes before a MAP that cannot be used
(log 57). -/
def sweepStatus (q : SweepReq) : Nat := if q.bad then 0x03 else if q.map.tag then 0x00 else 0x01

/-- The backing copies of a world's Catalogues hold the records as they are (R364). -/
def backWorld (s : State) (world : Nat) : State :=
  s.wings.foldl (fun s e => if e.2.used && e.2.world == world then backRecords s e.1 else s) s

/-- A sweep ends: what its filter still finds is cleared, the dead tiles go, and the filter stops (R185, R375). The sweep sees the
backing copies of the Catalogues, which hold the records before it and after it (R364). -/
def endSweep (s : State) : State :=
  let world := (s.sweep.map (·.world)).getD 0
  let s := backWorld s world
  { backWorld ((s.wings.map (·.1)).foldl dropDead (mapCaps s (filterCap s))) world with sweep := none }

/-- REVOCATION_SWEEP_COMPLETE (R185 steps 2 to 4). A completion word whose page misses stage 2 waits for the host (R233); one that
cannot be written is left out (R184 status 0x02). -/
def execRevocationSweepComplete (s : State) : Out :=
  match s.sweep with
  | none => .next s
  | some q =>
    let n := min (cntCaps s (filterCap s)) (2 ^ 56 - 1)
    let w := wingAt s q.wing
    if !sweepIdle q then .next s
    else if (capCause q.done (capAddr q.done) 8 [pST] w.world 0).isSome then .next (endSweep s)
    else match devSegs s w (capAddr q.done) 8 true q.hold with
      | .ok l => .next (writePieces (endSweep s) w (capAddr q.done) l (natLe 8 (n * 256 + sweepStatus q)))
      | .error (.s2 va ipa kind) =>
        let r := sweepMiss s q va ipa kind true
        .next { r.1 with sweep := some r.2 }
      | .error _ => .next (endSweep s)

end Sys2Proof.Machine
end

