-- ==== Sys2Proof/Machine/Service.lean ====
section
/-! DEFINITION. The host's commands for bindings (R334, R337, R342, R356), associations (R417, R422), clock, power and
Vitrine (R7, R424, R426), and the events of the Turnstile, of Lemsal and of the package. -/
namespace Sys2Proof.Machine

-- Bindings.

/-- A pool region is well formed (R336, R337). -/
def poolSpecOk (p : PoolSpec) : Bool := decide (p.kind ≤ 5) && (List.range 21).any fun i => p.cap == 2 ^ i

/-- The binding that a bind command describes (R337). -/
def bindingOf (b : BindSpec) : Binding :=
  let first := b.firstId.toNat
  { used := true, wing0 := b.wing0, wing1 := b.wing1, timeout := b.timeout.toNat, reveal0 := b.reveal0, reveal1 := b.reveal1,
    pools := b.pools.foldl (fun t p =>
      tput t ((if p.party then 8 else 0) + p.kind) { base := p.base.toNat, cap := p.cap, head := first, tail := first })
      ((List.range 16).map fun i => (i, { head := first, tail := first })) }

/-- BIND (R334, R419). -/
def execBind (h : HostHdr) (b : BindSpec) (s : State) : Out :=
  takeMsg s h 0x16 fun s =>
    let g0 := wingAt s b.wing0
    let g1 := wingAt s b.wing1
    let keys := b.pools.map fun p => (p.party, p.kind)
    if !b.pools.all poolSpecOk || keys.eraseDups.length ≠ keys.length then refuse s h 0x16 0x06
    else if !g0.used || !g1.used || g0.world = g1.world || g0.party || !g1.party then refuse s h 0x16 0x03
    else match (List.range 256).find? fun n => !(bindAt s n).used with
      | none => refuse s h 0x16 0x02
      | some n => .next (reply (setBind s n (bindingOf b)) h 0x16 0 n [])

/-- A command on a live binding. -/
def takeForBind (s : State) (h : HostHdr) (op b : Nat) (f : State → Out) : Out :=
  takeMsg s h op fun s => if (bindAt s b).used then f s else refuse s h op 0x03

/-- UNBIND (R334, R341). -/
def execUnbind (h : HostHdr) (b : Nat) (s : State) : Out :=
  takeForBind s h 0x17 b fun s => .next (reply (gateUnbind s b) h 0x17 0 0 [])

/-- Deals the records of a block in order (R356): how many, and the status that stopped it. -/
def dealAll (k : Cap) (bs : List Byte) : Nat → Nat → State → State × Nat × Nat
  | 0, j, s => (s, j, 0)
  | n + 1, j, s =>
    let z := recSize (bindKind k)
    match dealRecord s (2 ^ 32) plainAccess k ((bs.drop (128 + j * z)).take z) with
    | (s', none) => dealAll k bs n (j + 1) s'
    | (s', some st) => (s', j, st)

/-- DEAL (R356): the completion carries the status word. The host's capability is one of a live binding in a dealer form. -/
def execDeal (h : HostHdr) (block : List Byte) (s : State) : Out :=
  takeBytes s h 0x18 block fun s =>
    let k : Cap := ⟨true, BitVec.ofNat 128 (fld block 0 16)⟩
    let n := fld block 16 4
    let fin (s : State) (v : DWord) : Out := .next (reply s h 0x18 0 v.toNat [])
    if block.length < 128 then refuse s h 0x18 0x06
    else if capOtype k ≠ 3 ∨ !(bindAt s (bindNo k)).used ∨ bindRole k < 2 ∨ 6 ≤ bindKind k ∨ fld block 20 108 ≠ 0 then fin s (dealWord 0 3)
    else if block.length < 128 + n * recSize (bindKind k) then refuse s h 0x18 0x06
    else
      let r := dealAll k block n 0 s
      if 256 ≤ r.2.2 then .next (reply r.1 h 0x18 0x03 (dealWord r.2.1 0).toNat [])
      else fin r.1 (dealWord r.2.1 r.2.2)

/-- No operation of a binding is outstanding but those issued while it is suspended, which wait at the gate (R342). -/
def bindQuiet (s : State) (b : Nat) : Bool :=
  (bindAt s b).channels.all fun c => c.2.paired.isEmpty && (c.2.wait0 ++ c.2.wait1).all (·.late)

/-- SUSPEND_BINDING (R342): it completes when no operation of the binding is outstanding. -/
def execSuspendBinding (h : HostHdr) (b : Nat) (s : State) : Out :=
  takeForBind s h 0x19 b fun s =>
    let s := setBind s b { bindAt s b with suspended := true }
    if bindQuiet s b then .next (reply s h 0x19 0 0 []) else .next (await s h 0x19 b .none)

/-- What the host's commands still wait for comes to its end: suspend commands whose binding has become quiet, or is gone, records at
the port for which a bin has room, and destructions whose signal words are written. -/
def hostTick (s : State) : State :=
  let s := s.assocs.foldl (fun s e => (e.2.pending.filter fun r => r.op == 0x19 && bindQuiet s r.arg).foldl
    (fun s r => completeReq s e.1 r 0 0) s) s
  endWings (tendPorts s)

/-- Every channel of a binding pairs what waits. -/
def gateRelease (s : State) (b : Nat) : State :=
  (bindAt s b).channels.foldl (fun s c =>
    let on (o : GateOp) : GateOp := { o with late := false }
    let s := setChan s b c.1 { c.2 with wait0 := c.2.wait0.map on, wait1 := c.2.wait1.map on }
    gateMatch s b c.1 (c.2.wait0.length + c.2.wait1.length)) s

/-- RESUME_BINDING (R342). -/
def execResumeBinding (h : HostHdr) (b : Nat) (s : State) : Out :=
  takeForBind s h 0x1A b fun s => .next (reply (gateRelease (setBind s b { bindAt s b with suspended := false }) b) h 0x1A 0 0 [])

-- Events of the Turnstile.

/-- GATE_EXCHANGE_COMPLETE (R343): one of the paired exchanges of a channel, a free choice; a matrix product whose tile another
source's matrix instruction may be using waits (R329). -/
def execGateExchangeComplete (b ch : Nat) (s : State) : Out :=
  let l := (chanAt (bindAt s b) ch).paired
  match l[Config.freePick s.fresh % l.length]? with
  | some e => if mmaWaits s e then .next s else .next (gateComplete (unpair (tick s) b ch e) b ch e)
  | none => .next s

/-- The peer of an operation that timed out unpaired (R341): the peer's operation of the same count, which waits already
where the binding is suspended, aborts too; else the peer's next one is void. -/
def voidPeer (s : State) (b ch p : Nat) : State :=
  let x := chanAt (bindAt s b) ch
  match p, x.wait0, x.wait1 with
  | 0, q :: qs, _ => gateEnd (setChan s b ch { x with wait0 := qs }) b ch q 0x0F 0x02 0
  | 0, [], _ => setChan s b ch { x with void0 := x.void0 + 1 }
  | _, _, q :: qs => gateEnd (setChan s b ch { x with wait1 := qs }) b ch q 0x0F 0x02 0
  | _, _, [] => setChan s b ch { x with void1 := x.void1 + 1 }

/-- TURNSTILE_TIMEOUT (R341 reason 0x02): a paired exchange, or an operation that waits at the head of its list, a free
choice; the peer's operation of the same count is then void. -/
def execTurnstileTimeout (b ch : Nat) (s : State) : Out :=
  let bd := bindAt s b
  let x := chanAt bd ch
  let n := x.paired.length + (if x.wait0.isEmpty then 0 else 1) + (if x.wait1.isEmpty then 0 else 1)
  if bd.timeout = 0 ∨ n = 0 then .next s
  else
    let i := Config.freePick s.fresh % n
    let s := tick s
    match x.paired[i]? with
    | some e => .next (gateAbort (unpair s b ch e) b ch e 0x02)
    | none => match x.wait0, x.wait1 with
      | o :: w, [] => .next (voidPeer (gateEnd (setChan s b ch { x with wait0 := w }) b ch o 0x0F 0x02 0) b ch 1)
      | [], q :: qs => .next (voidPeer (gateEnd (setChan s b ch { x with wait1 := qs }) b ch q 0x0F 0x02 0) b ch 0)
      | o :: w, q :: qs =>
        if i = x.paired.length then .next (voidPeer (gateEnd (setChan s b ch { x with wait0 := w }) b ch o 0x0F 0x02 0) b ch 1)
        else .next (voidPeer (gateEnd (setChan s b ch { x with wait1 := qs }) b ch q 0x0F 0x02 0) b ch 0)
      | [], [] => .next s

/-- GATE_UNCORRECTABLE_ERROR (R341 reason 0x03): a paired exchange, a free choice. -/
def execGateUncorrectableError (b ch : Nat) (s : State) : Out :=
  let bd := bindAt s b
  let l := (chanAt bd ch).paired
  match l[Config.freePick s.fresh % l.length]? with
  | some e =>
    let s := gateAbort (unpair (tick s) b ch e) b ch e 0x03
    .next (uncorrTrigger (uncorrTrigger s bd.wing0) bd.wing1)
  | none => .next s

-- Associations (R417, R422).

/-- KEY_ROLL (R422). -/
def execKeyRoll (h : HostHdr) (target : Nat) (s : State) : Out :=
  takeMsg s h 0x2B fun s =>
    let a := assocAt s target
    if !a.used then refuse s h 0x2B 0x03
    else if 2 ≤ a.gens.length then refuse s h 0x2B 0x02
    else
      let s := setAssoc s target { a with gens := (a.gens.headD 0 + 1) :: a.gens }
      let s := reply s h 0x2B 0 0 []
      .next (setAssoc s target (dropKeys (assocAt s target)))
where
  /-- Old keys that no request needs are dropped. -/
  dropKeys (a : Assoc) : Assoc := { a with gens := a.gens.take 1 ++ (a.gens.drop 1).filter fun g => a.pending.any fun r => r.kgen == g }

/-- HOST_ASSOCIATION_CREATE (R417). -/
def execHostAssociationCreate (h : HostHdr) (peer timeoutMs : Nat) (s : State) : Out :=
  takeMsg s h 0x30 fun s =>
    if timeoutMs < 1 ∨ 10000 < timeoutMs then refuse s h 0x30 0x06
    else
      let n := ((s.assocs.find? fun e => !e.2.used).map (·.1)).getD (tfree 0 s.assocs)
      .next (reply (setAssoc s n { used := true, peer := peer, gens := [0], timeoutMs := timeoutMs }) h 0x30 0 n [])

/-- HOST_ASSOCIATION_REMOVE (R417): management associations stay. -/
def execHostAssociationRemove (h : HostHdr) (target : Nat) (s : State) : Out :=
  takeMsg s h 0x31 fun s =>
    if !(assocAt s target).used || (assocAt s target).manage then refuse s h 0x31 0x03
    else
      let s := { s with assocs := tput s.assocs target {}, tokens := s.tokens.filter fun t => (t.host.map (·.1)) != some target }
      .next (reply s h 0x31 0 0 [])

-- Clock, power and temperature (R7, R424).

/-- CLOCK_RAISE (R7). DESIGN CHOICE: R7 names a status and no code; a raise with more than one world, or with none, answers 0x03, and
a clock other than 1,100 MHz 0x06 (log 15). -/
def execClockRaise (h : HostHdr) (mhz : Nat) (s : State) : Out :=
  takeMsg s h 0x2A fun s =>
    if mhz ≠ 1100 then refuse s h 0x2A 0x06
    else if (liveWorlds s).length ≠ 1 then refuse s h 0x2A 0x03
    else .next (reply { s with clockChange := if s.fast && s.clockChange.isNone then none else some true } h 0x2A 0 0 [])

/-- CLOCK_CHANGEOVER_COMPLETE (R7). -/
def execClockChangeoverComplete (s : State) : Out :=
  match s.clockChange with
  | some f => .next { s with fast := f, clockChange := none }
  | none => .next s

/-- POWER_CAP (R424). -/
def execPowerCap (h : HostHdr) (watts : Nat) (s : State) : Out :=
  takeMsg s h 0x2C fun s =>
    if watts < 1500 ∨ 4200 < watts then refuse s h 0x2C 0x06 else .next (reply { s with powerCap := watts } h 0x2C 0 0 [])

/-- LID_OVER_TEMPERATURE (R424): issue is limited, which takes time alone. -/
def execLidOverTemperature (s : State) : Out := .next { s with lidHot := true }
/-- LID_TEMPERATURE_NORMAL (R424). -/
def execLidTemperatureNormal (s : State) : Out := .next { s with lidHot := false }

/-- DIE_OVER_TEMPERATURE (R424): every wing is reset and power is removed. -/
def execDieOverTemperature (s : State) : Out :=
  let s := (s.wings.map (·.1)).foldl (fun s w => resetWing s w 4) s
  .next { s with powered := false, up := false }

/-- The device as bring-up leaves it before its ports are up (R423). What lies outside the device's power stays: its spares, its
retired frames and alcoves, and what the host has received. -/
def bringBase (s : State) : State :=
  { spares := s.spares, retired := s.retired, fresh := s.fresh, turn := s.turn, script := s.script, cur := s.cur, outbox := s.outbox,
    alcoves := (s.alcoves.filter fun e => e.2.retired).map fun e => (e.1, { retired := true }) }

/-- The ports with their management associations, as step 6 of bring-up leaves them (R417, R423). -/
def managePorts : Table Assoc :=
  let a : Assoc := { used := true, manage := true, gens := [0] }
  [(0, a), (1, a), (2, a), (3, a)]

/-- Bring-up has come as far as its step 6, and step 7 is still to come (R423): the ports carry management associations, whose
commands are busy. -/
def portsUp (s : State) : State :=
  if s.up || !s.powered || s.failedStep.isSome then s else { bringBase s with assocs := managePorts }

/-- POWER_ON (R423): bring-up runs whole, or stops at one of its seven steps with a detail code. -/
def execPowerOn (fail : Option (Nat × Nat)) (s : State) : Out :=
  if s.up || !stepOk fail then .next s
  else match fail with
    | some (step, detail) =>
      .next (emit { bringBase s with failedStep := some (step, detail), assocs := if step = 7 then managePorts else [] } (.bringup step detail))
    | none => .next (emit { bringBase s with up := true, assocs := managePorts } .ready)

-- Ballast (R425).

/-- The number of a kind of spare. -/
def spareNo : SpareKind → Nat | .core => 0 | .l2Slice => 1 | .dram => 2 | .linkLane => 3

/-- The wings that hold an alcove of a core. -/
def wingsOn (s : State) (core : Nat) : List Nat := (s.wings.filter fun e => e.2.used && !(coreAlcs e.2 core).isEmpty).map (·.1)

/-- A core moves to a spare behind the same number: the wings that hold its alcoves pause for it (R19, R425). -/
def moveCore (s : State) (core : Nat) : State :=
  let s := (wingsOn s core).foldl pauseWing s
  { s with tlb := s.tlb.filter fun e => e.core != core }

/-- An L2 slice moves to the spare of its die: its lines are written back, or dropped (R425). -/
def moveSlice (s : State) (slice : Nat) : State :=
  let ls := (List.range 15).flatMap fun w => worldLines s (w + 1)
  ((s.dirty.map (·.1) ++ ls).filter fun l => homeSlice (128 * l) == slice).foldl evictLine s

/-- Where the spares of an element's kind stand: two cores and one L2 slice in each compute die, a channel in each stack, lanes in
each link (R11, R18). -/
def sparePlace (kind : SpareKind) (elem : Nat) : Nat :=
  match kind with
  | .core => elem / 24
  | .l2Slice => elem / 16
  | .dram => dramStack (elem * 65536)
  | .linkLane => elem
/-- How many spares a place has; DESIGN CHOICE for DRAM and links, of which no number is stated (log 48). -/
def spareCount : SpareKind → Nat | .core => 2 | _ => 1

/-- A retired DRAM frame is reported by the intermediate addresses at which wings map it (R425). -/
def reportFrame (s : State) (frame : Nat) : State :=
  (s.wings.filter (·.2.used)).foldl (fun s e =>
    (s2Inverse s e.2 frame).foldl (fun s ipa => emit s (.retiredFrame e.1 ipa)) s) s

/-- An element without a spare is retired (R425). -/
def retireElem (s : State) (kind : SpareKind) (elem : Nat) : State :=
  match kind with
  | .core =>
    let s := (wingsOn s elem).foldl (fun s w => resetWing s w 2) s
    (List.range 4).foldl (fun s i => setAlc s (elem * 4 + i) { alcAt s (elem * 4 + i) with retired := true }) s
  | .dram => reportFrame { s with retired := tput s.retired elem true } elem
  | _ => s

/-- The key of an element among the counts of corrected errors. -/
def elemKey (kind : SpareKind) (elem : Nat) : Nat := elem * 4 + spareNo kind

/-- The kind of an element by its number. -/
def spareKindOf : Nat → SpareKind | 0 => .core | 1 => .l2Slice | 2 => .dram | _ => .linkLane

/-- An element's count of corrected errors has passed its threshold (R425). -/
def spareDue (s : State) (key : Nat) : Bool := decide (Config.correctedLimit key < tget 0 s.corrected key)

/-- An element has corrected an error, which Lemsal counts (R425). -/
def countCorrected (s : State) (kind : SpareKind) (elem : Nat) : State :=
  { s with corrected := tput s.corrected (elemKey kind elem) (tget 0 s.corrected (elemKey kind elem) + 1) }

/-- BALLAST_EXCHANGE (R19, R425): a spare comes in for an element whose count has passed its threshold, and counts anew. -/
def execBallastExchange (kind : SpareKind) (elem : Nat) (s : State) : Out :=
  let at_ := spareNo kind * 1024 + sparePlace kind elem
  let n := tget 0 s.spares at_
  let t := { s with corrected := tdel s.corrected (elemKey kind elem) }
  if !spareDue s (elemKey kind elem) then .next s
  else if n < spareCount kind then
    let s := { t with spares := tput s.spares at_ (n + 1) }
    .next (emit (match kind with | .core => moveCore s elem | .l2Slice => moveSlice s elem | _ => s) (.ballast kind elem true))
  else .next (emit (retireElem t kind elem) (.ballast kind elem false))

-- DRAM budgets (R411).

/-- The budget of a world that is in force in a stack's window. -/
def budgetOf (d : World) (stack : Nat) : Nat := (tlook d.budgets stack).getD d.q.budget

/-- BUDGET_WINDOW (R411, R412): in one stack every world's charge becomes its overshoot, and a new budget is in force. -/
def execBudgetWindow (stack : Nat) (s : State) : Out :=
  .next { s with worlds := s.worlds.map fun e =>
    (e.1, { e.2 with charge := tset 0 e.2.charge stack (tget 0 e.2.charge stack - budgetOf e.2 stack),
                     budgets := tdel e.2.budgets stack }) }

/-- The world that a DRAM request is charged to (R411); none for world 0 and Lemsal. -/
def chargedWorld (s : State) (pa : Nat) : DramUse → Option Nat
  | .access k => some (worldOf s k)
  | .sweep => s.sweep.map (·.world)
  | .pool b p => some (wingAt s (partyWing (bindAt s b) p)).world
  | .build g => some (wingAt s g).world
  | .log g => some (wingAt s g).world
  | .scrub => some (ownerAt s pa)
  | .service => none

/-- A DRAM stack serves a request (R411): it is admitted while the world's charge is below its budget, and its whole cost is
added: 1 for a burst, 4 for an activation, 2 for a turnaround. Which requests reach DRAM the caches decide (log 12). -/
def serveDram (s : State) (use : DramUse) (pa bursts acts turns : Nat) : State :=
  let stack := dramStack pa
  match chargedWorld s pa use with
  | none => s
  | some w => match tlook s.worlds w with
    | none => s
    | some d =>
      let c := tget 0 d.charge stack
      if c < budgetOf d stack then setWorld s w { d with charge := tset 0 d.charge stack (c + bursts + 4 * acts + 2 * turns) } else s

-- Vitrine (R426).

/-- SNAPSHOT_ARM (R426). -/
def execSnapshotArm (h : HostHdr) (arm : ArmSpec) (s : State) : Out :=
  takeForWing s h 0x2D fun s wing => .next (reply (setWing s wing { wingAt s wing with armed := arm }) h 0x2D 0 0 [])

/-- SNAPSHOT_TRIGGER (R426). -/
def execSnapshotTrigger (h : HostHdr) (s : State) : Out :=
  takeMsg s h 0x2E fun s => .next (reply (capTrigger s []) h 0x2E 0 0 [])

/-- SNAPSHOT_READOUT (R426): the held capture goes to the host with the completion (log 15). -/
def execSnapshotReadout (h : HostHdr) (s : State) : Out :=
  takeMsg s h 0x2F fun s => match s.capHeld with
    | some c => .next (reply (emit { s with capHeld := none } (.capture h.token c)) h 0x2F 0 c.seqNo.toNat [])
    | none => refuse s h 0x2F 0x02

/-- What a capture holds of a wave (R426). -/
def captureWave (k : Nat) (w : Wave) : CapWave :=
  { wave := k, pcA := w.a.pc, stA := w.a.st, pcB := w.b.pc, stB := w.b.st,
    seqs := [w.seqC.running, w.seqM.running, w.seqG.running], stop := w.stop,
    counts := (List.range 6).map fun p => tget 0 w.counts p }

/-- The queue segments that hold launches, with their number (R383). -/
def segmentLoads (s : State) : List (Nat × Nat) :=
  let segs := s.levels.filterMap fun e => match e.2.body with
    | .launch _ g none => if e.2.used then some g else none
    | _ => none
  segs.eraseDups.map fun g => (g, (segs.filter (· == g)).length)

/-- The status that a capture latches (R426). -/
def captureStatus (s : State) : CapStatus :=
  { waves := (s.waves.filter (·.2.used)).map fun e => captureWave e.1 e.2
    queues := segmentLoads s
    bins := (s.nodes.filter (·.2.used)).map fun e => (e.1, e.2.bin.length)
    wings := (s.wings.filter (·.2.used)).map fun e => (e.1, e.2.run)
    errors := [s.droppedOption, s.droppedKey, s.capIgnored]
    corrected := s.corrected
    temps := s.temps
    lidHot := s.lidHot }

/-- A hold at a capture's edge (R427). -/
def latchHold (n : Nat) : Hold → Hold
  | .latch => .latched n
  | h => h

/-- A slot of a wave waits for a capture's edge (R427). -/
def waitsLatch (w : Wave) : Bool :=
  w.used && ([w.a.hold, w.b.hold] ++ match w.frame with | some f => [f.a.hold, f.b.hold] | none => []).contains .latch

/-- The wings with a SNAP that waits for the edge. -/
def latchWings (s : State) : List Nat :=
  (s.wings.map (·.1)).filter fun g =>
    s.waves.any (fun e => waitsLatch e.2 && wingNoOf s e.1 == g)
      || s.alcoves.any (fun e => match e.2.shadow with | some (x, c) => x == g && c.waves.any waitsLatch | none => false)
      || s.images.any fun im => !im.spent && im.wing == g && im.gen == (wingAt s g).gen && im.ctxs.any fun c => c.waves.any waitsLatch

/-- VITRINE_LATCH (R426, R427): the pending capture is taken and held; every SNAP that joined it and still waits has its number, and so has
its wing. -/
def execVitrineLatch (s : State) : Out :=
  match s.capPending with
  | none => .next s
  | some c =>
    let n := c.seqNo.toNat
    let s := { s with capHeld := some { c with status := captureStatus s }, capPending := none }
    let s := (latchWings s).foldl (fun s g => setWing s g { wingAt s g with snapId := c.seqNo }) s
    .next (mapEveryWave s fun w => mapHolds w (latchHold n))

end Sys2Proof.Machine
end

