-- ==== Sys2Proof/Machine/Dispatch.lean ====
section
/-! DEFINITION. The step of one instruction or event: one arm per constructor, each one call of its meaning. -/
namespace Sys2Proof.Machine

/-- The effect of an instruction on the agent that the state names, or of an event. -/
def exec (i : Instr) (s : State) : Host.Outcome State Fault Refusal :=
  match i with
  | .setm sw h imm => Sys2Proof.Machine.execSetm sw h imm s
  | .setms sw a => Sys2Proof.Machine.execSetms sw a s
  | .getm sw d => Sys2Proof.Machine.execGetm sw d s
  | .nop sw => Sys2Proof.Machine.execNop sw s
  | .bra sw j => Sys2Proof.Machine.execBra sw j s
  | .brp sw p n j => Sys2Proof.Machine.execBrp sw p n j s
  | .sjoin sw j => Sys2Proof.Machine.execSjoin sw j s
  | .join sw => Sys2Proof.Machine.execJoin sw s
  | .call sw j => Sys2Proof.Machine.execCall sw j s
  | .ret sw a => Sys2Proof.Machine.execRet sw a s
  | .jmpc sw a => Sys2Proof.Machine.execJmpc sw a s
  | .jmpcLink sw d a => Sys2Proof.Machine.execJmpcLink sw d a s
  | .exit sw => Sys2Proof.Machine.execExit sw s
  | .yield sw => Sys2Proof.Machine.execYield sw s
  | .sadd sw d a b imm => Sys2Proof.Machine.execSadd sw d a b imm s
  | .ssub sw d a b imm => Sys2Proof.Machine.execSsub sw d a b imm s
  | .smul sw d a b imm => Sys2Proof.Machine.execSmul sw d a b imm s
  | .smulh sw d a b imm u => Sys2Proof.Machine.execSmulh sw d a b imm u s
  | .sand sw d a b imm => Sys2Proof.Machine.execSand sw d a b imm s
  | .sor sw d a b imm => Sys2Proof.Machine.execSor sw d a b imm s
  | .sxor sw d a b imm => Sys2Proof.Machine.execSxor sw d a b imm s
  | .sshl sw d a b imm => Sys2Proof.Machine.execSshl sw d a b imm s
  | .sshr sw d a b imm => Sys2Proof.Machine.execSshr sw d a b imm s
  | .ssra sw d a b imm => Sys2Proof.Machine.execSsra sw d a b imm s
  | .smin sw d a b imm u => Sys2Proof.Machine.execSmin sw d a b imm u s
  | .smax sw d a b imm u => Sys2Proof.Machine.execSmax sw d a b imm u s
  | .scmp sw c p a b imm u => Sys2Proof.Machine.execScmp sw c p a b imm u s
  | .ssel sw d a b => Sys2Proof.Machine.execSsel sw d a b s
  | .sbfx sw d a b x => Sys2Proof.Machine.execSbfx sw d a b x s
  | .spopc sw d a => Sys2Proof.Machine.execSpopc sw d a s
  | .spopcP sw d a => Sys2Proof.Machine.execSpopcP sw d a s
  | .smovi sw d imm => Sys2Proof.Machine.execSmovi sw d imm s
  | .slui sw d imm => Sys2Proof.Machine.execSlui sw d imm s
  | .pand sw d a b => Sys2Proof.Machine.execPand sw d a b s
  | .por sw d a b => Sys2Proof.Machine.execPor sw d a b s
  | .pxor sw d a b => Sys2Proof.Machine.execPxor sw d a b s
  | .pnot sw d a => Sys2Proof.Machine.execPnot sw d a s
  | .pmov sw d a => Sys2Proof.Machine.execPmov sw d a s
  | .pmovFromS sw d a => Sys2Proof.Machine.execPmovFromS sw d a s
  | .pmovToS sw d a => Sys2Proof.Machine.execPmovToS sw d a s
  | .pmovMask sw d => Sys2Proof.Machine.execPmovMask sw d s
  | .vadd sw d a b imm => Sys2Proof.Machine.execVadd sw d a b imm s
  | .vsub sw d a b imm => Sys2Proof.Machine.execVsub sw d a b imm s
  | .vmul sw d a b imm => Sys2Proof.Machine.execVmul sw d a b imm s
  | .vmulh sw d a b imm => Sys2Proof.Machine.execVmulh sw d a b imm s
  | .vmad sw d a b imm => Sys2Proof.Machine.execVmad sw d a b imm s
  | .vmin sw d a b imm => Sys2Proof.Machine.execVmin sw d a b imm s
  | .vmax sw d a b imm => Sys2Proof.Machine.execVmax sw d a b imm s
  | .vabs sw d a => Sys2Proof.Machine.execVabs sw d a s
  | .vneg sw d a => Sys2Proof.Machine.execVneg sw d a s
  | .vand sw d a b imm => Sys2Proof.Machine.execVand sw d a b imm s
  | .vor sw d a b imm => Sys2Proof.Machine.execVor sw d a b imm s
  | .vxor sw d a b imm => Sys2Proof.Machine.execVxor sw d a b imm s
  | .vnot sw d a => Sys2Proof.Machine.execVnot sw d a s
  | .vshl sw d a b imm => Sys2Proof.Machine.execVshl sw d a b imm s
  | .vshr sw d a b imm => Sys2Proof.Machine.execVshr sw d a b imm s
  | .vsra sw d a b imm => Sys2Proof.Machine.execVsra sw d a b imm s
  | .vcmp sw c p a b imm => Sys2Proof.Machine.execVcmp sw c p a b imm s
  | .vsel sw d a b imm => Sys2Proof.Machine.execVsel sw d a b imm s
  | .vmov sw d a => Sys2Proof.Machine.execVmov sw d a s
  | .vmovImm sw d b => Sys2Proof.Machine.execVmovImm sw d b s
  | .vmovs sw d a => Sys2Proof.Machine.execVmovs sw d a s
  | .vmovsToS sw d a => Sys2Proof.Machine.execVmovsToS sw d a s
  | .vlid sw d g => Sys2Proof.Machine.execVlid sw d g s
  | .vclz sw d a => Sys2Proof.Machine.execVclz sw d a s
  | .vpopc sw d a => Sys2Proof.Machine.execVpopc sw d a s
  | .vdiv sw d a b imm => Sys2Proof.Machine.execVdiv sw d a b imm s
  | .vrcp sw d a => Sys2Proof.Machine.execVrcp sw d a s
  | .vrsq sw d a => Sys2Proof.Machine.execVrsq sw d a s
  | .vex2 sw d a => Sys2Proof.Machine.execVex2 sw d a s
  | .vlg2 sw d a => Sys2Proof.Machine.execVlg2 sw d a s
  | .vsqrt sw d a => Sys2Proof.Machine.execVsqrt sw d a s
  | .vcvt sw d a => Sys2Proof.Machine.execVcvt sw d a s
  | .vpack sw d a b h => Sys2Proof.Machine.execVpack sw d a b h s
  | .vunpk sw d a g => Sys2Proof.Machine.execVunpk sw d a g s
  | .vqnt sw d a b => Sys2Proof.Machine.execVqnt sw d a b s
  | .vdqnt sw d a b => Sys2Proof.Machine.execVdqnt sw d a b s
  | .vcbk sw d a b => Sys2Proof.Machine.execVcbk sw d a b s
  | .vrng sw d b imm => Sys2Proof.Machine.execVrng sw d b imm s
  | .rseed sw d a => Sys2Proof.Machine.execRseed sw d a s
  | .vshfl sw d a b imm => Sys2Proof.Machine.execVshfl sw d a b imm s
  | .vbfly sw d a b => Sys2Proof.Machine.execVbfly sw d a b s
  | .vball sw d a => Sys2Proof.Machine.execVball sw d a s
  | .vany sw d a => Sys2Proof.Machine.execVany sw d a s
  | .vall sw d a => Sys2Proof.Machine.execVall sw d a s
  | .vscan sw d a x => Sys2Proof.Machine.execVscan sw d a x s
  | .vmxix sw d a b => Sys2Proof.Machine.execVmxix sw d a b s
  | .vmxixC sw d a b => Sys2Proof.Machine.execVmxixC sw d a b s
  | .vmxixD sw d a => Sys2Proof.Machine.execVmxixD sw d a s
  | .vreds sw d a x => Sys2Proof.Machine.execVreds sw d a x s
  | .cgeta sw d a => Sys2Proof.Machine.execCgeta sw d a s
  | .cgetb sw d a => Sys2Proof.Machine.execCgetb sw d a s
  | .cgetl sw d a => Sys2Proof.Machine.execCgetl sw d a s
  | .cgetp sw d a => Sys2Proof.Machine.execCgetp sw d a s
  | .cgett sw d a => Sys2Proof.Machine.execCgett sw d a s
  | .cseta sw d a b x => Sys2Proof.Machine.execCseta sw d a b x s
  | .cinc sw d a imm => Sys2Proof.Machine.execCinc sw d a imm s
  | .csetb sw d a b x => Sys2Proof.Machine.execCsetb sw d a b x s
  | .cprune sw d a b => Sys2Proof.Machine.execCprune sw d a b s
  | .cseal sw d a b => Sys2Proof.Machine.execCseal sw d a b s
  | .cunsl sw d a b => Sys2Proof.Machine.execCunsl sw d a b s
  | .cmov sw d a => Sys2Proof.Machine.execCmov sw d a s
  | .cmovS sw d a => Sys2Proof.Machine.execCmovS sw d a s
  | .cmovFromVc sw d a => Sys2Proof.Machine.execCmovFromVc sw d a s
  | .cmovToVc sw d a => Sys2Proof.Machine.execCmovToVc sw d a s
  | .cmovVc sw d a => Sys2Proof.Machine.execCmovVc sw d a s
  | .ctest sw d a b => Sys2Proof.Machine.execCtest sw d a b s
  | .cldc sw t c o imm => Sys2Proof.Machine.execCldc sw t c o imm s
  | .cstc sw t c o imm => Sys2Proof.Machine.execCstc sw t c o imm s
  | .vcld sw t c o imm => Sys2Proof.Machine.execVcld sw t c o imm s
  | .vcst sw t c o imm => Sys2Proof.Machine.execVcst sw t c o imm s
  | .ld sw t c o imm => Sys2Proof.Machine.execLd sw t c o imm s
  | .st sw t c o imm => Sys2Proof.Machine.execSt sw t c o imm s
  | .ldu sw t c o imm => Sys2Proof.Machine.execLdu sw t c o imm s
  | .stu sw t c o imm => Sys2Proof.Machine.execStu sw t c o imm s
  | .lds sw t c o imm => Sys2Proof.Machine.execLds sw t c o imm s
  | .sts sw t c o imm => Sys2Proof.Machine.execSts sw t c o imm s
  | .gath sw t c o imm => Sys2Proof.Machine.execGath sw t c o imm s
  | .scat sw t c o imm => Sys2Proof.Machine.execScat sw t c o imm s
  | .pref sw t c o imm => Sys2Proof.Machine.execPref sw t c o imm s
  | .ldac sw t c o e => Sys2Proof.Machine.execLdac sw t c o e s
  | .strl sw t c o e => Sys2Proof.Machine.execStrl sw t c o e s
  | .waitc sw d a b imm => Sys2Proof.Machine.execWaitc sw d a b imm s
  | .rdcnt sw d a e => Sys2Proof.Machine.execRdcnt sw d a e s
  | .tcpy sw t c o imm => Sys2Proof.Machine.execTcpy sw t c o imm s
  | .bcpy sw t c o => Sys2Proof.Machine.execBcpy sw t c o s
  | .publ sw t c o => Sys2Proof.Machine.execPubl sw t c o s
  | .fork sw p j => Sys2Proof.Machine.execFork sw p j s
  | .rdvz sw p => Sys2Proof.Machine.execRdvz sw p s
  | .ende sw => Sys2Proof.Machine.execEnde sw s
  | .aadd sw t c o e q => Sys2Proof.Machine.execAadd sw t c o e q s
  | .amin sw t c o e q => Sys2Proof.Machine.execAmin sw t c o e q s
  | .amax sw t c o e q => Sys2Proof.Machine.execAmax sw t c o e q s
  | .aand sw t c o e q => Sys2Proof.Machine.execAand sw t c o e q s
  | .aor sw t c o e q => Sys2Proof.Machine.execAor sw t c o e q s
  | .axor sw t c o e q => Sys2Proof.Machine.execAxor sw t c o e q s
  | .axchg sw t c o e q => Sys2Proof.Machine.execAxchg sw t c o e q s
  | .acas sw t c o e q => Sys2Proof.Machine.execAcas sw t c o e q s
  | .amxix sw t c o e q => Sys2Proof.Machine.execAmxix sw t c o e q s
  | .axadd sw t c o e q => Sys2Proof.Machine.execAxadd sw t c o e q s
  | .axrd sw t c o e q => Sys2Proof.Machine.execAxrd sw t c o e q s
  | .dqpsh sw t c o e q => Sys2Proof.Machine.execDqpsh sw t c o e q s
  | .dqpop sw t c o e q => Sys2Proof.Machine.execDqpop sw t c o e q s
  | .dqstl sw t c o e q => Sys2Proof.Machine.execDqstl sw t c o e q s
  | .bari sw t c o => Sys2Proof.Machine.execBari sw t c o s
  | .bara sw t c o => Sys2Proof.Machine.execBara sw t c o s
  | .barw sw t c o => Sys2Proof.Machine.execBarw sw t c o s
  | .barx sw t c o => Sys2Proof.Machine.execBarx sw t c o s
  | .mclm sw r => Sys2Proof.Machine.execMclm sw r s
  | .mclmT sw n r => Sys2Proof.Machine.execMclmT sw n r s
  | .mrls sw r => Sys2Proof.Machine.execMrls sw r s
  | .mldo sw t c o b => Sys2Proof.Machine.execMldo sw t c o b s
  | .mma sw n a b k g => Sys2Proof.Machine.execMma sw n a b k g s
  | .mzero sw n => Sys2Proof.Machine.execMzero sw n s
  | .mzeroF sw n => Sys2Proof.Machine.execMzeroF sw n s
  | .mzeroT sw => Sys2Proof.Machine.execMzeroT sw s
  | .mrda sw n r q => Sys2Proof.Machine.execMrda sw n r q s
  | .mwra sw n r q => Sys2Proof.Machine.execMwra sw n r q s
  | .mdrn sw n a r z f => Sys2Proof.Machine.execMdrn sw n a r z f s
  | .tldp sw t c o imm => Sys2Proof.Machine.execTldp sw t c o imm s
  | .mscl sw n r => Sys2Proof.Machine.execMscl sw n r s
  | .mcab sw c o imm => Sys2Proof.Machine.execMcab sw c o imm s
  | .accsv sw t c o imm => Sys2Proof.Machine.execAccsv sw t c o imm s
  | .accrs sw t c o imm => Sys2Proof.Machine.execAccrs sw t c o imm s
  | .mstat sw d => Sys2Proof.Machine.execMstat sw d s
  | .shtrp sw d a b => Sys2Proof.Machine.execShtrp sw d a b s
  | .shopn sw a b r => Sys2Proof.Machine.execShopn sw a b r s
  | .shrcv sw d b r => Sys2Proof.Machine.execShrcv sw d b r s
  | .shmul sw d a b => Sys2Proof.Machine.execShmul sw d a b s
  | .shtrc sw d a f => Sys2Proof.Machine.execShtrc sw d a f s
  | .shbtr sw d a b => Sys2Proof.Machine.execShbtr sw d a b s
  | .shcmp sw d a b => Sys2Proof.Machine.execShcmp sw d a b s
  | .shrvl sw a b => Sys2Proof.Machine.execShrvl sw a b s
  | .shrvlR sw d a b => Sys2Proof.Machine.execShrvlR sw d a b s
  | .shdeal sw t c o => Sys2Proof.Machine.execShdeal sw t c o s
  | .shsta sw d a k => Sys2Proof.Machine.execShsta sw d a k s
  | .shdsc sw d a b => Sys2Proof.Machine.execShdsc sw d a b s
  | .shmma sw n a b r => Sys2Proof.Machine.execShmma sw n a b r s
  | .rcpdef sw t c o b => Sys2Proof.Machine.execRcpdef sw t c o b s
  | .rcppin sw d a => Sys2Proof.Machine.execRcppin sw d a s
  | .rcpunp sw d a => Sys2Proof.Machine.execRcpunp sw d a s
  | .rcpdrp sw d a => Sys2Proof.Machine.execRcpdrp sw d a s
  | .rcpdrpR sw d a => Sys2Proof.Machine.execRcpdrpR sw d a s
  | .rcpqry sw d a => Sys2Proof.Machine.execRcpqry sw d a s
  | .enq sw t c o imm => Sys2Proof.Machine.execEnq sw t c o imm s
  | .enqa sw t c o => Sys2Proof.Machine.execEnqa sw t c o s
  | .cancl sw d a => Sys2Proof.Machine.execCancl sw d a s
  | .compl sw d a => Sys2Proof.Machine.execCompl sw d a s
  | .teth sw d imm => Sys2Proof.Machine.execTeth sw d imm s
  | .qpsh sw a => Sys2Proof.Machine.execQpsh sw a s
  | .qpop sw d => Sys2Proof.Machine.execQpop sw d s
  | .sels sw d a => Sys2Proof.Machine.execSels sw d a s
  | .prio sw d a => Sys2Proof.Machine.execPrio sw d a s
  | .phset sw a => Sys2Proof.Machine.execPhset sw a s
  | .trap sw imm => Sys2Proof.Machine.execTrap sw imm s
  | .sret sw => Sys2Proof.Machine.execSret sw s
  | .mfsr sw d r => Sys2Proof.Machine.execMfsr sw d r s
  | .mtsr sw d r => Sys2Proof.Machine.execMtsr sw d r s
  | .mtsrMode sw d => Sys2Proof.Machine.execMtsrMode sw d s
  | .mtsrAccown sw d => Sys2Proof.Machine.execMtsrAccown sw d s
  | .mtsrPix sw d => Sys2Proof.Machine.execMtsrPix sw d s
  | .mtsrFlags sw d => Sys2Proof.Machine.execMtsrFlags sw d s
  | .mtsrTrapcause sw d => Sys2Proof.Machine.execMtsrTrapcause sw d s
  | .pgmap sw t c o => Sys2Proof.Machine.execPgmap sw t c o s
  | .lpinv sw a b => Sys2Proof.Machine.execLpinv sw a b s
  | .lpinvW sw => Sys2Proof.Machine.execLpinvW sw s
  | .tlbi sw a b => Sys2Proof.Machine.execTlbi sw a b s
  | .tlbiW sw => Sys2Proof.Machine.execTlbiW sw s
  | .cflsh sw t c o imm => Sys2Proof.Machine.execCflsh sw t c o imm s
  | .cinv sw t c o => Sys2Proof.Machine.execCinv sw t c o s
  | .snap sw d imm => Sys2Proof.Machine.execSnap sw d imm s
  | .halt sw => Sys2Proof.Machine.execHalt sw s
  | .pixrd sw d a => Sys2Proof.Machine.execPixrd sw d a s
  | .pixwr sw a b => Sys2Proof.Machine.execPixwr sw a b s
  | .scrub sw t c o => Sys2Proof.Machine.execScrub sw t c o s
  | .powerOn fail => Sys2Proof.Machine.execPowerOn fail s
  | .unitStart wing slots => Sys2Proof.Machine.execUnitStart wing slots s
  | .unitRetirement u => Sys2Proof.Machine.execUnitRetirement u s
  | .levelCompletion slot => Sys2Proof.Machine.execLevelCompletion slot s
  | .phaseStart job => Sys2Proof.Machine.execPhaseStart job s
  | .nodeTimerExpiry node => Sys2Proof.Machine.execNodeTimerExpiry node s
  | .agingThreshold w => Sys2Proof.Machine.execAgingThreshold w s
  | .countedAccessComplete w path => Sys2Proof.Machine.execCountedAccessComplete w path s
  | .barrierDelivery w path n => Sys2Proof.Machine.execBarrierDelivery w path n s
  | .publFlip w => Sys2Proof.Machine.execPublFlip w s
  | .contextSwap wing => Sys2Proof.Machine.execContextSwap wing s
  | .stopTimeout wing => Sys2Proof.Machine.execStopTimeout wing s
  | .shadowOrHubError wing => Sys2Proof.Machine.execShadowOrHubError wing s
  | .matrixUncorrectableError alc w inCabinet => Sys2Proof.Machine.execMatrixUncorrectableError alc w inCabinet s
  | .registerUncorrectableError w => Sys2Proof.Machine.execRegisterUncorrectableError w s
  | .unitRelaunch u slots => Sys2Proof.Machine.execUnitRelaunch u slots s
  | .gateExchangeComplete b ch => Sys2Proof.Machine.execGateExchangeComplete b ch s
  | .turnstileTimeout b ch => Sys2Proof.Machine.execTurnstileTimeout b ch s
  | .revocationSweepStart => Sys2Proof.Machine.execRevocationSweepStart s
  | .revocationSweepComplete => Sys2Proof.Machine.execRevocationSweepComplete s
  | .recipeBuildComplete wing id => Sys2Proof.Machine.execRecipeBuildComplete wing id s
  | .recipeBuildFailure wing id => Sys2Proof.Machine.execRecipeBuildFailure wing id s
  | .budgetWindow stack => Sys2Proof.Machine.execBudgetWindow stack s
  | .vitrineLatch => Sys2Proof.Machine.execVitrineLatch s
  | .clockChangeoverComplete => Sys2Proof.Machine.execClockChangeoverComplete s
  | .gateUncorrectableError b ch => Sys2Proof.Machine.execGateUncorrectableError b ch s
  | .lidTemperatureNormal => Sys2Proof.Machine.execLidTemperatureNormal s
  | .hostEnq h cap rec => Sys2Proof.Machine.execHostEnq h cap rec s
  | .hostEnqa h rec bind => Sys2Proof.Machine.execHostEnqa h rec bind s
  | .hostRead h cap off len => Sys2Proof.Machine.execHostRead h cap off len s
  | .hostWrite h cap off data => Sys2Proof.Machine.execHostWrite h cap off data s
  | .capw h cap off images => Sys2Proof.Machine.execCapw h cap off images s
  | .hostOpcodeUnassigned h op => Sys2Proof.Machine.execHostOpcodeUnassigned h op s
  | .wingCreate h block => Sys2Proof.Machine.execWingCreate h block s
  | .wingDestroy h => Sys2Proof.Machine.execWingDestroy h s
  | .quota h world q => Sys2Proof.Machine.execQuota h world q s
  | .stage2TableWrite h ipa level entry => Sys2Proof.Machine.execStage2TableWrite h ipa level entry s
  | .graphCreate h done parent nodes => Sys2Proof.Machine.execGraphCreate h done parent nodes s
  | .jobCreate h desc => Sys2Proof.Machine.execJobCreate h desc s
  | .bind h b => Sys2Proof.Machine.execBind h b s
  | .unbind h b => Sys2Proof.Machine.execUnbind h b s
  | .deal h block => Sys2Proof.Machine.execDeal h block s
  | .suspendBinding h b => Sys2Proof.Machine.execSuspendBinding h b s
  | .resumeBinding h b => Sys2Proof.Machine.execResumeBinding h b s
  | .preEmptWing h => Sys2Proof.Machine.execPreEmptWing h s
  | .restoreWing h image intact => Sys2Proof.Machine.execRestoreWing h image intact s
  | .saveOut h => Sys2Proof.Machine.execSaveOut h s
  | .unitPreEmpt h ctx => Sys2Proof.Machine.execUnitPreEmpt h ctx s
  | .haltResume h ctx => Sys2Proof.Machine.execHaltResume h ctx s
  | .haltEnd h ctx => Sys2Proof.Machine.execHaltEnd h ctx s
  | .stage2Answer h tok retry => Sys2Proof.Machine.execStage2Answer h tok retry s
  | .poolRefill h tok frames => Sys2Proof.Machine.execPoolRefill h tok frames s
  | .wingReset h => Sys2Proof.Machine.execWingReset h s
  | .hostCancel h id => Sys2Proof.Machine.execHostCancel h id s
  | .hostScrub h phys base len owner => Sys2Proof.Machine.execHostScrub h phys base len owner s
  | .hostRevocationSweep h world rec => Sys2Proof.Machine.execHostRevocationSweep h world rec s
  | .logEnable h ring idx bitmap n => Sys2Proof.Machine.execLogEnable h ring idx bitmap n s
  | .harvest h first count => Sys2Proof.Machine.execHarvest h first count s
  | .logDisable h => Sys2Proof.Machine.execLogDisable h s
  | .clockRaise h mhz => Sys2Proof.Machine.execClockRaise h mhz s
  | .keyRoll h target => Sys2Proof.Machine.execKeyRoll h target s
  | .powerCap h watts => Sys2Proof.Machine.execPowerCap h watts s
  | .snapshotArm h arm => Sys2Proof.Machine.execSnapshotArm h arm s
  | .snapshotTrigger h => Sys2Proof.Machine.execSnapshotTrigger h s
  | .snapshotReadout h => Sys2Proof.Machine.execSnapshotReadout h s
  | .hostAssociationCreate h peer timeoutMs => Sys2Proof.Machine.execHostAssociationCreate h peer timeoutMs s
  | .hostAssociationRemove h target => Sys2Proof.Machine.execHostAssociationRemove h target s
  | .levelClose h id => Sys2Proof.Machine.execLevelClose h id s
  | .stage1Map h va req frame => Sys2Proof.Machine.execStage1Map h va req frame s
  | .unsupportedOptionPacket port => Sys2Proof.Machine.execUnsupportedOptionPacket port s
  | .deadGenerationPacket assoc kgen => Sys2Proof.Machine.execDeadGenerationPacket assoc kgen s
  | .kgenRequestTimeout assoc token => Sys2Proof.Machine.execKgenRequestTimeout assoc token s
  | .lidOverTemperature => Sys2Proof.Machine.execLidOverTemperature s
  | .dieOverTemperature => Sys2Proof.Machine.execDieOverTemperature s
  | .ballastExchange kind elem => Sys2Proof.Machine.execBallastExchange kind elem s

end Sys2Proof.Machine
end

