-- ==== Sys2Proof/Machine/Scheduler.lean ====
section
/-! DEFINITION. Which source may issue (R21-R25, R306, R308, R317, R391), the fetch of its word (R68), what an issue leaves in
the wave (R306, R394), the moves that are no instruction, and the order of moves where no script gives one (log 4). -/
namespace Sys2Proof.Machine

-- Issue.

/-- A hold under which a source may issue: none, a wait that tries again, or an answer that has come. -/
def issuable : Hold → Bool
  | .s2 _ => false
  | .refill _ => false
  | .recipe _ => false
  | .gate => false
  | .latch => false
  | .bar .. => false
  | .fetch h => issuable h
  | _ => true

/-- A hold on work under way whose answer has come: its instruction runs to its end in a stopped wave too (R306). -/
def ending : Hold → Bool
  | .busy => true
  | .s2again .. => true
  | .s2failed .. => true
  | .recipeFailed _ => true
  | .barSeen => true
  | .refused => true
  | .latched _ => true
  | _ => false

/-- A halt state lets a source with a hold issue: in the skid only what does not wait and is not part-way, at most 24
(R306). -/
def stopAllows (g : Wing) (st : StopState) (h : Hold) (mid : Bool) : Bool :=
  match st with
  | .running => g.run == .running
  | .skidding n => ending h || (h == .none && !mid && decide (n < Config.skidLimit))
  | .stopped => ending h

/-- A slot is in the middle of a run and does not wait. -/
def midRun (x : Slot) : Bool := x.snap.isSome && (x.hold == .none || x.hold == .part)

/-- The turn of a slot (R22, R24, R269): a slot issues only while the other one is not in the middle of a run, unless that one
waits; where both are READY at the start of a run, only where it was the other one that ran last. In a stopped wave an answer that has
come is taken at once (R306). -/
def turnOf (w : Wave) (src : Src) : Bool :=
  let x := slotOf w src
  let o := slotOf w (otherSrc src)
  o.st != .ready || midRun x || (w.stop != .running && ending x.hold)
    || (!midRun o && !(x.snap.isNone && x.hold == .none && o.hold == .none && (w.lastSlot == (src == .slotB))))

/-- A sequencer may go on by its own halt state: in a handler only the handler's own (R308, R313). -/
def seqMay (g : Wing) (w : Wave) (q : Seq) : Bool :=
  q.running && (w.frame.isNone || q.handler) && stopAllows g q.stop q.hold q.prog.isSome

/-- A source of a wave may issue. -/
def canIssue (s : State) (k : Nat) (src : Src) : Bool :=
  let w := waveAt s k
  let u := unitAt s w.unit
  let h := srcHold w src
  w.used && u.used && u.ending.isNone && u.boot.isNone && s.clockChange.isNone && issuable h
    && (if isSeq src then seqMay (wingAt s u.wing) w (seqOf w src)
        else stopAllows (wingAt s u.wing) w.stop h (slotOf w src).prog.isSome && (slotOf w src).st == .ready && turnOf w src)

-- Fetch.

/-- What a fetch gives: a word with the state that its translation leaves, a trap, or a stage-2 miss. -/
inductive Fetched where
  | word (w : Word) (s : State)
  | trap (cause : Nat)
  | s2 (ipa kind : Nat)

/-- The checks of a fetch on PCC (R68). -/
def pccCause (c : Cap) (pc : Nat) : Option Nat :=
  if !c.tag then some 0x01
  else if (pc : Int) < capBase c ∨ capTop c < (pc + 4 : Nat) then some 0x02
  else if !capHas c pEXEC then some 0x03
  else none

/-- The TLB holds the page of a fetch (R229). -/
def noteFetch (s : State) (k va : Nat) (t : Tr) : State := noteLane s k 34 va t

/-- The fetch of the next word of a source (R68, R227): an owner tag or an uncorrectable error ends it as it ends a
read (R204, R407), and so does a host that fails it (R234). -/
def fetch (s : State) (k : Nat) (src : Src) : Fetched :=
  let w := waveAt s k
  let pc := (srcPc w src).toNat
  match pccCause (getC (srcRead w src) 31) pc with
  | some e => .trap e
  | none => if failedAt (fetchHold (srcHold w src)) pc 4 then .trap 0x09 else match translateAs s k 34 pc .fetch (fetchHold (srcHold w src)) with
    | .fault e => .trap e
    | .s2 ipa kind => .s2 ipa kind
    | .ok pa ipa e sh =>
      if ownerBad s (wingOf s k) pa ipa 4 then .trap 0x06
      else if poisoned s pa 4 then .trap 0x15
      else .word (BitVec.ofNat 32 (readNat s pa 4)) (noteFetch s k pc (.ok pa ipa e sh))

/-- A fetch that meets a stage-2 miss waits for the host (R233). Its instruction has not issued: a wave that stops meanwhile does not
issue it (R306). -/
def fetchMiss (s : State) (k : Nat) (src : Src) (ipa kind : Nat) : State :=
  let c := ctxOf s k src
  waitWith (sendS2 s k src none c.pc.toNat ipa kind .fetch) c (.fetch (.s2 s.nextTok))

/-- The instruction is YIELD. -/
def isYield : Instr → Bool
  | .yield _ => true
  | _ => false

/-- An instruction that has issued in the skid is counted, in its wave or, for a sequencer, in that one (R306). -/
def countSkid (src : Src) (w : Wave) : Wave :=
  if isSeq src then
    let q := seqOf w src
    match q.stop with
    | .skidding n => putSeq w src { q with stop := .skidding (n + 1), skid := BitVec.ofNat 8 (n + 1) }
    | _ => w
  else match w.stop with
    | .skidding n => { w with stop := .skidding (n + 1), skid := BitVec.ofNat 8 (n + 1) }
    | _ => w

/-- What an issue leaves in the wave: an instruction in the skid is counted, unless it waits and is left unissued (R306); a
run other than YIELD ends the wait for a turn (R394). `h` is the source's hold before it. -/
def afterIssue (k : Nat) (src : Src) (h : Hold) (i : Instr) (s : State) : State :=
  let w := waveAt s k
  let w := if h = .none && !idleWait (srcHold w src) then countSkid src w else w
  if w.used then setWave s k (if isYield i then w else { w with aged := false, since := s.fresh }) else s

-- The moves that are no instruction.

/-- A move that is neither an issue nor an event. -/
def quietMove (s : State) : Move → State
  | .perform w k n => (perform s w k n).getD s
  | .stop w => stopNowWave s w
  | .evict line => evictLine s line
  | .decay line => { s with poison := tput s.poison line true }
  | .decayScr unit chunk =>
    let u := unitAt s unit
    if u.used then setUnit s unit { u with scrPoison := tput u.scrPoison chunk true } else s
  | .loadMixed wing => if (wingAt s wing).used then setWing s wing { wingAt s wing with mixed := true } else s
  | .part i n => match i with
    | .hostRead h cap off len => match readPart h cap off len n s with
      | .next t => t
      | _ => s
    | _ => s
  | .portsUp => portsUp s
  | .corrected kind elem => countCorrected s kind elem
  | .sense sensor reading => { s with temps := tput s.temps sensor reading }
  | .gateStep b ch => gateStep (tick s) b ch
  | .bring im key => bringImage s im key
  | .dram use pa bursts acts turns => serveDram s use pa bursts acts turns
  | .settle _ _ => s
  | .issue _ _ => s
  | .event _ => s

-- An instruction under way in a trap frame (R306).

/-- A slot of a wave's trap frame, or a sequencer that its handler has not forked, has an instruction under way whose answer has come:
it runs to its end. -/
def canSettle (s : State) (k : Nat) (src : Src) : Bool :=
  let w := waveAt s k
  let u := unitAt s w.unit
  w.used && u.used && u.ending.isNone && s.clockChange.isNone && (wingAt s u.wing).run != .swapped
    && match w.frame with
      | some fr =>
        if isSeq src then (seqOf w src).running && !(seqOf w src).handler && ending (seqOf w src).hold
        else
          let x := match src with | .slotB => fr.b | _ => fr.a
          ending x.hold && x.st == .ready
      | none => false

/-- The wave as it stands outside its handler. -/
def outOfHandler (s : State) (k : Nat) : State :=
  let w := waveAt s k
  match w.frame with
  | some fr => setWave s k { frameView w fr with stop := .stopped }
  | none => s

/-- The wave in its handler again, with what the instruction has left in its frame; where the trap was the instruction's
source, TRAPPC follows it. -/
def intoHandler (s : State) (k : Nat) (src : Src) (old : Wave) : State :=
  let w := waveAt s k
  match old.frame with
  | some fr =>
    let v : Wave := { w with
      frame := some { fr with a := w.a, b := w.b, divd := w.divd, jr := w.jr, mode := w.regs.mode },
      bank := bankOf w.regs, regs := putBank { w.regs with mode := old.regs.mode } w.bank,
      a := old.a, b := old.b, divd := old.divd, jr := old.jr, stop := old.stop, skid := old.skid }
    let mine := bits old.trapCause.toNat 10 8 = srcNo src && old.trapPc ≠ srcPc w src
    setWave s k (if mine then { v with trapPc := srcPc w src, trapPix := 0 } else v)
  | none => s

/-- The starts of units that waited for a build that has ended go on; one whose build would need more room in a dirty log than there is
waits. -/
def tendBoots (s : State) : State := if logOverflow (bootWaiters s) then s else bootWaiters s

/-- What the device does after a move: waits in a BARW whose PHASE has changed end; phases post what they can; scans whose
request is gone end; units whose build has ended start; the host's commands that have come to their end complete; the next free
values are fresh, and it is the next turn. -/
def tend (s : State) : State :=
  let s := tick (hostTick (tendBoots ((s.wings.map (·.1)).foldl tendScans (tendPosts (wakeBars s)))))
  { s with turn := s.turn + 1 }

/-- What every move ends with; a write for which a dirty-log ring has no room does not happen. -/
def afterMove (before after : State) : State :=
  if logOverflow after || logOverflow (tend after) then { tick before with turn := before.turn + 1 } else tend after

/-- An instruction under way in a trap frame goes on by an issue; a trap of it waits for the return from the handler. -/
def settleWith (issue : Nat → Src → State → Out) (k : Nat) (src : Src) (s : State) : Out :=
  match issue k src (outOfHandler s k) with
  | .next t => .next (if (waveAt t k).frame.isSome || !(waveAt t k).used then afterMove s s else intoHandler t k src (waveAt s k))
  | o => o

-- The default order.

/-- The issuing priority of a wave (R394). -/
def issuePrio (w : Wave) : Nat := if w.frame.isSome && w.prio ≠ 47 then 46 else w.prio

/-- A wave has waited for its turn past the threshold (R394): AGING_THRESHOLD said so, or as many moves have passed. -/
def agedNow (s : State) (w : Wave) : Bool := w.aged || decide (w.since + 65536 ≤ s.fresh)

/-- One wave issues before another (R394): an aged one first, then the higher priority, then the lower key. -/
def issuesBefore (s : State) (a b : Wave) : Bool :=
  if agedNow s a ≠ agedNow s b then agedNow s a
  else if !agedNow s a && issuePrio a ≠ issuePrio b then decide (issuePrio b < issuePrio a)
  else decide (a.key < b.key)

/-- The sources of a wave. -/
def allSrcs : List Src := [.slotA, .slotB, .seqCopy, .seqMatrix, .seqGather]

/-- The sources that may issue. -/
def issuers (s : State) : List (Nat × Src) :=
  s.waves.flatMap fun e => (allSrcs.filter fun x => canIssue s e.1 x).map fun x => (e.1, x)

/-- The source that issues before the others of an alcove (R394). -/
def firstIssuer (s : State) (l : List (Nat × Src)) : Option (Nat × Src) :=
  l.foldl (fun (m : Option (Nat × Src)) e => match m with
    | none => some e
    | some q => some (if issuesBefore s (waveAt s e.1) (waveAt s q.1) then e else q)) none

/-- A list from a place on, then its start. -/
def rotate {α : Type} (l : List α) (n : Nat) : List α := l.drop (n % l.length) ++ l.take (n % l.length)

/-- The member of a list whose turn it is. -/
def pickAt {α : Type} (l : List α) (n : Nat) : Option α := l[n % l.length]?

/-- The next source to issue: among those that wait, in turn; else, of one alcove in turn, the one that issues first (R394). -/
def nextIssue (s : State) (wait : Bool) (n : Nat) : Option Move :=
  let l := (issuers s).filter fun e => (srcHold (waveAt s e.1) e.2 != .none) == wait
  (if wait then pickAt l n
   else match pickAt (l.map fun e => alcOf e.1).eraseDups n with
    | some a => firstIssuer s (l.filter fun e => alcOf e.1 == a)
    | none => none).map fun e => .issue e.1 e.2

/-- The oldest access on a path of a wave may perform, or deliver what it owes to its barrier word. -/
def accessMove (s : State) (k p : Nat) : Option Move :=
  let w := waveAt s k
  match oldestIdx w p with
  | some i => match w.accs[i]? with
    | some a =>
      if (perform s k i 0).isSome then some (.event (.countedAccessComplete k (BitVec.ofNat 3 p)))
      else if a.bound.isSome && decide (0 < a.deliv) then some (.event (.barrierDelivery k (BitVec.ofNat 3 p) 0)) else none
    | none => none
  | none => none

/-- An access that may perform. The search starts at a wave and a path in turn, so that no access waits for ever (R254). -/
def nextAccess (s : State) (n : Nat) : Option Move :=
  (rotate (s.waves.flatMap fun e => (List.range 6).map fun p => (e.1, p)) n).findSome? fun e => accessMove s e.1 e.2

/-- The instructions under way in trap frames that may end. -/
def settles (s : State) : List Move :=
  s.waves.flatMap fun e => (allSrcs.filter fun x => canSettle s e.1 x).map fun x => .settle e.1 x

/-- The units that may retire or start again. -/
def unitEnds (s : State) : List Move :=
  (s.units.filter fun e => e.2.used && (wingAt s e.2.wing).run != .swapped && unitQuiet s e.2).map fun e =>
    .event (if e.2.ending = some .relaunch then .unitRelaunch e.1 [] else .unitRetirement e.1)

/-- The levels that may complete, and the jobs whose next phase may start. -/
def levelMoves (s : State) : List Move :=
  s.levels.filterMap fun e =>
    if levelDone s e.1 && !isBuild e.2 then some (.event (.levelCompletion e.1))
    else if phaseReady s e.1 then some (.event (.phaseStart e.1)) else none

/-- The builds that have ended. -/
def buildMoves (s : State) : List Move :=
  s.wings.flatMap fun e => e.2.recipes.filterMap fun r =>
    let l := levelAt s r.2.level
    if r.2.used && r.2.st == .building && r.2.level != 0 then
      if l.failed || l.cancelled then
        (if (unitsOf s r.2.level).isEmpty && !savedUnits s r.2.level then some (.event (.recipeBuildFailure e.1 r.1)) else none)
      else if l.retired == l.size then some (.event (.recipeBuildComplete e.1 r.1)) else none
    else none

/-- The sweep that may complete or start; one that waits for the host does neither. -/
def sweepMoves (s : State) : List Move :=
  match s.sweep, s.sweepQ with
  | some q, _ => if sweepIdle q then [.event .revocationSweepComplete] else []
  | none, q :: _ => if sweepIdle q then [.event .revocationSweepStart] else []
  | none, [] => []

/-- The channels with an exchange that may complete. -/
def exchangeMoves (s : State) : List Move :=
  s.bindings.flatMap fun b => (b.2.channels.filter fun c => !c.2.paired.isEmpty).map fun c => .event (.gateExchangeComplete b.1 c.1)

/-- The elements that a spare is due for. -/
def spareMoves (s : State) : List Move :=
  (s.corrected.filter fun e => spareDue s e.1).map fun e => .event (.ballastExchange (spareKindOf (e.1 % 4)) (e.1 / 4))

/-- The moves of a kind, the `n`-th of them. -/
def moveOf (s : State) (kind n : Nat) : Option Move :=
  match kind with
  | 0 => pickAt (settles s) n
  | 1 => pickAt ((s.wings.filter fun e => e.2.used && e.2.run == .stopping && wingStopped s e.1).map fun e => Move.event (.contextSwap e.1)) n
  | 2 => pickAt (unitEnds s) n
  | 3 => pickAt (levelMoves s) n
  | 4 => pickAt (buildMoves s) n
  | 5 => pickAt (sweepMoves s) n
  | 6 => pickAt ((s.wings.filter fun e => e.2.used && e.2.run == .running && (nextStart s e.1).isSome).map fun e =>
      Move.event (.unitStart e.1 [])) n
  | 7 => nextIssue s false n
  | 8 => pickAt (exchangeMoves s) n
  | 9 => nextAccess s n
  | 10 => nextIssue s true n
  | _ => pickAt (spareMoves s) n

/-- The move of the device where no script gives one: bring-up, a clock or a capture that is due, a wave that is to stop; and then the
kinds of moves in turn, and each kind's moves in turn, so that none that stays enabled waits for ever (R47, R254, R255; log 4). -/
def defaultMove (s : State) : Option Move :=
  if !s.up then (if s.failedStep.isSome || !s.powered then none else some (.event (.powerOn none)))
  else if s.clockChange.isSome then some (.event .clockChangeoverComplete)
  else if s.capPending.isSome then some (.event .vitrineLatch)
  else match s.waves.find? fun e => e.2.used && skidding e.2 with
    | some e => some (.stop e.1)
    | none => (rotate (List.range 12) s.turn).findSome? fun k => moveOf s k (s.turn / 12)

end Sys2Proof.Machine
end

