-- ==== Sys2Proof/Machine/Place.lean ====
section
/-! DEFINITION. A wing with one wave that stands ready to issue one word: what the host's commands would set up (log 3). -/
namespace Sys2Proof.Machine

/-- The move is POWER_ON. -/
def isPowerOn : Move → Bool
  | .event (.powerOn _) => true
  | _ => false

/-- The physical address of the word that a source fetches. -/
def fetchPlace (s : State) (k : Nat) (src : Src) : Option Nat :=
  match fetch s k src with
  | .word _ _ => match translateAs s k 34 (srcPc (waveAt s k) src).toNat .fetch (fetchHold (srcHold (waveAt s k) src)) with
    | .ok pa _ _ _ => some pa
    | _ => none
  | _ => none

/-- The code page of the placed program. -/
def placeCode : Nat := 0x1_0000
/-- Its tables at 4 KiB strides: stage 1, levels 0, 1 and 2; stage 2, levels 1 and 2. -/
def placeTable : Nat := 0x2_0000

/-- The placed program's table entries: of stage 1 two table entries and a leaf of 1 GiB with RD and X, of stage 2 a table entry
and a leaf of 1 GiB with RD and W. -/
def placeEntries (m : List Host.Cell) : List Host.Cell :=
  [(0, placeTable + 0x1001), (0x1000, placeTable + 0x2001), (0x2000, 0x17), (0x3000, placeTable + 0x4001), (0x4000, 0xF)].foldl
    (fun m e => tputBytes m (placeTable + e.1) (natLe 8 e.2)) m

/-- The wing of the placed program: one alcove of world 1, with stage 2 mapping its first 1 GiB to the same addresses. -/
def placeWing : Wing :=
  { used := true, world := 1, alcs := [0], codeBase := placeCode, codeLen := 0x1_0000, dataBase := 0x4_0000, dataLen := 0x1_0000,
    privBase := 0x8_0000, privLen := 0x1_0000, s1root := placeTable, tableFrames := [placeTable / 65536],
    s2handle := BitVec.ofNat 128 (placeTable + 0x3000) }

/-- The launch of the placed program. -/
def placeLaunch : LaunchInfo := { code := mkCap placeCode (placeCode + 0x1_0000) placeCode supPerms 1 1 }

/-- Its wave: slot A READY in every lane at the start of the code page, under a PCC with SYS. -/
def placeWave : Wave :=
  { used := true, unit := 1, a := { pc := BitVec.ofNat 64 placeCode, mask := BitVec.allOnes 32, st := .ready }, live := BitVec.allOnes 32,
    regs := { c := [(31, mkCap placeCode (placeCode + 0x1_0000) placeCode supPerms 0 1)] } }

/-- The state with the placed program's wing, unit and wave, and one word of code. -/
def placeWord (s : State) (v : Word) : State :=
  { s with
    mem := tputBytes (placeEntries s.mem) placeCode (bytesOfWord v)
    owners := [], poison := [], locks := [], dirty := [], tlb := []
    wings := tput s.wings 0 placeWing
    worlds := tput s.worlds 1 { banks := 1 }
    banks := tput s.banks 1 0
    alcoves := tput s.alcoves 0 { wing := some 0 }
    levels := tput s.levels 1 { used := true, body := .launch placeLaunch 0 none, size := 1, next := 1 }
    units := tput s.units 1 { used := true, level := 1, ctxid := 1, waves := [0] }
    waves := tput s.waves 0 placeWave
    nextCtx := s.nextCtx + 1, nextUnit := max 2 s.nextUnit
    up := true, powered := true, failedStep := none, clockChange := none
    script := [.issue 0 .slotA] }

end Sys2Proof.Machine
end

