-- ==== Sys2Proof/Machine/Step.lean ====
section
/-! DEFINITION. One step of the device: its next move, and that move run. -/
namespace Sys2Proof.Machine

/-- The move that a state makes next: the first of its script, or the device's own (log 4). -/
def nextMove (s : State) : Option Move :=
  match s.script with
  | m :: _ => some m
  | [] => defaultMove s

/-- What a move leaves, where it leaves a state. -/
def closeMove (before : State) (f : State → State) : Out → Out
  | .next t => .next (afterMove before (f t))
  | .fault r => .fault r
  | .refused r => .refused r

/-- A source issues: the word at its program counter is fetched, decoded and executed. -/
def issueStep (k : Nat) (src : Src) (s : State) : Out :=
  match fetch s k src with
  | .trap cause => .next (afterMove s (takeTrap s k src { cause := cause, addr := srcPc (waveAt s k) src }))
  | .s2 ipa kind => .next (afterMove s (fetchMiss s k src ipa kind))
  | .word w t => match decodeWord w with
    | .error r => .refused (.rejectedWord (scanCode r))
    | .ok i => closeMove s (afterIssue k src (srcHold (waveAt s k) src) i) (exec i { t with cur := ⟨k, src⟩ })

/-- Runs a move. A move that is not enabled changes nothing. -/
def runMove (m : Move) (s : State) : Out :=
  match m with
  | .issue k src => if canIssue s k src then issueStep k src s else .next s
  | .settle k src => if canSettle s k src then settleWith issueStep k src s else .next s
  | .event i => if (encode i).isSome then .next s else closeMove s id (exec i s)
  | m => .next (afterMove s (quietMove s m))

/-- One step. -/
def step (s : State) : Host.Outcome State Fault Refusal :=
  match nextMove s with
  | some m => if s.powered || isPowerOn m then runMove m { s with script := s.script.tail } else .fault .noPower
  | none => if s.powered then .next s else .fault .noPower

/-- The state with an instruction placed where the next step fetches it (log 3): where the next move is an issue that fetches
a word, its bytes are put there; else a wing with one wave is set up to issue it. -/
def State.withFetchWord (s : State) (nbits w : Nat) : State :=
  let v : Word := BitVec.ofNat 32 (w % 2 ^ nbits)
  let at_ : Option Nat := match nextMove s with
    | some (.issue k src) => if canIssue s k src then fetchPlace { s with script := s.script.tail } k src else none
    | _ => none
  match at_ with
  | some pa => { s with mem := tputBytes s.mem pa (bytesOfWord v) }
  | none => placeWord s v

end Sys2Proof.Machine
end

