-- ==== Sys2Proof/Laws/Words.lean ====
section
/-! SUPPORT. What the decoder's fields read in a word that the encoder's formats built (R48, R49): one lemma per
format and field. -/
namespace Sys2Proof.Laws.Words
open Sys2Proof

section R
variable (s : Bool) (m : Nat) (d : BitVec 7) (a : BitVec 7) (b : BitVec 7) (x1 : Bool) (x0 : Bool)

@[simp] theorem fMaj_wordR (_hm : m < 256) : fMaj (wordR s m d a b x1 x0) = BitVec.ofNat 8 m := by
  have := s.toNat_lt; have := d.isLt; have := a.isLt; have := b.isLt; have := x1.toNat_lt; have := x0.toNat_lt
  apply BitVec.eq_of_toNat_eq; simp only [fMaj, wordR, Sys2Proof.bits, BitVec.toNat_ofNat]; omega
@[simp] theorem fS_wordR (hm : m < 256) : fS (wordR s m d a b x1 x0) = s := by
  have := d.isLt; have := a.isLt; have := b.isLt; have := x1.toNat_lt; have := x0.toNat_lt
  simp only [fS, wordR, Sys2Proof.bit, BitVec.toNat_ofNat]; cases s <;> simp <;> omega
@[simp] theorem fD_wordR (_hm : m < 256) : fD (wordR s m d a b x1 x0) = d := by
  have := s.toNat_lt; have := d.isLt; have := a.isLt; have := b.isLt; have := x1.toNat_lt; have := x0.toNat_lt
  apply BitVec.eq_of_toNat_eq; simp only [fD, wordR, Sys2Proof.bits, BitVec.toNat_ofNat]; omega
@[simp] theorem fA_wordR (_hm : m < 256) : fA (wordR s m d a b x1 x0) = a := by
  have := s.toNat_lt; have := d.isLt; have := a.isLt; have := b.isLt; have := x1.toNat_lt; have := x0.toNat_lt
  apply BitVec.eq_of_toNat_eq; simp only [fA, wordR, Sys2Proof.bits, BitVec.toNat_ofNat]; omega
@[simp] theorem fB_wordR (_hm : m < 256) : fB (wordR s m d a b x1 x0) = b := by
  have := s.toNat_lt; have := d.isLt; have := a.isLt; have := b.isLt; have := x1.toNat_lt; have := x0.toNat_lt
  apply BitVec.eq_of_toNat_eq; simp only [fB, wordR, Sys2Proof.bits, BitVec.toNat_ofNat]; omega
@[simp] theorem fX1_wordR (_hm : m < 256) : fX1 (wordR s m d a b x1 x0) = x1 := by
  have := s.toNat_lt; have := d.isLt; have := a.isLt; have := b.isLt; have := x0.toNat_lt
  simp only [fX1, wordR, Sys2Proof.bit, BitVec.toNat_ofNat]; cases x1 <;> simp <;> omega
@[simp] theorem fX0_wordR (_hm : m < 256) : fX0 (wordR s m d a b x1 x0) = x0 := by
  have := s.toNat_lt; have := d.isLt; have := a.isLt; have := b.isLt; have := x1.toNat_lt
  simp only [fX0, wordR, Sys2Proof.bit, BitVec.toNat_ofNat]; cases x0 <;> simp <;> omega
end R

section I
variable (s : Bool) (m : Nat) (d : BitVec 7) (a : BitVec 7) (i : BitVec 9)

@[simp] theorem fMaj_wordI (_hm : m < 256) : fMaj (wordI s m d a i) = BitVec.ofNat 8 m := by
  have := s.toNat_lt; have := d.isLt; have := a.isLt; have := i.isLt
  apply BitVec.eq_of_toNat_eq; simp only [fMaj, wordI, Sys2Proof.bits, BitVec.toNat_ofNat]; omega
@[simp] theorem fS_wordI (hm : m < 256) : fS (wordI s m d a i) = s := by
  have := d.isLt; have := a.isLt; have := i.isLt
  simp only [fS, wordI, Sys2Proof.bit, BitVec.toNat_ofNat]; cases s <;> simp <;> omega
@[simp] theorem fD_wordI (_hm : m < 256) : fD (wordI s m d a i) = d := by
  have := s.toNat_lt; have := d.isLt; have := a.isLt; have := i.isLt
  apply BitVec.eq_of_toNat_eq; simp only [fD, wordI, Sys2Proof.bits, BitVec.toNat_ofNat]; omega
@[simp] theorem fA_wordI (_hm : m < 256) : fA (wordI s m d a i) = a := by
  have := s.toNat_lt; have := d.isLt; have := a.isLt; have := i.isLt
  apply BitVec.eq_of_toNat_eq; simp only [fA, wordI, Sys2Proof.bits, BitVec.toNat_ofNat]; omega
@[simp] theorem fI9_wordI (_hm : m < 256) : fI9 (wordI s m d a i) = i := by
  have := s.toNat_lt; have := d.isLt; have := a.isLt; have := i.isLt
  apply BitVec.eq_of_toNat_eq; simp only [fI9, wordI, Sys2Proof.bits, BitVec.toNat_ofNat]; omega
end I

section L
variable (s : Bool) (m : Nat) (d : BitVec 7) (i : BitVec 16)

@[simp] theorem fMaj_wordL (_hm : m < 256) : fMaj (wordL s m d i) = BitVec.ofNat 8 m := by
  have := s.toNat_lt; have := d.isLt; have := i.isLt
  apply BitVec.eq_of_toNat_eq; simp only [fMaj, wordL, Sys2Proof.bits, BitVec.toNat_ofNat]; omega
@[simp] theorem fS_wordL (hm : m < 256) : fS (wordL s m d i) = s := by
  have := d.isLt; have := i.isLt
  simp only [fS, wordL, Sys2Proof.bit, BitVec.toNat_ofNat]; cases s <;> simp <;> omega
@[simp] theorem fD_wordL (_hm : m < 256) : fD (wordL s m d i) = d := by
  have := s.toNat_lt; have := d.isLt; have := i.isLt
  apply BitVec.eq_of_toNat_eq; simp only [fD, wordL, Sys2Proof.bits, BitVec.toNat_ofNat]; omega
@[simp] theorem fI16_wordL (_hm : m < 256) : fI16 (wordL s m d i) = i := by
  have := s.toNat_lt; have := d.isLt; have := i.isLt
  apply BitVec.eq_of_toNat_eq; simp only [fI16, wordL, Sys2Proof.bits, BitVec.toNat_ofNat]; omega
end L

section J
variable (s : Bool) (m : Nat) (j : BitVec 23)

@[simp] theorem fMaj_wordJ (_hm : m < 256) : fMaj (wordJ s m j) = BitVec.ofNat 8 m := by
  have := s.toNat_lt; have := j.isLt
  apply BitVec.eq_of_toNat_eq; simp only [fMaj, wordJ, Sys2Proof.bits, BitVec.toNat_ofNat]; omega
@[simp] theorem fS_wordJ (hm : m < 256) : fS (wordJ s m j) = s := by
  have := j.isLt
  simp only [fS, wordJ, Sys2Proof.bit, BitVec.toNat_ofNat]; cases s <;> simp <;> omega
@[simp] theorem fJ23_wordJ (_hm : m < 256) : fJ23 (wordJ s m j) = j := by
  have := s.toNat_lt; have := j.isLt
  apply BitVec.eq_of_toNat_eq; simp only [fJ23, wordJ, Sys2Proof.bits, BitVec.toNat_ofNat]; omega
end J

section P
variable (s : Bool) (m : Nat) (p : BitVec 3) (n : Bool) (j : BitVec 19)

@[simp] theorem fMaj_wordP (_hm : m < 256) : fMaj (wordP s m p n j) = BitVec.ofNat 8 m := by
  have := s.toNat_lt; have := p.isLt; have := n.toNat_lt; have := j.isLt
  apply BitVec.eq_of_toNat_eq; simp only [fMaj, wordP, Sys2Proof.bits, BitVec.toNat_ofNat]; omega
@[simp] theorem fS_wordP (hm : m < 256) : fS (wordP s m p n j) = s := by
  have := p.isLt; have := n.toNat_lt; have := j.isLt
  simp only [fS, wordP, Sys2Proof.bit, BitVec.toNat_ofNat]; cases s <;> simp <;> omega
@[simp] theorem fP3_wordP (_hm : m < 256) : fP3 (wordP s m p n j) = p := by
  have := s.toNat_lt; have := p.isLt; have := n.toNat_lt; have := j.isLt
  apply BitVec.eq_of_toNat_eq; simp only [fP3, wordP, Sys2Proof.bits, BitVec.toNat_ofNat]; omega
@[simp] theorem fN_wordP (_hm : m < 256) : fN (wordP s m p n j) = n := by
  have := s.toNat_lt; have := p.isLt; have := j.isLt
  simp only [fN, wordP, Sys2Proof.bit, BitVec.toNat_ofNat]; cases n <;> simp <;> omega
@[simp] theorem fJ19_wordP (_hm : m < 256) : fJ19 (wordP s m p n j) = j := by
  have := s.toNat_lt; have := p.isLt; have := n.toNat_lt; have := j.isLt
  apply BitVec.eq_of_toNat_eq; simp only [fJ19, wordP, Sys2Proof.bits, BitVec.toNat_ofNat]; omega
end P

section M
variable (s : Bool) (m : Nat) (t : BitVec 7) (c : BitVec 5) (o : BitVec 7) (i : BitVec 4)

@[simp] theorem fMaj_wordM (_hm : m < 256) : fMaj (wordM s m t c o i) = BitVec.ofNat 8 m := by
  have := s.toNat_lt; have := t.isLt; have := c.isLt; have := o.isLt; have := i.isLt
  apply BitVec.eq_of_toNat_eq; simp only [fMaj, wordM, Sys2Proof.bits, BitVec.toNat_ofNat]; omega
@[simp] theorem fS_wordM (hm : m < 256) : fS (wordM s m t c o i) = s := by
  have := t.isLt; have := c.isLt; have := o.isLt; have := i.isLt
  simp only [fS, wordM, Sys2Proof.bit, BitVec.toNat_ofNat]; cases s <;> simp <;> omega
@[simp] theorem fD_wordM (_hm : m < 256) : fD (wordM s m t c o i) = t := by
  have := s.toNat_lt; have := t.isLt; have := c.isLt; have := o.isLt; have := i.isLt
  apply BitVec.eq_of_toNat_eq; simp only [fD, wordM, Sys2Proof.bits, BitVec.toNat_ofNat]; omega
@[simp] theorem fC5_wordM (_hm : m < 256) : fC5 (wordM s m t c o i) = c := by
  have := s.toNat_lt; have := t.isLt; have := c.isLt; have := o.isLt; have := i.isLt
  apply BitVec.eq_of_toNat_eq; simp only [fC5, wordM, Sys2Proof.bits, BitVec.toNat_ofNat]; omega
@[simp] theorem fO7_wordM (_hm : m < 256) : fO7 (wordM s m t c o i) = o := by
  have := s.toNat_lt; have := t.isLt; have := c.isLt; have := o.isLt; have := i.isLt
  apply BitVec.eq_of_toNat_eq; simp only [fO7, wordM, Sys2Proof.bits, BitVec.toNat_ofNat]; omega
@[simp] theorem fI4_wordM (_hm : m < 256) : fI4 (wordM s m t c o i) = i := by
  have := s.toNat_lt; have := t.isLt; have := c.isLt; have := o.isLt; have := i.isLt
  apply BitVec.eq_of_toNat_eq; simp only [fI4, wordM, Sys2Proof.bits, BitVec.toNat_ofNat]; omega
end M

section T
variable (s : Bool) (m : Nat) (acc : BitVec 3) (oa : BitVec 4) (ob : BitVec 4) (reg : BitVec 7) (ctl : BitVec 5)

@[simp] theorem fMaj_wordT (_hm : m < 256) : fMaj (wordT s m acc oa ob reg ctl) = BitVec.ofNat 8 m := by
  have := s.toNat_lt; have := acc.isLt; have := oa.isLt; have := ob.isLt; have := reg.isLt; have := ctl.isLt
  apply BitVec.eq_of_toNat_eq; simp only [fMaj, wordT, Sys2Proof.bits, BitVec.toNat_ofNat]; omega
@[simp] theorem fS_wordT (hm : m < 256) : fS (wordT s m acc oa ob reg ctl) = s := by
  have := acc.isLt; have := oa.isLt; have := ob.isLt; have := reg.isLt; have := ctl.isLt
  simp only [fS, wordT, Sys2Proof.bit, BitVec.toNat_ofNat]; cases s <;> simp <;> omega
@[simp] theorem fP3_wordT (_hm : m < 256) : fP3 (wordT s m acc oa ob reg ctl) = acc := by
  have := s.toNat_lt; have := acc.isLt; have := oa.isLt; have := ob.isLt; have := reg.isLt; have := ctl.isLt
  apply BitVec.eq_of_toNat_eq; simp only [fP3, wordT, Sys2Proof.bits, BitVec.toNat_ofNat]; omega
@[simp] theorem fOA_wordT (_hm : m < 256) : fOA (wordT s m acc oa ob reg ctl) = oa := by
  have := s.toNat_lt; have := acc.isLt; have := oa.isLt; have := ob.isLt; have := reg.isLt; have := ctl.isLt
  apply BitVec.eq_of_toNat_eq; simp only [fOA, wordT, Sys2Proof.bits, BitVec.toNat_ofNat]; omega
@[simp] theorem fOB_wordT (_hm : m < 256) : fOB (wordT s m acc oa ob reg ctl) = ob := by
  have := s.toNat_lt; have := acc.isLt; have := oa.isLt; have := ob.isLt; have := reg.isLt; have := ctl.isLt
  apply BitVec.eq_of_toNat_eq; simp only [fOB, wordT, Sys2Proof.bits, BitVec.toNat_ofNat]; omega
@[simp] theorem fREG_wordT (_hm : m < 256) : fREG (wordT s m acc oa ob reg ctl) = reg := by
  have := s.toNat_lt; have := acc.isLt; have := oa.isLt; have := ob.isLt; have := reg.isLt; have := ctl.isLt
  apply BitVec.eq_of_toNat_eq; simp only [fREG, wordT, Sys2Proof.bits, BitVec.toNat_ofNat]; omega
@[simp] theorem fCTL_wordT (_hm : m < 256) : fCTL (wordT s m acc oa ob reg ctl) = ctl := by
  have := s.toNat_lt; have := acc.isLt; have := oa.isLt; have := ob.isLt; have := reg.isLt; have := ctl.isLt
  apply BitVec.eq_of_toNat_eq; simp only [fCTL, wordT, Sys2Proof.bits, BitVec.toNat_ofNat]; omega
end T

/-- The number that two joined fields stand for. -/
theorem append_toNat {n k : Nat} (x : BitVec n) (y : BitVec k) : (x ++ y).toNat = x.toNat * 2 ^ k + y.toNat := by
  rw [BitVec.toNat_append, ← Nat.shiftLeft_add_eq_or_of_lt y.isLt, Nat.shiftLeft_eq]

/-- The low bits decide a conjunction with a small mask. -/
theorem and_low (n k m : Nat) (hm : m < 2 ^ k) : n &&& m = n % 2 ^ k &&& m := by
  apply Nat.eq_of_testBit_eq
  intro i
  simp only [Nat.testBit_and, Nat.testBit_mod_two_pow]
  by_cases h : i < k
  · simp [h]
  · simp [Nat.testBit_lt_two_pow (lt_of_lt_of_le hm (Nat.pow_le_pow_right (by decide) (not_lt.mp h)))]

/-- A split field of F-R: the condition and predicate of SCMP and VCMP. -/
@[simp] theorem fCond_wordR (s : Bool) (m : Nat) (c : BitVec 4) (p : BitVec 3) (a b : BitVec 7) (x1 x0 : Bool) (_hm : m < 256) :
    fCond (wordR s m (c ++ p) a b x1 x0) = c := by
  have hc := c.isLt; have hp := p.isLt; have := a.isLt; have := b.isLt
  have := s.toNat_lt; have := x1.toNat_lt; have := x0.toNat_lt
  apply BitVec.eq_of_toNat_eq
  simp only [fCond, wordR, Sys2Proof.bits, BitVec.toNat_ofNat, append_toNat]
  omega
@[simp] theorem fP18_wordR (s : Bool) (m : Nat) (c : BitVec 4) (p : BitVec 3) (a b : BitVec 7) (x1 x0 : Bool) (_hm : m < 256) :
    fP18 (wordR s m (c ++ p) a b x1 x0) = p := by
  have hc := c.isLt; have hp := p.isLt; have := a.isLt; have := b.isLt
  have := s.toNat_lt; have := x1.toNat_lt; have := x0.toNat_lt
  apply BitVec.eq_of_toNat_eq
  simp only [fP18, wordR, Sys2Proof.bits, BitVec.toNat_ofNat, append_toNat]
  omega
/-- The selection field of VMXIX. -/
@[simp] theorem fX2_wordR (s : Bool) (m : Nat) (d a b : BitVec 7) (x1 x0 : Bool) (_hm : m < 256) :
    fX2 (wordR s m d a b x1 x0) = BitVec.ofNat 2 (x1.toNat * 2 + x0.toNat) := by
  have := d.isLt; have := a.isLt; have := b.isLt
  have := s.toNat_lt; have := x1.toNat_lt; have := x0.toNat_lt
  apply BitVec.eq_of_toNat_eq
  simp only [fX2, wordR, Sys2Proof.bits, BitVec.toNat_ofNat]
  omega
/-- Bit 16 of a SETM word. -/
@[simp] theorem fH_wordL (s : Bool) (m : Nat) (h : Bool) (i : BitVec 16) (_hm : m < 256) :
    fH (wordL s m (0#6 ++ BitVec.ofBool h) i) = h := by
  have := i.isLt; have := s.toNat_lt
  simp only [fH, wordL, Sys2Proof.bit, BitVec.toNat_ofNat]
  cases h <;> simp <;> omega
/-- The low bit of a memory-format word. -/
@[simp] theorem fX0_wordM (s : Bool) (m : Nat) (t : BitVec 7) (c : BitVec 5) (o : BitVec 7) (i : BitVec 4) (_hm : m < 256) :
    fX0 (wordM s m t c o i) = i.getLsbD 0 := by
  have := t.isLt; have := c.isLt; have := o.isLt; have := i.isLt; have := s.toNat_lt
  simp only [fX0, wordM, Sys2Proof.bit, BitVec.toNat_ofNat, BitVec.getLsbD, Nat.testBit_zero]
  rw [Bool.eq_iff_iff]; simp; omega
/-- The scope of a memory-format word. -/
@[simp] theorem fScope_wordM (s : Bool) (m : Nat) (t : BitVec 7) (c : BitVec 5) (o : BitVec 7) (e : BitVec 3) (q : BitVec 1) (_hm : m < 256) :
    fScope (wordM s m t c o (e ++ q)) = e := by
  have := t.isLt; have := c.isLt; have := o.isLt; have := e.isLt; have hq := q.isLt; have := s.toNat_lt
  apply BitVec.eq_of_toNat_eq
  simp only [fScope, wordM, Sys2Proof.bits, BitVec.toNat_ofNat, append_toNat]
  omega
/-- Unused low bits of a memory-format word. -/
theorem low_wordM (s : Bool) (m : Nat) (t : BitVec 7) (c : BitVec 5) (o : BitVec 7) (i : BitVec 4) (k : Nat) (hk : k < 16) (_hm : m < 256) :
    (wordM s m t c o i).toNat &&& k = i.toNat &&& k := by
  have := t.isLt; have := c.isLt; have := o.isLt; have := i.isLt; have := s.toNat_lt
  rw [and_low _ 4 k hk]
  congr 1
  simp only [wordM, BitVec.toNat_ofNat]
  omega
@[simp] theorem low14_wordM (s : Bool) (m : Nat) (t : BitVec 7) (c : BitVec 5) (o : BitVec 7) (b : Bool) (hm : m < 256) :
    (wordM s m t c o (0#3 ++ BitVec.ofBool b)).toNat &&& 14 = 0 := by
  rw [low_wordM _ _ _ _ _ _ _ (by decide) hm]; cases b <;> decide
@[simp] theorem low1_wordM (s : Bool) (m : Nat) (t : BitVec 7) (c : BitVec 5) (o : BitVec 7) (e : BitVec 3) (_hm : m < 256) :
    (wordM s m t c o (e ++ 0#1)).toNat % 2 = 0 := by
  have := t.isLt; have := c.isLt; have := o.isLt; have := e.isLt; have := s.toNat_lt
  simp only [wordM, BitVec.toNat_ofNat, append_toNat]
  omega
/-- The low bits of the last field of a tile-format word. -/
@[simp] theorem fX2_wordT (s : Bool) (m : Nat) (acc : BitVec 3) (oa ob : BitVec 4) (reg : BitVec 7) (k : BitVec 3) (g : BitVec 2) (_hm : m < 256) :
    fX2 (wordT s m acc oa ob reg (k ++ g)) = g := by
  have := acc.isLt; have := oa.isLt; have := ob.isLt; have := reg.isLt; have := k.isLt; have hg := g.isLt; have := s.toNat_lt
  apply BitVec.eq_of_toNat_eq
  simp only [fX2, wordT, Sys2Proof.bits, BitVec.toNat_ofNat, append_toNat]
  omega
@[simp] theorem fK3_wordT (s : Bool) (m : Nat) (acc : BitVec 3) (oa ob : BitVec 4) (reg : BitVec 7) (k : BitVec 3) (g : BitVec 2) (_hm : m < 256) :
    fK3 (wordT s m acc oa ob reg (k ++ g)) = k := by
  have := acc.isLt; have := oa.isLt; have := ob.isLt; have := reg.isLt; have := k.isLt; have hg := g.isLt; have := s.toNat_lt
  apply BitVec.eq_of_toNat_eq
  simp only [fK3, wordT, Sys2Proof.bits, BitVec.toNat_ofNat, append_toNat]
  omega
/-- The low field of a tile-format word as one number. -/
theorem low_wordT (s : Bool) (m : Nat) (acc : BitVec 3) (oa ob : BitVec 4) (reg : BitVec 7) (ctl : BitVec 5) (_hm : m < 256) :
    (wordT s m acc oa ob reg ctl).toNat % 32 = ctl.toNat := by
  have := acc.isLt; have := oa.isLt; have := ob.isLt; have := reg.isLt; have := ctl.isLt; have := s.toNat_lt
  simp only [wordT, BitVec.toNat_ofNat]
  omega
@[simp] theorem low28_wordT (s : Bool) (m : Nat) (acc : BitVec 3) (oa ob : BitVec 4) (reg : BitVec 7) (q : BitVec 2) (hm : m < 256) :
    (wordT s m acc oa ob reg (0#3 ++ q)).toNat &&& 28 = 0 := by
  rw [and_low _ 5 28 (by decide), show (2 : Nat) ^ 5 = 32 from rfl, low_wordT _ _ _ _ _ _ _ hm]; revert q; decide
theorem fX2_low (w : Word) : fX2 w = BitVec.ofNat 2 (w.toNat % 32) := by
  apply BitVec.eq_of_toNat_eq; simp only [fX2, Sys2Proof.bits, BitVec.toNat_ofNat]; omega
theorem fK3_low (w : Word) : fK3 w = BitVec.ofNat 3 (w.toNat % 32 / 4) := by
  apply BitVec.eq_of_toNat_eq; simp only [fK3, Sys2Proof.bits, BitVec.toNat_ofNat]; omega
theorem fX0_low (w : Word) : fX0 w = (w.toNat % 32 % 2 == 1) := by
  simp only [fX0, Sys2Proof.bit]; congr 1; omega
theorem fX1_low (w : Word) : fX1 w = (w.toNat % 32 / 2 % 2 == 1) := by
  simp only [fX1, Sys2Proof.bit]; congr 1; omega
/-- The low bits of a tile-format word. -/
@[simp] theorem fX0_wordT (s : Bool) (m : Nat) (acc : BitVec 3) (oa ob : BitVec 4) (reg : BitVec 7) (ctl : BitVec 5) (hm : m < 256) :
    fX0 (wordT s m acc oa ob reg ctl) = (ctl.toNat % 2 == 1) := by
  rw [fX0_low, low_wordT _ _ _ _ _ _ _ hm]
@[simp] theorem fX1_wordT (s : Bool) (m : Nat) (acc : BitVec 3) (oa ob : BitVec 4) (reg : BitVec 7) (ctl : BitVec 5) (hm : m < 256) :
    fX1 (wordT s m acc oa ob reg ctl) = (ctl.toNat / 2 % 2 == 1) := by
  rw [fX1_low, low_wordT _ _ _ _ _ _ _ hm]

/-- The low bit of a field joined to one bit. -/
@[simp] theorem append_low (e : BitVec 3) (q : Bool) : (e ++ BitVec.ofBool q)[0] = q := by
  revert e q; decide
/-- The tile selections of MZERO and MCLM. -/
theorem fX2_wordT_all (s : Bool) (m : Nat) (acc : BitVec 3) (oa ob : BitVec 4) (reg : BitVec 7) (ctl : BitVec 5) (hm : m < 256) :
    fX2 (wordT s m acc oa ob reg ctl) = BitVec.ofNat 2 ctl.toNat := by
  rw [fX2_low, low_wordT _ _ _ _ _ _ _ hm]
theorem fK3_wordT_all (s : Bool) (m : Nat) (acc : BitVec 3) (oa ob : BitVec 4) (reg : BitVec 7) (ctl : BitVec 5) (hm : m < 256) :
    fK3 (wordT s m acc oa ob reg ctl) = BitVec.ofNat 3 (ctl.toNat / 4) := by
  rw [fK3_low, low_wordT _ _ _ _ _ _ _ hm]

/-- The two flags of MDRN. -/
theorem low28_mdrn (s : Bool) (m : Nat) (acc : BitVec 3) (oa ob : BitVec 4) (reg : BitVec 7) (z f : Bool) (hm : m < 256) :
    (wordT s m acc oa ob reg (0#3 ++ BitVec.ofBool z ++ BitVec.ofBool f)).toNat &&& 28 = 0 := by
  rw [and_low _ 5 28 (by decide), show (2 : Nat) ^ 5 = 32 from rfl, low_wordT _ _ _ _ _ _ _ hm]
  revert z f; decide
theorem mdrn_z (z f : Bool) : ((0#3 ++ BitVec.ofBool z ++ BitVec.ofBool f).toNat / 2 % 2 == 1) = z := by
  revert z f; decide
theorem mdrn_f (z f : Bool) : ((0#3 ++ BitVec.ofBool z ++ BitVec.ofBool f).toNat % 2 == 1) = f := by
  revert z f; decide

/-- The all-zero word has opcode 0 (R60). -/
theorem ne_zero (w : Word) (h : fMaj w ≠ 0) : w ≠ 0 := by
  intro e; apply h; subst e; decide

end Sys2Proof.Laws.Words
end

