-- ==== Sys2Proof/Laws/PerInstr.lean ====
section
/-! SUPPORT. The family Encoding: what the encoder writes for a well-formed instruction the decoder reads back (R48,
R49, R60, R64), one lemma per constructor. -/
namespace Sys2Proof.Laws.Encoding
open Sys2Proof Sys2Proof.Laws.Words
set_option Elab.async false
set_option linter.all false

/-- A well-formed instruction that has a word is what the decoder reads from that word. -/
def Statement (i : Instr) : Prop := i.wf = true → ∀ w, encode i = some w → decodeWord w = .ok i

/-- The row that the high half of the opcode selects decides. -/
theorem of_major {w : Word} {i : Instr} (m : Nat) (hm : fMaj w = BitVec.ofNat 8 m) (h0 : BitVec.ofNat 8 m ≠ 0)
   (h : (match m / 16 % 16 with
  | 0 => decodeRow0 w
  | 1 => decodeRow1 w
  | 2 => decodeRow2 w
  | 3 => decodeRow3 w
  | 4 => decodeRow4 w
  | 5 => decodeRow5 w
  | 6 => decodeRow6 w
  | 7 => decodeRow7 w
  | 8 => decodeRow8 w
  | 9 => decodeRow9 w
  | 10 => decodeRowA w
  | 11 => decodeRowB w
  | 12 => decodeRowC w
  | 13 => decodeRowD w
  | 14 => decodeRowE w
  | _ => .error .unassignedMajor) = .ok i) : decodeWord w = .ok i := by
  have : w ≠ 0 := ne_zero w (by rw [hm]; exact h0)
  rw [decodeWord, if_neg this, hm]
  have e : (BitVec.ofNat 8 m).toNat / 16 = m / 16 % 16 := by simp; omega
  rw [e]; exact h


/-- A word that no condition rejects is accepted. -/
theorem check_ok {cs : List (Bool × ScanReason)} {i : Instr} (h : (cs.all fun c => !c.1) = true) : check cs i = .ok i := by
  have : scanLowest cs = none := by
    induction cs with
    | nil => rfl
    | cons c cs ih =>
      simp only [List.all_cons, Bool.and_eq_true, Bool.not_eq_true'] at h
      simp only [scanLowest, h.1]
      simpa using ih h.2
  rw [check, this]

/-- A row without a word. -/
theorem no_word {i : Instr} (h : encode i = none) : Statement i := by
  intro _ w hw; rw [h] at hw; cases hw

/-- A register that MTSR's general row writes has no row of its own (R69). -/
theorem mtsr_ne {r : BitVec 16} (h : sysPlainWritable r = true) :
    r ≠ 0#16 ∧ r ≠ 0x10#16 ∧ r ≠ 0x11#16 ∧ r ≠ 0x13#16 ∧ r ≠ 0x20#16 := by
  refine ⟨?_, ?_, ?_, ?_, ?_⟩ <;> (rintro rfl; revert h; decide)

theorem setm (sw h i) : Statement (.setm sw h i) := by
  intro hwf w hw; obtain rfl := Option.some.inj hw
  simp [Instr.wf, fieldsOk] at hwf
  refine of_major 0x1 (fMaj_wordL _ _ _ _ (by decide)) (by decide) ?_
  simp [decodeRow0]
  exact check_ok (by simp [hwf]; cases h <;> decide)
theorem setms (sw a) : Statement (.setms sw a) := by
  intro hwf w hw; obtain rfl := Option.some.inj hw
  simp [Instr.wf, fieldsOk] at hwf
  refine of_major 0x2 (fMaj_wordR _ _ _ _ _ _ _ (by decide)) (by decide) ?_
  simp [decodeRow0]
  refine check_ok ?_; simp <;> first | omega | simp [hwf]
theorem getm (sw d) : Statement (.getm sw d) := by
  intro hwf w hw; obtain rfl := Option.some.inj hw
  simp [Instr.wf, fieldsOk] at hwf
  refine of_major 0x3 (fMaj_wordR _ _ _ _ _ _ _ (by decide)) (by decide) ?_
  simp [decodeRow0]
  refine check_ok ?_; simp <;> first | omega | simp [hwf]
theorem nop (sw) : Statement (.nop sw) := by
  intro hwf w hw; obtain rfl := Option.some.inj hw
  simp [Instr.wf, fieldsOk] at hwf
  refine of_major 0x4 (fMaj_wordJ _ _ _ (by decide)) (by decide) ?_
  simp [decodeRow0]
  refine check_ok ?_; simp <;> first | omega | simp [hwf]
theorem bra (sw j) : Statement (.bra sw j) := by
  intro hwf w hw; obtain rfl := Option.some.inj hw
  simp [Instr.wf, fieldsOk] at hwf
  refine of_major 0x5 (fMaj_wordJ _ _ _ (by decide)) (by decide) ?_
  simp [decodeRow0]
  refine check_ok ?_; simp <;> first | omega | simp [hwf]
theorem brp (sw p n j) : Statement (.brp sw p n j) := by
  intro hwf w hw; obtain rfl := Option.some.inj hw
  simp [Instr.wf, fieldsOk] at hwf
  refine of_major 0x6 (fMaj_wordP _ _ _ _ _ (by decide)) (by decide) ?_
  simp [decodeRow0]
  refine check_ok ?_; simp <;> first | omega | simp [hwf]
theorem sjoin (sw j) : Statement (.sjoin sw j) := by
  intro hwf w hw; obtain rfl := Option.some.inj hw
  simp [Instr.wf, fieldsOk] at hwf
  refine of_major 0x7 (fMaj_wordJ _ _ _ (by decide)) (by decide) ?_
  simp [decodeRow0]
  refine check_ok ?_; simp <;> first | omega | simp [hwf]
theorem join (sw) : Statement (.join sw) := by
  intro hwf w hw; obtain rfl := Option.some.inj hw
  simp [Instr.wf, fieldsOk] at hwf
  refine of_major 0x8 (fMaj_wordJ _ _ _ (by decide)) (by decide) ?_
  simp [decodeRow0]
  refine check_ok ?_; simp <;> first | omega | simp [hwf]
theorem call (sw j) : Statement (.call sw j) := by
  intro hwf w hw; obtain rfl := Option.some.inj hw
  simp [Instr.wf, fieldsOk] at hwf
  refine of_major 0x9 (fMaj_wordJ _ _ _ (by decide)) (by decide) ?_
  simp [decodeRow0]
  refine check_ok ?_; simp <;> first | omega | simp [hwf]
theorem ret (sw a) : Statement (.ret sw a) := by
  intro hwf w hw; obtain rfl := Option.some.inj hw
  simp [Instr.wf, fieldsOk] at hwf
  refine of_major 0xa (fMaj_wordR _ _ _ _ _ _ _ (by decide)) (by decide) ?_
  simp [decodeRow0]
  refine check_ok ?_; simp <;> first | omega | simp [hwf]
theorem jmpc (sw a) : Statement (.jmpc sw a) := by
  intro hwf w hw; obtain rfl := Option.some.inj hw
  simp [Instr.wf, fieldsOk] at hwf
  refine of_major 0xb (fMaj_wordR _ _ _ _ _ _ _ (by decide)) (by decide) ?_
  simp [decodeRow0]
  refine check_ok ?_; simp <;> first | omega | simp [hwf]
theorem jmpcLink (sw d a) : Statement (.jmpcLink sw d a) := by
  intro hwf w hw; obtain rfl := Option.some.inj hw
  simp [Instr.wf, fieldsOk] at hwf
  refine of_major 0xb (fMaj_wordR _ _ _ _ _ _ _ (by decide)) (by decide) ?_
  simp [decodeRow0]
  refine check_ok ?_; simp <;> first | omega | simp [hwf]
theorem exit (sw) : Statement (.exit sw) := by
  intro hwf w hw; obtain rfl := Option.some.inj hw
  simp [Instr.wf, fieldsOk] at hwf
  refine of_major 0xc (fMaj_wordJ _ _ _ (by decide)) (by decide) ?_
  simp [decodeRow0]
  refine check_ok ?_; simp <;> first | omega | simp [hwf]
theorem yield (sw) : Statement (.yield sw) := by
  intro hwf w hw; obtain rfl := Option.some.inj hw
  simp [Instr.wf, fieldsOk] at hwf
  refine of_major 0xd (fMaj_wordJ _ _ _ (by decide)) (by decide) ?_
  simp [decodeRow0]
  refine check_ok ?_; simp <;> first | omega | simp [hwf]
theorem sadd (sw d a b i) : Statement (.sadd sw d a b i) := by
  intro hwf w hw; obtain rfl := Option.some.inj hw
  simp [Instr.wf, fieldsOk] at hwf
  refine of_major 0x10 (fMaj_wordR _ _ _ _ _ _ _ (by decide)) (by decide) ?_
  simp [decodeRow1]
  refine check_ok ?_; simp <;> first | omega | simp [hwf]
theorem ssub (sw d a b i) : Statement (.ssub sw d a b i) := by
  intro hwf w hw; obtain rfl := Option.some.inj hw
  simp [Instr.wf, fieldsOk] at hwf
  refine of_major 0x11 (fMaj_wordR _ _ _ _ _ _ _ (by decide)) (by decide) ?_
  simp [decodeRow1]
  refine check_ok ?_; simp <;> first | omega | simp [hwf]
theorem smul (sw d a b i) : Statement (.smul sw d a b i) := by
  intro hwf w hw; obtain rfl := Option.some.inj hw
  simp [Instr.wf, fieldsOk] at hwf
  refine of_major 0x12 (fMaj_wordR _ _ _ _ _ _ _ (by decide)) (by decide) ?_
  simp [decodeRow1]
  refine check_ok ?_; simp <;> first | omega | simp [hwf]
theorem smulh (sw d a b i u) : Statement (.smulh sw d a b i u) := by
  intro hwf w hw; obtain rfl := Option.some.inj hw
  simp [Instr.wf, fieldsOk] at hwf
  refine of_major 0x13 (fMaj_wordR _ _ _ _ _ _ _ (by decide)) (by decide) ?_
  simp [decodeRow1]
  refine check_ok ?_; simp <;> first | omega | simp [hwf]
theorem sand (sw d a b i) : Statement (.sand sw d a b i) := by
  intro hwf w hw; obtain rfl := Option.some.inj hw
  simp [Instr.wf, fieldsOk] at hwf
  refine of_major 0x14 (fMaj_wordR _ _ _ _ _ _ _ (by decide)) (by decide) ?_
  simp [decodeRow1]
  refine check_ok ?_; simp <;> first | omega | simp [hwf]
theorem sor (sw d a b i) : Statement (.sor sw d a b i) := by
  intro hwf w hw; obtain rfl := Option.some.inj hw
  simp [Instr.wf, fieldsOk] at hwf
  refine of_major 0x15 (fMaj_wordR _ _ _ _ _ _ _ (by decide)) (by decide) ?_
  simp [decodeRow1]
  refine check_ok ?_; simp <;> first | omega | simp [hwf]
theorem sxor (sw d a b i) : Statement (.sxor sw d a b i) := by
  intro hwf w hw; obtain rfl := Option.some.inj hw
  simp [Instr.wf, fieldsOk] at hwf
  refine of_major 0x16 (fMaj_wordR _ _ _ _ _ _ _ (by decide)) (by decide) ?_
  simp [decodeRow1]
  refine check_ok ?_; simp <;> first | omega | simp [hwf]
theorem sshl (sw d a b i) : Statement (.sshl sw d a b i) := by
  intro hwf w hw; obtain rfl := Option.some.inj hw
  simp [Instr.wf, fieldsOk] at hwf
  refine of_major 0x17 (fMaj_wordR _ _ _ _ _ _ _ (by decide)) (by decide) ?_
  simp [decodeRow1]
  refine check_ok ?_; simp <;> first | omega | simp [hwf]
theorem sshr (sw d a b i) : Statement (.sshr sw d a b i) := by
  intro hwf w hw; obtain rfl := Option.some.inj hw
  simp [Instr.wf, fieldsOk] at hwf
  refine of_major 0x18 (fMaj_wordR _ _ _ _ _ _ _ (by decide)) (by decide) ?_
  simp [decodeRow1]
  refine check_ok ?_; simp <;> first | omega | simp [hwf]
theorem ssra (sw d a b i) : Statement (.ssra sw d a b i) := by
  intro hwf w hw; obtain rfl := Option.some.inj hw
  simp [Instr.wf, fieldsOk] at hwf
  refine of_major 0x19 (fMaj_wordR _ _ _ _ _ _ _ (by decide)) (by decide) ?_
  simp [decodeRow1]
  refine check_ok ?_; simp <;> first | omega | simp [hwf]
theorem smin (sw d a b i u) : Statement (.smin sw d a b i u) := by
  intro hwf w hw; obtain rfl := Option.some.inj hw
  simp [Instr.wf, fieldsOk] at hwf
  refine of_major 0x1a (fMaj_wordR _ _ _ _ _ _ _ (by decide)) (by decide) ?_
  simp [decodeRow1]
  refine check_ok ?_; simp <;> first | omega | simp [hwf]
theorem smax (sw d a b i u) : Statement (.smax sw d a b i u) := by
  intro hwf w hw; obtain rfl := Option.some.inj hw
  simp [Instr.wf, fieldsOk] at hwf
  refine of_major 0x1b (fMaj_wordR _ _ _ _ _ _ _ (by decide)) (by decide) ?_
  simp [decodeRow1]
  refine check_ok ?_; simp <;> first | omega | simp [hwf]
theorem scmp (sw c p a b i u) : Statement (.scmp sw c p a b i u) := by
  intro hwf w hw; obtain rfl := Option.some.inj hw
  simp [Instr.wf, fieldsOk] at hwf
  refine of_major 0x1c (fMaj_wordR _ _ _ _ _ _ _ (by decide)) (by decide) ?_
  simp [decodeRow1]
  refine check_ok ?_; simp <;> first | omega | simp [hwf]
theorem ssel (sw d a b) : Statement (.ssel sw d a b) := by
  intro hwf w hw; obtain rfl := Option.some.inj hw
  simp [Instr.wf, fieldsOk] at hwf
  refine of_major 0x1d (fMaj_wordR _ _ _ _ _ _ _ (by decide)) (by decide) ?_
  simp [decodeRow1]
  refine check_ok ?_; simp <;> first | omega | simp [hwf]
theorem sbfx (sw d a b x) : Statement (.sbfx sw d a b x) := by
  intro hwf w hw; obtain rfl := Option.some.inj hw
  simp [Instr.wf, fieldsOk] at hwf
  refine of_major 0x1e (fMaj_wordR _ _ _ _ _ _ _ (by decide)) (by decide) ?_
  simp [decodeRow1]
  refine check_ok ?_; simp <;> first | omega | simp [hwf]
theorem spopc (sw d a) : Statement (.spopc sw d a) := by
  intro hwf w hw; obtain rfl := Option.some.inj hw
  simp [Instr.wf, fieldsOk] at hwf
  refine of_major 0x1f (fMaj_wordR _ _ _ _ _ _ _ (by decide)) (by decide) ?_
  simp [decodeRow1]
  refine check_ok ?_; simp <;> first | omega | simp [hwf]
theorem spopcP (sw d a) : Statement (.spopcP sw d a) := by
  intro hwf w hw; obtain rfl := Option.some.inj hw
  simp [Instr.wf, fieldsOk] at hwf
  refine of_major 0x1f (fMaj_wordR _ _ _ _ _ _ _ (by decide)) (by decide) ?_
  simp [decodeRow1]
  refine check_ok ?_; simp <;> first | omega | simp [hwf]
theorem smovi (sw d i) : Statement (.smovi sw d i) := by
  intro hwf w hw; obtain rfl := Option.some.inj hw
  simp [Instr.wf, fieldsOk] at hwf
  refine of_major 0x20 (fMaj_wordL _ _ _ _ (by decide)) (by decide) ?_
  simp [decodeRow2]
  refine check_ok ?_; simp <;> first | omega | simp [hwf]
theorem slui (sw d i) : Statement (.slui sw d i) := by
  intro hwf w hw; obtain rfl := Option.some.inj hw
  simp [Instr.wf, fieldsOk] at hwf
  refine of_major 0x21 (fMaj_wordL _ _ _ _ (by decide)) (by decide) ?_
  simp [decodeRow2]
  refine check_ok ?_; simp <;> first | omega | simp [hwf]
theorem pand (sw d a b) : Statement (.pand sw d a b) := by
  intro hwf w hw; obtain rfl := Option.some.inj hw
  simp [Instr.wf, fieldsOk] at hwf
  refine of_major 0x58 (fMaj_wordR _ _ _ _ _ _ _ (by decide)) (by decide) ?_
  simp [decodeRow5]
  refine check_ok ?_; simp <;> first | omega | simp [hwf]
theorem por (sw d a b) : Statement (.por sw d a b) := by
  intro hwf w hw; obtain rfl := Option.some.inj hw
  simp [Instr.wf, fieldsOk] at hwf
  refine of_major 0x59 (fMaj_wordR _ _ _ _ _ _ _ (by decide)) (by decide) ?_
  simp [decodeRow5]
  refine check_ok ?_; simp <;> first | omega | simp [hwf]
theorem pxor (sw d a b) : Statement (.pxor sw d a b) := by
  intro hwf w hw; obtain rfl := Option.some.inj hw
  simp [Instr.wf, fieldsOk] at hwf
  refine of_major 0x5a (fMaj_wordR _ _ _ _ _ _ _ (by decide)) (by decide) ?_
  simp [decodeRow5]
  refine check_ok ?_; simp <;> first | omega | simp [hwf]
theorem pnot (sw d a) : Statement (.pnot sw d a) := by
  intro hwf w hw; obtain rfl := Option.some.inj hw
  simp [Instr.wf, fieldsOk] at hwf
  refine of_major 0x5b (fMaj_wordR _ _ _ _ _ _ _ (by decide)) (by decide) ?_
  simp [decodeRow5]
  refine check_ok ?_; simp <;> first | omega | simp [hwf]
theorem pmov (sw d a) : Statement (.pmov sw d a) := by
  intro hwf w hw; obtain rfl := Option.some.inj hw
  simp [Instr.wf, fieldsOk] at hwf
  refine of_major 0x5c (fMaj_wordR _ _ _ _ _ _ _ (by decide)) (by decide) ?_
  simp [decodeRow5]
  refine check_ok ?_; simp <;> first | omega | simp [hwf]
theorem pmovFromS (sw d a) : Statement (.pmovFromS sw d a) := by
  intro hwf w hw; obtain rfl := Option.some.inj hw
  simp [Instr.wf, fieldsOk] at hwf
  refine of_major 0x5c (fMaj_wordR _ _ _ _ _ _ _ (by decide)) (by decide) ?_
  simp [decodeRow5]
  refine check_ok ?_; simp <;> first | omega | simp [hwf]
theorem pmovToS (sw d a) : Statement (.pmovToS sw d a) := by
  intro hwf w hw; obtain rfl := Option.some.inj hw
  simp [Instr.wf, fieldsOk] at hwf
  refine of_major 0x5c (fMaj_wordR _ _ _ _ _ _ _ (by decide)) (by decide) ?_
  simp [decodeRow5]
  refine check_ok ?_; simp <;> first | omega | simp [hwf]
theorem pmovMask (sw d) : Statement (.pmovMask sw d) := by
  intro hwf w hw; obtain rfl := Option.some.inj hw
  simp [Instr.wf, fieldsOk] at hwf
  refine of_major 0x5c (fMaj_wordR _ _ _ _ _ _ _ (by decide)) (by decide) ?_
  simp [decodeRow5]
  refine check_ok ?_; simp <;> first | omega | simp [hwf]
theorem vadd (sw d a b i) : Statement (.vadd sw d a b i) := by
  intro hwf w hw; obtain rfl := Option.some.inj hw
  simp [Instr.wf, fieldsOk] at hwf
  refine of_major 0x28 (fMaj_wordR _ _ _ _ _ _ _ (by decide)) (by decide) ?_
  simp [decodeRow2]
  refine check_ok ?_; simp <;> first | omega | simp [hwf]
theorem vsub (sw d a b i) : Statement (.vsub sw d a b i) := by
  intro hwf w hw; obtain rfl := Option.some.inj hw
  simp [Instr.wf, fieldsOk] at hwf
  refine of_major 0x29 (fMaj_wordR _ _ _ _ _ _ _ (by decide)) (by decide) ?_
  simp [decodeRow2]
  refine check_ok ?_; simp <;> first | omega | simp [hwf]
theorem vmul (sw d a b i) : Statement (.vmul sw d a b i) := by
  intro hwf w hw; obtain rfl := Option.some.inj hw
  simp [Instr.wf, fieldsOk] at hwf
  refine of_major 0x2a (fMaj_wordR _ _ _ _ _ _ _ (by decide)) (by decide) ?_
  simp [decodeRow2]
  refine check_ok ?_; simp <;> first | omega | simp [hwf]
theorem vmulh (sw d a b i) : Statement (.vmulh sw d a b i) := by
  intro hwf w hw; obtain rfl := Option.some.inj hw
  simp [Instr.wf, fieldsOk] at hwf
  refine of_major 0x2b (fMaj_wordR _ _ _ _ _ _ _ (by decide)) (by decide) ?_
  simp [decodeRow2]
  refine check_ok ?_; simp <;> first | omega | simp [hwf]
theorem vmad (sw d a b i) : Statement (.vmad sw d a b i) := by
  intro hwf w hw; obtain rfl := Option.some.inj hw
  simp [Instr.wf, fieldsOk] at hwf
  refine of_major 0x2c (fMaj_wordR _ _ _ _ _ _ _ (by decide)) (by decide) ?_
  simp [decodeRow2]
  refine check_ok ?_; simp <;> first | omega | simp [hwf]
theorem vmin (sw d a b i) : Statement (.vmin sw d a b i) := by
  intro hwf w hw; obtain rfl := Option.some.inj hw
  simp [Instr.wf, fieldsOk] at hwf
  refine of_major 0x2d (fMaj_wordR _ _ _ _ _ _ _ (by decide)) (by decide) ?_
  simp [decodeRow2]
  refine check_ok ?_; simp <;> first | omega | simp [hwf]
theorem vmax (sw d a b i) : Statement (.vmax sw d a b i) := by
  intro hwf w hw; obtain rfl := Option.some.inj hw
  simp [Instr.wf, fieldsOk] at hwf
  refine of_major 0x2e (fMaj_wordR _ _ _ _ _ _ _ (by decide)) (by decide) ?_
  simp [decodeRow2]
  refine check_ok ?_; simp <;> first | omega | simp [hwf]
theorem vabs (sw d a) : Statement (.vabs sw d a) := by
  intro hwf w hw; obtain rfl := Option.some.inj hw
  simp [Instr.wf, fieldsOk] at hwf
  refine of_major 0x2f (fMaj_wordR _ _ _ _ _ _ _ (by decide)) (by decide) ?_
  simp [decodeRow2]
  refine check_ok ?_; simp <;> first | omega | simp [hwf]
theorem vneg (sw d a) : Statement (.vneg sw d a) := by
  intro hwf w hw; obtain rfl := Option.some.inj hw
  simp [Instr.wf, fieldsOk] at hwf
  refine of_major 0x30 (fMaj_wordR _ _ _ _ _ _ _ (by decide)) (by decide) ?_
  simp [decodeRow3]
  refine check_ok ?_; simp <;> first | omega | simp [hwf]
theorem vand (sw d a b i) : Statement (.vand sw d a b i) := by
  intro hwf w hw; obtain rfl := Option.some.inj hw
  simp [Instr.wf, fieldsOk] at hwf
  refine of_major 0x31 (fMaj_wordR _ _ _ _ _ _ _ (by decide)) (by decide) ?_
  simp [decodeRow3]
  refine check_ok ?_; simp <;> first | omega | simp [hwf]
theorem vor (sw d a b i) : Statement (.vor sw d a b i) := by
  intro hwf w hw; obtain rfl := Option.some.inj hw
  simp [Instr.wf, fieldsOk] at hwf
  refine of_major 0x32 (fMaj_wordR _ _ _ _ _ _ _ (by decide)) (by decide) ?_
  simp [decodeRow3]
  refine check_ok ?_; simp <;> first | omega | simp [hwf]
theorem vxor (sw d a b i) : Statement (.vxor sw d a b i) := by
  intro hwf w hw; obtain rfl := Option.some.inj hw
  simp [Instr.wf, fieldsOk] at hwf
  refine of_major 0x33 (fMaj_wordR _ _ _ _ _ _ _ (by decide)) (by decide) ?_
  simp [decodeRow3]
  refine check_ok ?_; simp <;> first | omega | simp [hwf]
theorem vnot (sw d a) : Statement (.vnot sw d a) := by
  intro hwf w hw; obtain rfl := Option.some.inj hw
  simp [Instr.wf, fieldsOk] at hwf
  refine of_major 0x34 (fMaj_wordR _ _ _ _ _ _ _ (by decide)) (by decide) ?_
  simp [decodeRow3]
  refine check_ok ?_; simp <;> first | omega | simp [hwf]
theorem vshl (sw d a b i) : Statement (.vshl sw d a b i) := by
  intro hwf w hw; obtain rfl := Option.some.inj hw
  simp [Instr.wf, fieldsOk] at hwf
  refine of_major 0x35 (fMaj_wordR _ _ _ _ _ _ _ (by decide)) (by decide) ?_
  simp [decodeRow3]
  refine check_ok ?_; simp <;> first | omega | simp [hwf]
theorem vshr (sw d a b i) : Statement (.vshr sw d a b i) := by
  intro hwf w hw; obtain rfl := Option.some.inj hw
  simp [Instr.wf, fieldsOk] at hwf
  refine of_major 0x36 (fMaj_wordR _ _ _ _ _ _ _ (by decide)) (by decide) ?_
  simp [decodeRow3]
  refine check_ok ?_; simp <;> first | omega | simp [hwf]
theorem vsra (sw d a b i) : Statement (.vsra sw d a b i) := by
  intro hwf w hw; obtain rfl := Option.some.inj hw
  simp [Instr.wf, fieldsOk] at hwf
  refine of_major 0x37 (fMaj_wordR _ _ _ _ _ _ _ (by decide)) (by decide) ?_
  simp [decodeRow3]
  refine check_ok ?_; simp <;> first | omega | simp [hwf]
theorem vcmp (sw c p a b i) : Statement (.vcmp sw c p a b i) := by
  intro hwf w hw; obtain rfl := Option.some.inj hw
  simp [Instr.wf, fieldsOk] at hwf
  refine of_major 0x38 (fMaj_wordR _ _ _ _ _ _ _ (by decide)) (by decide) ?_
  simp [decodeRow3]
  refine check_ok ?_; simp <;> first | omega | simp [hwf]
theorem vsel (sw d a b i) : Statement (.vsel sw d a b i) := by
  intro hwf w hw; obtain rfl := Option.some.inj hw
  simp [Instr.wf, fieldsOk] at hwf
  refine of_major 0x39 (fMaj_wordR _ _ _ _ _ _ _ (by decide)) (by decide) ?_
  simp [decodeRow3]
  refine check_ok ?_; simp <;> first | omega | simp [hwf]
theorem vmov (sw d a) : Statement (.vmov sw d a) := by
  intro hwf w hw; obtain rfl := Option.some.inj hw
  simp [Instr.wf, fieldsOk] at hwf
  refine of_major 0x3a (fMaj_wordR _ _ _ _ _ _ _ (by decide)) (by decide) ?_
  simp [decodeRow3]
  refine check_ok ?_; simp <;> first | omega | simp [hwf]
theorem vmovImm (sw d b) : Statement (.vmovImm sw d b) := by
  intro hwf w hw; obtain rfl := Option.some.inj hw
  simp [Instr.wf, fieldsOk] at hwf
  refine of_major 0x3a (fMaj_wordR _ _ _ _ _ _ _ (by decide)) (by decide) ?_
  simp [decodeRow3]
  refine check_ok ?_; simp <;> first | omega | simp [hwf]
theorem vmovs (sw d a) : Statement (.vmovs sw d a) := by
  intro hwf w hw; obtain rfl := Option.some.inj hw
  simp [Instr.wf, fieldsOk] at hwf
  refine of_major 0x3b (fMaj_wordR _ _ _ _ _ _ _ (by decide)) (by decide) ?_
  simp [decodeRow3]
  refine check_ok ?_; simp <;> first | omega | simp [hwf]
theorem vmovsToS (sw d a) : Statement (.vmovsToS sw d a) := by
  intro hwf w hw; obtain rfl := Option.some.inj hw
  simp [Instr.wf, fieldsOk] at hwf
  refine of_major 0x3b (fMaj_wordR _ _ _ _ _ _ _ (by decide)) (by decide) ?_
  simp [decodeRow3]
  refine check_ok ?_; simp <;> first | omega | simp [hwf]
theorem vlid (sw d g) : Statement (.vlid sw d g) := by
  intro hwf w hw; obtain rfl := Option.some.inj hw
  simp [Instr.wf, fieldsOk] at hwf
  refine of_major 0x3c (fMaj_wordR _ _ _ _ _ _ _ (by decide)) (by decide) ?_
  simp [decodeRow3]
  refine check_ok ?_; simp <;> first | omega | simp [hwf]
theorem vclz (sw d a) : Statement (.vclz sw d a) := by
  intro hwf w hw; obtain rfl := Option.some.inj hw
  simp [Instr.wf, fieldsOk] at hwf
  refine of_major 0x3d (fMaj_wordR _ _ _ _ _ _ _ (by decide)) (by decide) ?_
  simp [decodeRow3]
  refine check_ok ?_; simp <;> first | omega | simp [hwf]
theorem vpopc (sw d a) : Statement (.vpopc sw d a) := by
  intro hwf w hw; obtain rfl := Option.some.inj hw
  simp [Instr.wf, fieldsOk] at hwf
  refine of_major 0x3e (fMaj_wordR _ _ _ _ _ _ _ (by decide)) (by decide) ?_
  simp [decodeRow3]
  refine check_ok ?_; simp <;> first | omega | simp [hwf]
theorem vdiv (sw d a b i) : Statement (.vdiv sw d a b i) := by
  intro hwf w hw; obtain rfl := Option.some.inj hw
  simp [Instr.wf, fieldsOk] at hwf
  refine of_major 0x3f (fMaj_wordR _ _ _ _ _ _ _ (by decide)) (by decide) ?_
  simp [decodeRow3]
  refine check_ok ?_; simp <;> first | omega | simp [hwf]
theorem vrcp (sw d a) : Statement (.vrcp sw d a) := by
  intro hwf w hw; obtain rfl := Option.some.inj hw
  simp [Instr.wf, fieldsOk] at hwf
  refine of_major 0x40 (fMaj_wordR _ _ _ _ _ _ _ (by decide)) (by decide) ?_
  simp [decodeRow4]
  refine check_ok ?_; simp <;> first | omega | simp [hwf]
theorem vrsq (sw d a) : Statement (.vrsq sw d a) := by
  intro hwf w hw; obtain rfl := Option.some.inj hw
  simp [Instr.wf, fieldsOk] at hwf
  refine of_major 0x41 (fMaj_wordR _ _ _ _ _ _ _ (by decide)) (by decide) ?_
  simp [decodeRow4]
  refine check_ok ?_; simp <;> first | omega | simp [hwf]
theorem vex2 (sw d a) : Statement (.vex2 sw d a) := by
  intro hwf w hw; obtain rfl := Option.some.inj hw
  simp [Instr.wf, fieldsOk] at hwf
  refine of_major 0x42 (fMaj_wordR _ _ _ _ _ _ _ (by decide)) (by decide) ?_
  simp [decodeRow4]
  refine check_ok ?_; simp <;> first | omega | simp [hwf]
theorem vlg2 (sw d a) : Statement (.vlg2 sw d a) := by
  intro hwf w hw; obtain rfl := Option.some.inj hw
  simp [Instr.wf, fieldsOk] at hwf
  refine of_major 0x43 (fMaj_wordR _ _ _ _ _ _ _ (by decide)) (by decide) ?_
  simp [decodeRow4]
  refine check_ok ?_; simp <;> first | omega | simp [hwf]
theorem vsqrt (sw d a) : Statement (.vsqrt sw d a) := by
  intro hwf w hw; obtain rfl := Option.some.inj hw
  simp [Instr.wf, fieldsOk] at hwf
  refine of_major 0x44 (fMaj_wordR _ _ _ _ _ _ _ (by decide)) (by decide) ?_
  simp [decodeRow4]
  refine check_ok ?_; simp <;> first | omega | simp [hwf]
theorem vcvt (sw d a) : Statement (.vcvt sw d a) := by
  intro hwf w hw; obtain rfl := Option.some.inj hw
  simp [Instr.wf, fieldsOk] at hwf
  refine of_major 0x48 (fMaj_wordR _ _ _ _ _ _ _ (by decide)) (by decide) ?_
  simp [decodeRow4]
  refine check_ok ?_; simp <;> first | omega | simp [hwf]
theorem vpack (sw d a b h) : Statement (.vpack sw d a b h) := by
  intro hwf w hw; obtain rfl := Option.some.inj hw
  simp [Instr.wf, fieldsOk] at hwf
  refine of_major 0x49 (fMaj_wordR _ _ _ _ _ _ _ (by decide)) (by decide) ?_
  simp [decodeRow4]
  refine check_ok ?_; simp <;> first | omega | simp [hwf]
theorem vunpk (sw d a g) : Statement (.vunpk sw d a g) := by
  intro hwf w hw; obtain rfl := Option.some.inj hw
  simp [Instr.wf, fieldsOk] at hwf
  refine of_major 0x4a (fMaj_wordR _ _ _ _ _ _ _ (by decide)) (by decide) ?_
  simp [decodeRow4]
  refine check_ok ?_; simp <;> first | omega | simp [hwf]
theorem vqnt (sw d a b) : Statement (.vqnt sw d a b) := by
  intro hwf w hw; obtain rfl := Option.some.inj hw
  simp [Instr.wf, fieldsOk] at hwf
  refine of_major 0x4b (fMaj_wordR _ _ _ _ _ _ _ (by decide)) (by decide) ?_
  simp [decodeRow4]
  refine check_ok ?_; simp <;> first | omega | simp [hwf]
theorem vdqnt (sw d a b) : Statement (.vdqnt sw d a b) := by
  intro hwf w hw; obtain rfl := Option.some.inj hw
  simp [Instr.wf, fieldsOk] at hwf
  refine of_major 0x4c (fMaj_wordR _ _ _ _ _ _ _ (by decide)) (by decide) ?_
  simp [decodeRow4]
  refine check_ok ?_; simp <;> first | omega | simp [hwf]
theorem vcbk (sw d a b) : Statement (.vcbk sw d a b) := by
  intro hwf w hw; obtain rfl := Option.some.inj hw
  simp [Instr.wf, fieldsOk] at hwf
  refine of_major 0x4d (fMaj_wordR _ _ _ _ _ _ _ (by decide)) (by decide) ?_
  simp [decodeRow4]
  refine check_ok ?_; simp <;> first | omega | simp [hwf]
theorem vrng (sw d b i) : Statement (.vrng sw d b i) := by
  intro hwf w hw; obtain rfl := Option.some.inj hw
  simp [Instr.wf, fieldsOk] at hwf
  refine of_major 0x4e (fMaj_wordR _ _ _ _ _ _ _ (by decide)) (by decide) ?_
  simp [decodeRow4]
  refine check_ok ?_; simp <;> first | omega | simp [hwf]
theorem rseed (sw d a) : Statement (.rseed sw d a) := by
  intro hwf w hw; obtain rfl := Option.some.inj hw
  simp [Instr.wf, fieldsOk] at hwf
  refine of_major 0x4f (fMaj_wordR _ _ _ _ _ _ _ (by decide)) (by decide) ?_
  simp [decodeRow4]
  refine check_ok ?_; simp <;> first | omega | simp [hwf]
theorem vshfl (sw d a b i) : Statement (.vshfl sw d a b i) := by
  intro hwf w hw; obtain rfl := Option.some.inj hw
  simp [Instr.wf, fieldsOk] at hwf
  refine of_major 0x50 (fMaj_wordR _ _ _ _ _ _ _ (by decide)) (by decide) ?_
  simp [decodeRow5]
  refine check_ok ?_; simp <;> first | omega | simp [hwf]
theorem vbfly (sw d a b) : Statement (.vbfly sw d a b) := by
  intro hwf w hw; obtain rfl := Option.some.inj hw
  simp [Instr.wf, fieldsOk] at hwf
  refine of_major 0x51 (fMaj_wordR _ _ _ _ _ _ _ (by decide)) (by decide) ?_
  simp [decodeRow5]
  refine check_ok ?_; simp <;> first | omega | simp [hwf]
theorem vball (sw d a) : Statement (.vball sw d a) := by
  intro hwf w hw; obtain rfl := Option.some.inj hw
  simp [Instr.wf, fieldsOk] at hwf
  refine of_major 0x52 (fMaj_wordR _ _ _ _ _ _ _ (by decide)) (by decide) ?_
  simp [decodeRow5]
  refine check_ok ?_; simp <;> first | omega | simp [hwf]
theorem vany (sw d a) : Statement (.vany sw d a) := by
  intro hwf w hw; obtain rfl := Option.some.inj hw
  simp [Instr.wf, fieldsOk] at hwf
  refine of_major 0x53 (fMaj_wordR _ _ _ _ _ _ _ (by decide)) (by decide) ?_
  simp [decodeRow5]
  refine check_ok ?_; simp <;> first | omega | simp [hwf]
theorem vall (sw d a) : Statement (.vall sw d a) := by
  intro hwf w hw; obtain rfl := Option.some.inj hw
  simp [Instr.wf, fieldsOk] at hwf
  refine of_major 0x54 (fMaj_wordR _ _ _ _ _ _ _ (by decide)) (by decide) ?_
  simp [decodeRow5]
  refine check_ok ?_; simp <;> first | omega | simp [hwf]
theorem vscan (sw d a x) : Statement (.vscan sw d a x) := by
  intro hwf w hw; obtain rfl := Option.some.inj hw
  simp [Instr.wf, fieldsOk] at hwf
  refine of_major 0x55 (fMaj_wordR _ _ _ _ _ _ _ (by decide)) (by decide) ?_
  simp [decodeRow5]
  refine check_ok ?_; simp <;> first | omega | simp [hwf]
theorem vmxix (sw d a b) : Statement (.vmxix sw d a b) := by
  intro hwf w hw; obtain rfl := Option.some.inj hw
  simp [Instr.wf, fieldsOk] at hwf
  refine of_major 0x56 (fMaj_wordR _ _ _ _ _ _ _ (by decide)) (by decide) ?_
  simp [decodeRow5]
  refine check_ok ?_; simp <;> first | omega | simp [hwf]
theorem vmxixC (sw d a b) : Statement (.vmxixC sw d a b) := by
  intro hwf w hw; obtain rfl := Option.some.inj hw
  simp [Instr.wf, fieldsOk] at hwf
  refine of_major 0x56 (fMaj_wordR _ _ _ _ _ _ _ (by decide)) (by decide) ?_
  simp [decodeRow5]
  refine check_ok ?_; simp <;> first | omega | simp [hwf]
theorem vmxixD (sw d a) : Statement (.vmxixD sw d a) := by
  intro hwf w hw; obtain rfl := Option.some.inj hw
  simp [Instr.wf, fieldsOk] at hwf
  refine of_major 0x56 (fMaj_wordR _ _ _ _ _ _ _ (by decide)) (by decide) ?_
  simp [decodeRow5]
  refine check_ok ?_; simp <;> first | omega | simp [hwf]
theorem vreds (sw d a x) : Statement (.vreds sw d a x) := by
  intro hwf w hw; obtain rfl := Option.some.inj hw
  simp [Instr.wf, fieldsOk] at hwf
  refine of_major 0x57 (fMaj_wordR _ _ _ _ _ _ _ (by decide)) (by decide) ?_
  simp [decodeRow5]
  refine check_ok ?_; simp <;> first | omega | simp [hwf]
theorem cgeta (sw d a) : Statement (.cgeta sw d a) := by
  intro hwf w hw; obtain rfl := Option.some.inj hw
  simp [Instr.wf, fieldsOk] at hwf
  refine of_major 0x60 (fMaj_wordR _ _ _ _ _ _ _ (by decide)) (by decide) ?_
  simp [decodeRow6]
  refine check_ok ?_; simp <;> first | omega | simp [hwf]
theorem cgetb (sw d a) : Statement (.cgetb sw d a) := by
  intro hwf w hw; obtain rfl := Option.some.inj hw
  simp [Instr.wf, fieldsOk] at hwf
  refine of_major 0x61 (fMaj_wordR _ _ _ _ _ _ _ (by decide)) (by decide) ?_
  simp [decodeRow6]
  refine check_ok ?_; simp <;> first | omega | simp [hwf]
theorem cgetl (sw d a) : Statement (.cgetl sw d a) := by
  intro hwf w hw; obtain rfl := Option.some.inj hw
  simp [Instr.wf, fieldsOk] at hwf
  refine of_major 0x62 (fMaj_wordR _ _ _ _ _ _ _ (by decide)) (by decide) ?_
  simp [decodeRow6]
  refine check_ok ?_; simp <;> first | omega | simp [hwf]
theorem cgetp (sw d a) : Statement (.cgetp sw d a) := by
  intro hwf w hw; obtain rfl := Option.some.inj hw
  simp [Instr.wf, fieldsOk] at hwf
  refine of_major 0x63 (fMaj_wordR _ _ _ _ _ _ _ (by decide)) (by decide) ?_
  simp [decodeRow6]
  refine check_ok ?_; simp <;> first | omega | simp [hwf]
theorem cgett (sw d a) : Statement (.cgett sw d a) := by
  intro hwf w hw; obtain rfl := Option.some.inj hw
  simp [Instr.wf, fieldsOk] at hwf
  refine of_major 0x64 (fMaj_wordR _ _ _ _ _ _ _ (by decide)) (by decide) ?_
  simp [decodeRow6]
  refine check_ok ?_; simp <;> first | omega | simp [hwf]
theorem cseta (sw d a b x) : Statement (.cseta sw d a b x) := by
  intro hwf w hw; obtain rfl := Option.some.inj hw
  simp [Instr.wf, fieldsOk] at hwf
  refine of_major 0x65 (fMaj_wordR _ _ _ _ _ _ _ (by decide)) (by decide) ?_
  simp [decodeRow6]
  refine check_ok ?_; simp <;> first | omega | simp [hwf]
theorem cinc (sw d a i) : Statement (.cinc sw d a i) := by
  intro hwf w hw; obtain rfl := Option.some.inj hw
  simp [Instr.wf, fieldsOk] at hwf
  refine of_major 0x66 (fMaj_wordI _ _ _ _ _ (by decide)) (by decide) ?_
  simp [decodeRow6]
  refine check_ok ?_; simp <;> first | omega | simp [hwf]
theorem csetb (sw d a b x) : Statement (.csetb sw d a b x) := by
  intro hwf w hw; obtain rfl := Option.some.inj hw
  simp [Instr.wf, fieldsOk] at hwf
  refine of_major 0x67 (fMaj_wordR _ _ _ _ _ _ _ (by decide)) (by decide) ?_
  simp [decodeRow6]
  refine check_ok ?_; simp <;> first | omega | simp [hwf]
theorem cprune (sw d a b) : Statement (.cprune sw d a b) := by
  intro hwf w hw; obtain rfl := Option.some.inj hw
  simp [Instr.wf, fieldsOk] at hwf
  refine of_major 0x68 (fMaj_wordR _ _ _ _ _ _ _ (by decide)) (by decide) ?_
  simp [decodeRow6]
  refine check_ok ?_; simp <;> first | omega | simp [hwf]
theorem cseal (sw d a b) : Statement (.cseal sw d a b) := by
  intro hwf w hw; obtain rfl := Option.some.inj hw
  simp [Instr.wf, fieldsOk] at hwf
  refine of_major 0x69 (fMaj_wordR _ _ _ _ _ _ _ (by decide)) (by decide) ?_
  simp [decodeRow6]
  refine check_ok ?_; simp <;> first | omega | simp [hwf]
theorem cunsl (sw d a b) : Statement (.cunsl sw d a b) := by
  intro hwf w hw; obtain rfl := Option.some.inj hw
  simp [Instr.wf, fieldsOk] at hwf
  refine of_major 0x6a (fMaj_wordR _ _ _ _ _ _ _ (by decide)) (by decide) ?_
  simp [decodeRow6]
  refine check_ok ?_; simp <;> first | omega | simp [hwf]
theorem cmov (sw d a) : Statement (.cmov sw d a) := by
  intro hwf w hw; obtain rfl := Option.some.inj hw
  simp [Instr.wf, fieldsOk] at hwf
  refine of_major 0x6b (fMaj_wordR _ _ _ _ _ _ _ (by decide)) (by decide) ?_
  simp [decodeRow6]
  refine check_ok ?_; simp <;> first | omega | simp [hwf]
theorem cmovS (sw d a) : Statement (.cmovS sw d a) := by
  intro hwf w hw; obtain rfl := Option.some.inj hw
  simp [Instr.wf, fieldsOk] at hwf
  refine of_major 0x6b (fMaj_wordR _ _ _ _ _ _ _ (by decide)) (by decide) ?_
  simp [decodeRow6]
  refine check_ok ?_; simp <;> first | omega | simp [hwf]
theorem cmovFromVc (sw d a) : Statement (.cmovFromVc sw d a) := by
  intro hwf w hw; obtain rfl := Option.some.inj hw
  simp [Instr.wf, fieldsOk] at hwf
  refine of_major 0x6b (fMaj_wordR _ _ _ _ _ _ _ (by decide)) (by decide) ?_
  simp [decodeRow6]
  refine check_ok ?_; simp <;> first | omega | simp [hwf]
theorem cmovToVc (sw d a) : Statement (.cmovToVc sw d a) := by
  intro hwf w hw; obtain rfl := Option.some.inj hw
  simp [Instr.wf, fieldsOk] at hwf
  refine of_major 0x6b (fMaj_wordR _ _ _ _ _ _ _ (by decide)) (by decide) ?_
  simp [decodeRow6]
  refine check_ok ?_; simp <;> first | omega | simp [hwf]
theorem cmovVc (sw d a) : Statement (.cmovVc sw d a) := by
  intro hwf w hw; obtain rfl := Option.some.inj hw
  simp [Instr.wf, fieldsOk] at hwf
  refine of_major 0x6b (fMaj_wordR _ _ _ _ _ _ _ (by decide)) (by decide) ?_
  simp [decodeRow6]
  refine check_ok ?_; simp <;> first | omega | simp [hwf]
theorem ctest (sw d a b) : Statement (.ctest sw d a b) := by
  intro hwf w hw; obtain rfl := Option.some.inj hw
  simp [Instr.wf, fieldsOk] at hwf
  refine of_major 0x6c (fMaj_wordR _ _ _ _ _ _ _ (by decide)) (by decide) ?_
  simp [decodeRow6]
  refine check_ok ?_; simp <;> first | omega | simp [hwf]
theorem cldc (sw t c o i) : Statement (.cldc sw t c o i) := by
  intro hwf w hw; obtain rfl := Option.some.inj hw
  simp [Instr.wf, fieldsOk] at hwf
  refine of_major 0x6d (fMaj_wordM _ _ _ _ _ _ (by decide)) (by decide) ?_
  simp [decodeRow6]
  refine check_ok ?_; simp <;> first | omega | simp [hwf]
theorem cstc (sw t c o i) : Statement (.cstc sw t c o i) := by
  intro hwf w hw; obtain rfl := Option.some.inj hw
  simp [Instr.wf, fieldsOk] at hwf
  refine of_major 0x6e (fMaj_wordM _ _ _ _ _ _ (by decide)) (by decide) ?_
  simp [decodeRow6]
  refine check_ok ?_; simp <;> first | omega | simp [hwf]
theorem vcld (sw t c o i) : Statement (.vcld sw t c o i) := by
  intro hwf w hw; obtain rfl := Option.some.inj hw
  simp [Instr.wf, fieldsOk] at hwf
  refine of_major 0x6f (fMaj_wordM _ _ _ _ _ _ (by decide)) (by decide) ?_
  simp [decodeRow6]
  refine check_ok ?_; simp <;> first | omega | simp [hwf]
theorem vcst (sw t c o i) : Statement (.vcst sw t c o i) := by
  intro hwf w hw; obtain rfl := Option.some.inj hw
  simp [Instr.wf, fieldsOk] at hwf
  refine of_major 0x70 (fMaj_wordM _ _ _ _ _ _ (by decide)) (by decide) ?_
  simp [decodeRow7]
  refine check_ok ?_; simp <;> first | omega | simp [hwf]
theorem ld (sw t c o i) : Statement (.ld sw t c o i) := by
  intro hwf w hw; obtain rfl := Option.some.inj hw
  simp [Instr.wf, fieldsOk] at hwf
  refine of_major 0x78 (fMaj_wordM _ _ _ _ _ _ (by decide)) (by decide) ?_
  simp [decodeRow7]
  refine check_ok ?_; simp <;> first | omega | simp [hwf]
theorem st (sw t c o i) : Statement (.st sw t c o i) := by
  intro hwf w hw; obtain rfl := Option.some.inj hw
  simp [Instr.wf, fieldsOk] at hwf
  refine of_major 0x79 (fMaj_wordM _ _ _ _ _ _ (by decide)) (by decide) ?_
  simp [decodeRow7]
  refine check_ok ?_; simp <;> first | omega | simp [hwf]
theorem ldu (sw t c o i) : Statement (.ldu sw t c o i) := by
  intro hwf w hw; obtain rfl := Option.some.inj hw
  simp [Instr.wf, fieldsOk] at hwf
  refine of_major 0x7a (fMaj_wordM _ _ _ _ _ _ (by decide)) (by decide) ?_
  simp [decodeRow7]
  refine check_ok ?_; simp <;> first | omega | simp [hwf]
theorem stu (sw t c o i) : Statement (.stu sw t c o i) := by
  intro hwf w hw; obtain rfl := Option.some.inj hw
  simp [Instr.wf, fieldsOk] at hwf
  refine of_major 0x7b (fMaj_wordM _ _ _ _ _ _ (by decide)) (by decide) ?_
  simp [decodeRow7]
  refine check_ok ?_; simp <;> first | omega | simp [hwf]
theorem lds (sw t c o i) : Statement (.lds sw t c o i) := by
  intro hwf w hw; obtain rfl := Option.some.inj hw
  simp [Instr.wf, fieldsOk] at hwf
  refine of_major 0x7c (fMaj_wordM _ _ _ _ _ _ (by decide)) (by decide) ?_
  simp [decodeRow7]
  refine check_ok ?_; simp <;> first | omega | simp [hwf]
theorem sts (sw t c o i) : Statement (.sts sw t c o i) := by
  intro hwf w hw; obtain rfl := Option.some.inj hw
  simp [Instr.wf, fieldsOk] at hwf
  refine of_major 0x7d (fMaj_wordM _ _ _ _ _ _ (by decide)) (by decide) ?_
  simp [decodeRow7]
  refine check_ok ?_; simp <;> first | omega | simp [hwf]
theorem gath (sw t c o i) : Statement (.gath sw t c o i) := by
  intro hwf w hw; obtain rfl := Option.some.inj hw
  simp [Instr.wf, fieldsOk] at hwf
  refine of_major 0x7e (fMaj_wordM _ _ _ _ _ _ (by decide)) (by decide) ?_
  simp [decodeRow7]
  refine check_ok ?_; simp <;> first | omega | simp [hwf]
theorem scat (sw t c o i) : Statement (.scat sw t c o i) := by
  intro hwf w hw; obtain rfl := Option.some.inj hw
  simp [Instr.wf, fieldsOk] at hwf
  refine of_major 0x7f (fMaj_wordM _ _ _ _ _ _ (by decide)) (by decide) ?_
  simp [decodeRow7]
  refine check_ok ?_; simp <;> first | omega | simp [hwf]
theorem pref (sw t c o i) : Statement (.pref sw t c o i) := by
  intro hwf w hw; obtain rfl := Option.some.inj hw
  simp [Instr.wf, fieldsOk] at hwf
  refine of_major 0x80 (fMaj_wordM _ _ _ _ _ _ (by decide)) (by decide) ?_
  simp [decodeRow8]
  refine check_ok ?_; simp <;> first | omega | simp [hwf]
theorem ldac (sw t c o e) : Statement (.ldac sw t c o e) := by
  intro hwf w hw; obtain rfl := Option.some.inj hw
  simp [Instr.wf, fieldsOk] at hwf
  refine of_major 0x81 (fMaj_wordM _ _ _ _ _ _ (by decide)) (by decide) ?_
  simp [decodeRow8]
  refine check_ok ?_; simp <;> first | omega | simp [hwf]
theorem strl (sw t c o e) : Statement (.strl sw t c o e) := by
  intro hwf w hw; obtain rfl := Option.some.inj hw
  simp [Instr.wf, fieldsOk] at hwf
  refine of_major 0x82 (fMaj_wordM _ _ _ _ _ _ (by decide)) (by decide) ?_
  simp [decodeRow8]
  refine check_ok ?_; simp <;> first | omega | simp [hwf]
theorem waitc (sw d a b i) : Statement (.waitc sw d a b i) := by
  intro hwf w hw; obtain rfl := Option.some.inj hw
  simp [Instr.wf, fieldsOk] at hwf
  refine of_major 0x83 (fMaj_wordR _ _ _ _ _ _ _ (by decide)) (by decide) ?_
  simp [decodeRow8]
  refine check_ok ?_; simp <;> first | omega | simp [hwf]
theorem rdcnt (sw d a e) : Statement (.rdcnt sw d a e) := by
  intro hwf w hw; obtain rfl := Option.some.inj hw
  simp [Instr.wf, fieldsOk] at hwf
  refine of_major 0x84 (fMaj_wordR _ _ _ _ _ _ _ (by decide)) (by decide) ?_
  simp [decodeRow8]
  refine check_ok ?_; simp <;> first | omega | simp [hwf]
theorem tcpy (sw t c o i) : Statement (.tcpy sw t c o i) := by
  intro hwf w hw; obtain rfl := Option.some.inj hw
  simp [Instr.wf, fieldsOk] at hwf
  refine of_major 0x85 (fMaj_wordM _ _ _ _ _ _ (by decide)) (by decide) ?_
  simp [decodeRow8]
  refine check_ok ?_; simp <;> first | omega | simp [hwf]
theorem bcpy (sw t c o) : Statement (.bcpy sw t c o) := by
  intro hwf w hw; obtain rfl := Option.some.inj hw
  simp [Instr.wf, fieldsOk] at hwf
  refine of_major 0x86 (fMaj_wordM _ _ _ _ _ _ (by decide)) (by decide) ?_
  simp [decodeRow8]
  refine check_ok ?_; simp <;> first | omega | simp [hwf]
theorem publ (sw t c o) : Statement (.publ sw t c o) := by
  intro hwf w hw; obtain rfl := Option.some.inj hw
  simp [Instr.wf, fieldsOk] at hwf
  refine of_major 0x87 (fMaj_wordM _ _ _ _ _ _ (by decide)) (by decide) ?_
  simp [decodeRow8]
  refine check_ok ?_; simp <;> first | omega | simp [hwf]
theorem fork (sw p j) : Statement (.fork sw p j) := by
  intro hwf w hw; obtain rfl := Option.some.inj hw
  simp [Instr.wf, fieldsOk] at hwf
  refine of_major 0x88 (fMaj_wordP _ _ _ _ _ (by decide)) (by decide) ?_
  simp [decodeRow8]
  refine check_ok ?_; simp <;> first | omega | simp [hwf]
theorem rdvz (sw p) : Statement (.rdvz sw p) := by
  intro hwf w hw; obtain rfl := Option.some.inj hw
  simp [Instr.wf, fieldsOk] at hwf
  refine of_major 0x89 (fMaj_wordP _ _ _ _ _ (by decide)) (by decide) ?_
  simp [decodeRow8]
  refine check_ok ?_; simp <;> first | omega | simp [hwf]
theorem ende (sw) : Statement (.ende sw) := by
  intro hwf w hw; obtain rfl := Option.some.inj hw
  simp [Instr.wf, fieldsOk] at hwf
  refine of_major 0x8a (fMaj_wordJ _ _ _ (by decide)) (by decide) ?_
  simp [decodeRow8]
  refine check_ok ?_; simp <;> first | omega | simp [hwf]
theorem aadd (sw t c o e q) : Statement (.aadd sw t c o e q) := by
  intro hwf w hw; obtain rfl := Option.some.inj hw
  simp [Instr.wf, fieldsOk] at hwf
  refine of_major 0x90 (fMaj_wordM _ _ _ _ _ _ (by decide)) (by decide) ?_
  simp [decodeRow9]
  refine check_ok ?_; simp <;> first | omega | simp [hwf]
theorem amin (sw t c o e q) : Statement (.amin sw t c o e q) := by
  intro hwf w hw; obtain rfl := Option.some.inj hw
  simp [Instr.wf, fieldsOk] at hwf
  refine of_major 0x91 (fMaj_wordM _ _ _ _ _ _ (by decide)) (by decide) ?_
  simp [decodeRow9]
  refine check_ok ?_; simp <;> first | omega | simp [hwf]
theorem amax (sw t c o e q) : Statement (.amax sw t c o e q) := by
  intro hwf w hw; obtain rfl := Option.some.inj hw
  simp [Instr.wf, fieldsOk] at hwf
  refine of_major 0x92 (fMaj_wordM _ _ _ _ _ _ (by decide)) (by decide) ?_
  simp [decodeRow9]
  refine check_ok ?_; simp <;> first | omega | simp [hwf]
theorem aand (sw t c o e q) : Statement (.aand sw t c o e q) := by
  intro hwf w hw; obtain rfl := Option.some.inj hw
  simp [Instr.wf, fieldsOk] at hwf
  refine of_major 0x93 (fMaj_wordM _ _ _ _ _ _ (by decide)) (by decide) ?_
  simp [decodeRow9]
  refine check_ok ?_; simp <;> first | omega | simp [hwf]
theorem aor (sw t c o e q) : Statement (.aor sw t c o e q) := by
  intro hwf w hw; obtain rfl := Option.some.inj hw
  simp [Instr.wf, fieldsOk] at hwf
  refine of_major 0x94 (fMaj_wordM _ _ _ _ _ _ (by decide)) (by decide) ?_
  simp [decodeRow9]
  refine check_ok ?_; simp <;> first | omega | simp [hwf]
theorem axor (sw t c o e q) : Statement (.axor sw t c o e q) := by
  intro hwf w hw; obtain rfl := Option.some.inj hw
  simp [Instr.wf, fieldsOk] at hwf
  refine of_major 0x95 (fMaj_wordM _ _ _ _ _ _ (by decide)) (by decide) ?_
  simp [decodeRow9]
  refine check_ok ?_; simp <;> first | omega | simp [hwf]
theorem axchg (sw t c o e q) : Statement (.axchg sw t c o e q) := by
  intro hwf w hw; obtain rfl := Option.some.inj hw
  simp [Instr.wf, fieldsOk] at hwf
  refine of_major 0x96 (fMaj_wordM _ _ _ _ _ _ (by decide)) (by decide) ?_
  simp [decodeRow9]
  refine check_ok ?_; simp <;> first | omega | simp [hwf]
theorem acas (sw t c o e q) : Statement (.acas sw t c o e q) := by
  intro hwf w hw; obtain rfl := Option.some.inj hw
  simp [Instr.wf, fieldsOk] at hwf
  refine of_major 0x97 (fMaj_wordM _ _ _ _ _ _ (by decide)) (by decide) ?_
  simp [decodeRow9]
  refine check_ok ?_; simp <;> first | omega | simp [hwf]
theorem amxix (sw t c o e q) : Statement (.amxix sw t c o e q) := by
  intro hwf w hw; obtain rfl := Option.some.inj hw
  simp [Instr.wf, fieldsOk] at hwf
  refine of_major 0x98 (fMaj_wordM _ _ _ _ _ _ (by decide)) (by decide) ?_
  simp [decodeRow9]
  refine check_ok ?_; simp <;> first | omega | simp [hwf]
theorem axadd (sw t c o e q) : Statement (.axadd sw t c o e q) := by
  intro hwf w hw; obtain rfl := Option.some.inj hw
  simp [Instr.wf, fieldsOk] at hwf
  refine of_major 0x99 (fMaj_wordM _ _ _ _ _ _ (by decide)) (by decide) ?_
  simp [decodeRow9]
  refine check_ok ?_; simp <;> first | omega | simp [hwf]
theorem axrd (sw t c o e q) : Statement (.axrd sw t c o e q) := by
  intro hwf w hw; obtain rfl := Option.some.inj hw
  simp [Instr.wf, fieldsOk] at hwf
  refine of_major 0x9a (fMaj_wordM _ _ _ _ _ _ (by decide)) (by decide) ?_
  simp [decodeRow9]
  refine check_ok ?_; simp <;> first | omega | simp [hwf]
theorem dqpsh (sw t c o e q) : Statement (.dqpsh sw t c o e q) := by
  intro hwf w hw; obtain rfl := Option.some.inj hw
  simp [Instr.wf, fieldsOk] at hwf
  refine of_major 0x9b (fMaj_wordM _ _ _ _ _ _ (by decide)) (by decide) ?_
  simp [decodeRow9]
  refine check_ok ?_; simp <;> first | omega | simp [hwf]
theorem dqpop (sw t c o e q) : Statement (.dqpop sw t c o e q) := by
  intro hwf w hw; obtain rfl := Option.some.inj hw
  simp [Instr.wf, fieldsOk] at hwf
  refine of_major 0x9c (fMaj_wordM _ _ _ _ _ _ (by decide)) (by decide) ?_
  simp [decodeRow9]
  refine check_ok ?_; simp <;> first | omega | simp [hwf]
theorem dqstl (sw t c o e q) : Statement (.dqstl sw t c o e q) := by
  intro hwf w hw; obtain rfl := Option.some.inj hw
  simp [Instr.wf, fieldsOk] at hwf
  refine of_major 0x9d (fMaj_wordM _ _ _ _ _ _ (by decide)) (by decide) ?_
  simp [decodeRow9]
  refine check_ok ?_; simp <;> first | omega | simp [hwf]
theorem bari (sw t c o) : Statement (.bari sw t c o) := by
  intro hwf w hw; obtain rfl := Option.some.inj hw
  simp [Instr.wf, fieldsOk] at hwf
  refine of_major 0x9e (fMaj_wordM _ _ _ _ _ _ (by decide)) (by decide) ?_
  simp [decodeRow9]
  refine check_ok ?_; simp <;> first | omega | simp [hwf]
theorem bara (sw t c o) : Statement (.bara sw t c o) := by
  intro hwf w hw; obtain rfl := Option.some.inj hw
  simp [Instr.wf, fieldsOk] at hwf
  refine of_major 0x9f (fMaj_wordM _ _ _ _ _ _ (by decide)) (by decide) ?_
  simp [decodeRow9]
  refine check_ok ?_; simp <;> first | omega | simp [hwf]
theorem barw (sw t c o) : Statement (.barw sw t c o) := by
  intro hwf w hw; obtain rfl := Option.some.inj hw
  simp [Instr.wf, fieldsOk] at hwf
  refine of_major 0xa0 (fMaj_wordM _ _ _ _ _ _ (by decide)) (by decide) ?_
  simp [decodeRowA]
  refine check_ok ?_; simp <;> first | omega | simp [hwf]
theorem barx (sw t c o) : Statement (.barx sw t c o) := by
  intro hwf w hw; obtain rfl := Option.some.inj hw
  simp [Instr.wf, fieldsOk] at hwf
  refine of_major 0xa1 (fMaj_wordM _ _ _ _ _ _ (by decide)) (by decide) ?_
  simp [decodeRowA]
  refine check_ok ?_; simp <;> first | omega | simp [hwf]
theorem mclm (sw r) : Statement (.mclm sw r) := by
  intro hwf w hw; obtain rfl := Option.some.inj hw
  simp [Instr.wf, fieldsOk] at hwf
  refine of_major 0xa8 (fMaj_wordT _ _ _ _ _ _ _ (by decide)) (by decide) ?_
  simp [decodeRowA]
  refine check_ok ?_; simp <;> first | omega | simp [hwf]
theorem mclmT (sw n r) : Statement (.mclmT sw n r) := by
  intro hwf w hw; obtain rfl := Option.some.inj hw
  simp [Instr.wf, fieldsOk] at hwf
  refine of_major 0xa8 (fMaj_wordT _ _ _ _ _ _ _ (by decide)) (by decide) ?_
  simp [decodeRowA]
  refine check_ok ?_; simp <;> first | omega | simp [hwf]
theorem mrls (sw r) : Statement (.mrls sw r) := by
  intro hwf w hw; obtain rfl := Option.some.inj hw
  simp [Instr.wf, fieldsOk] at hwf
  refine of_major 0xa9 (fMaj_wordT _ _ _ _ _ _ _ (by decide)) (by decide) ?_
  simp [decodeRowA]
  refine check_ok ?_; simp <;> first | omega | simp [hwf]
theorem mldo (sw t c o b) : Statement (.mldo sw t c o b) := by
  intro hwf w hw; obtain rfl := Option.some.inj hw
  simp [Instr.wf, fieldsOk] at hwf
  refine of_major 0xaa (fMaj_wordM _ _ _ _ _ _ (by decide)) (by decide) ?_
  simp [decodeRowA]
  refine check_ok ?_; simp <;> first | omega | simp [hwf]
theorem mma (sw n a b k g) : Statement (.mma sw n a b k g) := by
  intro hwf w hw; obtain rfl := Option.some.inj hw
  simp [Instr.wf, fieldsOk] at hwf
  refine of_major 0xab (fMaj_wordT _ _ _ _ _ _ _ (by decide)) (by decide) ?_
  simp [decodeRowA]
  refine check_ok ?_; simp <;> first | omega | simp [hwf]
theorem mzero (sw n) : Statement (.mzero sw n) := by
  intro hwf w hw; obtain rfl := Option.some.inj hw
  simp [Instr.wf, fieldsOk] at hwf
  refine of_major 0xac (fMaj_wordT _ _ _ _ _ _ _ (by decide)) (by decide) ?_
  simp [decodeRowA, fX2_wordT_all, fK3_wordT_all]
  refine check_ok ?_; simp <;> first | omega | simp [hwf]
theorem mzeroF (sw n) : Statement (.mzeroF sw n) := by
  intro hwf w hw; obtain rfl := Option.some.inj hw
  simp [Instr.wf, fieldsOk] at hwf
  refine of_major 0xac (fMaj_wordT _ _ _ _ _ _ _ (by decide)) (by decide) ?_
  simp [decodeRowA, fX2_wordT_all, fK3_wordT_all]
  refine check_ok ?_; simp <;> first | omega | simp [hwf]
theorem mzeroT (sw) : Statement (.mzeroT sw) := by
  intro hwf w hw; obtain rfl := Option.some.inj hw
  simp [Instr.wf, fieldsOk] at hwf
  refine of_major 0xac (fMaj_wordT _ _ _ _ _ _ _ (by decide)) (by decide) ?_
  simp [decodeRowA, fX2_wordT_all, fK3_wordT_all]
  refine check_ok ?_; simp <;> first | omega | simp [hwf]
theorem mrda (sw n r q) : Statement (.mrda sw n r q) := by
  intro hwf w hw; obtain rfl := Option.some.inj hw
  simp [Instr.wf, fieldsOk] at hwf
  refine of_major 0xad (fMaj_wordT _ _ _ _ _ _ _ (by decide)) (by decide) ?_
  simp [decodeRowA]
  refine check_ok ?_; simp <;> first | omega | simp [hwf]
theorem mwra (sw n r q) : Statement (.mwra sw n r q) := by
  intro hwf w hw; obtain rfl := Option.some.inj hw
  simp [Instr.wf, fieldsOk] at hwf
  refine of_major 0xae (fMaj_wordT _ _ _ _ _ _ _ (by decide)) (by decide) ?_
  simp [decodeRowA]
  refine check_ok ?_; simp <;> first | omega | simp [hwf]
theorem mdrn (sw n a r z f) : Statement (.mdrn sw n a r z f) := by
  intro hwf w hw; obtain rfl := Option.some.inj hw
  simp [Instr.wf, fieldsOk] at hwf
  refine of_major 0xaf (fMaj_wordT _ _ _ _ _ _ _ (by decide)) (by decide) ?_
  simp only [decodeRowA, fMaj_wordT, fOB_wordT, fREG_wordT, fOA_wordT, fP3_wordT, fS_wordT, fX0_wordT, fX1_wordT, low28_mdrn, mdrn_z, mdrn_f, Nat.reduceLT]
  simp
  refine check_ok ?_; simp <;> first | omega | simp [hwf]
theorem tldp (sw t c o i) : Statement (.tldp sw t c o i) := by
  intro hwf w hw; obtain rfl := Option.some.inj hw
  simp [Instr.wf, fieldsOk] at hwf
  refine of_major 0xb0 (fMaj_wordM _ _ _ _ _ _ (by decide)) (by decide) ?_
  simp [decodeRowB]
  refine check_ok ?_; simp <;> first | omega | simp [hwf]
theorem mscl (sw n r) : Statement (.mscl sw n r) := by
  intro hwf w hw; obtain rfl := Option.some.inj hw
  simp [Instr.wf, fieldsOk] at hwf
  refine of_major 0xb1 (fMaj_wordT _ _ _ _ _ _ _ (by decide)) (by decide) ?_
  simp [decodeRowB]
  refine check_ok ?_; simp <;> first | omega | simp [hwf]
theorem mcab (sw c o i) : Statement (.mcab sw c o i) := by
  intro hwf w hw; obtain rfl := Option.some.inj hw
  simp [Instr.wf, fieldsOk] at hwf
  refine of_major 0xb2 (fMaj_wordM _ _ _ _ _ _ (by decide)) (by decide) ?_
  simp [decodeRowB]
  refine check_ok ?_; simp <;> first | omega | simp [hwf]
theorem accsv (sw t c o i) : Statement (.accsv sw t c o i) := by
  intro hwf w hw; obtain rfl := Option.some.inj hw
  simp [Instr.wf, fieldsOk] at hwf
  refine of_major 0xb3 (fMaj_wordM _ _ _ _ _ _ (by decide)) (by decide) ?_
  simp [decodeRowB]
  refine check_ok ?_; simp <;> first | omega | simp [hwf]
theorem accrs (sw t c o i) : Statement (.accrs sw t c o i) := by
  intro hwf w hw; obtain rfl := Option.some.inj hw
  simp [Instr.wf, fieldsOk] at hwf
  refine of_major 0xb4 (fMaj_wordM _ _ _ _ _ _ (by decide)) (by decide) ?_
  simp [decodeRowB]
  refine check_ok ?_; simp <;> first | omega | simp [hwf]
theorem mstat (sw d) : Statement (.mstat sw d) := by
  intro hwf w hw; obtain rfl := Option.some.inj hw
  simp [Instr.wf, fieldsOk] at hwf
  refine of_major 0xb5 (fMaj_wordR _ _ _ _ _ _ _ (by decide)) (by decide) ?_
  simp [decodeRowB]
  refine check_ok ?_; simp <;> first | omega | simp [hwf]
theorem shtrp (sw d a b) : Statement (.shtrp sw d a b) := by
  intro hwf w hw; obtain rfl := Option.some.inj hw
  simp [Instr.wf, fieldsOk] at hwf
  refine of_major 0xb8 (fMaj_wordR _ _ _ _ _ _ _ (by decide)) (by decide) ?_
  simp [decodeRowB]
  refine check_ok ?_; simp <;> first | omega | simp [hwf]
theorem shopn (sw a b r) : Statement (.shopn sw a b r) := by
  intro hwf w hw; obtain rfl := Option.some.inj hw
  simp [Instr.wf, fieldsOk] at hwf
  refine of_major 0xb9 (fMaj_wordR _ _ _ _ _ _ _ (by decide)) (by decide) ?_
  simp [decodeRowB]
  refine check_ok ?_; simp <;> first | omega | simp [hwf]
theorem shrcv (sw d b r) : Statement (.shrcv sw d b r) := by
  intro hwf w hw; obtain rfl := Option.some.inj hw
  simp [Instr.wf, fieldsOk] at hwf
  refine of_major 0xba (fMaj_wordR _ _ _ _ _ _ _ (by decide)) (by decide) ?_
  simp [decodeRowB]
  refine check_ok ?_; simp <;> first | omega | simp [hwf]
theorem shmul (sw d a b) : Statement (.shmul sw d a b) := by
  intro hwf w hw; obtain rfl := Option.some.inj hw
  simp [Instr.wf, fieldsOk] at hwf
  refine of_major 0xbb (fMaj_wordR _ _ _ _ _ _ _ (by decide)) (by decide) ?_
  simp [decodeRowB]
  refine check_ok ?_; simp <;> first | omega | simp [hwf]
theorem shtrc (sw d a f) : Statement (.shtrc sw d a f) := by
  intro hwf w hw; obtain rfl := Option.some.inj hw
  simp [Instr.wf, fieldsOk] at hwf
  refine of_major 0xbc (fMaj_wordR _ _ _ _ _ _ _ (by decide)) (by decide) ?_
  simp [decodeRowB]
  refine check_ok ?_; simp <;> first | omega | simp [hwf]
theorem shbtr (sw d a b) : Statement (.shbtr sw d a b) := by
  intro hwf w hw; obtain rfl := Option.some.inj hw
  simp [Instr.wf, fieldsOk] at hwf
  refine of_major 0xbd (fMaj_wordR _ _ _ _ _ _ _ (by decide)) (by decide) ?_
  simp [decodeRowB]
  refine check_ok ?_; simp <;> first | omega | simp [hwf]
theorem shcmp (sw d a b) : Statement (.shcmp sw d a b) := by
  intro hwf w hw; obtain rfl := Option.some.inj hw
  simp [Instr.wf, fieldsOk] at hwf
  refine of_major 0xbe (fMaj_wordR _ _ _ _ _ _ _ (by decide)) (by decide) ?_
  simp [decodeRowB]
  refine check_ok ?_; simp <;> first | omega | simp [hwf]
theorem shrvl (sw a b) : Statement (.shrvl sw a b) := by
  intro hwf w hw; obtain rfl := Option.some.inj hw
  simp [Instr.wf, fieldsOk] at hwf
  refine of_major 0xbf (fMaj_wordR _ _ _ _ _ _ _ (by decide)) (by decide) ?_
  simp [decodeRowB]
  refine check_ok ?_; simp <;> first | omega | simp [hwf]
theorem shrvlR (sw d a b) : Statement (.shrvlR sw d a b) := by
  intro hwf w hw; obtain rfl := Option.some.inj hw
  simp [Instr.wf, fieldsOk] at hwf
  refine of_major 0xbf (fMaj_wordR _ _ _ _ _ _ _ (by decide)) (by decide) ?_
  simp [decodeRowB]
  refine check_ok ?_; simp <;> first | omega | simp [hwf]
theorem shdeal (sw t c o) : Statement (.shdeal sw t c o) := by
  intro hwf w hw; obtain rfl := Option.some.inj hw
  simp [Instr.wf, fieldsOk] at hwf
  refine of_major 0xc0 (fMaj_wordM _ _ _ _ _ _ (by decide)) (by decide) ?_
  simp [decodeRowC]
  refine check_ok ?_; simp <;> first | omega | simp [hwf]
theorem shsta (sw d a k) : Statement (.shsta sw d a k) := by
  intro hwf w hw; obtain rfl := Option.some.inj hw
  simp [Instr.wf, fieldsOk] at hwf
  refine of_major 0xc1 (fMaj_wordR _ _ _ _ _ _ _ (by decide)) (by decide) ?_
  simp [decodeRowC]
  refine check_ok ?_; simp <;> first | omega | simp [hwf]
theorem shdsc (sw d a b) : Statement (.shdsc sw d a b) := by
  intro hwf w hw; obtain rfl := Option.some.inj hw
  simp [Instr.wf, fieldsOk] at hwf
  refine of_major 0xc2 (fMaj_wordR _ _ _ _ _ _ _ (by decide)) (by decide) ?_
  simp [decodeRowC]
  refine check_ok ?_; simp <;> first | omega | simp [hwf]
theorem shmma (sw n a b r) : Statement (.shmma sw n a b r) := by
  intro hwf w hw; obtain rfl := Option.some.inj hw
  simp [Instr.wf, fieldsOk] at hwf
  refine of_major 0xc3 (fMaj_wordT _ _ _ _ _ _ _ (by decide)) (by decide) ?_
  simp [decodeRowC]
  refine check_ok ?_; simp <;> first | omega | simp [hwf]
theorem rcpdef (sw t c o b) : Statement (.rcpdef sw t c o b) := by
  intro hwf w hw; obtain rfl := Option.some.inj hw
  simp [Instr.wf, fieldsOk] at hwf
  refine of_major 0xc8 (fMaj_wordM _ _ _ _ _ _ (by decide)) (by decide) ?_
  simp [decodeRowC]
  refine check_ok ?_; simp <;> first | omega | simp [hwf]
theorem rcppin (sw d a) : Statement (.rcppin sw d a) := by
  intro hwf w hw; obtain rfl := Option.some.inj hw
  simp [Instr.wf, fieldsOk] at hwf
  refine of_major 0xc9 (fMaj_wordR _ _ _ _ _ _ _ (by decide)) (by decide) ?_
  simp [decodeRowC]
  refine check_ok ?_; simp <;> first | omega | simp [hwf]
theorem rcpunp (sw d a) : Statement (.rcpunp sw d a) := by
  intro hwf w hw; obtain rfl := Option.some.inj hw
  simp [Instr.wf, fieldsOk] at hwf
  refine of_major 0xca (fMaj_wordR _ _ _ _ _ _ _ (by decide)) (by decide) ?_
  simp [decodeRowC]
  refine check_ok ?_; simp <;> first | omega | simp [hwf]
theorem rcpdrp (sw d a) : Statement (.rcpdrp sw d a) := by
  intro hwf w hw; obtain rfl := Option.some.inj hw
  simp [Instr.wf, fieldsOk] at hwf
  refine of_major 0xcb (fMaj_wordR _ _ _ _ _ _ _ (by decide)) (by decide) ?_
  simp [decodeRowC]
  refine check_ok ?_; simp <;> first | omega | simp [hwf]
theorem rcpdrpR (sw d a) : Statement (.rcpdrpR sw d a) := by
  intro hwf w hw; obtain rfl := Option.some.inj hw
  simp [Instr.wf, fieldsOk] at hwf
  refine of_major 0xcb (fMaj_wordR _ _ _ _ _ _ _ (by decide)) (by decide) ?_
  simp [decodeRowC]
  refine check_ok ?_; simp <;> first | omega | simp [hwf]
theorem rcpqry (sw d a) : Statement (.rcpqry sw d a) := by
  intro hwf w hw; obtain rfl := Option.some.inj hw
  simp [Instr.wf, fieldsOk] at hwf
  refine of_major 0xcc (fMaj_wordR _ _ _ _ _ _ _ (by decide)) (by decide) ?_
  simp [decodeRowC]
  refine check_ok ?_; simp <;> first | omega | simp [hwf]
theorem enq (sw t c o i) : Statement (.enq sw t c o i) := by
  intro hwf w hw; obtain rfl := Option.some.inj hw
  simp [Instr.wf, fieldsOk] at hwf
  refine of_major 0xd0 (fMaj_wordM _ _ _ _ _ _ (by decide)) (by decide) ?_
  simp [decodeRowD]
  refine check_ok ?_; simp <;> first | omega | simp [hwf]
theorem enqa (sw t c o) : Statement (.enqa sw t c o) := by
  intro hwf w hw; obtain rfl := Option.some.inj hw
  simp [Instr.wf, fieldsOk] at hwf
  refine of_major 0xd1 (fMaj_wordM _ _ _ _ _ _ (by decide)) (by decide) ?_
  simp [decodeRowD]
  refine check_ok ?_; simp <;> first | omega | simp [hwf]
theorem cancl (sw d a) : Statement (.cancl sw d a) := by
  intro hwf w hw; obtain rfl := Option.some.inj hw
  simp [Instr.wf, fieldsOk] at hwf
  refine of_major 0xd2 (fMaj_wordR _ _ _ _ _ _ _ (by decide)) (by decide) ?_
  simp [decodeRowD]
  refine check_ok ?_; simp <;> first | omega | simp [hwf]
theorem compl (sw d a) : Statement (.compl sw d a) := by
  intro hwf w hw; obtain rfl := Option.some.inj hw
  simp [Instr.wf, fieldsOk] at hwf
  refine of_major 0xd3 (fMaj_wordR _ _ _ _ _ _ _ (by decide)) (by decide) ?_
  simp [decodeRowD]
  refine check_ok ?_; simp <;> first | omega | simp [hwf]
theorem teth (sw d i) : Statement (.teth sw d i) := by
  intro hwf w hw; obtain rfl := Option.some.inj hw
  simp [Instr.wf, fieldsOk] at hwf
  refine of_major 0xd4 (fMaj_wordL _ _ _ _ (by decide)) (by decide) ?_
  simp [decodeRowD]
  refine check_ok ?_; simp <;> first | omega | simp [hwf]
theorem qpsh (sw a) : Statement (.qpsh sw a) := by
  intro hwf w hw; obtain rfl := Option.some.inj hw
  simp [Instr.wf, fieldsOk] at hwf
  refine of_major 0xd5 (fMaj_wordR _ _ _ _ _ _ _ (by decide)) (by decide) ?_
  simp [decodeRowD]
  refine check_ok ?_; simp <;> first | omega | simp [hwf]
theorem qpop (sw d) : Statement (.qpop sw d) := by
  intro hwf w hw; obtain rfl := Option.some.inj hw
  simp [Instr.wf, fieldsOk] at hwf
  refine of_major 0xd6 (fMaj_wordR _ _ _ _ _ _ _ (by decide)) (by decide) ?_
  simp [decodeRowD]
  refine check_ok ?_; simp <;> first | omega | simp [hwf]
theorem sels (sw d a) : Statement (.sels sw d a) := by
  intro hwf w hw; obtain rfl := Option.some.inj hw
  simp [Instr.wf, fieldsOk] at hwf
  refine of_major 0xd7 (fMaj_wordR _ _ _ _ _ _ _ (by decide)) (by decide) ?_
  simp [decodeRowD]
  refine check_ok ?_; simp <;> first | omega | simp [hwf]
theorem prio (sw d a) : Statement (.prio sw d a) := by
  intro hwf w hw; obtain rfl := Option.some.inj hw
  simp [Instr.wf, fieldsOk] at hwf
  refine of_major 0xd8 (fMaj_wordR _ _ _ _ _ _ _ (by decide)) (by decide) ?_
  simp [decodeRowD]
  refine check_ok ?_; simp <;> first | omega | simp [hwf]
theorem phset (sw a) : Statement (.phset sw a) := by
  intro hwf w hw; obtain rfl := Option.some.inj hw
  simp [Instr.wf, fieldsOk] at hwf
  refine of_major 0xd9 (fMaj_wordR _ _ _ _ _ _ _ (by decide)) (by decide) ?_
  simp [decodeRowD]
  refine check_ok ?_; simp <;> first | omega | simp [hwf]
theorem trap (sw i) : Statement (.trap sw i) := by
  intro hwf w hw; obtain rfl := Option.some.inj hw
  simp [Instr.wf, fieldsOk] at hwf
  refine of_major 0xe0 (fMaj_wordL _ _ _ _ (by decide)) (by decide) ?_
  simp [decodeRowE]
  refine check_ok ?_; simp <;> first | omega | simp [hwf]
theorem sret (sw) : Statement (.sret sw) := by
  intro hwf w hw; obtain rfl := Option.some.inj hw
  simp [Instr.wf, fieldsOk] at hwf
  refine of_major 0xe1 (fMaj_wordJ _ _ _ (by decide)) (by decide) ?_
  simp [decodeRowE]
  refine check_ok ?_; simp <;> first | omega | simp [hwf]
theorem mfsr (sw d r) : Statement (.mfsr sw d r) := by
  intro hwf w hw; obtain rfl := Option.some.inj hw
  simp [Instr.wf, fieldsOk] at hwf
  refine of_major 0xe2 (fMaj_wordL _ _ _ _ (by decide)) (by decide) ?_
  simp [decodeRowE]
  refine check_ok ?_; simp <;> first | omega | simp [hwf]
theorem mtsr (sw d r) : Statement (.mtsr sw d r) := by
  intro hwf w hw; obtain rfl := Option.some.inj hw
  simp [Instr.wf, fieldsOk] at hwf
  refine of_major 0xe3 (fMaj_wordL _ _ _ _ (by decide)) (by decide) ?_
  simp [decodeRowE, mtsr_ne hwf.2]
  exact check_ok (by simp [hwf])
theorem mtsrMode (sw d) : Statement (.mtsrMode sw d) := by
  intro hwf w hw; obtain rfl := Option.some.inj hw
  simp [Instr.wf, fieldsOk] at hwf
  refine of_major 0xe3 (fMaj_wordL _ _ _ _ (by decide)) (by decide) ?_
  simp [decodeRowE]
  refine check_ok ?_; simp <;> first | omega | simp [hwf]
theorem mtsrAccown (sw d) : Statement (.mtsrAccown sw d) := by
  intro hwf w hw; obtain rfl := Option.some.inj hw
  simp [Instr.wf, fieldsOk] at hwf
  refine of_major 0xe3 (fMaj_wordL _ _ _ _ (by decide)) (by decide) ?_
  simp [decodeRowE]
  refine check_ok ?_; simp <;> first | omega | simp [hwf]
theorem mtsrPix (sw d) : Statement (.mtsrPix sw d) := by
  intro hwf w hw; obtain rfl := Option.some.inj hw
  simp [Instr.wf, fieldsOk] at hwf
  refine of_major 0xe3 (fMaj_wordL _ _ _ _ (by decide)) (by decide) ?_
  simp [decodeRowE]
  refine check_ok ?_; simp <;> first | omega | simp [hwf]
theorem mtsrFlags (sw d) : Statement (.mtsrFlags sw d) := by
  intro hwf w hw; obtain rfl := Option.some.inj hw
  simp [Instr.wf, fieldsOk] at hwf
  refine of_major 0xe3 (fMaj_wordL _ _ _ _ (by decide)) (by decide) ?_
  simp [decodeRowE]
  refine check_ok ?_; simp <;> first | omega | simp [hwf]
theorem mtsrTrapcause (sw d) : Statement (.mtsrTrapcause sw d) := by
  intro hwf w hw; obtain rfl := Option.some.inj hw
  simp [Instr.wf, fieldsOk] at hwf
  refine of_major 0xe3 (fMaj_wordL _ _ _ _ (by decide)) (by decide) ?_
  simp [decodeRowE]
  refine check_ok ?_; simp <;> first | omega | simp [hwf]
theorem pgmap (sw t c o) : Statement (.pgmap sw t c o) := by
  intro hwf w hw; obtain rfl := Option.some.inj hw
  simp [Instr.wf, fieldsOk] at hwf
  refine of_major 0xe4 (fMaj_wordM _ _ _ _ _ _ (by decide)) (by decide) ?_
  simp [decodeRowE]
  refine check_ok ?_; simp <;> first | omega | simp [hwf]
theorem lpinv (sw a b) : Statement (.lpinv sw a b) := by
  intro hwf w hw; obtain rfl := Option.some.inj hw
  simp [Instr.wf, fieldsOk] at hwf
  refine of_major 0xe5 (fMaj_wordR _ _ _ _ _ _ _ (by decide)) (by decide) ?_
  simp [decodeRowE]
  refine check_ok ?_; simp <;> first | omega | simp [hwf]
theorem lpinvW (sw) : Statement (.lpinvW sw) := by
  intro hwf w hw; obtain rfl := Option.some.inj hw
  simp [Instr.wf, fieldsOk] at hwf
  refine of_major 0xe5 (fMaj_wordR _ _ _ _ _ _ _ (by decide)) (by decide) ?_
  simp [decodeRowE]
  refine check_ok ?_; simp <;> first | omega | simp [hwf]
theorem tlbi (sw a b) : Statement (.tlbi sw a b) := by
  intro hwf w hw; obtain rfl := Option.some.inj hw
  simp [Instr.wf, fieldsOk] at hwf
  refine of_major 0xe6 (fMaj_wordR _ _ _ _ _ _ _ (by decide)) (by decide) ?_
  simp [decodeRowE]
  refine check_ok ?_; simp <;> first | omega | simp [hwf]
theorem tlbiW (sw) : Statement (.tlbiW sw) := by
  intro hwf w hw; obtain rfl := Option.some.inj hw
  simp [Instr.wf, fieldsOk] at hwf
  refine of_major 0xe6 (fMaj_wordR _ _ _ _ _ _ _ (by decide)) (by decide) ?_
  simp [decodeRowE]
  refine check_ok ?_; simp <;> first | omega | simp [hwf]
theorem cflsh (sw t c o i) : Statement (.cflsh sw t c o i) := by
  intro hwf w hw; obtain rfl := Option.some.inj hw
  simp [Instr.wf, fieldsOk] at hwf
  refine of_major 0xe7 (fMaj_wordM _ _ _ _ _ _ (by decide)) (by decide) ?_
  simp [decodeRowE]
  refine check_ok ?_; simp <;> first | omega | simp [hwf]
theorem cinv (sw t c o) : Statement (.cinv sw t c o) := by
  intro hwf w hw; obtain rfl := Option.some.inj hw
  simp [Instr.wf, fieldsOk] at hwf
  refine of_major 0xe8 (fMaj_wordM _ _ _ _ _ _ (by decide)) (by decide) ?_
  simp [decodeRowE]
  refine check_ok ?_; simp <;> first | omega | simp [hwf]
theorem snap (sw d i) : Statement (.snap sw d i) := by
  intro hwf w hw; obtain rfl := Option.some.inj hw
  simp [Instr.wf, fieldsOk] at hwf
  refine of_major 0xe9 (fMaj_wordL _ _ _ _ (by decide)) (by decide) ?_
  simp [decodeRowE]
  refine check_ok ?_; simp <;> first | omega | simp [hwf]
theorem halt (sw) : Statement (.halt sw) := by
  intro hwf w hw; obtain rfl := Option.some.inj hw
  simp [Instr.wf, fieldsOk] at hwf
  refine of_major 0xea (fMaj_wordJ _ _ _ (by decide)) (by decide) ?_
  simp [decodeRowE]
  refine check_ok ?_; simp <;> first | omega | simp [hwf]
theorem pixrd (sw d a) : Statement (.pixrd sw d a) := by
  intro hwf w hw; obtain rfl := Option.some.inj hw
  simp [Instr.wf, fieldsOk] at hwf
  refine of_major 0xeb (fMaj_wordR _ _ _ _ _ _ _ (by decide)) (by decide) ?_
  simp [decodeRowE]
  refine check_ok ?_; simp <;> first | omega | simp [hwf]
theorem pixwr (sw a b) : Statement (.pixwr sw a b) := by
  intro hwf w hw; obtain rfl := Option.some.inj hw
  simp [Instr.wf, fieldsOk] at hwf
  refine of_major 0xec (fMaj_wordR _ _ _ _ _ _ _ (by decide)) (by decide) ?_
  simp [decodeRowE]
  refine check_ok ?_; simp <;> first | omega | simp [hwf]
theorem scrub (sw t c o) : Statement (.scrub sw t c o) := by
  intro hwf w hw; obtain rfl := Option.some.inj hw
  simp [Instr.wf, fieldsOk] at hwf
  refine of_major 0xed (fMaj_wordM _ _ _ _ _ _ (by decide)) (by decide) ?_
  simp [decodeRowE]
  refine check_ok ?_; simp <;> first | omega | simp [hwf]
theorem hostEnq (x0 x1 x2) : Statement (.hostEnq x0 x1 x2) := no_word rfl
theorem hostEnqa (x0 x1 x2) : Statement (.hostEnqa x0 x1 x2) := no_word rfl
theorem hostRead (x0 x1 x2 x3) : Statement (.hostRead x0 x1 x2 x3) := no_word rfl
theorem hostWrite (x0 x1 x2 x3) : Statement (.hostWrite x0 x1 x2 x3) := no_word rfl
theorem capw (x0 x1 x2 x3) : Statement (.capw x0 x1 x2 x3) := no_word rfl
theorem hostOpcodeUnassigned (x0 x1) : Statement (.hostOpcodeUnassigned x0 x1) := no_word rfl
theorem wingCreate (x0 x1) : Statement (.wingCreate x0 x1) := no_word rfl
theorem wingDestroy (x0) : Statement (.wingDestroy x0) := no_word rfl
theorem quota (x0 x1 x2) : Statement (.quota x0 x1 x2) := no_word rfl
theorem stage2TableWrite (x0 x1 x2 x3) : Statement (.stage2TableWrite x0 x1 x2 x3) := no_word rfl
theorem graphCreate (x0 x1 x2 x3) : Statement (.graphCreate x0 x1 x2 x3) := no_word rfl
theorem jobCreate (x0 x1) : Statement (.jobCreate x0 x1) := no_word rfl
theorem bind (x0 x1) : Statement (.bind x0 x1) := no_word rfl
theorem unbind (x0 x1) : Statement (.unbind x0 x1) := no_word rfl
theorem deal (x0 x1) : Statement (.deal x0 x1) := no_word rfl
theorem suspendBinding (x0 x1) : Statement (.suspendBinding x0 x1) := no_word rfl
theorem resumeBinding (x0 x1) : Statement (.resumeBinding x0 x1) := no_word rfl
theorem preEmptWing (x0) : Statement (.preEmptWing x0) := no_word rfl
theorem restoreWing (x0 x1 x2) : Statement (.restoreWing x0 x1 x2) := no_word rfl
theorem saveOut (x0) : Statement (.saveOut x0) := no_word rfl
theorem unitPreEmpt (x0 x1) : Statement (.unitPreEmpt x0 x1) := no_word rfl
theorem haltResume (x0 x1) : Statement (.haltResume x0 x1) := no_word rfl
theorem haltEnd (x0 x1) : Statement (.haltEnd x0 x1) := no_word rfl
theorem stage2Answer (x0 x1 x2) : Statement (.stage2Answer x0 x1 x2) := no_word rfl
theorem poolRefill (x0 x1 x2) : Statement (.poolRefill x0 x1 x2) := no_word rfl
theorem wingReset (x0) : Statement (.wingReset x0) := no_word rfl
theorem hostCancel (x0 x1) : Statement (.hostCancel x0 x1) := no_word rfl
theorem hostScrub (x0 x1 x2 x3 x4) : Statement (.hostScrub x0 x1 x2 x3 x4) := no_word rfl
theorem hostRevocationSweep (x0 x1 x2) : Statement (.hostRevocationSweep x0 x1 x2) := no_word rfl
theorem logEnable (x0 x1 x2 x3 x4) : Statement (.logEnable x0 x1 x2 x3 x4) := no_word rfl
theorem harvest (x0 x1 x2) : Statement (.harvest x0 x1 x2) := no_word rfl
theorem logDisable (x0) : Statement (.logDisable x0) := no_word rfl
theorem clockRaise (x0 x1) : Statement (.clockRaise x0 x1) := no_word rfl
theorem keyRoll (x0 x1) : Statement (.keyRoll x0 x1) := no_word rfl
theorem powerCap (x0 x1) : Statement (.powerCap x0 x1) := no_word rfl
theorem snapshotArm (x0 x1) : Statement (.snapshotArm x0 x1) := no_word rfl
theorem snapshotTrigger (x0) : Statement (.snapshotTrigger x0) := no_word rfl
theorem snapshotReadout (x0) : Statement (.snapshotReadout x0) := no_word rfl
theorem hostAssociationCreate (x0 x1 x2) : Statement (.hostAssociationCreate x0 x1 x2) := no_word rfl
theorem hostAssociationRemove (x0 x1) : Statement (.hostAssociationRemove x0 x1) := no_word rfl
theorem levelClose (x0 x1) : Statement (.levelClose x0 x1) := no_word rfl
theorem stage1Map (x0 x1 x2 x3) : Statement (.stage1Map x0 x1 x2 x3) := no_word rfl
theorem unsupportedOptionPacket (x0) : Statement (.unsupportedOptionPacket x0) := no_word rfl
theorem deadGenerationPacket (x0 x1) : Statement (.deadGenerationPacket x0 x1) := no_word rfl
theorem kgenRequestTimeout (x0 x1) : Statement (.kgenRequestTimeout x0 x1) := no_word rfl
theorem powerOn (x0) : Statement (.powerOn x0) := no_word rfl
theorem lidOverTemperature : Statement (.lidOverTemperature) := no_word rfl
theorem dieOverTemperature : Statement (.dieOverTemperature) := no_word rfl
theorem ballastExchange (x0 x1) : Statement (.ballastExchange x0 x1) := no_word rfl
theorem unitStart (x0 x1) : Statement (.unitStart x0 x1) := no_word rfl
theorem unitRetirement (x0) : Statement (.unitRetirement x0) := no_word rfl
theorem levelCompletion (x0) : Statement (.levelCompletion x0) := no_word rfl
theorem phaseStart (x0) : Statement (.phaseStart x0) := no_word rfl
theorem nodeTimerExpiry (x0) : Statement (.nodeTimerExpiry x0) := no_word rfl
theorem agingThreshold (x0) : Statement (.agingThreshold x0) := no_word rfl
theorem countedAccessComplete (x0 x1) : Statement (.countedAccessComplete x0 x1) := no_word rfl
theorem barrierDelivery (x0 x1 x2) : Statement (.barrierDelivery x0 x1 x2) := no_word rfl
theorem publFlip (x0) : Statement (.publFlip x0) := no_word rfl
theorem contextSwap (x0) : Statement (.contextSwap x0) := no_word rfl
theorem stopTimeout (x0) : Statement (.stopTimeout x0) := no_word rfl
theorem shadowOrHubError (x0) : Statement (.shadowOrHubError x0) := no_word rfl
theorem matrixUncorrectableError (x0 x1 x2) : Statement (.matrixUncorrectableError x0 x1 x2) := no_word rfl
theorem registerUncorrectableError (x0) : Statement (.registerUncorrectableError x0) := no_word rfl
theorem unitRelaunch (x0 x1) : Statement (.unitRelaunch x0 x1) := no_word rfl
theorem gateExchangeComplete (x0 x1) : Statement (.gateExchangeComplete x0 x1) := no_word rfl
theorem turnstileTimeout (x0 x1) : Statement (.turnstileTimeout x0 x1) := no_word rfl
theorem revocationSweepStart : Statement (.revocationSweepStart) := no_word rfl
theorem revocationSweepComplete : Statement (.revocationSweepComplete) := no_word rfl
theorem recipeBuildComplete (x0 x1) : Statement (.recipeBuildComplete x0 x1) := no_word rfl
theorem recipeBuildFailure (x0 x1) : Statement (.recipeBuildFailure x0 x1) := no_word rfl
theorem budgetWindow (x0) : Statement (.budgetWindow x0) := no_word rfl
theorem vitrineLatch : Statement (.vitrineLatch) := no_word rfl
theorem clockChangeoverComplete : Statement (.clockChangeoverComplete) := no_word rfl
theorem gateUncorrectableError (x0 x1) : Statement (.gateUncorrectableError x0 x1) := no_word rfl
theorem lidTemperatureNormal : Statement (.lidTemperatureNormal) := no_word rfl

end Sys2Proof.Laws.Encoding
end

