-- ==== Sys2Proof/Safety.lean ====
section
/-! DEFINITION. What counts as a safe run, and the words in which the statements speak: the source that executes, the
state after an instruction that only writes registers, and the state after an access that is left outstanding. -/
namespace Sys2Proof.Safety
open Sys2Proof Sys2Proof.Machine

/-- A state from which no run of the device stops: it has power. -/
def Powered (s : State) : Prop := s.powered = true

/-- A program-counter slot executes, not a sequencer. -/
def BySlot (s : State) : Prop := isSeq s.cur.src = false

/-- The state after a register-only instruction that leaves the registers `r`: the source is past its word (R97). -/
def retire (s : State) (sw : Bool) (r : RegFile) : State :=
  setWave s (ctx s).k (advance (ctx s) sw (putLive (ctx s).w (ctx s).src r))

/-- The state after the source has gone to an address (R23). -/
def jumped (s : State) (pc : DWord) : State := setWave s (ctx s).k (goTo (ctx s) pc (ctx s).w)

/-- The state after the executing source has taken a trap. -/
def trapped (s : State) (t : Trap) : State := takeTrap s (ctx s).k (ctx s).src t

/-- A wave with another issue key (R394). -/
def withKey (w : Wave) (k : Nat) : Wave := { w with key := k }
/-- The state with another next issue key. -/
def withNextKey (s : State) (k : Nat) : State := { s with nextKey := k }

/-- A vector instruction passes its type checks: its ETYPE accepted, an immediate accepted under it, no odd V pair (R52,
R57, R141, R142); and a slot executes it. -/
def VecOk (s : State) (acc immAcc : Nat → Bool) (i : Bool) (fs : List (BitVec 7)) : Prop :=
  BySlot s ∧ vecBad (ctx s) acc immAcc i fs = false

/-- The ETYPE of the run. -/
def ety (s : State) : Nat := modeEty (ctx s).rd.mode
/-- The STYPE of the run. -/
def sty (s : State) : Nat := modeSty (ctx s).rd.mode

/-- Predicate `d` with the bits of the executing source's MASK replaced and the others kept (R98). -/
def withPred (s : State) (d : Nat) (res : BitVec 32) : RegFile :=
  setP (ctx s).live d ((getP (ctx s).live d &&& ~~~(ctx s).mask) ||| (res &&& (ctx s).mask))

/-- A slot executes, or the sequencer that may (R210). -/
def SlotOr (s : State) (q : Src) : Prop := isSeq s.cur.src = false ∨ s.cur.src = q

/-- A result is an exact magnitude with a sign, rounded once into a floating-point type (R126, R127): `lg` is the exponent
of the magnitude, 2^ue the spacing there, n + g the magnitude in units of it with 0 ≤ g < 1, and `k` the multiple that the mode
chooses. A magnitude that the type does not hold sets INEXACT, and UNDERFLOW below 2^emin; `cvtf` gives the pattern of k units, or
what ovf gives. -/
def RoundedOnce (t : Nat) (m : Rnd) (neg : Bool) (x : ℝ) (r : Res) : Prop :=
  ∃ (lg : Int) (n k : Nat) (g : ℝ),
    let emin : Int := 1 - biasOf t
    let ue : Int := max lg emin - fracBits t
    let y := cvtf t m (.fin neg k ue)
    (2 : ℝ) ^ lg ≤ x ∧ x < (2 : ℝ) ^ (lg + 1) ∧ x = (n + g) * (2 : ℝ) ^ ue ∧ 0 ≤ g ∧ g < 1 ∧
    (g = 0 → k = n ∧ r = y) ∧
    (0 < g → r = ⟨y.pat, y.fl ||| (fINX + (if lg < emin then fUNF else 0))⟩ ∧
      (m.mode = 0 → (1 / 2 < g ∨ (g = 1 / 2 ∧ n % 2 = 1) → k = n + 1) ∧ (g < 1 / 2 ∨ (g = 1 / 2 ∧ n % 2 = 0) → k = n)) ∧
      (m.mode = 1 → k = n) ∧
      (m.mode = 2 → k = if neg then n else n + 1) ∧
      (m.mode = 3 → k = if neg then n + 1 else n) ∧
      (m.mode = 4 → (1 / 2 ≤ g → k = n + 1) ∧ (g < 1 / 2 → k = n)) ∧
      (5 ≤ m.mode → (k : Int) = (⌊((n : ℝ) + g) * 2 ^ 24⌋ + (m.r % 2 ^ 24 : Nat)) / 2 ^ 24))

/-- An access passes its checks at issue: no acquire holds it (R213), the host has failed no request of it (R234), no lane meets a cause (R62, R178 to R181, R227), every lane
translates without the host (R233), no lane needs a build (R370), and the counter of its path has room (R201). -/
structure AccessOk (s : State) (path : Nat) (q : AccReq) (ls : List LaneReq) : Prop where
  free : acqHeld (ctx s) = false
  live : ∀ kind lanes va, (ctx s).hold ≠ .s2failed kind lanes va
  cause : ∀ l ∈ ls, laneCause s (ctx s) q l = none
  found : ∀ l ∈ ls, ∃ pa ipa e sh, laneTr s (ctx s) q l = .ok pa ipa e sh
  built : capHas q.cap pSCRATCH = true ∨ (q.need = .write ∧ q.atom = false) ∨
    ∀ l ∈ ls, ∀ id, tileAns (wingOf s (ctx s).k) (unitOf s (ctx s).k).build l.x.toNat
      (q.atom && q.rights.contains pST) true ≠ .park id
  room : countOf (ctx s).w path < Config.counterMax

/-- The places of the lanes of an access: offsets of the scratch window, or addresses as they translate. -/
def places (s : State) (q : AccReq) (ls : List LaneReq) : List (Nat × Loc) :=
  checkLanes.located q (ls.map fun l => (l, laneTr s (ctx s) q l))

/-- An access has been issued (R97, R201): it is the newest outstanding access of the wave, with the move of its issue and the
pages that it used (R239), the counter of its path has
risen by one, the source is past its word; registers, memory, tags, units, wings and every other wave are as before. -/
structure Issued (s t : State) (a : Access) : Prop where
  accs : ∃ no pages, (waveAt t (ctx s).k).accs = (ctx s).w.accs ++ [{ a with no := no, pages := pages }]
  count : countOf (waveAt t (ctx s).k) a.path = countOf (ctx s).w a.path + 1
  pc : srcPc (waveAt t (ctx s).k) (ctx s).src = (ctx s).pc + 4
  dix : srcDix (waveAt t (ctx s).k) (ctx s).src = (ctx s).dix + 1
  regs : srcLive (waveAt t (ctx s).k) (ctx s).src = (ctx s).live
  others : ∀ j, j ≠ (ctx s).k → waveAt t j = waveAt s j
  mem : t.mem = s.mem ∧ t.tags = s.tags ∧ t.owners = s.owners ∧ t.units = s.units ∧ t.wings = s.wings

/-- The instruction issues the access where its checks pass. -/
def Issues (s : State) (i : Instr) (q : AccReq) (ls : List LaneReq) (a : Access) : Prop :=
  AccessOk s a.path q ls → ∃ t, exec i s = .next t ∧ Issued s t a

/-- The access record that an instruction of the executing source leaves, with its path and kind. -/
def acc (s : State) (path : Nat) (kind : AccKind) : Access :=
  { path := path, kind := kind, pc := (ctx s).pc, src := (ctx s).src }

/-- The slot of an exchange that the agent of `s` executes waits at the gate, in a state `u`, with its access outstanding
(R348). -/
def atGate (s u : State) (a : Access) : State :=
  waitWith (setWave u (ctx s).k { (ctx s).w with
    counts := tput (ctx s).w.counts 5 (countOf (ctx s).w 5 + 1), accs := (ctx s).w.accs ++ [a] }) (ctx s) .gate

/-- No outstanding access races with the access (R250, R265, R267, log 54). -/
def NoRace (s : State) (a : Access) : Prop :=
  a.race = [] ∧ ∀ e ∈ s.waves, ∀ b ∈ e.2.accs, racing a b = false

/-- A message under a live key of a management association, with a LEN in its range, reaches a device that is up (R417 to R419, R422,
R423). -/
def Manages (s : State) (h : HostHdr) : Prop :=
  (assocAt s h.assoc).used = true ∧ (assocAt s h.assoc).gens.contains h.kgen = true ∧ s.up = true ∧
    (assocAt s h.assoc).manage = true ∧ h.len.toNat ≤ 65536

/-- The header of the completion that answers a message (R418), with the bytes that it carries. -/
def replyHdr (h : HostHdr) (op status : Nat) (bytes : List Byte) : ReplyHdr :=
  { assoc := h.assoc, len := replyLen op bytes, token := h.token, kgen := h.kgen, status := status, op := op, wing := h.wing }

/-- The next state in which a message has been answered with STATUS 0. -/
def answered (s : State) (h : HostHdr) (op val : Nat) : Out := .next (reply s h op 0 val [])

/-- The instructions that a sequencer executes (R45, R210): its engine's, and those that every sequencer may. -/
def sequencerMay (q : Src) : Instr → Bool
  | .setm .. | .setms .. | .getm .. | .nop .. | .bra .. | .brp .. | .waitc .. | .rdcnt .. | .ende .. | .sadd .. | .ssub .. |
    .smul .. | .smulh .. | .sand .. | .sor .. | .sxor .. | .sshl .. | .sshr .. | .ssra .. | .smin .. | .smax .. | .scmp .. |
    .ssel .. | .sbfx .. | .spopc .. | .spopcP .. | .smovi .. | .slui .. | .pand .. | .por .. | .pxor .. | .pnot .. | .pmov .. |
    .pmovFromS .. | .pmovToS .. | .pmovMask .. => true
  | .tcpy .. | .bcpy .. | .publ .. | .pref .. => q == .seqCopy
  | .gath .. | .scat .. => q == .seqGather
  | .mclm .. | .mclmT .. | .mrls .. | .mldo .. | .mma .. | .mzero .. | .mzeroF .. | .mzeroT .. | .mdrn .. | .tldp .. |
    .mcab .. | .accsv .. | .accrs .. | .mstat .. => q == .seqMatrix
  | _ => false

/-- The matrix instructions that act row by row (R280). -/
def rowwise : Instr → Bool
  | .mma .. | .mzero .. | .mrda .. | .mwra .. | .mscl .. | .mdrn .. => true
  | _ => false

/-- The instructions that apply the guard (R56, R280). -/
def appliesGuard : Instr → Bool
  | .exit .. | .vadd .. | .vsub .. | .vmul .. | .vmulh .. | .vmad .. | .vmin .. | .vmax .. | .vabs .. | .vneg .. | .vand .. |
    .vor .. | .vxor .. | .vnot .. | .vshl .. | .vshr .. | .vsra .. | .vcmp .. | .vsel .. | .vmov .. | .vmovImm .. | .vmovs .. |
    .vmovsToS .. | .vlid .. | .vclz .. | .vpopc .. | .vdiv .. | .vrcp .. | .vrsq .. | .vex2 .. | .vlg2 .. | .vsqrt .. |
    .vcvt .. | .vpack .. | .vunpk .. | .vqnt .. | .vdqnt .. | .vcbk .. | .vrng .. | .vshfl .. | .vbfly .. | .vball .. |
    .vany .. | .vall .. | .vscan .. | .vmxix .. | .vmxixC .. | .vmxixD .. | .vreds .. | .cmovFromVc .. | .cmovToVc .. |
    .cmovVc .. | .vcld .. | .vcst .. | .ld .. | .st .. | .ldu .. | .stu .. | .ldac .. | .strl .. | .aadd .. | .amin .. |
    .amax .. | .aand .. | .aor .. | .axor .. | .axchg .. | .acas .. | .amxix .. | .axadd .. | .axrd .. | .shtrp .. |
    .shtrc .. | .qpsh .. | .qpop .. => true
  | i => rowwise i

/-- The instructions that need SYS in PCC (R61, R69). -/
def needsSys : Instr → Bool
  | .sret .. | .halt .. | .mtsrAccown .. | .mtsrPix .. | .mtsrTrapcause .. | .pgmap .. | .lpinv .. | .lpinvW .. | .tlbi .. |
    .tlbiW .. | .cinv .. | .pixwr .. | .scrub .. | .cmovS .. => true
  | .mfsr _ _ r => decide (0x020 ≤ r.toNat)
  | .mtsr _ _ r => r != 0x00D
  | _ => false

/-- The instructions that act on registers alone: they read and write the registers of the executing source (R97). -/
def registerOnly : Instr → Bool
  | .nop .. | .setm .. | .setms .. | .getm .. | .pref .. | .rdcnt .. | .sels .. | .shtrc .. | .mtsrMode .. |
    .mtsrFlags .. | .sadd .. | .ssub .. | .smul .. | .smulh .. | .sand .. | .sor .. | .sxor .. | .sshl .. | .sshr .. |
    .ssra .. | .smin .. | .smax .. | .scmp .. | .ssel .. | .sbfx .. | .spopc .. | .spopcP .. | .smovi .. | .slui .. |
    .pand .. | .por .. | .pxor .. | .pnot .. | .pmov .. | .pmovFromS .. | .pmovToS .. | .pmovMask .. | .vadd .. |
    .vsub .. | .vmul .. | .vmulh .. | .vmad .. | .vmin .. | .vmax .. | .vabs .. | .vneg .. | .vand .. | .vor .. |
    .vxor .. | .vnot .. | .vshl .. | .vshr .. | .vsra .. | .vcmp .. | .vsel .. | .vmov .. | .vmovImm .. | .vmovs .. |
    .vmovsToS .. | .vlid .. | .vclz .. | .vpopc .. | .vdiv .. | .vrcp .. | .vrsq .. | .vex2 .. | .vlg2 .. |
    .vsqrt .. | .vcvt .. | .vpack .. | .vunpk .. | .vqnt .. | .vdqnt .. | .vcbk .. | .vrng .. | .rseed .. |
    .vshfl .. | .vbfly .. | .vball .. | .vany .. | .vall .. | .vscan .. | .vmxix .. | .vmxixC .. | .vmxixD .. |
    .vreds .. | .cgeta .. | .cgetb .. | .cgetl .. | .cgetp .. | .cgett .. | .cseta .. | .cinc .. | .csetb .. |
    .cprune .. | .cseal .. | .cunsl .. | .cmov .. | .cmovFromVc .. | .cmovToVc .. | .cmovVc .. | .ctest .. => true
  | _ => false

end Sys2Proof.Safety
end

