-- ==== Sys2Proof/Certificates/Slice0/Obligations.lean ====
section
/-! DEFINITION. The statements for the provers, taken from the spec's numbered rules. -/
section
open Sys2Proof Sys2Proof.Machine Sys2Proof.Safety

-- Scalar and predicate instructions.

/-- R113: the two-operand scalar instructions in every form, in a slot or a sequencer. `a` is s[A]; `b` is s[B], or the B
field where X[1] = 1. Each writes s[D] alone, and the source moves on. -/
def Obligations.ScalarArithmetic : Prop :=
  ∀ (s : State) (sw i u : Bool) (fd fa fb : BitVec 7),
    let a := getS (ctx s).rd fa.toNat
    let b := if i then BitVec.ofNat 64 fb.toNat else getS (ctx s).rd fb.toNat
    let out := fun (v : DWord) => (Host.Outcome.next (retire s sw (setS (ctx s).live fd.toNat v)) : Out)
    exec (.sadd sw fd fa fb i) s = out (BitVec.ofNat 64 (a.toNat + b.toNat)) ∧
    exec (.ssub sw fd fa fb i) s = out (BitVec.ofInt 64 ((a.toNat : Int) - b.toNat)) ∧
    exec (.smul sw fd fa fb i) s = out (BitVec.ofNat 64 (a.toNat * b.toNat)) ∧
    exec (.smulh sw fd fa fb i u) s = out (if u then BitVec.ofNat 64 (a.toNat * b.toNat / 2 ^ 64)
      else BitVec.ofInt 64 (a.toInt * b.toInt / 2 ^ 64)) ∧
    exec (.sand sw fd fa fb i) s = out (a &&& b) ∧
    exec (.sor sw fd fa fb i) s = out (a ||| b) ∧
    exec (.sxor sw fd fa fb i) s = out (a ^^^ b) ∧
    exec (.sshl sw fd fa fb i) s = out (if 64 ≤ b.toNat then 0 else BitVec.ofNat 64 (a.toNat * 2 ^ b.toNat)) ∧
    exec (.sshr sw fd fa fb i) s = out (BitVec.ofNat 64 (a.toNat / 2 ^ b.toNat)) ∧
    exec (.ssra sw fd fa fb i) s = out (BitVec.ofInt 64 (a.toInt / ((2 ^ b.toNat : Nat) : Int))) ∧
    exec (.smin sw fd fa fb i u) s =
      out (if (if u then a.toNat ≤ b.toNat else a.toInt ≤ b.toInt) then a else b) ∧
    exec (.smax sw fd fa fb i u) s =
      out (if (if u then b.toNat ≤ a.toNat else b.toInt ≤ a.toInt) then a else b)

/-- R115 to R118: the scalar instructions with forms of their own. SSEL's condition and SLUI's operand are s[D] as at the
start of the run. -/
def Obligations.ScalarFields : Prop :=
  ∀ (s : State) (sw x : Bool) (fd fa fb : BitVec 7) (imm : BitVec 16),
    let r := (ctx s).rd
    let a := getS r fa.toNat
    let out := fun (v : DWord) => (Host.Outcome.next (retire s sw (setS (ctx s).live fd.toNat v)) : Out)
    let pos := (getS r fb.toNat).toNat % 64
    let len := min ((getS r fb.toNat).toNat / 256 % 128) 64
    let f := a.toNat / 2 ^ pos % 2 ^ len
    exec (.ssel sw fd fa fb) s = out (if getS r fd.toNat = 0 then getS r fb.toNat else a) ∧
    exec (.sbfx sw fd fa fb x) s = out (if x = true ∧ 0 < len ∧ 2 ^ (len - 1) ≤ f
      then BitVec.ofInt 64 ((f : Int) - (2 ^ len : Nat)) else BitVec.ofNat 64 f) ∧
    exec (.spopc sw fd fa) s = out (BitVec.ofNat 64 ((List.range 64).countP fun i => a.getLsbD i)) ∧
    exec (.spopcP sw fd fa) s = out (BitVec.ofNat 64 ((List.range 32).countP fun i => (getP r fa.toNat).getLsbD i)) ∧
    exec (.smovi sw fd imm) s = out (BitVec.ofInt 64 imm.toInt) ∧
    exec (.slui sw fd imm) s = out (BitVec.ofNat 64 ((getS r fd.toNat).toNat * 2 ^ 16 + imm.toNat))

/-- R98, R114, R119: a comparison or predicate instruction writes only the bits of the source's MASK in p[D]; PMOV to an S
register writes all 32 bits, zero-extended. -/
def Obligations.PredicateWrites : Prop :=
  ∀ (s : State) (sw i u : Bool) (cc : BitVec 4) (p : BitVec 3) (fd fa fb : BitVec 7),
    let r := (ctx s).rd
    let a := getS r fa.toNat
    let b := if i then BitVec.ofNat 64 fb.toNat else getS r fb.toNat
    let va := if u then (a.toNat : Int) else a.toInt
    let vb := if u then (b.toNat : Int) else b.toInt
    let holds := match cc.toNat with
      | 0 => va = vb | 1 => va ≠ vb | 2 => va < vb | 3 => va ≤ vb | 4 => vb < va | _ => vb ≤ va
    let out := fun (v : BitVec 32) => (Host.Outcome.next (retire s sw (withPred s fd.toNat v)) : Out)
    (holds → exec (.scmp sw cc p fa fb i u) s = .next (retire s sw (withPred s p.toNat 0xFFFFFFFF))) ∧
    (¬ holds → exec (.scmp sw cc p fa fb i u) s = .next (retire s sw (withPred s p.toNat 0))) ∧
    exec (.pand sw fd fa fb) s = out (getP r fa.toNat &&& getP r fb.toNat) ∧
    exec (.por sw fd fa fb) s = out (getP r fa.toNat ||| getP r fb.toNat) ∧
    exec (.pxor sw fd fa fb) s = out (getP r fa.toNat ^^^ getP r fb.toNat) ∧
    exec (.pnot sw fd fa) s = out (~~~(getP r fa.toNat)) ∧
    exec (.pmov sw fd fa) s = out (getP r fa.toNat) ∧
    exec (.pmovFromS sw fd fa) s = out (BitVec.ofNat 32 a.toNat) ∧
    exec (.pmovToS sw fd fa) s = .next (retire s sw (setS (ctx s).live fd.toNat (BitVec.ofNat 64 (getP r fa.toNat).toNat))) ∧
    exec (.pmovMask sw fd) s = out (ctx s).mask

/-- R99 to R101: SETM writes one half of MODE, GETM reads MODE as at the start of the run, and SETMS writes it whole or
traps with 0x0A where the value holds a reserved value. -/
def Obligations.ModeWrites : Prop :=
  ∀ (s : State) (sw h : Bool) (fd fa : BitVec 7) (imm : BitVec 16),
    let old := (ctx s).live.mode.toNat
    let m := (getS (ctx s).rd fa.toNat).toNat % 2 ^ 32
    let legal := m / 2 ^ 21 = 0 ∧ m / 2 ^ 14 % 4 = 0 ∧ m % 16 < 9 ∧ m / 2 ^ 10 % 8 < 6 ∧
      etypeAssigned (m / 2 ^ 5 % 32) = true ∧ etypeAssigned (m / 2 ^ 16 % 32) = true
    exec (.setm sw h imm) s = .next (retire s sw { (ctx s).live with
      mode := BitVec.ofNat 32 (if h then imm.toNat * 2 ^ 16 + old % 2 ^ 16 else old / 2 ^ 16 * 2 ^ 16 + imm.toNat) }) ∧
    (legal → exec (.setms sw fa) s = .next (retire s sw { (ctx s).live with mode := BitVec.ofNat 32 m })) ∧
    (¬ legal → exec (.setms sw fa) s = .next (trapped s { cause := 0x0A })) ∧
    exec (.getm sw fd) s = .next (retire s sw (setS (ctx s).live fd.toNat (BitVec.ofNat 64 (ctx s).rd.mode.toNat)))

-- Wave control.

/-- R23, R97, R102 to R105: NOP, BRA, SJOIN and YIELD. BRA goes to pc + 4 × DISP23; SJOIN records that address for the
slot's next divergence; YIELD ends the run, and the wave takes a key above every key given before.
The key that a YIELD takes is the model's form of the rotation (log 49). -/
def Obligations.PlainFlow : Prop :=
  ∀ (s : State) (sw : Bool) (j : BitVec 23),
    let c := ctx s
    let dest := c.pc + BitVec.ofInt 64 (4 * j.toInt)
    exec (.nop sw) s = .next (retire s sw c.live) ∧
    exec (.bra sw j) s = .next (jumped s dest) ∧
    (BySlot s → exec (.sjoin sw j) s = .next (setWave s c.k
      (advance c sw (putSlot c.w c.src { slotOf c.w c.src with sj := dest, sjpend := true })))) ∧
    (BySlot s → exec (.yield sw) s = .next (withNextKey (setWave s c.k (withKey (goTo c (c.pc + 4) c.w) s.nextKey))
      (s.nextKey + 1)))

/-- R28, R106: a BRP whose lanes agree, and every BRP of a sequencer, only moves the source: to pc + 4 where no lane of
MASK passes the (inverted) predicate, otherwise to the target. -/
def Obligations.UniformBranch : Prop :=
  ∀ (s : State) (sw n : Bool) (p : BitVec 3) (j : BitVec 19),
    let c := ctx s
    let pv := if n then ~~~(getP c.rd p.toNat) else getP c.rd p.toNat
    (c.mask &&& pv = 0 → exec (.brp sw p n j) s = .next (jumped s (c.pc + 4))) ∧
    (c.mask &&& pv ≠ 0 → (c.mask &&& ~~~pv = 0 ∨ isSeq c.src = true) →
      exec (.brp sw p n j) s = .next (jumped s (c.pc + BitVec.ofInt 64 (4 * j.toInt))))

/-- R28: a first divergence. The executing slot keeps the lanes that fall through, at pc + 4; the other slot takes the
lanes that branch, READY at the target with DIX + 2^20; the divergence count becomes 1, and JR the pending join address,
which is consumed, or NOJOIN. A nested divergence does the same, adds one to the count, and writes the other slot and the old JR as
record DIVD, at T − 48 × DIVD, where the record is reached (R30). A divergence beyond DDEPTH + 1 open ones traps with 0x0C and has no
other effect. That c30 is read as it stands when the record is written is the model's choice (log 58), and so is the wait for a
slot whose work is under way (log 19). -/
def Obligations.Divergence : Prop :=
  ∀ (s : State) (sw n : Bool) (p : BitVec 3) (j : BitVec 19),
    let c := ctx s
    let pv := if n then ~~~(getP c.rd p.toNat) else getP c.rd p.toNat
    let x := slotOf c.w c.src
    let y := slotOf c.w (otherSrc c.src)
    let opened := fun (t : State) =>
      let w := waveAt t c.k
      let a := slotOf w c.src
      let b := slotOf w (otherSrc c.src)
      a.pc = c.pc + 4 ∧ a.mask = c.mask &&& ~~~pv ∧ a.dix = c.dix + 1 ∧ a.st = x.st ∧ a.sjpend = false ∧
      b.pc = c.pc + BitVec.ofInt 64 (4 * j.toInt) ∧ b.mask = c.mask &&& pv ∧ b.st = .ready ∧ b.sjpend = false ∧
      b.dix = BitVec.ofNat 48 (c.dix.toNat + 2 ^ 20) ∧
      w.divd = c.w.divd + 1 ∧ w.jr = (if x.sjpend then x.sj else Config.noJoin) ∧ w.regs = c.w.regs
    BySlot s → c.mask &&& pv ≠ 0 → c.mask &&& ~~~pv ≠ 0 →
    (1 ≤ c.w.divd → (if c.w.frame.isSome then 0 else (unitOf s c.k).ddepth) + 1 ≤ c.w.divd →
      exec (.brp sw p n j) s = .next (trapped s { cause := 0x0C })) ∧
    (c.w.divd = 0 → ∃ t, exec (.brp sw p n j) s = .next t ∧ opened t ∧ t.mem = s.mem) ∧
    (∀ l, 1 ≤ c.w.divd → c.w.divd ≤ (if c.w.frame.isSome then 0 else (unitOf s c.k).ddepth) → underWay y.hold = false →
      recordSegs s c.k c.w c.w.divd true c.hold = .ok l →
      ∃ t, exec (.brp sw p n j) s = .next t ∧ opened t ∧
        t.mem = (writePieces s (wingOf s c.k) (capTop (getC c.w.regs 30) - 48 * c.w.divd).toNat l (natLe 48
          (y.pc.toNat + c.w.jr.toNat * 2 ^ 64 + y.sj.toNat * 2 ^ 128 + y.dix.toNat * 2 ^ 192 +
            (match y.st with | .free => 0 | .ready => 1 | .parked => 2) * 2 ^ 240 +
            (if y.sjpend then 2 ^ 242 else 0) + y.mask.toNat * 2 ^ 256))).mem)

/-- R28, R107: a JOIN with no open divergence, or away from JR, only ends its run; an EXIT outside a handler whose guard
leaves lanes removes the guarded lanes from the slot and from the live lanes, and goes on at pc + 4. A JOIN at JR that leaves both slots
parked closes the only open divergence: slot A is READY at JR + 4 with the lanes of both and one more than the larger DIX;
slot B is FREE; JR is NOJOIN and the count 0. Where more divergences are open, it closes the innermost one: slot B and JR come from
record DIVD − 1, where it is reached, without the lanes that have exited or that slot A has taken. A JOIN at JR while the other slot
is READY only parks. An EXIT that takes the slot's last lanes leaves it FREE: a READY other slot stays as it is; with a FREE other slot
and no divergence open the wave ends, and its registers exist no more (R96). -/
def Obligations.JoinAndExit : Prop :=
  ∀ (s : State) (sw : Bool),
    let c := ctx s
    let g := guardOf c
    BySlot s →
      ((c.w.divd = 0 ∨ c.pc ≠ c.w.jr) → exec (.join sw) s = .next (jumped s (c.pc + 4))) ∧
      (c.w.frame = none → (slotOf c.w c.src).mask &&& ~~~g ≠ 0 → ∃ t, exec (.exit sw) s = .next t ∧
        (slotOf (waveAt t c.k) c.src).mask = (slotOf c.w c.src).mask &&& ~~~g ∧
        (slotOf (waveAt t c.k) c.src).pc = c.pc + 4 ∧ (waveAt t c.k).live = c.w.live &&& ~~~g ∧
        (waveAt t c.k).regs = c.w.regs ∧ t.mem = s.mem) ∧
      (let m := c.w.a.mask ||| c.w.b.mask
       c.w.divd = 1 → c.pc = c.w.jr → (slotOf c.w (otherSrc c.src)).st = .parked → m ≠ 0 →
        ∃ t, exec (.join sw) s = .next t ∧
          let w := waveAt t c.k
          w.a.st = .ready ∧ w.a.mask = m ∧ w.a.pc = c.w.jr + 4 ∧
          w.a.dix = BitVec.ofNat 48 (max c.w.a.dix.toNat c.w.b.dix.toNat + 1) ∧
          w.b.st = .free ∧ w.divd = 0 ∧ w.jr = Config.noJoin) ∧
      (let y := slotOf c.w (otherSrc c.src)
       let m := (slotOf c.w c.src).mask ||| (if y.st = .parked then y.mask else 0)
       let dx := max (slotOf c.w c.src).dix.toNat (if y.st = .parked then y.dix.toNat else 0)
       ∀ d l, c.w.divd = d + 1 → 1 ≤ d → c.pc = c.w.jr → y.st ≠ .ready → m ≠ 0 →
        recordSegs s c.k c.w d false c.hold = .ok l →
        ∃ t, exec (.join sw) s = .next t ∧
          let w := waveAt t c.k
          let r := leNat (l.flatMap fun p => readMem s p.1 p.2)
          let bm := BitVec.ofNat 32 (r / 2 ^ 256) &&& c.w.live &&& ~~~m
          w.a.st = .ready ∧ w.a.mask = m ∧ w.a.pc = c.w.jr + 4 ∧ w.a.dix = BitVec.ofNat 48 (dx + 1) ∧
          w.b.mask = bm ∧ w.b.st = (if bm = 0 then .free else match r / 2 ^ 240 % 4 with
            | 1 => .ready | 2 => .parked | _ => .free) ∧
          w.b.pc = BitVec.ofNat 64 r ∧ w.b.sj = BitVec.ofNat 64 (r / 2 ^ 128) ∧ w.b.dix = BitVec.ofNat 48 (r / 2 ^ 192) ∧
          w.b.sjpend = (r / 2 ^ 242 % 2 == 1) ∧ w.jr = BitVec.ofNat 64 (r / 2 ^ 64) ∧ w.divd = d ∧
          w.regs = c.w.regs ∧ t.mem = s.mem) ∧
      (1 ≤ c.w.divd → c.pc = c.w.jr → (slotOf c.w (otherSrc c.src)).st = .ready → ∃ t, exec (.join sw) s = .next t ∧
        let w := waveAt t c.k
        let x := slotOf w c.src
        x.st = .parked ∧ x.mask = (slotOf c.w c.src).mask ∧ x.pc = c.pc ∧ x.dix = c.dix ∧
        slotOf w (otherSrc c.src) = slotOf c.w (otherSrc c.src) ∧ w.divd = c.w.divd ∧ w.jr = c.w.jr ∧
        w.regs = c.w.regs ∧ w.live = c.w.live ∧ t.mem = s.mem) ∧
      (c.w.frame = none → (slotOf c.w c.src).mask &&& ~~~g = 0 → (slotOf c.w (otherSrc c.src)).st = .ready →
        ∃ t, exec (.exit sw) s = .next t ∧
        let w := waveAt t c.k
        (slotOf w c.src).st = .free ∧ (slotOf w c.src).mask = 0 ∧ w.live = c.w.live &&& ~~~g ∧
        slotOf w (otherSrc c.src) = slotOf c.w (otherSrc c.src) ∧ w.divd = c.w.divd ∧ w.jr = c.w.jr ∧
        w.regs = c.w.regs ∧ t.mem = s.mem) ∧
      (c.w.frame = none → (slotOf c.w c.src).mask &&& ~~~g = 0 → (slotOf c.w (otherSrc c.src)).st = .free →
        c.w.divd = 0 → c.w.tethSlot = none → c.w.tether = false → ∃ t, exec (.exit sw) s = .next t ∧
        let w := waveAt t c.k
        w.a.st = .free ∧ w.b.st = .free ∧ w.divd = 0 ∧ w.live = c.w.live &&& ~~~g ∧
        w.regs.s = [] ∧ w.regs.p = [] ∧ w.regs.c = [] ∧ w.regs.v = [] ∧ w.regs.vc = [] ∧ w.counts = c.w.counts ∧
        t.mem = s.mem)

/-- R110 to R112: CALL writes the return address to v126/v127 of every lane of MASK and jumps; RET goes to the pair of the
lowest lane of MASK; JMPC replaces PCC by the unsealed capability and goes to its address, and its linking form writes
into c[D] a tagged sentry of the old PCC at pc + 4. -/
def Obligations.CallsAndJumps : Prop :=
  ∀ (s : State) (sw : Bool) (j : BitVec 23) (d a : BitVec 7),
    let c := ctx s
    let k := getC c.rd a.toNat
    let sentry : Cap := ⟨true, (withOtype (withAddr (getC c.rd 31) (c.pc + 4).toNat) 1).bits⟩
    BySlot s →
      exec (.call sw j) s = .next (setWave s c.k (goTo c (c.pc + BitVec.ofInt 64 (4 * j.toInt)) (putLive c.w c.src
        ((lanesOf c.mask).foldl (fun r i => setV (setV r 126 i (BitVec.ofNat 32 (c.pc + 4).toNat)) 127 i
          (BitVec.ofNat 32 ((c.pc + 4).toNat / 2 ^ 32))) c.live)))) ∧
      (∀ i, lowLane c.mask = some i → a.toNat % 2 = 0 → getPair c.rd a.toNat i % 4 = 0 →
        exec (.ret sw a) s = .next (jumped s (BitVec.ofNat 64 (getPair c.rd a.toNat i)))) ∧
      (k.tag = true → capHas k pEXEC = true → capWorld k = worldOf s c.k → (capOtype k = 0 ∨ capOtype k = 1) →
        capAddr k % 4 = 0 →
        exec (.jmpc sw a) s = .next (setWave s c.k
          (goTo c (BitVec.ofNat 64 (capAddr k)) (setPcc c.w c.src (withOtype k 0)))) ∧
        exec (.jmpcLink sw d a) s = .next (setWave s c.k (goTo c (BitVec.ofNat 64 (capAddr k)) (setPcc
          { c.w with regs := setC c.w.regs d.toNat sentry } c.src (withOtype k 0)))))

-- Vector instructions.

/-- R122, R141 to R146: the integer and share results of vector arithmetic, lane by lane over the active lanes. `x`, `y` and
`z` are the lane's elements of vA, of vB or the immediate, and of vD. VMULH never saturates; the other sums, products,
negations and shifts go through intres. Under a share type an immediate of VADD and VSUB counts only for PARTY 0. -/
def Obligations.VectorInteger : Prop :=
  ∀ (s : State) (sw i : Bool) (d a b : BitVec 7),
    let t := ety s
    let w := widthOf t
    let rd := (ctx s).rd
    let x := fun l => intOf t (laneGet rd t a.toNat l)
    let y := fun l => intOf t (if i then b.toNat else laneGet rd t b.toNat l)
    let z := fun l => intOf t (laneGet rd t d.toNat l)
    let pub := fun l => if isShare t = true ∧ i = true ∧ (wingOf s (ctx s).k).party = true then 0 else y l
    let fs := [d, a] ++ if i then [] else [b]
    let out := fun (f : Nat → Res) => (Host.Outcome.next (retire s sw (writeLanes (ctx s) t d.toNat f)) : Out)
    let ir := fun (v : Int) => intres t (modeSat (ctx s).rd.mode) v
    tF t = false →
    (VecOk s tINSF tINS i fs →
      exec (.vadd sw d a b i) s = out (fun l => ir (x l + pub l)) ∧
      exec (.vsub sw d a b i) s = out (fun l => ir (x l - pub l))) ∧
    (VecOk s tINF tIN i fs →
      exec (.vmul sw d a b i) s = out (fun l => ir (x l * y l)) ∧
      exec (.vmad sw d a b i) s = out (fun l => ir (x l * y l + z l))) ∧
    (VecOk s tIN tIN i fs →
      exec (.vmulh sw d a b i) s = out (fun l => ⟨wrap w (x l * y l / ((2 ^ w : Nat) : Int)), 0⟩)) ∧
    (VecOk s tINSF tAny false [d, a] → exec (.vneg sw d a) s = out (fun l => ir (-(x l)))) ∧
    (VecOk s tINF tAny false [d, a] → tI t = true → exec (.vabs sw d a) s = out (fun l => ir (x l).natAbs)) ∧
    (VecOk s tINF tAny false [d, a] → tN t = true →
      exec (.vabs sw d a) s = out (fun l => ⟨laneGet rd t a.toNat l, 0⟩)) ∧
    (VecOk s tINS tINS i fs → exec (.vshl sw d a b i) s =
      out (fun l => ir (x l * (2 ^ min (if i then b.toNat else laneGet rd t b.toNat l) w : Nat))))

/-- R125, R127 to R129, R144, R151, R152: floating-point results: the exact value of the operation, rounded once to
ETYPE under the run's ROUND, SAT and random bits, with the flags of the operation and of the rounding; VDIV, VRCP and VSQRT
of finite operands that are not zero are the exact quotient, reciprocal and root, rounded once (R126), and their special
operands give what R151 and R152 list, but for the sign of 0 / finite, which is the model's (log 55). R145: VABS and VNEG clear and flip
the sign of a pattern, and give the canonical NaN for a NaN.
The working precision behind VEX2 and VLG2 is the model's (log 18). -/
def Obligations.VectorFloat : Prop :=
  ∀ (s : State) (sw : Bool) (d a b : BitVec 7),
    let t := ety s
    let c := ctx s
    let m := modeRound c.rd.mode
    let x := fun l => valueOf t (laneGet c.rd t a.toNat l)
    let y := fun l => valueOf t (laneGet c.rd t b.toNat l)
    let z := fun l => valueOf t (laneGet c.rd t d.toNat l)
    let out := fun (f : Nat → Res) => (Host.Outcome.next (retire s sw (writeLanes c t d.toNat f)) : Out)
    let rounded := fun (l : Nat) (v : Val × Nat) =>
      (⟨(cvtf t (rndOf c l 0) v.1).pat, (cvtf t (rndOf c l 0) v.1).fl ||| v.2⟩ : Res)
    tF t = true → BySlot s →
      exec (.vadd sw d a b false) s = out (fun l => rounded l (addVal m (x l) (y l))) ∧
      exec (.vsub sw d a b false) s = out (fun l => rounded l (addVal m (x l) (negVal (y l)))) ∧
      exec (.vmul sw d a b false) s = out (fun l => rounded l (mulVal (x l) (y l))) ∧
      exec (.vmad sw d a b false) s = out (fun l => rounded l
        ((addVal m (mulVal (x l) (y l)).1 (z l)).1, (addVal m (mulVal (x l) (y l)).1 (z l)).2 ||| (mulVal (x l) (y l)).2)) ∧
      exec (.vdiv sw d a b false) s = out (fun l => fdiv t (rndOf c l 0) (x l) (y l)) ∧
      exec (.vrcp sw d a) s = out (fun l => frcp t (rndOf c l 0) (x l)) ∧
      exec (.vrsq sw d a) s = out (fun l => frsq t (rndOf c l 0) (x l)) ∧
      exec (.vex2 sw d a) s = out (fun l => fexp2 t (rndOf c l 0) (x l)) ∧
      exec (.vlg2 sw d a) s = out (fun l => flog2 t (rndOf c l 0) (x l)) ∧
      exec (.vsqrt sw d a) s = out (fun l => fsqrt t (rndOf c l 0) (x l)) ∧
      (oddPair t d = false → oddPair t a = false →
        exec (.vabs sw d a) s = out (fun l => ⟨if isNan (x l) then nanPat t
          else laneGet c.rd t a.toNat l % 2 ^ (widthOf t - 1), 0⟩) ∧
        exec (.vneg sw d a) s = out (fun l => ⟨if isNan (x l) then nanPat t
          else laneGet c.rd t a.toNat l ^^^ 2 ^ (widthOf t - 1), 0⟩)) ∧
      (∀ k : Rnd,
        let nan := (⟨nanPat t, 0⟩ : Res)
        let inv := (⟨nanPat t, fINV⟩ : Res)
        let inf := fun (n : Bool) (fl : Nat) => (⟨(if n then 2 ^ (widthOf t - 1) else 0) + infPat t, fl⟩ : Res)
        let zero := fun (n : Bool) => (⟨if n then 2 ^ (widthOf t - 1) else 0, 0⟩ : Res)
        (∀ (a b : Bool) (m n : Nat) (e f : Int), m ≠ 0 → n ≠ 0 →
          RoundedOnce t k (a != b) (((m : ℝ) * (2 : ℝ) ^ e) / ((n : ℝ) * (2 : ℝ) ^ f)) (fdiv t k (.fin a m e) (.fin b n f))) ∧
        (∀ (a : Bool) (m : Nat) (e : Int), m ≠ 0 → RoundedOnce t k a (1 / ((m : ℝ) * (2 : ℝ) ^ e)) (frcp t k (.fin a m e))) ∧
        (∀ (m : Nat) (e : Int), m ≠ 0 → RoundedOnce t k false (√((m : ℝ) * (2 : ℝ) ^ e)) (fsqrt t k (.fin false m e))) ∧
        (∀ v, fdiv t k .nan v = nan ∧ fdiv t k v .nan = nan) ∧ frcp t k .nan = nan ∧ fsqrt t k .nan = nan ∧
        (∀ (a b : Bool) (m : Nat) (e f : Int), fdiv t k (.inf a) (.inf b) = inv ∧ fdiv t k (.fin a 0 e) (.fin b 0 f) = inv ∧
          fdiv t k (.inf a) (.fin b m e) = inf (a != b) 0 ∧ fdiv t k (.fin a m e) (.inf b) = zero (a != b) ∧
          (m ≠ 0 → fdiv t k (.fin a m e) (.fin b 0 f) = inf (a != b) fDIV)) ∧
        (∀ (a : Bool) (e : Int), frcp t k (.inf a) = zero a ∧ frcp t k (.fin a 0 e) = inf a fDIV ∧ fsqrt t k (.fin a 0 e) = zero a) ∧
        (∀ (m : Nat) (e : Int), m ≠ 0 → fsqrt t k (.fin true m e) = inv) ∧ fsqrt t k (.inf true) = inv ∧ fsqrt t k (.inf false) = inf false 0)

/-- R145 to R147, R150, R151: bitwise results, shifts right, minima and maxima, counts and integer division. A zero
divisor in an active lane traps with 0x0B, TRAPLANES its lanes; otherwise the quotient is truncated toward zero. -/
def Obligations.VectorBitsAndDivide : Prop :=
  ∀ (s : State) (sw i : Bool) (d a b : BitVec 7),
    let t := ety s
    let w := widthOf t
    let rd := (ctx s).rd
    let x := fun l => laneGet rd t a.toNat l
    let y := fun l => if i then b.toNat else laneGet rd t b.toNat l
    let fs := [d, a] ++ if i then [] else [b]
    let out := fun (f : Nat → Res) => (Host.Outcome.next (retire s sw (writeLanes (ctx s) t d.toNat f)) : Out)
    let zero := (active (ctx s)).filter fun l => y l == 0
    (VecOk s tINF tIN i fs →
      exec (.vand sw d a b i) s = out (fun l => ⟨x l &&& y l, 0⟩) ∧
      exec (.vor sw d a b i) s = out (fun l => ⟨x l ||| y l, 0⟩) ∧
      exec (.vxor sw d a b i) s = out (fun l => ⟨x l ^^^ y l, 0⟩) ∧
      exec (.vmin sw d a b i) s = out (fun l => ⟨minMax t false (x l) (y l), 0⟩) ∧
      exec (.vmax sw d a b i) s = out (fun l => ⟨minMax t true (x l) (y l), 0⟩) ∧
      (tF t = false → zero ≠ [] →
        exec (.vdiv sw d a b i) s = .next (trapped s { cause := 0x0B, lanes := some (maskOf zero) })) ∧
      (tF t = false → zero = [] → exec (.vdiv sw d a b i) s =
        out (fun l => intres t (modeSat (ctx s).rd.mode) (Int.tdiv (intOf t (x l)) (intOf t (y l)))))) ∧
    (VecOk s tINF tAny false [d, a] → exec (.vnot sw d a) s = out (fun l => ⟨2 ^ w - 1 - x l, 0⟩)) ∧
    (VecOk s tIN tIN i fs → exec (.vshr sw d a b i) s = out (fun l => ⟨x l / 2 ^ min (y l) w, 0⟩)) ∧
    (VecOk s tI tI i fs → exec (.vsra sw d a b i) s =
      out (fun l => ⟨wrap w (intOf t (x l) / ((2 ^ min (y l) w : Nat) : Int)), 0⟩)) ∧
    (VecOk s tIN tAny false [d, a] →
      exec (.vclz sw d a) s = out (fun l => ⟨if x l = 0 then w else w - 1 - Nat.log2 (x l), 0⟩) ∧
      exec (.vpopc sw d a) s = out (fun l => ⟨(List.range w).countP fun j => (x l).testBit j, 0⟩))

/-- R147 to R149: comparisons, selections and moves. VCMP writes p under R98 with the active lanes whose condition holds;
VSEL writes every lane of MASK, the guard selecting; VLID ignores ETYPE. -/
def Obligations.VectorMoves : Prop :=
  ∀ (s : State) (sw i g : Bool) (cc : BitVec 4) (p : BitVec 3) (d a b : BitVec 7),
    let t := ety s
    let c := ctx s
    let x := fun l => laneGet c.rd t a.toNat l
    let y := fun l => if i then b.toNat else laneGet c.rd t b.toNat l
    let out := fun (f : Nat → Res) => (Host.Outcome.next (retire s sw (writeLanes c t d.toNat f)) : Out)
    let base := if g then ((unitOf s c.k).unitId * (unitOf s c.k).nwaves + c.w.waveId) * 32 else 0
    (VecOk s (fun t => tINF t || tQ t) tIN i ([a] ++ if i then [] else [b]) → exec (.vcmp sw cc p a b i) s =
      .next (retire s sw (withPred s p.toNat (maskOf ((active c).filter fun l => vcond cc.toNat t (x l) (y l)))))) ∧
    (VecOk s tAny tAny i ([d, a] ++ if i then [] else [b]) → exec (.vsel sw d a b i) s =
      .next (retire s sw ((lanesOf c.mask).foldl
        (fun r l => laneSet r t d.toNat l (if (guardOf c).getLsbD l then x l else y l)) c.live))) ∧
    (VecOk s tAny tAny false [d, a] → exec (.vmov sw d a) s = out (fun l => ⟨x l, 0⟩)) ∧
    (VecOk s tAny tAny true [d] → exec (.vmovImm sw d b) s = out (fun _ => ⟨b.toNat, 0⟩)) ∧
    (VecOk s tAny tAny false [d] → exec (.vmovs sw d a) s = out (fun _ => ⟨(getS c.rd a.toNat).toNat, 0⟩)) ∧
    (VecOk s tAny tAny false [a] → exec (.vmovsToS sw d a) s = .next (retire s sw
      (match lowLane (guardOf c) with
       | some l => setS c.live d.toNat (if tI t then BitVec.ofInt 64 (intOf t (x l)) else BitVec.ofNat 64 (x l))
       | none => c.live))) ∧
    (BySlot s → exec (.vlid sw d g) s = .next (retire s sw
      ((active c).foldl (fun r l => setV r d.toNat l (BitVec.ofNat 32 (base + l))) c.live)))

/-- R153 to R160: conversions, packing, quantisation, codebook decoding and random bits, in a slot. Each form completes with the
lanes that its rule gives, under the type pairs that the rule accepts; under any other pair it traps with 0x0A,
the guard mask in TRAPLANES. VCVT converts lane by lane; VPACK writes the narrowed elements of both sources from element
`base` on, and keeps the half that X[0] does not select; VUNPK widens group g; VQNT and VDQNT use the affine pair in the low 16
bits of s[B]; VCBK, where no MCAB of the wave is outstanding, writes eight weights, two to a register or, under F32, one;
VRNG writes rnd32 of SEED, the instruction's DIX, the lane and the element; RSEED exchanges SEED.
The half that VPACK keeps is the run-start one (log 7); the sign of VDQNT's zero is the model's (log 55). -/
def Obligations.Conversions : Prop :=
  ∀ (s : State) (sw i h : Bool) (d a b g : BitVec 7),
    let c := ctx s
    let et := ety s
    let st := sty s
    let we := widthOf et
    let ws := widthOf st
    let pair := (getS c.rd b.toNat).toNat % 2 ^ 16
    let out := fun (t : Nat) (f : Nat → Res) => (Host.Outcome.next (retire s sw (writeLanes c t d.toNat f)) : Out)
    let words := fun (f : Nat → Nat) => (Host.Outcome.next (retire s sw
      ((active c).foldl (fun r l => setV r d.toNat l (BitVec.ofNat 32 (f l))) c.live)) : Out)
    let bad := (Host.Outcome.next (trapped s { cause := 0x0A, lanes := some (guardOf c) }) : Out)
    let elem := fun (r : BitVec 7) (l w j : Nat) => (getV c.rd r.toNat l).toNat / 2 ^ (w * j) % 2 ^ w
    -- VPACK
    let full := 2 * we == ws
    let packs := sameKind st et = true ∧ we < ws ∧ ws ≤ 32 ∧ (full = true ∨ 4 * we = ws) ∧ (full && h) = false
    let n := 32 / ws
    let base := if full then 0 else if h then 16 / we else 0
    let src := fun (l j : Nat) => if j < n then elem a l ws j else elem b l ws (j - n)
    let y := fun (l j : Nat) => if tFQ st = true then cvtf et (rndOf c l (base + j)) (valueOf st (src l j))
      else intres et (modeSat c.rd.mode) (intOf st (src l j))
    let old := fun (l : Nat) => (getV c.rd d.toNat l).toNat
    let kept := fun (l : Nat) => if full then 0 else if h then old l % 2 ^ 16 else old l / 2 ^ 16 * 2 ^ 16
    -- VCBK
    let wt := fun (l j : Nat) => cvtf et (rndOf c l j) (nth .nan (codeWeights (matOf s c.k).cabinet
      ((getV c.rd a.toNat l).toNat % 2 ^ 16) ((getS c.rd b.toNat).toNat % 2 ^ 8)) j)
    let decodes := st = 0x15 ∧ tF et = true ∧ d.toNat % (if et = 8 then 8 else 4) = 0
    BySlot s →
    ((cvtElem st et (rndOf c 0 0) 0).isSome = true → oddPair st a = false → oddPair et d = false →
      exec (.vcvt sw d a) s =
        out et (fun l => (cvtElem st et (rndOf c l 0) (laneGet c.rd st a.toNat l)).getD ⟨0, 0⟩)) ∧
    (((cvtElem st et (rndOf c 0 0) 0).isSome = false ∨ oddPair st a = true ∨ oddPair et d = true) →
      exec (.vcvt sw d a) s = bad) ∧
    (packs → exec (.vpack sw d a b h) s = .next (retire s sw ((active c).foldl (fun r l =>
      addFlags (setV r d.toNat l (BitVec.ofNat 32
          (kept l + ((List.range (2 * n)).map fun j => (y l j).pat * 2 ^ (we * (base + j))).sum)))
        ((List.range (2 * n)).foldl (fun f j => f ||| (y l j).fl) 0)) c.live))) ∧
    (¬ packs → exec (.vpack sw d a b h) s = bad) ∧
    (widens st et = true → g.toNat < we / ws → exec (.vunpk sw d a g) s = words (fun l =>
      ((List.range (32 / we)).map fun j =>
        (let x := elem a l ws (g.toNat * (32 / we) + j)
         if tFQ st = true then (cvtf et { mode := 0, sat := false } (valueOf st x)).pat else wrap we (intOf st x)) *
          2 ^ (we * j)).sum)) ∧
    ((widens st et = false ∨ we / ws ≤ g.toNat) → exec (.vunpk sw d a g) s = bad) ∧
    (et = 0x14 → tF st = true → exec (.vqnt sw d a b) s =
      out 0x14 (fun l => quant (rndOf c l 0) pair (valueOf st (laneGet c.rd st a.toNat l)))) ∧
    (¬ (et = 0x14 ∧ tF st = true) → exec (.vqnt sw d a b) s = bad) ∧
    (tF et = true → st = 0x14 → ∀ z m e, k8Val (pair % 256) = .fin z m e → exec (.vdqnt sw d a b) s =
      out et (fun l => cvtf et (rndOf c l 0)
        (ofScaled ((sext 8 ((getV c.rd a.toNat l).toNat % 256) - sext 8 (pair / 256)) * m) e false))) ∧
    (¬ (tF et = true ∧ st = 0x14) → exec (.vdqnt sw d a b) s = bad) ∧
    (decodes → mcabPending c.w = false → exec (.vcbk sw d a b) s = .next (retire s sw ((active c).foldl (fun r l =>
      let f := (List.range 8).foldl (fun f j => f ||| (wt l j).fl) 0
      if et = 8 then (List.range 8).foldl (fun r j => setV r (d.toNat + j) l (BitVec.ofNat 32 (wt l j).pat)) (addFlags r f)
      else (List.range 4).foldl (fun r j => setV r (d.toNat + j) l
        (BitVec.ofNat 32 ((wt l (2 * j)).pat + (wt l (2 * j + 1)).pat * 2 ^ 16))) (addFlags r f)) c.live))) ∧
    (decodes → mcabPending c.w = true → exec (.vcbk sw d a b) s = .next (waitWith s c .poll)) ∧
    (¬ decodes → exec (.vcbk sw d a b) s = bad) ∧
    exec (.vrng sw d b i) s = words (fun l =>
      rnd32 c.rd.seed.toNat c.dix.toNat l (if i then b.toNat else (getV c.rd b.toNat l).toNat % 256)) ∧
    exec (.rseed sw d a) s = .next (retire s sw { setS c.live d.toNat c.rd.seed with seed := getS c.rd a.toNat })

/-- R162 to R166: lane exchange, votes, scans and reductions. A source lane outside `active()` gives the lane's own
value; a reduction over no lane gives 0; a sum is exact and rounded once.
R137, R165: the three forms of VMXIX: keys of values with their indices, the larger of two keys, and the value of a
key. -/
def Obligations.LaneExchange : Prop :=
  (∀ (s : State) (sw i x : Bool) (d a b : BitVec 7),
    let c := ctx s
    let t := ety s
    let g := guardOf c
    let moved := fun (src : Nat → Nat) => (active c).foldl (fun r l => wholeSet r t d.toNat l
      (wholeGet c.rd t a.toNat (if g.getLsbD (src l) then src l else l))) c.live
    let bit := fun (q : Bool) => (if q then 1 else 0 : DWord)
    (VecOk s tAny tAny i ([d, a] ++ if i then [] else [b]) → exec (.vshfl sw d a b i) s = .next (retire s sw
      (moved fun l => if i then (l + b.toNat) % 32 else (getV c.rd b.toNat l).toNat % 32))) ∧
    (VecOk s tAny tAny true [d, a] → exec (.vbfly sw d a b) s = .next (retire s sw (moved fun l => (l ^^^ b.toNat) % 32))) ∧
    (VecOk s tAny tAny false [a] → exec (.vball sw d a) s = .next (retire s sw (withPred s d.toNat
      (maskOf ((active c).filter fun l => laneGet c.rd t a.toNat l != 0))))) ∧
    (BySlot s → exec (.vany sw d a) s = .next (retire s sw (setS c.live d.toNat
      (bit (getP c.rd a.toNat &&& g != 0))))) ∧
    (BySlot s → exec (.vall sw d a) s = .next (retire s sw (setS c.live d.toNat
      (bit (getP c.rd a.toNat &&& g == g))))) ∧
    (VecOk s tINSF tAny false [d, a] → exec (.vscan sw d a x) s = .next (retire s sw (writeLanes c t d.toNat fun l =>
      laneSum c t l (((active c).filter fun j => if x then decide (j < l) else decide (j ≤ l)).map
        (laneGet c.rd t a.toNat))))) ∧
    (VecOk s tINSF tAny false [a] → active c = [] →
      exec (.vreds sw d a false) s = .next (retire s sw (setS c.live d.toNat 0))) ∧
    (VecOk s tINSF tAny false [a] → active c ≠ [] →
      exec (.vreds sw d a false) s = .next (retire s sw (addFlags (setS c.live d.toNat
        (extend t (laneSum c t 0 ((active c).map (laneGet c.rd t a.toNat))).pat))
        (laneSum c t 0 ((active c).map (laneGet c.rd t a.toNat))).fl))) ∧
    (VecOk s tINF tAny false [a] → active c = [] →
      exec (.vreds sw d a true) s = .next (retire s sw (setS c.live d.toNat 0))) ∧
    (VecOk s tINF tAny false [a] → ∀ y ys, (active c).map (laneGet c.rd t a.toNat) = y :: ys →
      let m := ys.foldl (minMax t true) y
      exec (.vreds sw d a true) s = .next (retire s sw (setS c.live d.toNat
        (extend t (if tF t = true ∧ isNan (valueOf t m) = true then nanPat t else m)))))) ∧
  (∀ (s : State) (sw : Bool) (d a b : BitVec 7),
    let c := ctx s
    let t := ety s
    let out := fun (f : Nat → Nat) => (Host.Outcome.next (retire s sw
      ((active c).foldl (fun r l => setV r d.toNat l (BitVec.ofNat 32 (f l))) c.live)) : Out)
    BySlot s → (t = 2 ∨ t = 3 ∨ t = 9 ∨ t = 0xA) →
      exec (.vmxix sw d a b) s = out (fun l => keyOf t (getV c.rd a.toNat l).toNat (getV c.rd b.toNat l).toNat) ∧
      exec (.vmxixC sw d a b) s = out (fun l => max (getV c.rd a.toNat l).toNat (getV c.rd b.toNat l).toNat) ∧
      exec (.vmxixD sw d a) s = out (fun l => keyVal t (getV c.rd a.toNat l).toNat))

-- Capabilities.

/-- R188, R194: the instructions that read a capability into s[D]: its address, base, length, permissions with type and
world, tag, and the six bits of CTEST. -/
def Obligations.CapabilityReads : Prop :=
  ∀ (s : State) (sw : Bool) (d a b : BitVec 7),
    let k := getC (ctx s).rd a.toNat
    let y := getC (ctx s).rd b.toNat
    let out := fun (v : Nat) => (Host.Outcome.next (retire s sw (setS (ctx s).live d.toNat (BitVec.ofNat 64 v))) : Out)
    let b2n := fun (n : Nat) (p : Prop) [Decidable p] => if p then 2 ^ n else 0
    BySlot s →
      exec (.cgeta sw d a) s = out (capAddr k) ∧
      exec (.cgetb sw d a) s = out (capBase k % 2 ^ 64).toNat ∧
      exec (.cgetl sw d a) s = out (min (capTop k - capBase k).toNat (2 ^ 64 - 1)) ∧
      exec (.cgetp sw d a) s = out (capPerms k + capOtype k * 2 ^ 16 + capWorld k * 2 ^ 20) ∧
      exec (.cgett sw d a) s = out (if k.tag then 1 else 0) ∧
      exec (.ctest sw d a b) s = out (b2n 0 (k.tag = true) + b2n 1 (capOtype k = 0) +
        b2n 2 (capBase y ≤ capBase k ∧ capTop k ≤ capTop y) + b2n 3 (capPerms k &&& capPerms y = capPerms k) +
        b2n 4 (capWorld k = capWorld y) + b2n 5 (capBase k ≤ capAddr k ∧ (capAddr k : Int) < capTop k))

/-- R189 to R191: CSETA, CINC, CSETB and CPRUNE. A tagged sealed source traps with 0x04; otherwise c[D] is the source with
the field replaced, and it keeps its tag only where the new address is representable, or the new bounds fit within the
old. -/
def Obligations.CapabilityDerivations : Prop :=
  ∀ (s : State) (sw x : Bool) (d a b : BitVec 7) (imm : BitVec 9),
    let k := getC (ctx s).rd a.toNat
    let n := (getS (ctx s).rd b.toNat).toNat
    let out := fun (v : Cap) => (Host.Outcome.next (retire s sw (setC (ctx s).live d.toNat v)) : Out)
    let moved := fun (m : Nat) => (⟨k.tag && representable k (m % 2 ^ 64), (withAddr k m).bits⟩ : Cap)
    let (e, bf, lf, lo, hi, fits) := encBounds (capAddr k) (capAddr k + n)
    BySlot s →
      (k.tag = true → capOtype k ≠ 0 →
        exec (.cseta sw d a b x) s = .next (trapped s { cause := 0x04 }) ∧
        exec (.cinc sw d a imm) s = .next (trapped s { cause := 0x04 }) ∧
        exec (.csetb sw d a b x) s = .next (trapped s { cause := 0x04 }) ∧
        exec (.cprune sw d a b) s = .next (trapped s { cause := 0x04 })) ∧
      (k.tag = false ∨ capOtype k = 0 →
        exec (.cseta sw d a b x) s = out (moved (if x then capAddr k + n else n)) ∧
        exec (.cinc sw d a imm) s = out (moved (capAddr k + (BitVec.ofInt 64 imm.toInt).toNat)) ∧
        exec (.csetb sw d a b x) s = out ⟨k.tag && decide (capBase k ≤ lo) && decide ((hi : Int) ≤ capTop k) && fits &&
            !(x && (lo != capAddr k || hi != capAddr k + n)),
          (withField (withField (withField k 127 122 e) 121 107 bf) 106 92 lf).bits⟩ ∧
        exec (.cprune sw d a b) s = out (withPerms k
          ((BitVec.ofNat 16 (capPerms k)) &&& ~~~(BitVec.ofNat 16 n &&& 0xFEFF#16) &&& 0x1FFF#16).toNat))

/-- R192, R193: CSEAL, CUNSL and CMOV on operands that meet their conditions. CMOV from VC leaves c[D] where no lane is
active; CMOV.s needs SYS and traps with 0x03 without it. -/
def Obligations.SealAndMove : Prop :=
  ∀ (s : State) (sw : Bool) (d a b : BitVec 7),
    let c := ctx s
    let x := getC c.rd a.toNat
    let k := getC c.rd b.toNat
    let out := fun (v : Cap) => (Host.Outcome.next (retire s sw (setC c.live d.toNat v)) : Out)
    let fit := x.tag = true ∧ k.tag = true ∧ capBase k ≤ capAddr k ∧ (capAddr k : Int) < capTop k ∧
      capWorld k = worldOf s c.k ∧ capOtype k = 0 ∧ capWorld x = capWorld k
    BySlot s →
      (fit → capHas k pSEAL = true → capOtype x = 0 →
        (capAddr k = 1 ∧ capHas x pEXEC = true ∨ 4 ≤ capAddr k ∧ capAddr k ≤ 15) →
        exec (.cseal sw d a b) s = out ⟨true, (withOtype x (capAddr k)).bits⟩) ∧
      (fit → capHas k pUNSEAL = true → 4 ≤ capOtype x → capAddr k = capOtype x →
        exec (.cunsl sw d a b) s = out ⟨true, (withField (withOtype x 0) 69 69
          (if capHas x pGLOBAL = true ∧ capHas k pGLOBAL = true then 1 else 0)).bits⟩) ∧
      exec (.cmov sw d a) s = out x ∧
      exec (.cmovFromVc sw d a) s = .next (retire s sw (match lowLane (guardOf c) with
        | some i => setC c.live d.toNat (getVC c.rd a.toNat i)
        | none => c.live)) ∧
      exec (.cmovToVc sw d a) s = .next (retire s sw
        ((active c).foldl (fun r i => setVC r d.toNat i x) c.live)) ∧
      exec (.cmovVc sw d a) s = .next (retire s sw
        ((active c).foldl (fun r i => setVC r d.toNat i (getVC c.rd a.toNat i)) c.live)) ∧
      (hasSys c = true → exec (.cmovS sw d a) s = .next (setWave s c.k (advance c sw
        (if d.toNat = 31 then setPcc c.w c.src x else putLive c.w c.src (setC c.live d.toNat x))))) ∧
      (hasSys c = false → exec (.cmovS sw d a) s = .next (trapped s { cause := 0x03 }))

/-- R177, of the register derivations: an instruction that derives c[D] from c[A] either traps or leaves in c[D] a
capability that is tagged only if c[A] was, with bounds inside those of c[A], no permission that c[A] lacks, SCRATCH
neither added nor removed, and the same WORLD. -/
def Obligations.DerivationsAreMonotonic : Prop :=
  ∀ (s t : State) (sw x : Bool) (d a b : BitVec 7) (imm : BitVec 9) (i : Instr),
    i ∈ [Instr.cseta sw d a b x, .cinc sw d a imm, .csetb sw d a b x, .cprune sw d a b, .cseal sw d a b, .cunsl sw d a b,
      .cmov sw d a] →
    BySlot s → exec i s = .next t →
      (∃ e, t = trapped s e) ∨
      ∃ r : Cap, t = retire s sw (setC (ctx s).live d.toNat r) ∧
        let k := getC (ctx s).rd a.toNat
        (r.tag = true → k.tag = true ∧ capBase k ≤ capBase r ∧ capTop r ≤ capTop k) ∧
        (∀ n, capHas r n = true → capHas k n = true) ∧ capHas r pSCRATCH = capHas k pSCRATCH ∧ capWorld r = capWorld k

/-- R171, R172: the encoding of a bounds request: the smallest exponent that fits, B and L, and the bounds that they stand for, which
contain the request; every capability with these fields whose address lies in the window of R172 has those bounds. Where no
exponent fits, E is 42. -/
def Obligations.BoundsEncoding : Prop :=
  ∀ (b t : Nat), b ≤ t →
    let (e, bf, lf, lo, hi, fits) := encBounds b t
    lo = b / 2 ^ e * 2 ^ e ∧ hi = (t + 2 ^ e - 1) / 2 ^ e * 2 ^ e ∧
    lo ≤ b ∧ t ≤ hi ∧ b < lo + 2 ^ e ∧ hi < t + 2 ^ e ∧ bf = b / 2 ^ e % 2 ^ 15 ∧
    (fits = true → lf = (t + 2 ^ e - 1) / 2 ^ e - b / 2 ^ e ∧ (hi - lo) / 2 ^ e ≤ 32767 ∧ e ≤ 42 ∧
      (∀ e' < e, 32767 < (t + 2 ^ e' - 1) / 2 ^ e' - b / 2 ^ e') ∧
      ∀ k : Cap, capE k = e → capB k = bf → capL k = lf → lo ≤ capAddr k → capAddr k < lo + 2 ^ (e + 15) →
        capBase k = lo ∧ capTop k = hi) ∧
    (fits = false → e = 42 ∧ ∀ e' ≤ 42, 32767 < (t + 2 ^ e' - 1) / 2 ^ e' - b / 2 ^ e')

-- Loads, stores, counters, copies and sequencers.

/-- R201, R209, R211, R213: the vector loads and stores of elements. Where every active lane passes its checks, the
instruction issues one counted access: path LD or ST, or SCR through a scratch capability; the lane's address is ADDR plus
its signed offset and the scaled immediate, or, for LDU and STU, the scalar offset plus lane × size. LDAC and STRL have no
immediate; they are an acquire and a release. A store's bytes are read at issue. -/
def Obligations.VectorLoadsAndStores : Prop :=
  ∀ (s : State) (sw : Bool) (t : BitVec 7) (cr : BitVec 5) (o : BitVec 7) (i : BitVec 4) (e : BitVec 3) (n : Nat),
    let c := ctx s
    let cap := getC c.rd cr.toNat
    let q := fun (st : Bool) => ({ cap := cap, n := n, rights := [if st then pST else pLD], align := n,
                                   need := if st then .write else .read } : AccReq)
    let path := fun (p : Nat) => if capHas cap pSCRATCH = true then 2 else p
    let per := fun (k : Nat) => (active c).map fun l =>
      ({ lane := l, x := (capAddr cap : Int) + (getV c.rd o.toNat l).toInt + k } : LaneReq)
    let uni := (active c).map fun l =>
      ({ lane := l, x := (capAddr cap : Int) + (getS c.rd o.toNat).toInt + (n * i.toNat : Nat) + (n * l : Nat) } : LaneReq)
    let ldK := fun ls => AccKind.loadV t.toNat n (places s (q false) ls)
    let stK := fun ls => AccKind.store ((places s (q true) ls).map fun p =>
      (p.1, p.2, natLe n (if n = 8 then getPair c.rd t.toNat p.1 else (getV c.rd t.toNat p.1).toNat)))
    BySlot s → elemSize (ety s) = some n → oddPair (ety s) t = false →
      Issues s (.ld sw t cr o i) (q false) (per (n * i.toNat)) (acc s (path 0) (ldK (per (n * i.toNat)))) ∧
      Issues s (.ldu sw t cr o i) (q false) uni (acc s (path 0) (ldK uni)) ∧
      Issues s (.ldac sw t cr o e) (q false) (per 0) { acc s (path 0) (ldK (per 0)) with acq := true } ∧
      Issues s (.st sw t cr o i) (q true) (per (n * i.toNat)) (acc s (path 1) (stK (per (n * i.toNat)))) ∧
      Issues s (.stu sw t cr o i) (q true) uni (acc s (path 1) (stK uni)) ∧
      Issues s (.strl sw t cr o e) (q true) (per 0) { acc s (path 1) (stK (per 0)) with rel := true }

/-- R195, R201, R212: the wave-uniform loads and stores of 8 bytes and of a capability, the offset in an S register. -/
def Obligations.UniformLoadsAndStores : Prop :=
  ∀ (s : State) (sw : Bool) (t : BitVec 7) (cr : BitVec 5) (o : BitVec 7) (i : BitVec 4) (l : Loc),
    let c := ctx s
    let cap := getC c.rd cr.toNat
    let x := fun (n : Nat) => (capAddr cap : Int) + (getS c.rd o.toNat).toInt + (n * i.toNat : Nat)
    let q := fun (n : Nat) (rs : List Nat) (st : Bool) => ({ cap := cap, n := n, rights := rs, align := n, scalar := true,
                                                             need := if st then .write else .read } : AccReq)
    let one := fun (n : Nat) => [({ lane := 0, x := x n } : LaneReq)]
    let path := fun (p : Nat) => if capHas cap pSCRATCH = true then 2 else p
    let uacc := fun (p : Nat) (k : AccKind) => ({ acc s (path p) k with mask := some c.mask } : Access)
    let cst := [({ lane := 0, x := x 16, deny := denied s c.k cap (getC c.rd t.toNat) (x 16) } : LaneReq)]
    BySlot s →
      (places s (q 8 [pLD] false) (one 8) = [(0, l)] →
        Issues s (.lds sw t cr o i) (q 8 [pLD] false) (one 8) (uacc 0 (.loadS t.toNat l))) ∧
      (places s (q 8 [pST] true) (one 8) = [(0, l)] →
        Issues s (.sts sw t cr o i) (q 8 [pST] true) (one 8)
          (uacc 1 (.store [(0, l, natLe 8 (getS c.rd t.toNat).toNat)]))) ∧
      (places s (q 16 [pLD, pLDC] false) (one 16) = [(0, l)] →
        Issues s (.cldc sw t cr o i) (q 16 [pLD, pLDC] false) (one 16) (uacc 0 (.loadC t.toNat l))) ∧
      (places s (q 16 [pST, pSTC] true) cst = [(0, l)] →
        Issues s (.cstc sw t cr o i) (q 16 [pST, pSTC] true) cst
          (uacc 1 (.storeC [(0, l, filterCap s (getC c.rd t.toNat))])))

/-- R196, R201: the vector loads and stores of capabilities, one granule for each active lane; R214: PREF only moves past
its word. -/
def Obligations.VectorCapabilityAccess : Prop :=
  ∀ (s : State) (sw : Bool) (t : BitVec 7) (cr : BitVec 5) (o : BitVec 7) (i : BitVec 4),
    let c := ctx s
    let cap := getC c.rd cr.toNat
    let x := fun (l : Nat) => (capAddr cap : Int) + (getV c.rd o.toNat l).toInt + (16 * i.toNat : Nat)
    let path := fun (p : Nat) => if capHas cap pSCRATCH = true then 2 else p
    let lq : AccReq := { cap := cap, n := 16, rights := [pLD, pLDC], align := 16, need := .read }
    let sq : AccReq := { cap := cap, n := 16, rights := [pST, pSTC], align := 16, need := .write }
    let ll := (active c).map fun l => ({ lane := l, x := x l } : LaneReq)
    let sl := (active c).map fun l =>
      ({ lane := l, x := x l, deny := denied s c.k cap (getVC c.rd t.toNat l) (x l) } : LaneReq)
    (BySlot s →
      Issues s (.vcld sw t cr o i) lq ll (acc s (path 0) (.loadVC t.toNat (places s lq ll))) ∧
      Issues s (.vcst sw t cr o i) sq sl (acc s (path 1) (.storeC ((places s sq sl).map fun p =>
        (p.1, p.2, filterCap s (getVC c.rd t.toNat p.1)))))) ∧
    (SlotOr s .seqCopy → exec (.pref sw t cr o i) s = .next (retire s sw c.live))

/-- R203, R204, R220: WAITC waits while the count of its path is above the limit; then it passes, or raises the oldest
error of the path as a deferred trap and removes it. RDCNT reads the count, or the address of the oldest failed access. -/
def Obligations.CounterInstructions : Prop :=
  ∀ (s : State) (sw e i : Bool) (d a b : BitVec 7),
    let c := ctx s
    let limit := if i then b.toNat else (getS c.rd a.toNat).toNat
    let n := tget 0 c.w.counts d.toNat
    let old := c.w.errs.find? fun r => r.path == d.toNat
    (limit < n → exec (.waitc sw d a b i) s = .next (waitWith s c .poll)) ∧
    (n ≤ limit → old = none → exec (.waitc sw d a b i) s = .next (setWave s c.k (advance c sw c.w))) ∧
    (∀ r, n ≤ limit → old = some r → exec (.waitc sw d a b i) s =
      .next (takeTrap (setWave s c.k { c.w with errs := dropErr d.toNat c.w.errs }) c.k c.src
        { cause := r.err.cause.toNat, addr := r.err.addr, lanes := some r.err.lanes, defer := true, pix := some r.err.pix })) ∧
    exec (.rdcnt sw d a e) s = .next (retire s sw (setS c.live d.toNat
      (if e then ((c.w.errs.find? fun r => r.path == a.toNat).map (·.pc)).getD 0
       else BitVec.ofNat 64 (tget 0 c.w.counts a.toNat))))

/-- R201, R213, R215, R216, R218, R219: the engine transfers at issue, no acquire holding them. Where the capabilities have their tag, rights, WORLD and
no seal, the transfer is left outstanding on its path: GATH and SCAT on path 4, TCPY, BCPY and PUBL on path 3.
R270: GATH, TCPY and BCPY take the wave's delivery binding along, SCAT and PUBL do not. -/
def Obligations.EngineTransfersIssue : Prop :=
  ∀ (s : State) (sw : Bool) (t : BitVec 7) (cr : BitVec 5) (o : BitVec 7) (i : BitVec 4),
    let c := ctx s
    let m := getC c.rd cr.toNat
    let z := getC c.rd 29
    let d := getC c.rd t.toNat
    let f := getC c.rd o.toNat
    let ok := fun (k : Cap) (rs : List Nat) =>
      k.tag = true ∧ (∀ p ∈ rs, capHas k p = true) ∧ capWorld k = worldOf s c.k ∧ capOtype k = 0
    let x : Int := (capAddr m : Int) + (getS c.rd o.toNat).toInt
    let eng := fun (path : Nat) (k : AccKind) => ({ acc s path k with
      engine := true, bound := if delivers k then c.w.delivery else none } : Access)
    let goes := fun (j : Instr) (path : Nat) (k : AccKind) => ∃ u, exec j s = .next u ∧ Issued s u (eng path k)
    acqHeld c = false →
    (SlotOr s .seqGather → countOf c.w 4 < Config.counterMax → ok z [pLD, pST] →
      (ok m [pLD] → goes (.gath sw t cr o i) 4 (.rows true (getS c.rd t.toNat) (x + (16 * i.toNat : Nat)) m z none)) ∧
      (ok m [pST] → goes (.scat sw t cr o i) 4 (.rows false (getS c.rd t.toNat) (x + (16 * i.toNat : Nat)) m z none))) ∧
    (SlotOr s .seqCopy → countOf c.w 3 < Config.counterMax →
      (ok d [pST] → ok f [pLD] → ok m [pLD] → goes (.tcpy sw t cr o i) 3 (.tcpy d f m (capAddr m + 64 * i.toNat) none)) ∧
      (ok m [pLD] → ok d [pST] → goes (.bcpy sw t cr o) 3 (.bcpy d m (getS c.rd o.toNat).toNat)) ∧
      (capCause m x (getS c.rd t.toNat).toNat [pST] (worldOf s c.k) (scrWin s c.k) = none → x % 65536 = 0 →
        (getS c.rd t.toNat).toNat % 65536 = 0 →
        goes (.publ sw t cr o) 3 (.publ (capHas m pSCRATCH) x.toNat (getS c.rd t.toNat).toNat)))

/-- R44, R46, R221: FORK starts a free sequencer at its target with DIX + 2^32 and copies of S, P, MODE and C; RDVZ passes
when the sequencer has ended and waits while it runs; ENDE ends the sequencer that executes it, and traps with 0x0A in a
wave.
The copies are taken at the FORK (log 27). -/
def Obligations.Sequencers : Prop :=
  ∀ (s : State) (sw : Bool) (p : BitVec 3) (j : BitVec 19),
    let c := ctx s
    let q := engineSrc p
    (BySlot s → seqBusy s c.k q = false → forkBehind s c.k q = false → ∃ t, exec (.fork sw p j) s = .next t ∧
      let n := seqOf (waveAt t c.k) q
      n.running = true ∧ n.born = s.fresh ∧ n.pc = c.pc + BitVec.ofInt 64 (4 * j.toInt) ∧ n.dix = BitVec.ofNat 48 (c.dix.toNat + 2 ^ 32) ∧
      n.regs.s = c.w.regs.s ∧ n.regs.p = c.w.regs.p ∧ n.regs.c = c.w.regs.c ∧ n.regs.mode = c.w.regs.mode ∧
      srcPc (waveAt t c.k) c.src = c.pc + 4 ∧ (waveAt t c.k).regs = c.w.regs ∧ t.mem = s.mem) ∧
    (BySlot s → (seqOf c.w q).running = false → exec (.rdvz sw p) s = .next (jumped s (c.pc + 4))) ∧
    (BySlot s → (seqOf c.w q).running = true → exec (.rdvz sw p) s = .next (waitWith s c .poll)) ∧
    (BySlot s → exec (.ende sw) s = .next (trapped s { cause := 0x0A })) ∧
    (isSeq c.src = true →
      exec (.ende sw) s = .next (setWave s c.k (putSeq c.w c.src {})))

-- Atomics, deques and barriers, and the performing of accesses.

/-- R257 to R264: the atomics at issue. Where ETYPE is one that the instruction takes and every active lane passes its
checks, one counted access is left outstanding: on path LD (or SCR) for those that return the old value, on path ST for
AXADD; with X.Q it is an acquire and a release. -/
def Obligations.AtomicsIssue : Prop :=
  ∀ (s : State) (sw qb : Bool) (t : BitVec 7) (cr : BitVec 5) (o : BitVec 7) (e : BitVec 3) (n : Nat),
    let c := ctx s
    let cap := getC c.rd cr.toNat
    let q : AccReq := { cap := cap, n := n, rights := [pLD, pST], align := n, need := .write, atom := true }
    let ls := (active c).map fun l => ({ lane := l, x := (capAddr cap : Int) + (getV c.rd o.toNat l).toInt } : LaneReq)
    let val := fun (r : Nat) (l : Nat) => if n = 8 then getPair c.rd r l else (getV c.rd r l).toNat % 2 ^ (8 * n)
    let path := if capHas cap pSCRATCH = true then 2 else 0
    let goes := fun (i : Instr) (op : AtomOp) => Issues s i q ls
      { acc s path (.atomic op (ety s) n t.toNat ((places s q ls).map fun p => (p.1, p.2, val t.toNat p.1))) with
        acq := qb, rel := qb }
    BySlot s →
    (elemSize (ety s) = some n → oddPair (ety s) t = false →
      (tAdd (ety s) = true → goes (.aadd sw t cr o e qb) .add) ∧
      (tMinMax (ety s) = true → goes (.amin sw t cr o e qb) .min ∧ goes (.amax sw t cr o e qb) .max) ∧
      (tBits (ety s) = true → goes (.aand sw t cr o e qb) .and ∧ goes (.aor sw t cr o e qb) .or ∧
        goes (.axor sw t cr o e qb) .xor) ∧
      goes (.axchg sw t cr o e qb) .xchg ∧
      (t.toNat % (if n = 8 then 4 else 2) = 0 → Issues s (.acas sw t cr o e qb) q ls
        { acc s path (.cas n t.toNat ((places s q ls).map fun p => (p.1, p.2, val t.toNat p.1,
            val (if n = 8 then t.toNat + 2 else t.toNat + 1) p.1))) with acq := qb, rel := qb })) ∧
    (n = 4 → tKey (ety s) = true → Issues s (.amxix sw t cr o e qb) q ls
      { acc s path (.atomic .maxKey 1 4 t.toNat ((places s q ls).map fun p => (p.1, p.2, (getV c.rd t.toNat p.1).toNat))) with
        acq := qb, rel := qb }) ∧
    (n = 64 → tCell (ety s) = true →
      (let q : AccReq := { cap := cap, n := 64, rights := [pST], align := 64, need := .write, atom := true, scr := some false }
       Issues s (.axadd sw t cr o e qb) q ls
        { acc s 1 (.axadd (ety s) ((places s q ls).map fun p => (p.1, p.2, (getV c.rd t.toNat p.1).toNat))) with
          acq := qb, rel := qb }) ∧
      (let q : AccReq := { cap := cap, n := 64, rights := [pLD], align := 64, need := .read, scr := some false }
       Issues s (.axrd sw t cr o e qb) q ls
        { acc s 0 (.axrd (ety s) t.toNat c.rd.mode c.rd.seed c.dix (places s q ls)) with acq := qb, rel := qb }))

/-- R266, R267: the deque operations at issue: a push on path ST, a pop and a steal on path LD, checked on the header of 64
bytes; a push of a value with bit 63 set traps with 0x0A.
R266, R267: a pop undoes the push before it, at the same entry; a steal takes the oldest entry; a push finds a deque
full exactly when its occupancy is its capacity.
That an operation is checked at issue on its header alone, and its entry when it performs, is the model's reading (log 30). -/
def Obligations.Deques : Prop :=
  (∀ (s : State) (sw qb : Bool) (t : BitVec 7) (cr : BitVec 5) (o : BitVec 7) (e : BitVec 3) (l : Loc),
    let c := ctx s
    let cap := getC c.rd cr.toNat
    let v := getS c.rd t.toNat
    let x : Int := (capAddr cap : Int) + (getS c.rd o.toNat).toInt
    let q : AccReq := { cap := cap, n := 64, rights := [pLD, pST], align := 64, need := .write, atom := true,
                        scalar := true, scr := some false }
    let ls := [({ lane := 0, x := x } : LaneReq)]
    let rec_ := fun (path : Nat) (op : DequeOp) => ({ acc s path (.deque op t.toNat x.toNat l v cap) with
      acq := qb, rel := qb, mask := some c.mask } : Access)
    BySlot s →
      (v.getLsbD 63 = true → exec (.dqpsh sw t cr o e qb) s = .next (trapped s { cause := 0x0A })) ∧
      (places s q ls = [(0, l)] →
        (v.getLsbD 63 = false → Issues s (.dqpsh sw t cr o e qb) q ls (rec_ 1 .push)) ∧
        Issues s (.dqpop sw t cr o e qb) q ls (rec_ 0 .pop) ∧
        Issues s (.dqstl sw t cr o e qb) q ls (rec_ 0 .steal))) ∧
  (∀ (h : DequeHdr), h.top < 2 ^ 64 → h.bottom < 2 ^ 64 → 0 < h.cap → h.cap ≤ 2 ^ 20 → dequeUsed h ≤ h.cap →
    (dequeStep .push h = none ↔ dequeUsed h = h.cap) ∧
    (∀ e h', dequeStep .push h = some (e, h') →
      e = h.bottom % h.cap ∧ dequeUsed h' = dequeUsed h + 1 ∧ dequeStep .pop h' = some (e, h)) ∧
    (∀ e h', dequeStep .steal h = some (e, h') →
      e = h.top % h.cap ∧ dequeUsed h' + 1 = dequeUsed h ∧ h'.bottom = h.bottom))

/-- R268, R269: BARI, BARA and BARX issue where their checks pass, one access on the SCR path; BARA and BARX are releases. A BARI
with BIND makes the word the wave's delivery binding (R270), one without leaves the binding. BARW goes on when the phase of the
word in the scratch window differs from the phase in s[T], where no earlier access of the wave to it is outstanding; it
waits while it is the same. A word that is uncorrectable raises 0x15 (R316).
That a BARW goes on once its wait has been woken is the model's form of the wait (log 55).
R268, R269: an arrival adds to ARR and completes the phase exactly when ARR reaches TGT with no bytes expected: PHASE
flips and ARR is 0. More than 1,023, or an ARR above TGT, is cause 0x18. -/
def Obligations.Barriers : Prop :=
  (∀ (s : State) (sw : Bool) (t : BitVec 7) (cr : BitVec 5) (o : BitVec 7) (off : Nat),
    let c := ctx s
    let cap := getC c.rd cr.toNat
    let x : Int := (capAddr cap : Int) + (getS c.rd o.toNat).toInt
    let q : AccReq := { cap := cap, n := 8, rights := [pLD, pST], align := 8, need := .write, scalar := true, scr := some true }
    let ls := [({ lane := 0, x := x } : LaneReq)]
    let rec_ := fun (op : BarOp) => ({ acc s 2 (.bar op t.toNat off (getS c.rd t.toNat)) with mask := some c.mask } : Access)
    let phase := (BitVec.ofNat 64 (leNat (tbytes (unitOf s c.k).scr off 8))).getLsbD 20
    BySlot s → places s q ls = [(0, .scr off)] →
      (AccessOk s 2 q ls →
        (∃ u, exec (.bari sw t cr o) s = .next u ∧ Issued s u (rec_ .init) ∧
          (waveAt u c.k).delivery = if (getS c.rd t.toNat).getLsbD 16 then some x.toNat else c.w.delivery) ∧
        (∃ u, exec (.bara sw t cr o) s = .next u ∧ Issued s u { rec_ .arrive with rel := true }) ∧
        (∃ u, exec (.barx sw t cr o) s = .next u ∧ Issued s u { rec_ .expect with rel := true })) ∧
      (AccessOk s 2 q ls → heldBack s c.k (c.w.accs.filter fun a => decide (a.no < s.fresh)) [(true, off, 8)] = false →
        c.hold ≠ .barSeen → scrPoisoned s c.k off 8 = true →
        exec (.barw sw t cr o) s = .next (trapped s { cause := 0x15, addr := BitVec.ofNat 64 off })) ∧
      (AccessOk s 2 q ls → heldBack s c.k (c.w.accs.filter fun a => decide (a.no < s.fresh)) [(true, off, 8)] = false →
        c.hold ≠ .barSeen → scrPoisoned s c.k off 8 = false →
        (phase ≠ (getS c.rd t.toNat).getLsbD 20 → exec (.barw sw t cr o) s = .next (setWave s c.k (advance c sw c.w))) ∧
        (phase = (getS c.rd t.toNat).getLsbD 20 → exec (.barw sw t cr o) s =
          .next (waitWith s c (.bar off ((getS c.rd t.toNat).getLsbD 20) s.fresh)))) ∧
      (c.hold = .barSeen → exec (.barw sw t cr o) s = .next (setWave s c.k (advance c sw c.w)))) ∧
  (∀ (b : BarWord) (n : Nat), b.arr < 1024 → b.tgt < 1024 → -(2 ^ 31) ≤ b.bytes → b.bytes < 2 ^ 31 → n < 2 ^ 64 →
    (barStep .arrive (barWord b) (BitVec.ofNat 64 n) = none ↔ 1023 < n ∨ b.tgt < b.arr + n) ∧
    (n ≤ 1023 → b.arr + n ≤ b.tgt → ∃ v, barStep .arrive (barWord b) (BitVec.ofNat 64 n) = some v ∧
      barOf v = if b.arr + n = b.tgt ∧ b.bytes = 0 then { b with phase := !b.phase, arr := 0 }
                else { b with arr := b.arr + n }))

/-- R258, R260: the lanes of an AADD that name one location add all their operands to it, mod 2^width, whatever the order;
the lowest lane lands the value that was there.
That the lanes of one location perform together is the model's form (log 6). -/
def Obligations.AtomicAddCombines : Prop :=
  ∀ (s : State) (k ty n t : Nat) (l : Loc) (lane v : Nat) (g : List (Nat × Nat)),
    widthOf ty = 8 * n → (n = 4 ∨ n = 8) →
      let old := leNat (readLoc s k l n)
      let r := rmwGroup k .add ty n t s l ((lane, v) :: g)
      r.1 = writeLoc s k l (natLe n ((old + v + (g.map (·.2)).sum) % 2 ^ (8 * n))) ∧
      ∃ rest, r.2 = landV t n lane old ++ rest

/-- R2, R174, R202, R211, R212: outstanding accesses that perform. A wave-uniform load writes into s[T] the 8 bytes at its
address, least significant first, and changes no memory. A store of one lane writes its bytes at its address and no other
byte of memory, clears the tags of the granules that it touches, and changes no register, where no wing keeps a dirty
log.
An access performs in a move of its own (log 6); no other outstanding access races with it (log 54). -/
def Obligations.AccessesPerform : Prop :=
  ∀ (s : State) (k i t lane va pa ipa : Nat) (bs : List Byte) (a : Access),
    (waveAt s k).accs[i]? = some a → accReady s k i a = true → a.stale = false → a.fl = 0 → NoRace s a →
    (a.kind = .loadS t (.mem va pa ipa) → locAns s k a false false (.mem va pa ipa) 8 = .ok →
      waveEnded (waveAt s k) = false → laterLanded (waveAt s k) i a.path (cellS t) = false →
      ∃ s', perform s k i 0 = some s' ∧
        (waveAt s' k).regs.s = tset 0 (waveAt s k).regs.s t (BitVec.ofNat 64 (leNat (readMem s pa 8))) ∧
        (waveAt s' k).regs.p = (waveAt s k).regs.p ∧ (waveAt s' k).regs.c = (waveAt s k).regs.c ∧
        s'.mem = s.mem ∧ s'.tags = s.tags) ∧
    (a.kind = .store [(lane, .mem va pa ipa, bs)] → Memory.wf s.mem = true → (∀ e ∈ s.wings, e.2.log = none) →
      locAns s k a true false (.mem va pa ipa) bs.length = .ok →
      ∃ s', perform s k i 0 = some s' ∧
        (∀ x, readByte s' x = if pa ≤ x ∧ x < pa + bs.length then bs.getD (x - pa) 0 else readByte s x) ∧
        s'.tags = (granulesOf pa bs.length).foldl (fun t g => tdel t g) s.tags ∧
        (waveAt s' k).regs = (waveAt s k).regs ∧ s'.owners = s.owners)

-- The matrix unit.

/-- R274, R275, R294: claims. MCLM takes the slots of s[REG] where none is another wave's; its tile form never waits and
writes into p[ACC] whether it took them; MRLS gives the wave's slots back and grants what waits, once the matrix unit is free of
loads into them and of instructions that are part-way (R280, R281; that a part-way instruction shows is log 28). -/
def Obligations.SlotClaims : Prop :=
  ∀ (s : State) (sw : Bool) (n : BitVec 3) (r : BitVec 7),
    let c := ctx s
    let m := matOf s c.k
    let v : BitVec 16 := BitVec.ofNat 16 (getS c.rd r.toNat).toNat
    let free := ∀ o, v.getLsbD o = true → o < 16 → ∀ k, tlook m.claims o = some k → k = c.k
    let taken : Matrix := { m with claims := (maskSlots v).foldl (fun t o => tput t o c.k) m.claims }
    let past := fun (m' : Matrix) (g : RegFile → RegFile) =>
      (Host.Outcome.next (finishRegs (setMat s c.k m') c sw g) : Out)
    SlotOr s .seqMatrix →
      (free → m.waiting = [] → exec (.mclm sw r) s = .next (finish (setMat s c.k taken) c sw)) ∧
      (free → exec (.mclmT sw n r) s = past taken (fun g => writeP c g n.toNat 0xFFFFFFFF)) ∧
      (¬ free → exec (.mclmT sw n r) s = past m (fun g => writeP c g n.toNat 0)) ∧
      (matBusy s c { slots := maskSlots v } = false →
        exec (.mrls sw r) s = .next (finish (setMat s c.k (releaseSlots m c.k v)) c sw)) ∧
      (matBusy s c { slots := maskSlots v } = true → exec (.mrls sw r) s = .next (waitWith s c .poll))

/-- R280, R282, R297 to R299: the moves of tiles where acccheck passes and the unit is free: the unit's context becomes
the accumulator owner; MZERO clears the guarded rows and sets the live bit, its other forms clear a live bit or reset the
Tail; MRDA and MWRA move eight words of each row; MSCL multiplies each row by v[REG] of its lane.
R282: acccheck. An accumulator instruction of a unit that is not the accumulator owner, while some tile is live or a
Tail program stands, traps with 0x0D, the unit's context in TRAPADDR, and changes nothing else. -/
def Obligations.TileMoves : Prop :=
  (∀ (s : State) (sw : Bool) (n : BitVec 3) (r : BitVec 7) (q : BitVec 2),
    let c := ctx s
    let m : Matrix := { matOf s c.k with accown := (unitOf s c.k).ctxid }
    let s' := setMat s c.k m
    let rows := rowsOf c
    let done := fun (x : Matrix) => (Host.Outcome.next (finish (setMat s' c.k x) c sw) : Out)
    let lit := fun (x : Matrix) => if rows = [] then m else { x with live := x.live ||| (1#8 <<< n.toNat) }
    accOk (matOf s c.k) (unitOf s c.k).ctxid = true →
    (SlotOr s .seqMatrix → matBusy s c { tiles := [n.toNat] } = false →
      exec (.mzero sw n) s = done (lit (tileMap m n.toNat rows fun _ _ _ => 0)) ∧
      exec (.mzeroF sw n) s = done { m with live := m.live &&& ~~~(1#8 <<< n.toNat) }) ∧
    (SlotOr s .seqMatrix → matBusy s c { tail := true } = false →
      exec (.mzeroT sw) s = done { m with tp := false, tail := [] }) ∧
    (BySlot s → matBusy s c { tiles := [n.toNat] } = false →
      exec (.mrda sw n r q) s = .next (finishRegs s' c sw fun g => rows.foldl (fun g i =>
        (List.range 8).foldl (fun g x => setV g (r.toNat + x) i (BitVec.ofNat 32 (tileGet m n.toNat i (8 * q.toNat + x)))) g) g) ∧
      exec (.mwra sw n r q) s = done (lit (rows.foldl (fun m i => (List.range 8).foldl (fun m x =>
        tileSet m n.toNat i (8 * q.toNat + x) (getV c.rd (r.toNat + x) i).toNat) m) m)) ∧
      exec (.mscl sw n r) s = done (lit (tileMap m n.toNat rows fun i _ x =>
        accres 0 [(mulVal (valueOf 8 x) (valueOf 8 (getV c.rd r.toNat i).toNat)).1])))) ∧
  (∀ (s : State) (sw : Bool) (n : BitVec 3) (r : BitVec 7) (q : BitVec 2),
    let c := ctx s
    let m := matOf s c.k
    let x := (unitOf s c.k).ctxid
    m.accown ≠ x → m.accown ≠ 0 → (m.live ≠ 0 ∨ m.tp = true) → BySlot s →
      exec (.mzero sw n) s = .next (trapped s { cause := 0x0D, addr := BitVec.ofNat 64 x.toNat, lanes := some (guardOf c) }) ∧
      exec (.mzeroF sw n) s = .next (trapped s { cause := 0x0D, addr := BitVec.ofNat 64 x.toNat }) ∧
      exec (.mzeroT sw) s = .next (trapped s { cause := 0x0D, addr := BitVec.ofNat 64 x.toNat }) ∧
      exec (.mrda sw n r q) s = .next (trapped s { cause := 0x0D, addr := BitVec.ofNat 64 x.toNat, lanes := some (guardOf c) }) ∧
      exec (.mwra sw n r q) s = .next (trapped s { cause := 0x0D, addr := BitVec.ofNat 64 x.toNat, lanes := some (guardOf c) }) ∧
      exec (.mscl sw n r) s = .next (trapped s { cause := 0x0D, addr := BitVec.ofNat 64 x.toNat, lanes := some (guardOf c) }))

/-- R275, R277, R296: MMA where the type pair is legal, its slots are claimed and the unit is free. It applies the K-step
that PIX.DONE names to the guarded rows; after the last step, or with no row or no step left, the source goes on, and
before it PIX.DONE counts the step.
R276 to R279: the K-step gives an element (i, j) of a guarded row, read from the words of the slots, the old word plus the sum of
its integer products, mod 2^32, or `accres` of the old word and its exact products: of A's and B's elements; under A8 of the two
affine blocks, with the row sum that R278 gives; under X2 of A's elements and the codebook's weights. Every other row and tile is as
before.
One K-step at an issue is the model's choice (log 28). -/
def Obligations.MatrixMultiply : Prop :=
  ∀ (s : State) (sw : Bool) (n : BitVec 3) (a b : BitVec 4) (k : BitVec 3) (g : BitVec 2) (kk : Nat) (fl : Bool),
    let c := ctx s
    let st := sty s
    let cnt := k.toNat + 1
    let d := c.pix.toNat % 2 ^ 16
    let slots := mmaSlots st a.toNat b.toNat g.toNat cnt
    let s' := setMat s c.k { matOf s c.k with accown := (unitOf s c.k).ctxid }
    let u : MatUse := { slots := slots, tiles := [n.toNat] }
    let bs := mmaB st b.toNat g.toNat d
    let stepped := mmaStep (matOf s' c.k) n.toNat (ety s) st kk fl (a.toNat + d) bs.1 bs.2 (rowsOf c)
    SlotOr s .seqMatrix → mmaPair (ety s) st = some (kk, fl) → (g = 0 ∨ st = 0x15) → (st ≠ 0x15 ∨ mcabPending c.w = false) →
    accOk (matOf s c.k) (unitOf s c.k).ctxid = true → (∀ o ∈ slots, o ≤ 15 ∧ claimedBy (matOf s c.k) c.k o = true) →
    matBusy s c u = false →
      ((rowsOf c = [] ∨ cnt ≤ d) → exec (.mma sw n a b k g) s = .next (finish s' c sw)) ∧
      (rowsOf c ≠ [] → d + 1 = cnt → exec (.mma sw n a b k g) s = .next (finish (setMat s' c.k stepped) c sw)) ∧
      (rowsOf c ≠ [] → d + 1 < cnt → ∃ t, exec (.mma sw n a b k g) s = .next t ∧ matOf t c.k = stepped ∧
        srcPc (waveAt t c.k) c.src = c.pc ∧ srcPix (waveAt t c.k) c.src = BitVec.ofNat 64 (d + 1)) ∧
      (∀ x i j, x < 8 → i < 32 → j < 32 →
        let m := matOf s c.k
        let old := tileGet m x i j
        let el := fun (slot z byte : Nat) => leNat (tbytes m.slots (slot * 2176 + byte) z)
        let side := fun (byte : Nat) => (tget 0 m.slots (bs.1 * 2176 + 2048 + byte)).toNat
        let za := widthOf (ety s) / 8
        let zb := widthOf st / 8
        let ea := fun (k : Nat) => el (a.toNat + d) za (za * (kk * i + k))
        let eb := fun (k : Nat) => el bs.1 zb (zb * (kk * j + k))
        let sum := fun (f : Nat → Int) (n : Nat) => ((List.range n).map f).sum
        let gets := fun (ps : List Val) => tileGet stepped x i j = (BitVec.ofNat 32 (accres old ps)).toNat
        ((x ≠ n.toNat ∨ i ∉ rowsOf c) → tileGet stepped x i j = old) ∧
        (x = n.toNat → i ∈ rowsOf c →
          (fl = false → tileGet stepped x i j =
            wrap 32 (old + sum (fun k => intOf (ety s) (ea k) * intOf st (eb k)) kk)) ∧
          (fl = true → st ≠ 0x14 → st ≠ 0x15 →
            gets ((List.range kk).map fun k => (mulVal (valueOf (ety s) (ea k)) (valueOf st (eb k))).1)) ∧
          (st = 0x14 → gets ((List.range 2).map fun blk =>
            let p := side (64 * blk + 2 * j) + 256 * side (64 * blk + 2 * j + 1)
            let aq := sum (fun k => intOf (ety s) (ea (32 * blk + k)) * sext 8 (el bs.1 1 (kk * j + 32 * blk + k))) 32
            let r := sum (fun k => intOf (ety s) (ea (32 * blk + k))) 32
            match k8Val (p % 256) with
            | .fin _ sm se => ofScaled ((aq - pairZp p * r) * sm) se false
            | v => v)) ∧
          (st = 0x15 → gets ((List.range 64).map fun k => (mulVal (valueOf (ety s) (ea k))
            (nth .nan (codeWeights m.cabinet (el bs.1 2 (512 * bs.2 + 16 * j + 2 * (k / 8))) (side (32 * bs.2 + j))) (k % 8))).1))))

/-- R213, R281, R293, R295, R301 to R303: the loads and stores of matrix storage at issue, no acquire holding them. Where its
capability passes, its pages translate without the host and the unit is free, each leaves one access outstanding, with the
translations of its pages (R252): MLDO of a claimed slot with the lines of its image as they translate, TLDP, MCAB and ACCRS on path LD (SCR through scratch), ACCSV on path ST with the tile's rows as they stand,
its live bit cleared. TLDP makes the unit's context the accumulator owner.
That their errors name no lanes is the model's reading (log 26). -/
def Obligations.MatrixTransfers : Prop :=
  ∀ (s : State) (sw b : Bool) (t : BitVec 7) (cr : BitVec 5) (o : BitVec 7) (i : BitVec 4),
    let c := ctx s
    let cap := getC c.rd cr.toNat
    let base : Int := (capAddr cap : Int) + (getS c.rd o.toNat).toInt
    let path := fun (p : Nat) => if capHas cap pSCRATCH = true then 2 else p
    let fits := fun (x : Int) (n right al : Nat) =>
      capCause cap x n [right] (worldOf s c.k) (scrWin s c.k) = none ∧ x % (al : Int) = 0
    let room := fun (p : Nat) => countOf c.w p < Config.counterMax
    let goes := fun (j : Instr) (p : Nat) (k : AccKind) (ts : Table PageTr) =>
      ∃ u, exec j s = .next u ∧ Issued s u { acc s p k with mask := some 0, trs := ts }
    let lines := fun (n : Nat) => (List.range (n / 128)).map fun j => ({ lane := 32 + j, x := base + (128 * j : Nat) } : LaneReq)
    let q : AccReq := { cap := cap, n := 128, rights := [pLD], align := 128, need := .read, scalar := true }
    let trs := fun (x : Int) (n : Nat) (rw : Need) (s' : State) (ts : Table PageTr) =>
      bulkTrs s c x.toNat rw (bulkPages cap x.toNat n) = (s', .ok ts)
    let ld := fun (n : Nat) => AccKind.loadSlot t.toNat base.toNat ((places s q (lines n)).map fun e => (e.1 - 32, e.2))
    SlotOr s .seqMatrix → acqHeld c = false →
    (claimedBy (matOf s c.k) c.k t.toNat = true → matBusy s c { slots := [t.toNat] } = false →
      (fits base (if b then 2176 else 2048) pLD 128 → AccessOk s (path 0) q (lines (if b then 2176 else 2048)) →
        goes (.mldo sw t cr o b) (path 0) (ld (if b then 2176 else 2048)) [])) ∧
    (∀ s' ts, accOk (matOf s c.k) (unitOf s c.k).ctxid = true → matBusy s c { tail := true } = false →
      fits (base + (4 * i.toNat : Nat)) (4 * t.toNat) pLD 4 → room (path 0) →
      trs (base + (4 * i.toNat : Nat)) (4 * t.toNat) .read s' ts →
      ∃ u, exec (.tldp sw t cr o i) s = .next u ∧ (matOf u c.k).accown = (unitOf s c.k).ctxid ∧
        Issued s u { acc s (path 0) (.loadTail t.toNat cap (base + (4 * i.toNat : Nat)).toNat) with mask := some 0, trs := ts }) ∧
    (∀ s' ts, matBusy s c {} = false → fits (base + (2048 * i.toNat : Nat)) 2048 pLD 128 → room (path 0) →
      trs (base + (2048 * i.toNat : Nat)) 2048 .read s' ts →
      goes (.mcab sw cr o i) (path 0) (.loadCabinet cap (base + (2048 * i.toNat : Nat)).toNat) ts) ∧
    (∀ s' ts, matBusy s c { tiles := [t.toNat] } = false → fits (base + (4096 * i.toNat : Nat)) 4096 pLD 128 →
      room (path 0) → trs (base + (4096 * i.toNat : Nat)) 4096 .read s' ts →
      goes (.accrs sw t cr o i) (path 0) (.loadTile t.toNat cap (base + (4096 * i.toNat : Nat)).toNat) ts) ∧
    (∀ s' ts, matBusy s c { tiles := [t.toNat] } = false → fits (base + (4096 * i.toNat : Nat)) 4096 pST 128 →
      room (path 1) → trs (base + (4096 * i.toNat : Nat)) 4096 .write s' ts →
      ∃ u, exec (.accsv sw t cr o i) s = .next u ∧
        matOf u c.k = { matOf s c.k with live := (matOf s c.k).live &&& ~~~(1#8 <<< t.toNat) } ∧
        Issued s u { acc s (path 1) (.drain cap ((List.range 32).map fun r =>
          (r, 0#64, (base + (4096 * i.toNat : Nat)).toNat + 128 * r, tileRow (matOf s c.k) t.toNat r))) with
          mask := some 0, trs := ts })

/-- R213, R300, R304: MDRN drains one guarded row at each issue, in order, PIX.DONE and the overflow count in PIX; with the last
row, or where there is none, the overflow word follows and the source goes on. A new drain has translated its pages (R252). The
bytes of the row, as the Tail gives them, join the drain's one access on path ST (SCR through scratch). A drained row is zeroed where Z is set, and the live bit is
cleared at the end where F is set. With more rows done than there are, the source only goes on. MSTAT reads the live bits, the
Tail and owner bits and the claims. Both where the unit is free.
One row at an issue is the model's choice (log 28). -/
def Obligations.DrainAndStatus : Prop :=
  ∀ (s : State) (sw z f : Bool) (n : BitVec 3) (a : BitVec 4) (r d : BitVec 7),
    let c := ctx s
    let m := matOf s c.k
    let owned : Matrix := { m with accown := (unitOf s c.k).ctxid }
    let cap := getC c.rd r.toNat
    let x := capAddr cap
    let path := if capHas cap pSCRATCH = true then 2 else 1
    let wd := tailWidth (tailProgram m)
    let side := tailUsesSide (tailProgram m)
    let set := fun (p : Nat × Nat → Bool) => (m.claims.filter p).foldl (fun n e => n + 2 ^ e.1) 0
    let rows := rowsOf c
    let dn := c.pix.toNat % 2 ^ 16
    let ovf := c.pix.toNat / 2 ^ 16 % 2 ^ 16
    let last := decide (rows.length ≤ dn + 1)
    let drained := match rows[dn]? with
      | some i => drainRow c m n.toNat wd x (tbytes m.slots (a.toNat * 2176) 2048) i ovf
      | none => ([], ovf)
    let runs := drained.1.map (fun e => ((rows[dn]?).getD 0, c.pix, e.1, e.2)) ++
      (if last then [(32, BitVec.ofNat 64 (drained.2 * 2 ^ 16 + rows.length), x + 1024 * wd, natLe 4 drained.2)] else [])
    let zeroed := match rows[dn]? with
      | some i => if z then tileMap owned n.toNat [i] (fun _ _ _ => 0) else owned
      | none => owned
    SlotOr s .seqMatrix →
    (accOk m (unitOf s c.k).ctxid = true → (side = true → claimedBy m c.k a.toNat = true) →
      capCause cap x (1024 * wd + 4) [pST] (worldOf s c.k) (scrWin s c.k) = none → x % 4 = 0 →
      matBusy s c { tail := true, tiles := [n.toNat], slots := if side then [a.toNat] else [] } = false →
      matBusy s c { tail := true } = false →
      (acqHeld c = false → rows.length < dn → exec (.mdrn sw n a r z f) s = .next (finish (setMat s c.k owned) c sw)) ∧
      (acqHeld c = false → dn ≤ rows.length → drainFailed c.w c = false → growingOf c.w c = none →
        countOf c.w path < Config.counterMax → ∀ s' ts,
        bulkTrs s c x .write (bulkPages cap x (1024 * wd + 4)) = (s', .ok ts) → ∃ t, exec (.mdrn sw n a r z f) s = .next t ∧
        (∃ no pages, (waveAt t c.k).accs = c.w.accs ++
          [{ acc s path (.drain cap runs) with grows := !last, mask := some 0, no := no, pages := pages, trs := ts }]) ∧
        countOf (waveAt t c.k) path = countOf c.w path + 1 ∧
        matOf t c.k = (if last && f then { zeroed with live := zeroed.live &&& ~~~(1#8 <<< n.toNat) } else zeroed) ∧
        (last = true → srcPc (waveAt t c.k) c.src = c.pc + 4) ∧
        (last = false → srcPc (waveAt t c.k) c.src = c.pc ∧
          srcPix (waveAt t c.k) c.src = BitVec.ofNat 64 (drained.2 * 2 ^ 16 + dn + 1))) ∧
      (∀ j q k rs, dn ≤ rows.length → drainFailed c.w c = false → growingOf c.w c = some j → c.w.accs[j]? = some q →
        q.kind = .drain k rs → ∃ t, exec (.mdrn sw n a r z f) s = .next t ∧
        (waveAt t c.k).accs[j]? = some { q with kind := .drain k (rs ++ runs), grows := !last, performed := false } ∧
        (waveAt t c.k).counts = c.w.counts ∧
        matOf t c.k = (if last && f then { zeroed with live := zeroed.live &&& ~~~(1#8 <<< n.toNat) } else zeroed) ∧
        (last = true → srcPc (waveAt t c.k) c.src = c.pc + 4) ∧
        (last = false → srcPc (waveAt t c.k) c.src = c.pc ∧
          srcPix (waveAt t c.k) c.src = BitVec.ofNat 64 (drained.2 * 2 ^ 16 + dn + 1)))) ∧
    ((∀ x ∈ c.w.accs, x.performed = true ∨ matrixLoad x.kind = false) → matBusy s c {} = false →
      exec (.mstat sw d) s = .next (finishRegs s c sw fun g => setS g d.toNat (BitVec.ofNat 64
        (set (fun _ => true) * 2 ^ 32 + set (fun e => e.2 == c.k) * 2 ^ 16 +
          (if m.accown = (unitOf s c.k).ctxid then 512 else 0) + (if m.tp then 256 else 0) + m.live.toNat))))

-- The Turnstile.

/-- R213, R344, R350, R351, R356 to R358: the share instructions that do not wait at the gate, in a wave that is no tether. SHTRC
truncates the shares of an S type by F bits (the party-0 share down, the negation of the party-1 share down); SHTRP reads the
wave's shares of its current record; SHSTA reads the channel or a pool; SHDSC moves a pool's head up to the id given, not
past its tail, on 40 bits; SHDEAL, where no acquire holds it, leaves a dealer block outstanding on path SHX. -/
def Obligations.ShareLocalInstructions : Prop :=
  ∀ (s : State) (sw : Bool) (d a b f k : BitVec 7) (cr : BitVec 5),
    let c := ctx s
    let t := ety s
    let n := widthOf t
    let z := n / 8
    let q := getC c.rd a.toNat
    let bd := bindAt s (bindNo q)
    let x := chanAt bd (chanOf s c.k)
    let v := (getS c.rd d.toNat).toNat
    let kind := v / 2 ^ 40 % 8
    let pool := poolAt bd (bindRole q) kind
    let left := fun (p : Pool) => (p.tail + 2 ^ 40 - p.head) % 2 ^ 40
    let up := (pool.head + min (v % 2 ^ 40 - pool.head) (left pool)) % 2 ^ 40
    let ok := fun fs => isShare t = true ∧ ∀ r ∈ fs, oddPair t r = false
    let past := fun (g : RegFile) => (Host.Outcome.next (retire s sw g) : Out)
    BySlot s → c.w.tether = false →
    (ok [d, a] → f.toNat < n → exec (.shtrc sw d a f) s = past ((active c).foldl (fun r l => laneSet r t d.toNat l
      (let u := laneGet c.rd t a.toNat l
       if (wingOf s c.k).party then (2 ^ n - (2 ^ n - u) % 2 ^ n / 2 ^ f.toNat) % 2 ^ n else u / 2 ^ f.toNat)) c.live)) ∧
    (bindCause s (wingNoOf s c.k) q false = none →
      (∀ r : CurRecord, ok [d] → c.w.current = some r → r.kind = t →
        exec (.shtrp sw d a b) s = past ((active c).foldl (fun g l => laneSet g t d.toNat l
          (recElem r.bytes (16 + 32 * z * b.toNat + z * l) z)) c.live)) ∧
      (k = 0 → exec (.shsta sw d a k) s = past (setS c.live d.toNat (BitVec.ofNat 64
        ((if c.w.pending.isSome then 2 ^ 48 else 0) + x.lastId % 2 ^ 40 * 256 + x.abort % 256)))) ∧
      (k ≠ 0 → exec (.shsta sw d a k) s = past (setS c.live d.toNat (BitVec.ofNat 64
        (let p := poolAt bd (bindRole q) (k.toNat - 1); left p * 2 ^ 40 + p.head % 2 ^ 40)))) ∧
      (kind < 6 → exec (.shdsc sw f d a) s =
        .next (finishRegs (setBind s (bindNo q) (setPool bd (bindRole q) kind { pool with head := up })) c sw
          fun r => setS r f.toNat (BitVec.ofNat 64 up)))) ∧
    (let m := getC c.rd cr.toNat
     let y := (capAddr m : Int) + (getS c.rd a.toNat).toInt
     m.tag = true → capHas m pLD = true → capHas m pLDC = true → capWorld m = worldOf s c.k → capOtype m = 0 →
      y % 128 = 0 → countOf c.w 5 < Config.counterMax → acqHeld c = false →
      ∃ u, exec (.shdeal sw d cr a) s = .next u ∧
        Issued s u { acc s 5 (.deal d.toNat (wrap 64 y) m) with engine := true })

/-- R336, R348 to R350, R352 to R355: the exchanges at issue, outside a divergence, in a wave that is no tether, with a
binding capability that passes R335: the operation reaches the gate of the wave's channel with the shares of all 32 lanes as
they stand and the progress that its PIX gives, and the slot waits there, with one more access on path SHX; an SHCMP of seven
rounds done and an SHMMA whose tile is updated go on, and an SHMMA whose opened values the wave holds updates its tile. SHOPN with role 0 opens the pending open and goes on, with role 1 it brings the second operand to the gate and goes on;
SHRCV takes one of the two opened values.
That SHOPN with role 1 goes through the binding of role 0 is the model's reading (log 29). -/
def Obligations.ExchangesArrive : Prop :=
  ∀ (s : State) (sw : Bool) (d a b : BitVec 7) (n : BitVec 3) (sa sb : BitVec 4),
    let c := ctx s
    let t := ety s
    let k := getC c.rd b.toNat
    let lanes := fun (ty : Nat) (r : BitVec 7) => (List.range 32).map (laneGet c.rd ty r.toNat)
    let op := fun (kind : GateKind) (ty d : Nat) (x y : List Nat) =>
      ({ wave := c.k, src := c.src, kind := kind, ety := ty, d := d, x := x, y := y, grant := capHas k pREVEAL,
         pc := c.pc, sw := sw } : GateOp)
    let arrives := fun (s' : State) (mma : Bool) (o : GateOp) => (Host.Outcome.next
      (gateArrive (atGate s s' (acc s 5 (.gate mma))) (bindNo k) (chanOf s c.k) (bindRole k) o) : Out)
    let ok := fun fs => isShare t = true ∧ ∀ r ∈ fs, oddPair t r = false
    BySlot s → c.w.tether = false → (∀ e x, c.hold ≠ .gateTrap e x) → bindCause s (wingNoOf s c.k) k false = none →
    countOf c.w 5 < Config.counterMax →
    (c.w.divd = 0 →
      (ok [d, a] → exec (.shmul sw d a b) s = arrives s false (op .mul t d.toNat (lanes t a) (lanes t d))) ∧
      exec (.shbtr sw d a b) s = arrives s false (op .btr 1 d.toNat (lanes 1 a) (lanes 1 d)) ∧
      (t = 0x10 → c.pix.toNat % 256 < 7 →
        exec (.shcmp sw d a b) s = arrives s false { op .cmp t d.toNat (lanes 0x10 a) [] with
          start := min 14 (2 * (c.pix.toNat % 256) + if c.pix.toNat / 256 % 256 = 0 then 0 else 1) }) ∧
      (t = 0x10 → 7 ≤ c.pix.toNat % 256 → exec (.shcmp sw d a b) s = .next (finish s c sw)) ∧
      (ok [a] → exec (.shrvl sw a b) s = arrives s false (op (.reveal false) t 0 (lanes t a) [])) ∧
      (ok [d, a] → exec (.shrvlR sw d a b) s = arrives s false (op (.reveal true) t d.toNat (lanes t a) [])) ∧
      (let m := matOf s c.k
       let el := fun (o : BitVec 4) => (List.range 512).map fun i => slotElem m o.toNat 4 (4 * i)
       let s1 := setMat s c.k { m with accown := (unitOf s c.k).ctxid }
       let dn := c.pix.toNat % 2 ^ 16
       t = 0x10 → sty s = 0x10 → accOk m (unitOf s c.k).ctxid = true →
        claimedBy m c.k sa.toNat = true → claimedBy m c.k sb.toNat = true →
        matBusy s c { slots := [sa.toNat, sb.toNat], tiles := [n.toNat] } = false →
        (dn = 0 → exec (.shmma sw n sa sb b) s = arrives s1 true (op (.mma n.toNat) 0x10 0 (el sa) (el sb))) ∧
        (∀ id vs, dn = 1 → c.w.shares = some ⟨true, id, vs⟩ → exec (.shmma sw n sa sb b) s =
          .next (finish (tick (setMat s1 c.k (mmaLand (matOf s1 c.k) n.toNat vs))) c sw)) ∧
        (2 ≤ dn → exec (.shmma sw n sa sb b) s = .next (finish s1 c sw))) ∧
      (ok [a] → c.w.pending = none → ∃ u, exec (.shopn sw a b false) s = .next u ∧
        Issued s u (acc s 5 (.gate false)) ∧
        (waveAt u c.k).pending = some { binding := bindNo k, kind := t, x := lanes t a, pc := c.pc }) ∧
      (∀ p : PendingOpen, ok [a] → c.w.pending = some p → p.stage = .waitY → p.kind = t →
        exec (.shopn sw a b true) s = .next (gateArrive
          (finish (setWave s c.k { c.w with pending := some { p with y := lanes t a, stage := .atGate } }) c sw)
          p.binding (chanOf s c.k) (bindRole k)
          { wave := c.k, src := c.src, kind := .open2, ety := t, d := 0, x := p.x, y := lanes t a, grant := false,
            pc := p.pc, sw := sw }))) ∧
    (∀ (p : PendingOpen) (dv ev : List Nat) (second : Bool), ok [d] → c.w.pending = some p → p.kind = t →
      p.stage = .opened dv ev → ∃ u, exec (.shrcv sw d b second) s = .next u ∧
        srcPc (waveAt u c.k) c.src = c.pc + 4 ∧
        (waveAt u c.k).regs = keepWindow c.w
          (landLanes t d.toNat (if second then ev else dv) c.w.regs (lanesOf c.w.live)) ∧
        ((if second then p.gotD else p.gotE) = true → (waveAt u c.k).pending = none ∧
          (waveAt u c.k).current = some { kind := t, bytes := p.recBytes }))

/-- R336, R338, R339, R343, R354: the k-th operations of the two parties pair. An operation that finds none of its peer waits
in its party's list, marked where the binding is suspended, which changes nothing else than its channel; one that finds the same reveal, with every receiver
granted, is paired with it. When the only paired exchange of a channel, a reveal, completes, both slots go past their
instruction, and each receiver's register holds the sums of the shares, mod 2^n.
R339, R343, R346, R350, R352, R353, R355: when the only paired exchange of a channel is of another kind and completes, a record
that it has not taken yet, at the HEAD of both pools, is spent in both. SHMUL writes each party's product shares, SHBTR its
AND shares and SHCMP its comparison shares into the lanes of LIVE; SHMMA adds each party's product shares to its tile and
sets LIVE[N], where no other source has a matrix instruction part-way and acccheck passes; these slots go past their
instruction. The opened values of a split open and the party's record become the wave's.
R338, R343, R344: with a triple whose c is the product of its a and b, the two parties' shares of a product add up to
the product of the values that their shares stand for, mod 2^n.
When an exchange takes its record is left free (log 29). -/
def Obligations.ExchangesComplete : Prop :=
  (∀ (s : State) (b ch p : Nat) (o q : GateOp) (ro rq : Bool),
    let bd := bindAt s b
    let x := chanAt bd ch
    let peer := if p = 0 then x.wait1 else x.wait0
    let own := if p = 0 then x.wait0 else x.wait1
    (p ≤ 1 → x.void0 = 0 → x.void1 = 0 → peer = [] → gateArrive s b ch p o = setChan s b ch
      (let o' := { o with late := bd.suspended }
       if p = 0 then { x with cnt0 := x.cnt0 + 1, wait0 := own ++ [o'] }
       else { x with cnt1 := x.cnt1 + 1, wait1 := own ++ [o'] })) ∧
    (bd.suspended = false → x.void0 = 0 → x.void1 = 0 → x.wait0 = [] → x.wait1 = [q] → o.dead = false → q.dead = false →
      o.kind = .reveal ro → q.kind = .reveal rq → o.ety = q.ety → (ro = true ∨ rq = true) → (ro = true → o.grant = true) →
      (rq = true → q.grant = true) → (chanAt (bindAt (gateArrive s b ch 0 o) b) ch).paired =
        x.paired ++ [{ op0 := { o with late := false }, op1 := q }]) ∧
    (x.paired = [{ op0 := o, op1 := q }] → o.kind = .reveal ro → q.kind = .reveal rq → o.ety = q.ety → o.wave ≠ q.wave →
      (∀ e ∈ [o, q], e.img = none ∧ (waveAt s e.wave).frame = none ∧ (waveAt s e.wave).tethSlot = none ∧ isSeq e.src = false ∧
        (slotOf (waveAt s e.wave) e.src).pc = e.pc ∧
        ∀ w, (alcAt s (alcOf e.wave)).wing = some w → (wingAt s w).run ≠ .swapped) →
      ∃ t, exec (.gateExchangeComplete b ch) s = .next t ∧ (chanAt (bindAt t b) ch).paired = [] ∧
        ∀ e ∈ [(o, ro), (q, rq)], srcPc (waveAt t e.1.wave) e.1.src = e.1.pc + 4 ∧
          (waveAt t e.1.wave).regs = if e.2 then landLanes o.ety e.1.d ((List.range 32).map fun l =>
              (nth 0 o.x l + nth 0 q.x l) % 2 ^ widthOf o.ety) (waveAt s e.1.wave).regs (lanesOf (waveAt s e.1.wave).live)
            else (waveAt s e.1.wave).regs)) ∧
  (∀ (s : State) (b ch kind id : Nat) (e : Exchange) (r0 r1 : List Byte),
    let bd := bindAt s b
    let o := e.op0
    let q := e.op1
    let p0 := poolAt bd 0 kind
    let p1 := poolAt bd 1 kind
    let el := fun (r : List Byte) (z k l : Nat) => recElem r (16 + 32 * z * k + z * l) z
    let dOf := fun (n l : Nat) => opened n (nth 0 o.x l) (el r0 (n / 8) 0 l) (nth 0 q.x l) (el r1 (n / 8) 0 l)
    let eOf := fun (n l : Nat) => opened n (nth 0 o.y l) (el r0 (n / 8) 1 l) (nth 0 q.y l) (el r1 (n / 8) 1 l)
    let eps := fun (l : Nat) => nth 0 o.x l ^^^ el r0 4 0 l ^^^ nth 0 q.x l ^^^ el r1 4 0 l
    let rho := fun (l : Nat) => nth 0 o.y l ^^^ el r0 4 1 l ^^^ nth 0 q.y l ^^^ el r1 4 1 l
    let cmp := fun (l : Nat) => cmpLane (nth 0 o.x l) (nth 0 q.x l) (kitOf r0 l) (kitOf r1 l)
    let dM := (List.range 512).map fun i =>
      opened 32 (nth 0 o.x i) (recElem r0 (128 + 4 * i) 4) (nth 0 q.x i) (recElem r1 (128 + 4 * i) 4)
    let eM := (List.range 512).map fun i =>
      opened 32 (nth 0 o.y i) (recElem r0 (2176 + 4 * i) 4) (nth 0 q.y i) (recElem r1 (2176 + 4 * i) 4)
    (chanAt bd ch).paired = [e] → gateSame o q = true → gateRec o = some kind → o.wave ≠ q.wave →
    (∀ p ∈ [o, q], p.img = none ∧ p.start = 0 ∧
      (p.kind ≠ .open2 → (waveAt s p.wave).frame = none ∧ (waveAt s p.wave).tethSlot = none ∧ isSeq p.src = false ∧
        (slotOf (waveAt s p.wave) p.src).pc = p.pc) ∧
      (∀ m, p.kind = .mma m → matMidway s (alcOf p.wave) p.wave p.src = false ∧
        accOk (matOf s p.wave) (unitOf s p.wave).ctxid = true ∧ alcOf o.wave ≠ alcOf q.wave) ∧
      ∀ w, (alcAt s (alcOf p.wave)).wing = some w → (wingAt s w).run ≠ .swapped) →
    (e.id = none ∧ p0.head = id ∧ p1.head = id ∧ poolOcc p0 ≠ 0 ∧ poolOcc p1 ≠ 0 ∧
      readRecord s (wingAt s bd.wing0) p0 kind id = some r0 ∧ readRecord s (wingAt s bd.wing1) p1 kind id = some r1 ∨
     e.id = some id ∧ e.rec0 = r0 ∧ e.rec1 = r1) →
    ∃ t, exec (.gateExchangeComplete b ch) s = .next t ∧ (chanAt (bindAt t b) ch).paired = [] ∧
      (e.id = none → (poolAt (bindAt t b) 0 kind).head = (id + 1) % 2 ^ 40 ∧
        (poolAt (bindAt t b) 1 kind).head = (id + 1) % 2 ^ 40 ∧ (chanAt (bindAt t b) ch).lastId = id) ∧
      ∀ h ∈ [(0, o, r0), (1, q, r1)],
        let p := h.2.1
        let w := waveAt s p.wave
        let n := widthOf p.ety
        let lands := fun (ety : Nat) (f : Nat → Nat) => srcPc (waveAt t p.wave) p.src = p.pc + 4 ∧
          (waveAt t p.wave).regs = landLanes ety p.d ((List.range 32).map f) w.regs (lanesOf w.live)
        match p.kind with
        | .open2 => ∀ pd : PendingOpen, w.pending = some pd → (waveAt t p.wave).pending =
            some { pd with stage := .opened ((List.range 32).map (dOf n)) ((List.range 32).map (eOf n)), recBytes := h.2.2 }
        | .mul => lands p.ety fun l => mulShare n h.1 (el h.2.2 (n / 8) 0 l) (el h.2.2 (n / 8) 1 l) (el h.2.2 (n / 8) 2 l)
            (dOf n l) (eOf n l)
        | .btr => lands 1 fun l => andShare h.1 (el h.2.2 4 0 l) (el h.2.2 4 1 l) (el h.2.2 4 2 l) (eps l) (rho l)
        | .cmp => lands 0x10 fun l => if h.1 = 0 then (cmp l).1 else (cmp l).2
        | .mma m => srcPc (waveAt t p.wave) p.src = p.pc + 4 ∧
            matOf t p.wave = mmaLand { matOf s p.wave with accown := (unitOf s p.wave).ctxid } m
              ((List.range 1024).map fun i => mmaShare h.1 (i / 32) (i % 32) h.2.2 dM eM)
        | .reveal _ => True) ∧
  (∀ (n x0 x1 y0 y1 a0 a1 b0 b1 c0 c1 : Nat),
    (c0 + c1) % 2 ^ n = (a0 + a1) * (b0 + b1) % 2 ^ n →
    x0 < 2 ^ n → x1 < 2 ^ n → y0 < 2 ^ n → y1 < 2 ^ n → a0 < 2 ^ n → a1 < 2 ^ n → b0 < 2 ^ n → b1 < 2 ^ n →
      let d := opened n x0 a0 x1 a1
      let e := opened n y0 b0 y1 b1
      (mulShare n 0 a0 b0 c0 d e + mulShare n 1 a1 b1 c1 d e) % 2 ^ n = (x0 + x1) * (y0 + y1) % 2 ^ n)

-- Recipes, caches, queues and levels.

/-- R213, R377 to R379: the recipe instructions and the cache instructions, where their capability passes; no acquire holds those
that access memory. RCPDEF of a valid block with nothing against it enters the record at the lowest free id, with its backing
copy, and writes that id; RCPDEF.b starts its build too, or sets FAIL where none can start; otherwise it writes the number of
a result that applies, and defines nothing. The others act on the record whose tile holds the address: pins up and down, a
drop, a removal, a query; where no tile holds it, they write result 5, and the query 0. CFLSH and CINV leave one access
outstanding on path ST.
Which of several results RCPDEF gives is left free (logs 5, 30); the layout of the device's bytes in a backing copy (log 32)
and the rights that CFLSH and CINV need (log 31) are the model's. -/
def Obligations.RecipeInstructions : Prop :=
  ∀ (s : State) (sw bl : Bool) (t a o : BitVec 7) (cr : BitVec 5) (segs : List (Loc × Nat)) (id : Nat),
    let c := ctx s
    let g := wingNoOf s c.k
    let m := getC c.rd cr.toNat
    let x : Int := (capAddr m : Int) + (getS c.rd o.toNat).toInt
    let n := (getS c.rd t.toNat).toNat
    let fits := fun (k : Cap) (x : Int) (n al : Nat) (rs : List Nat) =>
      capCause k x n rs (worldOf s c.k) (scrWin s c.k) = none ∧ capHas k pSCRATCH = false ∧ x % (al : Int) = 0
    let blk : RecipeBlock :=
      { bytes := readSegs s c.k segs, caps := (List.range 7).map fun i => segCap s c.k segs (16 * i) }
    let p := parseRecipe s g blk
    let new := tfree 0 (wingAt s g).recipes
    let q := getC c.rd a.toNat
    let r := recipeAt (wingAt s g) id
    let word := fun (res i : Nat) => BitVec.ofNat 64 (res * 2 ^ 56 + i % 65536)
    let out := fun (s' : State) (v : DWord) => (Host.Outcome.next (finishRegs s' c sw fun f => setS f t.toNat v) : Out)
    let idle := r.pins = 0 ∧ r.held = 0 ∧ r.st ≠ .building
    let backed := backState (backBlock (setRecipe s g new p.2) g new blk) g new
    BySlot s →
    (acqHeld c = false → fits m x 192 64 [pLD, pLDC] → segsVia s c.k (immAccess c) m x.toNat 192 .read = .ok segs →
      heldBack s c.k c.w.accs (segRanges segs) = false →
      (recipeFaults s g p.1 p.2 = [] →
        exec (.rcpdef sw t cr o false) s = out backed (word 0 new) ∧
        exec (.rcpdef sw t cr o true) s = out (startNeed backed g new) (word 0 new)) ∧
      (recipeFaults s g p.1 p.2 ≠ [] → ∃ e ∈ recipeFaults s g p.1 p.2,
        exec (.rcpdef sw t cr o bl) s = out (tick s) (word e 0))) ∧
    (fits q (capAddr q) 1 1 [pRECIPE] → findTile (wingAt s g) (capAddr q) = some id →
      (r.pins < 65535 → exec (.rcppin sw t a) s = out (setRecipe s g id { r with pins := r.pins + 1 }) (word 0 id)) ∧
      (0 < r.pins → exec (.rcpunp sw t a) s = out (setRecipe s g id { r with pins := r.pins - 1 }) (word 0 id)) ∧
      (r.pins = 0 → exec (.rcpunp sw t a) s = out s (word 6 id)) ∧
      (idle → r.st = .present → exec (.rcpdrp sw t a) s = out (tendBuilds (dropTile s g id) g) (word 0 id)) ∧
      (idle → r.st = .absent → exec (.rcpdrp sw t a) s = out s (word 0 id)) ∧
      (¬ idle → exec (.rcpdrp sw t a) s = out s (word 7 id)) ∧
      (idle → namedAsSource (wingAt s g) id = false → exec (.rcpdrpR sw t a) s =
        out (setWing (backBytes s g ((wingAt s g).catIpa + 256 * id) (List.replicate 256 0)) g
          { wingAt s g with recipes := tdel (wingAt s g).recipes id }) (word 0 id)) ∧
      (idle → namedAsSource (wingAt s g) id = true → exec (.rcpdrpR sw t a) s = out s (word 8 id)) ∧
      (¬ idle → exec (.rcpdrpR sw t a) s = out s (word 7 id)) ∧
      exec (.rcpqry sw t a) s = out s (BitVec.ofNat 64 (r.pins * 2 ^ 48 + id * 2 ^ 16 + (if r.dead then 16 else 0) +
        (if r.fail then 8 else 0) + (match r.st with | .absent => 1 | .building => 2 | .present => 3)))) ∧
    (fits q (capAddr q) 1 1 [pRECIPE] → findTile (wingAt s g) (capAddr q) = none →
      (∀ i ∈ [Instr.rcppin sw t a, .rcpunp sw t a, .rcpdrp sw t a, .rcpdrpR sw t a], exec i s = out s (word 5 0)) ∧
      exec (.rcpqry sw t a) s = out s 0) ∧
    (acqHeld c = false → countOf c.w 1 < Config.counterMax →
      (fits m x n 1 [pLD] → ∃ u, exec (.cflsh sw t cr o bl) s = .next u ∧
        Issued s u { acc s 1 (.flush bl x.toNat n) with mask := some c.mask }) ∧
      (hasSys c = true → fits m x n 128 [pST] → n % 128 = 0 → ∃ u, exec (.cinv sw t cr o) s = .next u ∧
        Issued s u { acc s 1 (.discard x.toNat n) with mask := some c.mask }))

/-- R213, R397 to R399: ENQ of a well-formed node record leaves one access outstanding on path ST, a release. ENQA waits
for the wave's earlier accesses, then takes an accepted launch into the task queue and writes its level's id, or tells the
launch's DONE and writes the code of the lowest check that fails; no acquire holds either; CANCL and COMPL act on a live level of the wing and of the kind named, and do nothing
for any other id.
That ENQ reads its record at issue is the model's reading (log 30). -/
def Obligations.QueueInstructions : Prop :=
  ∀ (s : State) (sw : Bool) (t a o : BitVec 7) (cr : BitVec 5) (i : BitVec 4) (segs : List (Loc × Nat)),
    let c := ctx s
    let g := wingNoOf s c.k
    let m := getC c.rd cr.toNat
    let x : Int := (capAddr m : Int) + (getS c.rd o.toNat).toInt
    let node := getC c.rd t.toNat
    let z := nodeRecSize s node
    let y := x + (16 * i.toNat : Nat)
    let bytes := readSegs s c.k segs
    let tags := (List.range (z / 16)).map fun j => capHas m pLDC && (carryCap s c.k (readCapLoc s c.k (segAt segs (16 * j)))).tag
    let q := fun (j : Nat) => segCap s c.k segs (16 * j)
    let parsed := parseLaunch s g (hasSys c) bytes (q 1) (q 2) (q 3) (q 4)
    let fits := fun (x : Int) (n al : Nat) (rs : List Nat) =>
      capCause m x n rs (worldOf s c.k) (scrWin s c.k) = none ∧ x % (al : Int) = 0
    let level := ownLevel s g t.toNat ((getS c.rd a.toNat).toNat % 2 ^ 32)
    BySlot s →
    (acqHeld c = false → nodeCause node (worldOf s c.k) = none → fits y z 16 [pLD] →
      segsVia s c.k (immAccess c) m y.toNat z .read = .ok segs → heldBack s c.k c.w.accs (segRanges segs) = false →
      nodeHdrOk bytes = true → countOf c.w 1 < Config.counterMax →
      ∃ u, exec (.enq sw t cr o i) s = .next u ∧
        Issued s u { acc s 1 (.enq (nodeNo node) (nodeLevel s node) bytes tags) with rel := true, mask := some c.mask }) ∧
    (acqHeld c = false → fits x 128 64 [pLD, pLDC, pENQ] → segsVia s c.k (immAccess c) m x.toNat 128 .read = .ok segs →
      (releaseReady c.w.accs = false → exec (.enqa sw t cr o) s = .next (waitWith s c .busy)) ∧
      (releaseReady c.w.accs = true → heldBack s c.k c.w.accs (segRanges segs) = false →
        (∀ r s' slot, parsed = .ok r → enterLaunch s g r = some (s', slot) → exec (.enqa sw t cr o) s =
          .next (finishRegs s' c sw fun f => setS f t.toNat (BitVec.ofNat 64 (levelId s' slot % 2 ^ 32)))) ∧
        (∀ r, parsed = .ok r → enterLaunch s g r = none → exec (.enqa sw t cr o) s = .next (waitWith s c .busy)) ∧
        (∀ e s', parsed = .error e → refuseLaunch s g (q 3) e c.hold = .ok s' → exec (.enqa sw t cr o) s =
          .next (finishRegs s' c sw fun f => setS f t.toNat (BitVec.ofNat 64 (e * 2 ^ 56)))))) ∧
    (∀ slot, level = some slot →
      exec (.cancl sw t a) s = .next (finish (cancelLevel s slot) c sw) ∧
      exec (.compl sw t a) s = .next (finish (closeLevel s slot) c sw)) ∧
    (level = none → exec (.cancl sw t a) s = .next (finish s c sw) ∧
      exec (.compl sw t a) s = .next (finish s c sw))

/-- R42, R43, R394, R400 to R403: TETH starts the tether in the slot reserved for it, with the lanes of MASK at its entry and
DIX + 2^40; QPSH appends a 32-lane entry to the owner's queue of at most 16, zero where the guard is clear; QPOP takes the
oldest entry, or, with no entry and no tether left, zeros with INVALID; SELS reads the schedule of a class; PRIO exchanges
the wave's priority; PHSET raises the output size of the phase.
Which slot is reserved for a wave is the model's (log 50). -/
def Obligations.TetherAndPhaseInstructions : Prop :=
  ∀ (s : State) (sw : Bool) (d a : BitVec 7) (imm : BitVec 16),
    let c := ctx s
    let v := getS c.rd a.toNat
    let o := waveAt s c.w.owner
    let entry := (List.range 32).map fun l => if (guardOf c).getLsbD l then getV c.rd a.toNat l else 0
    BySlot s →
    (∀ k, c.w.tether = false → c.w.hadTether = false → reservedTether s c.k = some k → k ≠ c.k →
      ∃ u, exec (.teth sw d imm) s = .next u ∧
        let w := waveAt u k
        let x := waveAt u c.k
        w.a.pc = c.pc + BitVec.ofInt 64 (4 * imm.toInt) ∧ w.a.mask = c.mask ∧ w.a.st = .ready ∧ w.live = c.mask ∧
        w.a.dix = BitVec.ofNat 48 (c.dix.toNat + 2 ^ 40) ∧ getC w.regs 28 = getC c.rd 28 ∧ getC w.regs 29 = getC c.rd 29 ∧
        x.tethSlot = some k ∧ x.window = d.toNat * 16 ∧ x.queue = [] ∧ x.hadTether = true ∧
        srcPc x c.src = c.pc + 4 ∧ u.mem = s.mem) ∧
    (c.w.tether = false → c.w.hadTether = true → exec (.teth sw d imm) s = .next (trapped s { cause := 0x0A })) ∧
    (c.w.tether = true →
      (o.queue.length < 16 → exec (.qpsh sw a) s =
        .next (finish (setWave s c.w.owner { o with queue := o.queue ++ [entry] }) c sw)) ∧
      (16 ≤ o.queue.length → exec (.qpsh sw a) s = .next (waitWith s c .poll))) ∧
    (c.w.hadTether = true →
      (∀ e es, c.w.queue = e :: es → exec (.qpop sw d) s = .next (finishRegs (setWave s c.k { c.w with queue := es }) c sw
        fun r => (active c).foldl (fun r l => setV r d.toNat l (nth 0 e l)) r)) ∧
      (c.w.queue = [] → c.w.tethSlot = none → exec (.qpop sw d) s = .next (retire s sw
        (addFlags ((active c).foldl (fun r l => setV r d.toNat l 0) c.live) fINV))) ∧
      (c.w.queue = [] → c.w.tethSlot ≠ none → exec (.qpop sw d) s = .next (waitWith s c .poll))) ∧
    exec (.sels sw d a) s = .next (retire s sw (setS c.live d.toNat
      (BitVec.ofNat 64 (chosenSchedule s (unitOf s c.k) v.toNat)))) ∧
    (v.toNat < 47 → (v.toNat = 46 → hasSys c = true) → c.w.prio ≠ 47 → exec (.prio sw d a) s =
      .next (finishRegs (setWave s c.k { c.w with prio := v.toNat }) c sw
        fun r => setS r d.toNat (BitVec.ofNat 64 c.w.prio))) ∧
    (v.toNat = 46 → hasSys c = false → exec (.prio sw d a) s = .next (trapped s { cause := 0x03 })) ∧
    (phaseOf s (unitOf s c.k) = none → exec (.phset sw a) s = .next (finish s c sw)) ∧
    (∀ p j i op z out ch, phaseOf s (unitOf s c.k) = some p → (levelAt s p).body = .phase j i op z out ch →
      exec (.phset sw a) s = .next (finish (setLevel s p { levelAt s p with
        body := .phase j i op z (if out.toNat < v.toNat then v else out) ch }) c sw))

-- Traps, the supervisor, and the system registers.

/-- R305, R306, R309 to R311, R313, R324: taking a trap outside a handler, whatever its cause. TRAP raises 0x14 with its
immediate in TRAPADDR and the next word in TRAPPC. The trap registers name the cause, the source, its lanes and its PIX; the
frame keeps both slots, the divergence count, JR and MODE; the supervisor bank is exchanged with c24 to c27, s56 to s63 and
PCC; MODE is 0, slot A starts at TRAPVEC with DIX + 2^44 and slot B is FREE; the unit is halted, keeps the first cause, and
its other waves that run begin to skid. In a handler a trap is a double fault: the unit ends as failed, unless it was ending for another reason. -/
def Obligations.TakingATrap : Prop :=
  ∀ (s : State) (sw : Bool) (imm : BitVec 16) (tr : Trap),
    let c := ctx s
    let t := trapped s tr
    let w := waveAt t c.k
    let lanes := tr.lanes.getD c.mask
    let u := unitAt s c.w.unit
    (BySlot s → exec (.trap sw imm) s = .next (trapped s { cause := 0x14, addr := imm.setWidth 64, next := true })) ∧
    (c.w.frame = none →
      w.trapCause = BitVec.ofNat 32 ((if tr.defer then 2048 else 0) + srcNo c.src * 256 + tr.cause % 256) ∧
      w.trapPc = tr.pc.getD (if tr.next then c.pc + 4 else c.pc) ∧ w.trapAddr = tr.addr ∧ w.trapLanes = lanes ∧
      w.trapPix = tr.pix.getD c.pix ∧
      (∃ fr, w.frame = some fr ∧ fr.a.pc = c.w.a.pc ∧ fr.b.pc = c.w.b.pc ∧ fr.a.mask = c.w.a.mask ∧
        fr.b.mask = c.w.b.mask ∧ fr.a.st = c.w.a.st ∧ fr.b.st = c.w.b.st ∧ fr.divd = c.w.divd ∧ fr.jr = c.w.jr ∧
        fr.mode = c.w.regs.mode) ∧
      w.bank = bankOf c.w.regs ∧ w.regs = putBank { c.w.regs with mode := 0 } c.w.bank ∧
      w.a.pc = c.w.trapVec ∧ w.a.st = .ready ∧ w.a.dix = BitVec.ofNat 48 (c.dix.toNat + 2 ^ 44) ∧
      w.a.mask = (if lanes = 0 then (if isSeq c.src then c.w.live else (slotOf c.w c.src).mask) else lanes) ∧
      w.b.st = .free ∧ w.divd = 0 ∧ w.jr = Config.noJoin ∧ w.stop = .running ∧
      (unitAt t c.w.unit).halted = true ∧
      (unitAt t c.w.unit).firstCause = (if u.firstCause = 0 then BitVec.ofNat 8 tr.cause else u.firstCause) ∧
      (∀ j ∈ u.waves, j ≠ c.k → (waveAt s j).frame = none → (waveAt s j).stop = .running →
        (waveAt t j).stop = .skidding 0) ∧
      t.mem = s.mem ∧ t.tags = s.tags ∧ t.wings = s.wings) ∧
    (c.w.frame ≠ none → (unitAt t c.w.unit).ending = some (if u.ending = some .relaunch then .failed else u.ending.getD .failed) ∧ t.waves = s.waves ∧ t.mem = s.mem)

/-- R313, R325, R328: SRET in a handler gives back what the frame holds: both slots, the divergence count, JR and MODE, the
registers exchanged with the supervisor bank, and TRAPPC, aligned, and TRAPPIX to the source that TRAPCAUSE names, the runs cut, the
trap registers as they stood at the start of its run (R24, R323); outside a handler it traps with 0x0A, and where its source was not in
use at the trap, or the handler's own sequencer still runs, it is a double fault (R313). HALT stops the unit past its word with no
handler and holds it for the host.
That a wave that was not stopping resumes at once, and that a second HALT keeps the first hold, are the model's readings (logs 23, 38). -/
def Obligations.ReturnAndHalt : Prop :=
  ∀ (s : State) (sw : Bool),
    let c := ctx s
    let u := unitOf s c.k
    let reg := fun (n : Nat) => tget 0 c.sys n
    let back : Return := { src := (reg 0x020).toNat / 256 % 8, pc := reg 0x021 &&& ~~~3#64, pix := reg 0x026 }
    let src := srcOf back.src
    BySlot s → hasSys c = true →
    (∀ fr, c.w.frame = some fr → sretFaults c.w fr back = true →
      exec (.sret sw) s = .next (endUnit s c.w.unit .failed 0)) ∧
    (∀ fr, c.w.frame = some fr → sretFaults c.w fr back = false → ∃ t, exec (.sret sw) s = .next t ∧
      let w := waveAt t c.k
      w.frame = none ∧ w.divd = fr.divd ∧ w.jr = fr.jr ∧ w.bank = bankOf c.w.regs ∧
      w.regs = putBank { c.w.regs with mode := fr.mode } c.w.bank ∧
      srcPc w src = back.pc ∧ srcPix w src = back.pix ∧
      ((u.held.isSome = true ∨ c.w.stop = .running) →
        (src ≠ .slotA → w.a = { fr.a with snap := cutSnap fr.a.hold fr.a.snap }) ∧
        (src ≠ .slotB → w.b = { fr.b with snap := cutSnap fr.b.hold fr.b.snap })) ∧
      (u.held.isSome = true → w.stop = .stopped) ∧
      (u.held = none → c.w.stop = .running → w.stop = .running) ∧ t.mem = s.mem) ∧
    (c.w.frame = none → exec (.sret sw) s = .next (trapped s { cause := 0x0A })) ∧
    (∃ t, exec (.halt sw) s = .next t ∧ (waveAt t c.k).stop = .stopped ∧ srcPc (waveAt t c.k) c.src = c.pc + 4 ∧
      (waveAt t c.k).frame = c.w.frame ∧ (waveAt t c.k).regs = c.w.regs ∧
      (unitAt t c.w.unit).halted = true ∧ (unitAt t c.w.unit).held = some (u.held.getD (c.k, c.src)) ∧
      t.outbox = s.outbox ++ [.halted u.wing u.ctxid c.pc] ∧ t.mem = s.mem)

/-- R45, R57, R61, R69, R210: without SYS in PCC every supervisor instruction traps with 0x03 and has no other effect. In a sequencer
every instruction that R45 and R210 do not give it traps with 0x0A, for TRAPLANES with the guard mask where it applies the guard: in a
matrix sequencer, for the row-wise ones, over all 32 rows (R280).
That 0x03 comes before 0x0A is R62's lowest cause. -/
def Obligations.PrivilegeTraps : Prop :=
  ∀ (s : State) (i : Instr),
    let c := ctx s
    let guarded := fun (i : Instr) => if appliesGuard i = true then
      some (if rowwise i = true ∧ s.cur.src = .seqMatrix then rowGuard c else guardOf c) else none
    (needsSys i = true → hasSys c = false → exec i s = .next (trapped s { cause := 0x03 })) ∧
    (isSeq s.cur.src = true → encode i ≠ none → sequencerMay s.cur.src i = false → (needsSys i = true → hasSys c = true) →
      exec i s = .next (trapped s { cause := 0x0A, lanes := guarded i }))

/-- R24, R55, R69, R70, R283, R309, R315, R323, R326, R327: the system registers. MFSR reads each of them as it stood at
the start of the run; MTSR writes SEED, FLAGS, MODE
(0x0A for a reserved value), ACCOWN (the Tail is reset), PIX, and the trap registers, of which TRAPPC and TRAPVEC lose their
two low bits; PIXRD reads a progress index as it stood at the start of the run. In a handler, PIXWR writes TRAPPIX for the source that
TRAPCAUSE names there, the frame's PIX for another slot, a sequencer's own PIX else.
That MTSR ACCOWN waits while another source has a matrix instruction part-way is the model's choice (log 28). -/
def Obligations.SystemRegisters : Prop :=
  ∀ (s : State) (sw : Bool) (d a b : BitVec 7),
    let c := ctx s
    let w := c.w
    let u := unitOf s c.k
    let v := getS c.rd d.toNat
    let num := fun (n : Nat) => BitVec.ofNat 64 n
    let reads := fun (l : List (BitVec 16 × DWord)) => ∀ p ∈ l,
      exec (.mfsr sw d p.1) s = .next (retire s sw (setS c.live d.toNat p.2))
    let wrote := fun (w' : Wave) => (Host.Outcome.next (finish (setWave s c.k w') c sw) : Out)
    let k := (getS c.rd a.toNat).toNat % 8
    let src := (tget 0 c.sys 0x020).toNat / 256 % 8
    let at_ := fun (n : Nat) => (BitVec.ofNat 16 n, tget 0 c.sys n)
    BySlot s →
    (srcSnap w c.src = none → c.sys = [(0x010, (matOf s c.k).accown.setWidth 64), (0x011, (slotOf w c.src).pix),
      (0x012, num (min w.divd 255)), (0x014, (wingOf s c.k).snapId.setWidth 64), (0x020, w.trapCause.setWidth 64),
      (0x021, w.trapPc), (0x022, w.trapAddr), (0x023, w.trapLanes.setWidth 64), (0x024, w.skid.setWidth 64),
      (0x025, w.trapVec), (0x026, w.trapPix)] ++ (List.range 5).map fun j => (0x100 + j, match w.frame with
        | none => livePix w (srcOf j)
        | some fr => if j = w.trapCause.toNat / 256 % 8 then w.trapPix else if j = 0 then fr.a.pix else if j = 1 then fr.b.pix
            else livePix w (srcOf j))) ∧
    (∀ n, srcSnap w c.src = some n → c.sys = n.sys) ∧
    reads [(0x000, c.rd.mode.setWidth 64), (0x002, num w.waveId), (0x003, num u.unitId), (0x004, num u.x), (0x005, num u.y),
      (0x006, num u.z), (0x007, num u.lx), (0x008, num u.ly), (0x009, num u.lz), (0x00A, num u.nwaves), (0x00B, phaseSize s u),
      (0x00C, c.dix.setWidth 64), (0x00D, c.rd.seed), (0x00E, num (if (wingOf s c.k).party then 1 else 0)),
      (0x00F, num (wingOf s c.k).world), at_ 0x010, at_ 0x011, at_ 0x012, (0x013, c.rd.flags.setWidth 64), at_ 0x014] ∧
    exec (.mtsr sw d 0x00D) s = .next (retire s sw { c.live with seed := v }) ∧
    exec (.mtsrFlags sw d) s = .next (retire s sw { c.live with flags := v.setWidth 32 &&& 31#32 }) ∧
    (modeBad (v.setWidth 32) = false → exec (.mtsrMode sw d) s = .next (retire s sw { c.live with mode := v.setWidth 32 })) ∧
    (modeBad (v.setWidth 32) = true → exec (.mtsrMode sw d) s = .next (trapped s { cause := 0x0A })) ∧
    (k < 5 → exec (.pixrd sw d a) s = .next (retire s sw (setS c.live d.toNat (tget 0 c.sys (0x100 + k))))) ∧
    (5 ≤ k → exec (.pixrd sw d a) s = .next (trapped s { cause := 0x0A })) ∧
    (hasSys c = true →
      reads [at_ 0x020, at_ 0x021, at_ 0x022, at_ 0x023, at_ 0x024, at_ 0x025, at_ 0x026] ∧
      exec (.mtsr sw d 0x021) s = wrote { w with trapPc := v &&& ~~~3#64 } ∧
      exec (.mtsr sw d 0x022) s = wrote { w with trapAddr := v } ∧
      exec (.mtsr sw d 0x023) s = wrote { w with trapLanes := v.setWidth 32 } ∧
      exec (.mtsr sw d 0x024) s = wrote { w with skid := v.setWidth 8 } ∧
      exec (.mtsr sw d 0x025) s = wrote { w with trapVec := v &&& ~~~3#64 } ∧
      exec (.mtsr sw d 0x026) s = wrote { w with trapPix := v } ∧
      (v.toNat / 256 % 8 < 5 → exec (.mtsrTrapcause sw d) s = wrote { w with trapCause := v.setWidth 32 &&& 0xFFF#32 }) ∧
      (5 ≤ v.toNat / 256 % 8 → exec (.mtsrTrapcause sw d) s = .next (trapped s { cause := 0x0A })) ∧
      (matMidway s (alcOf c.k) c.k c.src = false → exec (.mtsrAccown sw d) s = .next (finish (setMat s c.k
        { matOf s c.k with accown := v.setWidth 32, tp := false, tail := [] }) c sw)) ∧
      (matMidway s (alcOf c.k) c.k c.src = true → exec (.mtsrAccown sw d) s = .next (waitWith s c .poll)) ∧
      (∃ t, exec (.mtsrPix sw d) s = .next t ∧ srcPix (waveAt t c.k) c.src = v ∧
        srcPc (waveAt t c.k) c.src = c.pc + 4 ∧ (waveAt t c.k).regs = w.regs) ∧
      (∀ fr, k < 5 → w.frame = some fr →
        (k = src → exec (.pixwr sw a b) s = wrote { w with trapPix := getS c.rd b.toNat }) ∧
        (k ≠ src → k = 0 → exec (.pixwr sw a b) s =
          wrote { w with frame := some { fr with a := { fr.a with pix := getS c.rd b.toNat } } }) ∧
        (k ≠ src → k = 1 → exec (.pixwr sw a b) s =
          wrote { w with frame := some { fr with b := { fr.b with pix := getS c.rd b.toNat } } }) ∧
        (k ≠ src → 2 ≤ k → exec (.pixwr sw a b) s =
          wrote (putSeq w (srcOf k) { seqOf w (srcOf k) with pix := getS c.rd b.toNat }))) ∧
      (5 ≤ k → exec (.pixwr sw a b) s = .next (trapped s { cause := 0x0A })) ∧
      (w.frame = none → exec (.pixwr sw a b) s = .next (trapped s { cause := 0x0A })))

-- Stage-1 tables, invalidations, scrubbing and snapshots.

/-- R66, R67, R236 to R239, R427: the supervisor's map and invalidation instructions and SNAP, where their checks pass.
PGMAP writes the status word of its request into s[T], in the state that the request leaves, and waits while another request of
the wing is in its scan; LPINV and TLBI drop what is
cached of the range, and TLBI waits while an access of the wing still uses a translation of it, then frees the frames and the
write locks that waited for it. SNAP gives 0 unless the wing is armed for it; armed, it joins a capture and waits for its
edge, and gives the capture's number.
What TLBI waits for is the model's reading (log 9). -/
def Obligations.PagingInstructions : Prop :=
  ∀ (s : State) (sw : Bool) (t a b : BitVec 7) (cr : BitVec 5) (imm : BitVec 16),
    let c := ctx s
    let g := wingNoOf s c.k
    let k := getC c.rd a.toNat
    let lo := capAddr k
    let n := (getS c.rd b.toNat).toNat
    let good := k.tag = true ∧ capWorld k = worldOf s c.k ∧ capOtype k = 0 ∧ lo % 65536 = 0 ∧ n % 65536 = 0
    let all : Nat := 2 ^ 57
    let m := getC c.rd cr.toNat
    let r := mapReq (getS c.rd b.toNat)
    let s0 := tendScans s g
    let mine := scanOf s c
    let armed := (wingOf s c.k).armed.program
    BySlot s →
    (hasSys c = true →
      exec (.lpinvW sw) s = .next (finish (invalidate s g 0 all false) c sw) ∧
      (usesPages (invalidate s g 0 all true) g 0 all = false → exec (.tlbiW sw) s =
        .next (finish (freeAfterTlbi (invalidate s g 0 all true) g 0 all) c sw)) ∧
      (usesPages (invalidate s g 0 all true) g 0 all = true → exec (.tlbiW sw) s =
        .next (waitWith (invalidate s g 0 all true) c .busy)) ∧
      (good → n = 0 → exec (.lpinv sw a b) s = .next (finish s c sw) ∧ exec (.tlbi sw a b) s = .next (finish s c sw)) ∧
      (good → 0 < n → exec (.lpinv sw a b) s = .next (finish (invalidate s g lo (lo + n) false) c sw) ∧
        (usesPages (invalidate s g lo (lo + n) true) g lo (lo + n) = false → exec (.tlbi sw a b) s =
          .next (finish (freeAfterTlbi (invalidate s g lo (lo + n) true) g lo (lo + n)) c sw))) ∧
      (∀ s' v, pgmapCause m r (capAddr m) (worldOf s c.k) = none → scanBusy s g mine = false → c.hold = .none →
        mapRun s0 g (capAddr m) r (getS c.rd t.toNat).toNat false ((mine.map (·.got)).getD []) = .status s' v →
        exec (.pgmap sw t cr b) s = .next (finishRegs (endScan s' g (scanOf s0 c) (decide (v.toNat / 2 ^ 56 = 0))) c sw
          fun f => setS f t.toNat v)) ∧
      (pgmapCause m r (capAddr m) (worldOf s c.k) = none → scanBusy s g mine = true → c.hold = .none →
        exec (.pgmap sw t cr b) s = .next (waitWith s c .poll))) ∧
    (armed = false → (∀ j, c.hold ≠ .latched j) → exec (.snap sw t imm) s = .next (retire s sw (setS c.live t.toNat 0))) ∧
    (armed = true → s.capHeld = none → (∀ j, c.hold ≠ .latched j) → exec (.snap sw t imm) s =
      .next (waitWith (capTrigger s [(c.k, c.pc, imm)]) c .latch)) ∧
    (armed = true → s.capHeld ≠ none → (∀ j, c.hold ≠ .latched j) → exec (.snap sw t imm) s =
      .next (finishRegs (capTrigger s []) c sw fun f => setS f t.toNat 0)) ∧
    (∀ j, c.hold = .latched j → exec (.snap sw t imm) s = .next (retire s sw (setS c.live t.toNat (BitVec.ofNat 64 j))))

/-- R237: a request that is invalid (a pool page of another size; a frame that is misaligned or out of range, or write on a shadowed
page; a PROTECT to or from POLICY 4), that is misaligned, or that asks for write and execute together, or for execute of a shadowed
or recipe-backed page, is answered with the status of the first of these, whatever the tables hold, and changes no state: MAPPOOL,
MAPIPA, MAPSHD, PROTECT and UNMAP alike. -/
def Obligations.MapRequestsRefused : Prop :=
  ∀ (s : State) (wing va arg : Nat) (w : DWord) (scanned : Bool) (got : List Nat),
    let r := mapReq w
    let z := 2 ^ sizeBits r.size
    let answers := fun (code : Nat) => mapRun s wing va r arg scanned got = .status s (mapStatus code 0 0)
    let flips := ∃ a e, descend s (wingAt s wing) va (sizeLevel r.size) 5 0 (wingAt s wing).s1root = .at_ a e ∧
      s1LeafOk e = true ∧ ¬(r.policy = 4 ↔ leafPolicy e = 4)
    let invalid := (r.op = 0 ∧ r.size ≠ 0) ∨ (r.op = 1 ∧ (arg % z ≠ 0 ∨ 2 ^ 48 ≤ arg)) ∨
      (r.op = 2 ∧ (arg % (2 * z) ≠ 0 ∨ 2 ^ 48 ≤ arg ∨ r.w = true)) ∨ (r.op = 3 ∧ flips)
    (r.bad = true → answers 5) ∧
    (r.bad = false → invalid → answers 5) ∧
    (r.bad = false → ¬ invalid →
      (va % z ≠ 0 → answers 8) ∧
      (va % z = 0 → r.w = true → r.x = true → answers 2) ∧
      (va % z = 0 → r.w = false → r.x = true → (r.op = 2 ∨ r.policy = 4) → answers 3))

/-- R414, R415: a scrub of a line leaves zeros and clear capability tags under the new owner, and no other byte and no other tag
changed, where no wing keeps a dirty log. SCRUB of its last page writes the receipt: what PIX counted with that
page's lines, or one more retired page. No acquire holds it (R243), and no outstanding access races with it.
What races is the model's reading (log 54). How a skipped or shadowed page is counted is the model's reading (log 35), and one page at an issue its choice (log
28). -/
def Obligations.Scrubbing : Prop :=
  ∀ (s : State) (sw : Bool) (t o : BitVec 7) (cr : BitVec 5) (line : Nat) (owner : BitVec 4) (fs : List (Nat × Nat)) (s' : State)
    (r' : Receipt),
    let c := ctx s
    let k := getC c.rd cr.toNat
    let x : Int := (capAddr k : Int) + (getS c.rd o.toNat).toInt
    let n := (getS c.rd t.toNat).toNat
    let r := receiptOf c.pix
    let done := r.lines / 512 + r.ret
    let va := x.toNat + done * 65536
    let u := scrubLine s line owner.toNat
    (Memory.wf s.mem = true → (∀ e ∈ s.wings, e.2.log = none) →
      (∀ a, readByte u a = if a / 128 = line then 0 else readByte s a) ∧
      (∀ g, tget false u.tags g = if g / 8 = line then false else tget false s.tags g) ∧
      (owner ≠ 0 → ownerAt u (128 * line) = owner.toNat)) ∧
    (BySlot s → hasSys c = true → capCause k x n [pST] (worldOf s c.k) (scrWin s c.k) = none → capHas k pSCRATCH = false →
      x % 65536 = 0 → n % 65536 = 0 → n < 2 ^ 39 → n / 65536 = done + 1 → scrubReach s c.k va c.hold = .ok fs →
      pageTiled (wingOf s c.k) va = false → heldBack s c.k c.w.accs (fs.map fun f => (false, f.1 * 65536, 65536)) = false →
      acqHeld c = false → NoRace s plainAccess → scrubPage (tick s) fs r = (s', r', none) →
      exec (.scrub sw t cr o) s = .next (finishRegs s' c sw fun f => setS f t.toNat (receiptWord r')) ∧
      (if fs.any (fun f => scrubSkips s f.1) then r'.ret = min (r.ret + 1) 65535 ∧ r'.lines = r.lines
       else r'.ret = r.ret ∧ r'.lines = r.lines + 512))

-- The events of the device.

/-- R35, R36, R38, R40, R41, R285, R316, R370, R372, R391, R394: the events of units, levels, nodes and builds, where they
are enabled. A unit that fits starts, in the slots of its place; a wave of it starts at its CODE with every lane, the launch's
DIXB and a seed of its own; a unit that retires frees its storage and counts once at its level; a level that completes signals
through DONE and frees its counter, or waits for the host where that write misses stage 2. An uncorrectable error in a matrix unit
ends every unit with a claim there, its accumulator owner and the unit that read it, and leaves the unit's storage zero with no claim
but those that its waiting MCLMs are granted.
When an event comes, where a unit is placed and where a batch lies are the model's choices (logs 4, 11, 13, 42). -/
def Obligations.UnitAndLevelEvents : Prop :=
  ∀ (s : State) (g n k alc id : Nat) (cab : Bool),
    let x := unitAt s n
    let l := levelAt s n
    let w := waveAt s k
    let wing := wingAt s g
    let r := recipeAt wing id
    let b := levelAt s r.level
    let go := fun (t : State) => (Host.Outcome.next t : Out)
    (∀ cand, wing.used = true → wing.run = .running → nextStart s g = some cand →
      ∃ p, place s g cand = some p ∧ exec (.unitStart g []) s = go (startCand s g cand p)) ∧
    (∀ (i : LaunchInfo) (u wid uid key batch : Nat) (args : Cap) (win : Option Nat),
      let v := startWave wing i u wid uid key args batch win
      v.a.pc = BitVec.ofNat 64 (capAddr i.code) ∧ v.a.mask = BitVec.allOnes 32 ∧ v.live = BitVec.allOnes 32 ∧
      v.a.dix = i.dixb ∧ v.a.st = .ready ∧ v.b.st = .free ∧ v.divd = 0 ∧
      v.regs.seed = i.seed + BitVec.ofNat 64 (uid * i.nwaves + wid) * 0xD1B5_4A32_D192_ED03#64 ∧
      v.regs.mode = 0 ∧ getC v.regs 28 = args ∧ getC v.regs 31 = withOtype i.code 0 ∧
      getS v.regs 0 = BitVec.ofNat 64 batch) ∧
    (x.used = true → (wingAt s x.wing).run ≠ .swapped → x.ending ≠ some .relaunch → unitQuiet s x = true →
      exec (.unitRetirement n) s = go (retireUnit s n) ∧
      (x.ending = none → x.level ≠ 0 →
        (levelAt (retireUnit s n) x.level).retired = (levelAt s x.level).retired + 1 ∧
        (levelAt (retireUnit s n) x.level).failed = (levelAt s x.level).failed)) ∧
    (∀ p, x.used = true → x.ending = some .relaunch → (wingAt s x.wing).run = .running → unitQuiet s x = true →
      (let t0 := freeUnit (gateUnitEnded s x.waves) n
       let i := unitInfo s x
       x.level ≠ 0 → place t0 x.wing { start := .launch x.level, info := i, build := x.build, die := x.die } = some p →
       let r := putUnit t0 x.wing { info := i, level := x.level, node := x.node, unitId := x.unitId, args := x.args,
                                    batch := x.batch, build := x.build, die := x.die } p
       exec (.unitRelaunch n []) s = go (bootUnit r.1 r.2))) ∧
    (levelDone s n = true → isBuild l = false →
      (∀ t, signalLevel s n = .ok t → exec (.levelCompletion n) s = go (dropLevel t n) ∧
        (levelAt (dropLevel t n) n).used = false) ∧
      (∀ va ipa kind, signalLevel s n = .error (va, ipa, kind) →
        exec (.levelCompletion n) s = go (levelMiss (setLevel s n { l with word := some (levelWord l) }) n va ipa kind true))) ∧
    (phaseReady s n = true → l.running = 0 → exec (.phaseStart n) s = go (startPhase s n)) ∧
    ((nodeAt s n).used = true → (nodeAt s n).timer ≠ 0 → (nodeAt s n).bin ≠ [] →
      exec (.nodeTimerExpiry n) s = go (setNode s n { nodeAt s n with due := true })) ∧
    (w.used = true → (w.a.st = .ready ∨ w.b.st = .ready) →
      exec (.agingThreshold k) s = go (setWave s k { w with aged := true })) ∧
    (r.used = true → r.st = .building → r.level ≠ 0 →
      (b.failed = false → b.cancelled = false → b.retired = b.size → exec (.recipeBuildComplete g id) s =
        go (bootWaiters (buildDone (setLevel s r.level { b with used := false }) g id))) ∧
      ((b.failed = true ∨ b.cancelled = true) → unitsOf s r.level = [] → savedUnits s r.level = false →
        exec (.recipeBuildFailure g id) s =
          go (bootWaiters (tendBuilds (buildFailed (setLevel s r.level { b with used := false }) g 65536 id) g)))) ∧
    (w.used = true → (unitAt s w.unit).used = true → ∃ t, exec (.registerUncorrectableError k) s = go t ∧
      (waveAt t k).regs = {} ∧ (waveAt t k).a = {} ∧ (waveAt t k).b = {} ∧ (waveAt t k).frame = none ∧
      (unitAt t w.unit).ending =
        some (endReason (unitAt s w.unit).ending (if (unitAt s w.unit).idem then .relaunch else .failed))) ∧
    (∀ g', (alcAt s alc).wing = some g' → (wingAt s g').run ≠ .swapped → ∃ t,
      exec (.matrixUncorrectableError alc k cab) s = go t ∧
      (let a := (alcAt s alc).mat
       let concerned := fun (u : Nat) => (∃ e ∈ a.claims, (waveAt s e.2).unit = u) ∨
         ((unitAt s u).wing = g' ∧ (unitAt s u).ctxid = a.accown ∧ a.accown ≠ 0) ∨
         (alcOf k = alc ∧ w.used = true ∧ w.unit = u)
       (∀ u, (unitAt s u).used = true → concerned u → (unitAt t u).ending =
         some (endReason (unitAt s u).ending (if (unitAt s u).idem then .relaunch else .failed))) ∧
       (∀ e ∈ (alcAt t alc).mat.claims, ∃ q ∈ a.waiting, q.1 = e.2 ∧ q.2.2.getLsbD e.1 = true)) ∧
      (let m := (alcAt t alc).mat
       m.slots = [] ∧ m.tiles = [] ∧ m.live = 0 ∧ m.accown = 0 ∧ m.tp = false ∧ m.tail = [] ∧ (cab = true → m.cabinet = [])))

/-- R7, R184, R202, R206, R270, R317, R321, R341, R411, R416, R422 to R427: the other events of the device, where they are
enabled: bring-up, accesses and their deliveries, the swap of a stopped wing, resets, the gate's time-out and error,
revocation sweeps, budget windows, captures, clock and temperature, spares for elements whose count of corrected errors has passed
its threshold, and packets that are dropped.
When an event comes, what outlasts a power cycle and how many spares a stack and a link have are the model's choices and
readings (logs 4, 11, 40, 45, 48). -/
def Obligations.PackageEvents : Prop :=
  ∀ (s : State) (g k b ch i : Nat) (p : BitVec 3) (a : Access) (s' : State) (elem : Nat) (kind : SpareKind) (gen : BitVec 2)
    (tok : BitVec 32) (port : BitVec 4),
    let x := chanAt (bindAt s b) ch
    let wing := wingAt s g
    let w := waveAt s k
    let sp := spareNo kind * 1024 + sparePlace kind elem
    let go := fun (t : State) => (Host.Outcome.next t : Out)
    (s.up = false → (∃ t, exec (.powerOn none) s = go t ∧ t.up = true ∧ t.powered = true ∧ t.wings = [] ∧ t.units = [] ∧
        t.waves = [] ∧ t.mem = [] ∧ t.tags = [] ∧ t.owners = [] ∧ t.outbox = s.outbox ++ [.ready]) ∧
      (∀ st d, 1 ≤ st → st ≤ 7 → ∃ t, exec (.powerOn (some (st, d))) s = go t ∧ t.up = false ∧ t.failedStep = some (st, d) ∧
        t.assocs = (if st = 7 then managePorts else []) ∧ t.outbox = s.outbox ++ [.bringup st d])) ∧
    (oldestIdx w p.toNat = some i → w.accs[i]? = some a → accReady s k i a = true → a.stale = false →
      performKind s k i 0 a = some s' → exec (.countedAccessComplete k p) s = go (settle s' k p.toNat)) ∧
    (oldestIdx w p.toNat = some i → w.accs[i]? = some a → accReady s k i a = true → a.stale = true →
      exec (.countedAccessComplete k p) s = go (settle (relocate s k i a) k p.toNat)) ∧
    (∀ scr va len, oldestIdx w 3 = some i → w.accs[i]? = some a → a.kind = .publ scr va len → accReady s k i a = true →
      a.stale = false → exec (.publFlip k) s = go (settle (performPubl s k i a scr va len) k 3)) ∧
    (∀ off v, w.accs.findIdx? (fun a => a.path == p.toNat && a.bound.isSome && decide (0 < a.deliv)) = some i →
      w.accs[i]? = some a → a.bound = some off →
      barDeliver (BitVec.ofNat 64 (leNat (readLoc s k (.scr off) 8))) a.deliv (a.performed && a.err.isSome) = some v →
      exec (.barrierDelivery k p 0) s = go (settle (setAcc (writeLoc s k (.scr off) (natLe 8 v.toNat)) k i
        fun a' => { a' with deliv := a'.deliv - a.deliv }) k a.path)) ∧
    (wing.run = .stopping → wingStopped s g = true → (∀ j ∈ wing.alcs, (alcAt s j).shadow = none) →
      ∃ t, exec (.contextSwap g) s = go t ∧ (wingAt t g).run = .swapped) ∧
    (wing.used = true → ((wing.run = .stopping ∨ ∃ j ∈ wingWaves s g, skidding (waveAt s j) = true) →
        exec (.stopTimeout g) s = go (resetWing s g 1)) ∧
      exec (.shadowOrHubError g) s = go (uncorrTrigger (resetWing s g 2) g)) ∧
    ((bindAt s b).timeout ≠ 0 →
      (∀ o q, x.paired = [] → x.wait1 = [] → x.wait0 = o :: q → exec (.turnstileTimeout b ch) s =
        go (voidPeer (gateEnd (setChan (tick s) b ch { x with wait0 := q }) b ch o 0x0F 0x02 0) b ch 1)) ∧
      (∀ o q, x.paired = [] → x.wait0 = [] → x.wait1 = o :: q → exec (.turnstileTimeout b ch) s =
        go (voidPeer (gateEnd (setChan (tick s) b ch { x with wait1 := q }) b ch o 0x0F 0x02 0) b ch 0)) ∧
      (∀ e, x.paired = [e] → x.wait0 = [] → x.wait1 = [] → exec (.turnstileTimeout b ch) s =
        go (gateAbort (unpair (tick s) b ch e) b ch e 0x02))) ∧
    (x.wait0 = [] → voidPeer s b ch 0 = setChan s b ch { x with void0 := x.void0 + 1 }) ∧
    (x.wait1 = [] → voidPeer s b ch 1 = setChan s b ch { x with void1 := x.void1 + 1 }) ∧
    (∀ e, x.paired = [e] → exec (.gateUncorrectableError b ch) s = go (uncorrTrigger (uncorrTrigger
      (gateAbort (unpair (tick s) b ch e) b ch e 0x03) (bindAt s b).wing0) (bindAt s b).wing1)) ∧
    (∀ q qs, s.sweep = none → s.sweepQ = q :: qs → sweepIdle q = true →
      (sweepMapOk q = false → exec .revocationSweepStart s =
        go { s with sweepQ := qs, sweep := some { q with map := {}, hold := .none } }) ∧
      (∀ bs, sweepMapOk q = true → devBytes s (wingAt s q.wing) (capAddr q.map) ((q.len / 16 + 7) / 8) q.hold = .ok bs →
        exec .revocationSweepStart s = go { s with sweepQ := qs, sweep := some { q with hold := .none } })) ∧
    (∀ q, s.sweep = some q → sweepIdle q = true →
      (∀ e, capCause q.done (capAddr q.done) 8 [pST] (wingAt s q.wing).world 0 = some e →
        exec .revocationSweepComplete s = go (endSweep s)) ∧
      (∀ l, capCause q.done (capAddr q.done) 8 [pST] (wingAt s q.wing).world 0 = none →
        devSegs s (wingAt s q.wing) (capAddr q.done) 8 true q.hold = .ok l →
        exec .revocationSweepComplete s = go (writePieces (endSweep s) (wingAt s q.wing) (capAddr q.done) l
          (natLe 8 (min (cntCaps s (filterCap s)) (2 ^ 56 - 1) * 256 + sweepStatus q))))) ∧
    (endSweep s).sweep = none ∧
    exec (.budgetWindow b) s = go { s with worlds := s.worlds.map fun e => (e.1, { e.2 with
        charge := tset 0 e.2.charge b (tget 0 e.2.charge b - budgetOf e.2 b), budgets := tdel e.2.budgets b }) } ∧
    (∀ c, s.capPending = some c → ∃ t, exec .vitrineLatch s = go t ∧ t.capPending = none ∧
      t.capHeld = some { c with status := captureStatus s }) ∧
    (∀ f, s.clockChange = some f → exec .clockChangeoverComplete s = go { s with fast := f, clockChange := none }) ∧
    exec .lidOverTemperature s = go { s with lidHot := true } ∧
    exec .lidTemperatureNormal s = go { s with lidHot := false } ∧
    (∃ t, exec .dieOverTemperature s = go t ∧ t.powered = false ∧ t.up = false) ∧
    (spareDue s (elemKey kind elem) = false → exec (.ballastExchange kind elem) s = go s) ∧
    (spareDue s (elemKey kind elem) = true → tget 0 s.spares sp < spareCount kind → ∃ t, exec (.ballastExchange kind elem) s = go t ∧
      tget 0 t.spares sp = tget 0 s.spares sp + 1 ∧ tget 0 t.corrected (elemKey kind elem) = 0 ∧ t.outbox.getLast? = some (.ballast kind elem true) ∧
      (kind ≠ .l2Slice → t.mem = s.mem)) ∧
    (spareDue s (elemKey kind elem) = true → spareCount kind ≤ tget 0 s.spares sp → ∃ t, exec (.ballastExchange kind elem) s = go t ∧
      t.outbox.getLast? = some (.ballast kind elem false) ∧ (kind = .dram → tget false t.retired elem = true) ∧
      (kind = .core → ∀ j, j < 4 → (alcAt t (elem * 4 + j)).retired = true)) ∧
    exec (.unsupportedOptionPacket port) s = go { s with droppedOption := s.droppedOption + 1 } ∧
    ((assocAt s b).used = true → (assocAt s b).gens.contains gen = false →
      exec (.deadGenerationPacket b gen) s = go { s with droppedKey := s.droppedKey + 1 }) ∧
    (∀ r, ((assocAt s b).pending.find? fun r => r.token == tok) = some r → ∃ t, exec (.kgenRequestTimeout b tok) s = go t ∧
      t.outbox = s.outbox ++ [.completion { assoc := b, len := replyLen r.op [], token := r.token, kgen := r.kgen, status := 0x04,
                                            op := r.op, wing := BitVec.ofNat 8 r.wing } 0 []])

-- The host link.

/-- R184, R234, R235, R390, R393, R395, R398, R399, R414, R419 to R421, R428: the messages that act on memory, on work and on
TOKENs, under a live key of a management association. Each is answered with STATUS 0 in the state that it leaves: a READ with
the bytes of a world that is not protected, a CAPW with every image in its granule, a launch with the word of its level.
How a message and its answer are carried, which wing's tables serve a sweep, the form of a node's capability, what races, and what is
answered for a stale id, are the model's choices and readings (logs 13, 15, 36, 47, 54). -/
def Obligations.HostWorkMessages : Prop :=
  ∀ (s : State) (h : HostHdr) (cap done : BitVec 128) (off len : Nat) (data : List Byte) (segs : List (Loc × Nat))
    (ims : List (BitVec 128)) (cs : List Cap) (tok lid : BitVec 32) (retry phys : Bool) (owner world : BitVec 4)
    (va req frame : BitVec 64) (s' : State) (v : DWord) (nodes : List NodeSpec),
    let g := h.wing.toNat
    let w := wingAt s g
    let d := worldAt s w.world
    let c := hostCap s cap
    let q := fun (i : Nat) => hostCap s (BitVec.ofNat 128 (fld data (16 * i) 16))
    Manages s h →
    (∀ k, c = some k → capOtype k = 2 → data.length = nodeRecSize s k → nodeHdrOk data = true →
      (nodeNo k = sweepNode ∨ nodeOpen s (nodeNo k) = true) → binRoom s (nodeNo k) = true → data.length ≤ h.len.toNat →
      enqBehind s (nodeNo k) = false →
      exec (.hostEnq h cap data) s = .next (binPut s g (nodeNo k) data (List.replicate (data.length / 16) false))) ∧
    (∀ code args dn sv r slot, wingLives s g = true → 128 ≤ h.len.toNat → data.length = 128 → q 1 = some code → q 2 = some args → q 3 = some dn →
      hostCapOr0 s (BitVec.ofNat 128 (fld data 64 16)) = some sv → parseLaunch s g true data code args dn sv = .ok r →
      enterLaunch s g r = some (s', slot) →
      exec (.hostEnqa h data none) s = answered s' h 0x02 (enqaWord 0 (levelId s' slot)).toNat) ∧
    (∀ code args dn sv e, wingLives s g = true → 128 ≤ h.len.toNat → data.length = 128 → q 1 = some code → q 2 = some args → q 3 = some dn →
      hostCapOr0 s (BitVec.ofNat 128 (fld data 64 16)) = some sv → parseLaunch s g true data code args dn sv = .error e →
      reqOf s h 0x02 = none → refuseLaunch s g dn e .none = .ok s' →
      exec (.hostEnqa h data none) s = answered s' h 0x02 (enqaWord e 0).toNat) ∧
    (0 < len → len ≤ 4096 → reqOf s h 0x03 = none → hostReach s h c off len [pLD] false = .ok segs →
      exec (.hostRead h cap off len) s = .next (reply s h 0x03 0 0 (hostBytes s w segs))) ∧
    (data.length ≤ h.len.toNat → hostReach s h c off data.length [pST] true (d.prot && migrating s h (capAddr (c.getD {}) + off) data.length) = .ok segs →
      exec (.hostWrite h cap off data) s = .next (hostPut s w (if d.prot then d.key else none) segs data)) ∧
    (∀ x pa ipa m k, (d.prot = false → hostBytes s w [(.mem x pa ipa, m)] = readMem s pa m) ∧
      (NoRace s plainAccess → leafBypass s w x = false →
        hostPut s w none [(.mem x pa ipa, m)] data = writeMem s pa (data.take m) ∧
        capwPut w [(.mem x pa ipa, 16)] 0 [k] s =
          setMemTag (writeMem s pa (capBytes (filterCap s k))) pa (filterCap s k).tag)) ∧
    (∀ k, c = some k → off % 16 = 0 → (capAddr k + off) % 16 = 0 → 0 < ims.length → ims.length ≤ 256 → 16 * ims.length ≤ h.len.toNat →
      hostReach s h c off (16 * ims.length) [pST, pSTC] true = .ok segs →
      ((List.range ims.length).mapM fun i => capwImage s w (nth 0 ims i) (capAddr k + off + 16 * i : Nat)) = some cs →
      exec (.capw h cap off ims) s = answered (capwPut w segs 0 cs s) h 0x05 0) ∧
    (∀ op : BitVec 8, unassignedOp op.toNat = true → exec (.hostOpcodeUnassigned h op) s = .next (reply s h op.toNat 0x06 0 [])) ∧
    exec (.stage2Answer h tok retry) s = answered (answerToken s tok.toNat (if retry then .retry else .fail)) h 0x21 0 ∧
    (wingLives s g = true → exec (.poolRefill h tok none) s = answered (answerToken s tok.toNat .refuse) h 0x22 0) ∧
    (∀ f : BitVec 48, wingLives s g = true → f.toNat % 65536 = 0 → w.pool.length + w.poolPending.length + 1 ≤ 2 ^ 20 →
      exec (.poolRefill h tok (some [f])) s =
        answered (answerToken (setWing s g { w with pool := w.pool ++ [f.toNat] }) tok.toNat .retry) h 0x22 0) ∧
    (∀ slot, findLevel s lid.toNat = some slot →
      exec (.hostCancel h lid) s = answered (cancelLevel s slot) h 0x24 0 ∧
      exec (.levelClose h lid) s = answered (closeLevel s slot) h 0x32 0) ∧
    (findLevel s lid.toNat = none → exec (.hostCancel h lid) s = answered s h 0x24 0 ∧
      exec (.levelClose h lid) s = answered s h 0x32 0) ∧
    (∀ r', off % 65536 = 0 → len % 65536 = 0 → 65536 ≤ len → len ≤ 2 ^ 39 - 65536 → (phys = true ∨ wingLives s g = true) →
      reqOf s h 0x25 = none → hostScrubGo w phys owner.toNat off (len / 65536) 0 (receiptOf 0) s = (s', .done r') →
      exec (.hostScrub h phys off len owner) s = answered s' h 0x25 (receiptWord r').toNat) ∧
    (∀ n, data.length = 64 → 64 ≤ h.len.toNat → sweepWing s h world.toNat = some n → s.sweepQ.length < 16 → ∃ r t,
      exec (.hostRevocationSweep h world data) s = .next t ∧ t.sweepQ = s.sweepQ ++ [r] ∧ r.world = world.toNat ∧ r.wing = n ∧
      r.len = fld data 16 8 ∧ r.start = fld data 24 8) ∧
    (∀ d is slot t ks, wingLives s g = true → hostCap s done = some d → doneOk d w.world = true → nodes ≠ [] →
      nodes.mapM (nodeInfo s g) = .ok is → newLevel s g d 0 0 (.graph [] false) = some (s', slot) →
      allotNodes s' slot (nodes.zip is) = some (t, ks) → ∃ u, exec (.graphCreate h done 0 nodes) s = .next u ∧
        (levelAt u slot).body = .graph ks false ∧
        HostOut.nodeCaps h.token (ks.map fun k => (nodeCap k (nodeAt u k).gen w.world).bits) ∈ u.outbox) ∧
    (∀ d ps slot, wingLives s g = true → data.length ≤ h.len.toNat → fld data 0 2 ≠ 0 → fld data 2 14 = 0 → data.length = 32 + 16 * fld data 0 2 → q 1 = some d →
      jobCaps s data = some ps → doneOk d w.world = true → (∀ p ∈ ps, plainCap p w.world [pLD] = true) →
      newLevel s g d 0 0 (.job ps 0 0 false) = some (s', slot) →
      exec (.jobCreate h data) s = answered s' h 0x15 (levelId s' slot)) ∧
    (let k : Cap := ⟨true, BitVec.ofNat 128 (fld data 0 16)⟩
     let n := fld data 16 4
     let r := dealAll k data n 0 s
     capOtype k = 3 → (bindAt s (bindNo k)).used = true → 2 ≤ bindRole k → bindKind k < 6 → fld data 20 108 = 0 →
      128 + n * recSize (bindKind k) ≤ data.length → data.length ≤ h.len.toNat → r.2.2 < 256 →
      exec (.deal h data) s = answered r.1 h 0x18 (dealWord r.2.1 r.2.2).toNat) ∧
    (let s1 := tendScans s g
     let m := mapReq req
     let hi := va.toNat + 2 ^ sizeBits m.size
     wingLives s g = true → reqOf s h 0x33 = none → (w.scans.find? fun z => z.host == some (h.assoc, h.token)) = none →
      regionOk w m va.toNat = true → scanBusy s g none = false →
      mapRun s1 g va.toNat m frame.toNat false [] = .status s' v →
      ((v.toNat / 2 ^ 56 ≠ 0 ∨ losesRights s1 (wingAt s1 g) va.toNat m = false) →
        exec (.stage1Map h va req frame) s = answered s' h 0x33 v.toNat) ∧
      (v.toNat / 2 ^ 56 = 0 → losesRights s1 (wingAt s1 g) va.toNat m = true →
        usesPages (invalidate s' g va.toNat hi true) g va.toNat hi = false →
        exec (.stage1Map h va req frame) s =
          answered (freeAfterTlbi (invalidate s' g va.toNat hi true) g va.toNat hi) h 0x33 v.toNat))

/-- R7, R66, R67, R312, R317, R319, R322, R328, R334, R342, R404, R406, R412, R413, R417, R422, R424, R426: the messages that
manage wings, worlds, bindings, associations, clock, power and captures, under a live key of a management association, where
nothing speaks against them: each is answered with STATUS 0 in the state that it leaves.
How a message and its answer are carried, and some statuses, are the model's choices and readings (logs 15, 38). -/
def Obligations.HostManagementMessages : Prop :=
  ∀ (s : State) (h : HostHdr) (block : List Byte) (world : BitVec 4) (qs : QuotaSpec) (ipa : BitVec 48) (level b image n : Nat)
    (entry : BitVec 64) (spec : BindSpec) (ctx : BitVec 32) (intact : Bool) (arm : ArmSpec) (s' : State),
    let g := h.wing.toNat
    let w := wingAt s g
    let a := assocAt s n
    let bd := bindAt s b
    Manages s h →
    (block.length ≤ h.len.toNat → createWing s block = .ok (s', n) → exec (.wingCreate h block) s = answered s' h 0x10 n) ∧
    ((liveWorlds s).contains world.toNat = true → qs.l2q ≤ 15 → ((worldAt s world.toNat).prot = true ∨ qs.l2p = 0) →
      qs.msp.length = 16 → quotaStatus s world.toNat qs = 0 →
      (let d := worldAt s world.toNat
       let s1 := if losesWays d.q qs then leaveWays s world.toNat qs else s
       exec (.quota h world qs) s = answered (setWorld s1 world.toNat (newQuota d qs)) h 0x12 0)) ∧
    (wingLives s g = true →
      (reqOf s h 0x11 = none →
        ((wingAt (destroyWing s g) g).run ≠ .ending → exec (.wingDestroy h) s = answered (destroyWing s g) h 0x11 0) ∧
        ((wingAt (destroyWing s g) g).run = .ending →
          exec (.wingDestroy h) s = .next (await (destroyWing s g) h 0x11 0 .none))) ∧
      exec (.wingReset h) s = answered (resetWing s g 3) h 0x23 0 ∧
      (∀ table, 1 ≤ level → level ≤ 4 → s2TableFrom s ipa.toNat level 4 1 (s2Root w) = some table →
        (let t := writeMem s (entryAt table level ipa.toNat) (natLe 8 entry.toNat)
         entryInDram (entryAt table level ipa.toNat) = true → writeLocked s (entryAt table level ipa.toNat) = false →
         s2Breaks s t = false → exec (.stage2TableWrite h ipa level entry) s = answered t h 0x13 0)) ∧
      (w.run = .running → (∀ j ∈ w.alcs, (alcAt s j).shadow = none) →
        exec (.preEmptWing h) s = .next (await (stopWing s g) h 0x1B 0 .none)) ∧
      ((restoreWing s g image intact).2 = 0 → restoreRoom s g image = true →
        exec (.restoreWing h image intact) s = answered (restoreWing s g image intact).1 h 0x1C 0) ∧
      (w.run = .swapped → inShadow s g = true →
        sweeping s w.world = false → exec (.saveOut h) s = .next (reply (saveOut s g).1 h 0x1D 0 (saveOut s g).2
          (((saveOut s g).1.images.getLast?.map imageBytes).getD []))) ∧
      (∀ u k src, unitByCtx s g ctx = some u → w.run = .running → (unitAt s u).held = none → (unitAt s u).ending = none →
        (unitAt s u).boot = none → anyHandler s (unitAt s u).waves = false → preEmptTarget s (unitAt s u) = some (k, src) →
        exec (.unitPreEmpt h ctx) s = answered (takeTrap s k src { cause := 0x16 }) h 0x1E 0) ∧
      (∀ u x k src, (s.units.find? fun e => e.2.used && e.2.wing == g && e.2.ctxid == ctx) = some (u, x) →
        x.held = some (k, src) →
        exec (.haltResume h ctx) s = answered (onContext s g fun s => resumeHeld s u k) h 0x1F 0 ∧
        exec (.haltEnd h ctx) s = answered (onContext s g fun s =>
          endUnit (setUnit s u { unitAt s u with held := none }) u .failed 0) h 0x20 0) ∧
      (∀ i idx bm : BitVec 48, (∃ j, j < 11 ∧ n = 2 ^ (10 + j)) → i.toNat % 8 = 0 → idx.toNat % 8 = 0 →
        exec (.logEnable h i idx bm n) s =
          answered (setWing s g { w with log := some ⟨i.toNat, idx.toNat, bm.toNat, n⟩ }) h 0x27 0) ∧
      (∀ l, w.log = some l → b + n ≤ 2 ^ 32 → exec (.harvest h b n) s =
        answered ((List.range n).foldl (fun s i => clearBit s w l (b + i)) s) h 0x28 0) ∧
      exec (.logDisable h) s = answered (setWing s g { w with log := none }) h 0x29 0 ∧
      exec (.snapshotArm h arm) s = answered (setWing s g { w with armed := arm }) h 0x2D 0) ∧
    (bd.used = true →
      exec (.unbind h b) s = answered (gateUnbind s b) h 0x17 0 ∧
      exec (.resumeBinding h b) s = answered (gateRelease (setBind s b { bd with suspended := false }) b) h 0x1A 0 ∧
      (bindQuiet s b = true → exec (.suspendBinding h b) s = answered (setBind s b { bd with suspended := true }) h 0x19 0)) ∧
    (∀ m, spec.pools.all poolSpecOk = true → (spec.pools.map fun p => (p.party, p.kind)).Nodup →
      (wingAt s spec.wing0).used = true → (wingAt s spec.wing1).used = true →
      (wingAt s spec.wing0).world ≠ (wingAt s spec.wing1).world → (wingAt s spec.wing0).party = false →
      (wingAt s spec.wing1).party = true → ((List.range 256).find? fun m => !(bindAt s m).used) = some m →
      exec (.bind h spec) s = answered (setBind s m (bindingOf spec)) h 0x16 m) ∧
    ((liveWorlds s).length = 1 → exec (.clockRaise h 1100) s =
      answered { s with clockChange := if s.fast && s.clockChange.isNone then none else some true } h 0x2A 0) ∧
    (1500 ≤ n → n ≤ 4200 → exec (.powerCap h n) s = answered { s with powerCap := n } h 0x2C 0) ∧
    exec (.snapshotTrigger h) s = answered (capTrigger s []) h 0x2E 0 ∧
    (∀ c, s.capHeld = some c → exec (.snapshotReadout h) s =
      answered (emit { s with capHeld := none } (.capture h.token c)) h 0x2F c.seqNo.toNat) ∧
    (a.used = true → a.gens.length < 2 → ∃ t, exec (.keyRoll h n) s = .next t ∧
      (assocAt t n).gens.head? = some (a.gens.headD 0 + 1) ∧
      HostOut.completion (replyHdr h 0x2B 0 []) 0 [] ∈ t.outbox) ∧
    (1 ≤ level → level ≤ 10000 → ∃ m t, exec (.hostAssociationCreate h image level) s = .next t ∧
      HostOut.completion (replyHdr h 0x30 0 []) m [] ∈ t.outbox ∧
      (m ≠ h.assoc → assocAt t m = { used := true, peer := image, gens := [0], timeoutMs := level })) ∧
    (a.used = true → a.manage = false → ∃ t, exec (.hostAssociationRemove h n) s = .next t ∧ (assocAt t n).used = false ∧
      HostOut.completion (replyHdr h 0x31 0 []) 0 [] ∈ t.outbox)

-- Statements about every instruction, and about the step.

/-- R5, R97, R174: an instruction that acts on registers alone always answers a next state. Whether it traps or not, every byte
of memory, every tag and owner tag, every wing, world, level, node and binding stays, and so do the outstanding accesses,
counters and deferred errors of every wave; of another wave all registers stay. -/
def Obligations.RegisterOnlyFrame : Prop :=
  ∀ (i : Instr) (s : State), registerOnly i = true → ∃ t, exec i s = .next t ∧
    (∀ a, readByte t a = readByte s a) ∧ t.tags = s.tags ∧ t.owners = s.owners ∧ t.wings = s.wings ∧ t.worlds = s.worlds ∧
    t.levels = s.levels ∧ t.nodes = s.nodes ∧ t.bindings = s.bindings ∧ t.outbox = s.outbox ∧
    (∀ k, (waveAt t k).accs = (waveAt s k).accs ∧ (waveAt t k).counts = (waveAt s k).counts ∧
      (waveAt t k).errs = (waveAt s k).errs) ∧
    (∀ k, k ≠ s.cur.wave → (waveAt t k).regs = (waveAt s k).regs ∧ (waveAt t k).a.pc = (waveAt s k).a.pc ∧
      (waveAt t k).b.pc = (waveAt s k).b.pc ∧ (waveAt t k).frame = (waveAt s k).frame)

/-- R2, R48, R68, R227, R424: a step that issues runs the instruction that the four bytes at the program counter decode to, least
significant first, for the issuing source, and then what every issue leaves; an event without a word runs as it is named. A
device without power makes no step, except to power on.
What surrounds the execution (the skid count of R306, the end of an aging wait of R394, the room of a dirty log of R413) is
`afterIssue` and `afterMove`; the script of moves is the model's own (log 4). -/
def Obligations.StepRunsDecoded : Prop :=
  ∀ (s : State) (k pa ipa e sh : Nat) (src : Src) (i : Instr),
    let u : State := { s with script := s.script.tail }
    let pc := (srcPc (waveAt u k) src).toNat
    (s.powered = true → nextMove s = some (.issue k src) → canIssue u k src = true →
      pccCause (getC (srcRead (waveAt u k) src) 31) pc = none → failedAt (fetchHold (srcHold (waveAt u k) src)) pc 4 = false →
      translateAs u k 34 pc .fetch (fetchHold (srcHold (waveAt u k) src)) = .ok pa ipa e sh →
      ownerBad u (wingOf u k) pa ipa 4 = false → poisoned u pa 4 = false →
      decodeWord (wordOfBytes (readByte u pa) (readByte u (pa + 1)) (readByte u (pa + 2)) (readByte u (pa + 3))) = .ok i →
      step s = closeMove u (afterIssue k src (srcHold (waveAt u k) src) i)
        (exec i { noteFetch u k pc (.ok pa ipa e sh) with cur := ⟨k, src⟩ })) ∧
    (s.powered = true → nextMove s = some (.event i) → encode i = none → step s = closeMove u id (exec i u)) ∧
    (s.powered = false → (∀ m, nextMove s = some m → isPowerOn m = false) → step s = .fault .noPower)

/-- R48 to R53, R60, R64: decoding and encoding agree. Every well-formed instruction that has a word is what its word decodes
to, and every word that the scanner accepts is the word of the instruction it decodes to, which is well formed. -/
def Obligations.EncodeDecode : Prop :=
  (∀ i : Instr, Laws.Encoding.Statement i) ∧
  (∀ (w : Word) (i : Instr), decodeWord w = .ok i → i.wf = true ∧ encode i = some w)

/-- R2, R48, R49: words written out bit by bit from the encoding tables decode to what they stand for; the all-zero word and a
word of an unassigned major opcode decode to nothing. -/
def Obligations.DecodeWords : Prop :=
  decodeWord 0x8802081A = .ok (.sadd true 2 4 6 true) ∧
  decodeWord 0x03180009 = .ok (.brp false 1 true 9) ∧
  decodeWord 0x25020806 = .ok (.vunpk false 2 4 1) ∧
  decodeWord 0xB30209F0 = .ok (.cinc true 2 4 496) ∧
  decodeWord 0xBE022863 = .ok (.lds true 2 5 6 3) ∧
  decodeWord 0x4C822865 = .ok (.axadd false 2 5 6 2 true) ∧
  decodeWord 0xD5B46009 = .ok (.mma true 3 4 6 2 1) ∧
  decodeWord 0x5F820819 = .ok (.shrvlR false 2 4 6) ∧
  decodeWord 0xE4022861 = .ok (.rcpdef true 2 5 6 true) ∧
  decodeWord 0xF102000C = .ok (.mfsr true 2 12) ∧
  decodeWord 0 = .error .allZero ∧
  decodeWord 0x07000000 = .error .unassignedMajor

/-- R413: no step makes a dirty-log ring hold more than its size: a write for which there is no room waits.
That the whole move waits is the model's reading (log 10). -/
def Obligations.DirtyLogNeverOverflows : Prop :=
  ∀ (s t : State), logOverflow s = false → step s = .next t → logOverflow t = false

/-- Memory stays in its canonical form, which is the model's choice (log 2): whatever a step does, the addresses listed rise strictly and no byte listed is
the zero that an unlisted address reads as, so that equal memories are equal data. -/
def Obligations.MemoryStaysCanonical : Prop :=
  ∀ (s t : State), Memory.wf s.mem = true → step s = .next t → Memory.wf t.mem = true

/-- R7, R405, R417, R423: the state after power-on, before bring-up: no wing, wave, unit, association or binding; Lemsal is not
up, the clock is at 850 MHz; it meets both invariants. That memory reads as zero there is the model's choice (log 2). Bring-up
is its first step: then the device is up, with its management associations and nothing else. -/
def Obligations.ResetState : Prop :=
  let s := State.reset
  s.wings = [] ∧ s.waves = [] ∧ s.units = [] ∧ s.assocs = [] ∧ s.bindings = [] ∧ s.levels = [] ∧ s.up = false ∧
  s.fast = false ∧ s.powered = true ∧ s.capHeld = none ∧ s.outbox = [] ∧
  (∀ a, readByte s a = 0) ∧ Memory.wf s.mem = true ∧ logOverflow s = false ∧
  ∃ t, step s = .next t ∧ t.up = true ∧ t.wings = [] ∧ t.outbox = [.ready] ∧ logOverflow t = false ∧
    Memory.wf t.mem = true ∧ t.assocs ≠ [] ∧ ∀ e ∈ t.assocs, e.2.used = true ∧ e.2.manage = true

end
end

