-- ==== Sys2Proof/Laws/Tables.lean ====
section
/-! SUPPORT. Read after write for tables with rising numbers, for the objects of the state and for the registers. -/
namespace Sys2Proof.Laws.Tables
open Sys2Proof Sys2Proof.Machine

variable {α : Type}

theorem tget_tput (d : α) (t : Table α) (n m : Nat) (x : α) :
    tget d (tput t n x) m = if n = m then x else tget d t m := by
  induction t with
  | nil => by_cases h : n = m <;> simp [tput, tget, h]
  | cons e t ih =>
    obtain ⟨k, v⟩ := e
    simp only [tput]
    split
    · subst_vars; simp only [tget]; split <;> simp_all
    · split
      · simp only [tget]; split
        · rfl
        · split
          · rw [if_neg (by omega), if_pos (by omega)]
          · rfl
      · simp only [tget, ih]; split
        · rw [if_neg (by omega)]
        · split
          · rw [if_neg (by omega)]
          · rfl

theorem tlook_tput (t : Table α) (n m : Nat) (x : α) :
    tlook (tput t n x) m = if n = m then some x else tlook t m := by
  induction t with
  | nil => by_cases h : n = m <;> simp [tput, tlook, h]
  | cons e t ih =>
    obtain ⟨k, v⟩ := e
    simp only [tput]
    split
    · subst_vars; simp only [tlook]; split <;> simp_all
    · split
      · simp only [tlook]; split
        · rfl
        · split
          · rw [if_neg (by omega), if_pos (by omega)]
          · rfl
      · simp only [tlook, ih]; split
        · rw [if_neg (by omega)]
        · split
          · rw [if_neg (by omega)]
          · rfl

/-- A later lower bound is weaker. -/
theorem trising_mono {a b : Nat} (h : a ≤ b) {t : Table α} (ht : trising b t = true) : trising a t = true := by
  cases t with
  | nil => rfl
  | cons e t =>
    obtain ⟨k, v⟩ := e
    simp only [trising, Bool.and_eq_true, decide_eq_true_eq] at ht ⊢
    exact ⟨by omega, ht.2⟩

theorem tget_below (d : α) {t : Table α} {lo m : Nat} (ht : trising lo t = true) (hm : m < lo) : tget d t m = d := by
  cases t with
  | nil => rfl
  | cons e t =>
    obtain ⟨k, v⟩ := e
    simp only [trising, Bool.and_eq_true, decide_eq_true_eq] at ht
    simp only [tget]
    rw [if_neg (by omega), if_pos (by omega)]

theorem tget_tdel (d : α) (t : Table α) (n m : Nat) {lo : Nat} (ht : trising lo t = true) :
    tget d (tdel t n) m = if n = m then d else tget d t m := by
  induction t generalizing lo with
  | nil => simp [tdel, tget]
  | cons e t ih =>
    obtain ⟨k, v⟩ := e
    simp only [trising, Bool.and_eq_true, decide_eq_true_eq] at ht
    simp only [tdel]
    split
    · subst_vars
      simp only [tget]
      split
      · subst_vars; exact tget_below d ht.2 (by omega)
      · split
        · exact tget_below d ht.2 (by omega)
        · rfl
    · split
      · split
        · subst_vars; simp only [tget]; rw [if_neg (by omega), if_pos (by omega)]
        · rfl
      · simp only [tget, ih ht.2]; split
        · rw [if_neg (by omega)]
        · split
          · simp
          · rfl

theorem tget_tset [DecidableEq α] (d : α) (t : Table α) (n m : Nat) (x : α) {lo : Nat} (ht : trising lo t = true) :
    tget d (tset d t n x) m = if n = m then x else tget d t m := by
  unfold tset
  split
  · subst_vars; exact tget_tdel x t n m ht
  · exact tget_tput d t n m x

theorem trising_tput {t : Table α} {lo n : Nat} (x : α) (ht : trising lo t = true) (hn : lo ≤ n) :
    trising lo (tput t n x) = true := by
  induction t generalizing lo with
  | nil => simp [tput, trising, hn]
  | cons e t ih =>
    obtain ⟨k, v⟩ := e
    simp only [trising, Bool.and_eq_true, decide_eq_true_eq] at ht
    simp only [tput]
    split
    · subst_vars; simp [trising, ht]
    · split
      · simp only [trising, Bool.and_eq_true, decide_eq_true_eq]; exact ⟨hn, by omega, ht.2⟩
      · simp only [trising, Bool.and_eq_true, decide_eq_true_eq]; exact ⟨ht.1, ih ht.2 (by omega)⟩

theorem trising_tdel {t : Table α} {lo n : Nat} (ht : trising lo t = true) : trising lo (tdel t n) = true := by
  induction t generalizing lo with
  | nil => rfl
  | cons e t ih =>
    obtain ⟨k, v⟩ := e
    simp only [trising, Bool.and_eq_true, decide_eq_true_eq] at ht
    simp only [tdel]
    split
    · exact trising_mono (by omega) ht.2
    · split
      · simp [trising, ht]
      · simp only [trising, Bool.and_eq_true, decide_eq_true_eq]; exact ⟨ht.1, ih ht.2⟩

theorem trising_tset [DecidableEq α] (d : α) {t : Table α} {lo n : Nat} (x : α) (ht : trising lo t = true) (hn : lo ≤ n) :
    trising lo (tset d t n x) = true := by
  unfold tset; split
  · exact trising_tdel ht
  · exact trising_tput x ht hn

theorem trising_filter {t : Table α} {lo : Nat} (p : Nat × α → Bool) (ht : trising lo t = true) :
    trising lo (t.filter p) = true := by
  induction t generalizing lo with
  | nil => rfl
  | cons e t ih =>
    obtain ⟨k, v⟩ := e
    simp only [trising, Bool.and_eq_true, decide_eq_true_eq] at ht
    simp only [List.filter_cons]
    split
    · simp only [trising, Bool.and_eq_true, decide_eq_true_eq]; exact ⟨ht.1, ih ht.2⟩
    · exact trising_mono (by omega) (ih ht.2)

theorem mem_tput {t : Table α} {n : Nat} {x : α} {e : Nat × α} (h : e ∈ tput t n x) : e = (n, x) ∨ e ∈ t := by
  induction t with
  | nil => simp [tput] at h; exact .inl h
  | cons f t ih =>
    obtain ⟨k, v⟩ := f
    simp only [tput] at h
    split at h
    · rcases List.mem_cons.mp h with h | h
      · exact .inl h
      · exact .inr (List.mem_cons_of_mem _ h)
    · split at h
      · rcases List.mem_cons.mp h with h | h
        · exact .inl h
        · exact .inr h
      · rcases List.mem_cons.mp h with h | h
        · exact .inr (h ▸ List.mem_cons_self)
        · exact (ih h).imp_right (List.mem_cons_of_mem _)

theorem mem_tdel {t : Table α} {n : Nat} {e : Nat × α} (h : e ∈ tdel t n) : e ∈ t := by
  induction t with
  | nil => exact h
  | cons f t ih =>
    obtain ⟨k, v⟩ := f
    simp only [tdel] at h
    split at h
    · exact List.mem_cons_of_mem _ h
    · split at h
      · exact h
      · rcases List.mem_cons.mp h with h | h
        · exact h ▸ List.mem_cons_self
        · exact List.mem_cons_of_mem _ (ih h)

-- The objects of the state.

@[simp] theorem waveAt_setWave (s : State) (k j : Nat) (w : Wave) : waveAt (setWave s k w) j = if k = j then w else waveAt s j :=
  tget_tput _ _ _ _ _
@[simp] theorem unitAt_setUnit (s : State) (k j : Nat) (x : Machine.Unit) : unitAt (setUnit s k x) j = if k = j then x else unitAt s j :=
  tget_tput _ _ _ _ _
@[simp] theorem wingAt_setWing (s : State) (k j : Nat) (x : Wing) : wingAt (setWing s k x) j = if k = j then x else wingAt s j :=
  tget_tput _ _ _ _ _
@[simp] theorem worldAt_setWorld (s : State) (k j : Nat) (x : World) : worldAt (setWorld s k x) j = if k = j then x else worldAt s j :=
  tget_tput _ _ _ _ _
@[simp] theorem alcAt_setAlc (s : State) (k j : Nat) (x : Alcove) : alcAt (setAlc s k x) j = if k = j then x else alcAt s j :=
  tget_tput _ _ _ _ _
@[simp] theorem levelAt_setLevel (s : State) (k j : Nat) (x : Level) : levelAt (setLevel s k x) j = if k = j then x else levelAt s j :=
  tget_tput _ _ _ _ _
@[simp] theorem nodeAt_setNode (s : State) (k j : Nat) (x : Node) : nodeAt (setNode s k x) j = if k = j then x else nodeAt s j :=
  tget_tput _ _ _ _ _
@[simp] theorem bindAt_setBind (s : State) (k j : Nat) (x : Binding) : bindAt (setBind s k x) j = if k = j then x else bindAt s j :=
  tget_tput _ _ _ _ _

-- The registers (R94): read after write in the canonical form.

/-- The register tables are in canonical form. -/
def RegsRise (r : RegFile) : Prop :=
  trising 0 r.s = true ∧ trising 0 r.p = true ∧ trising 0 r.c = true ∧ trising 0 r.v = true ∧ trising 0 r.vc = true

theorem getS_setS {r : RegFile} (h : RegsRise r) (n m : Nat) (v : DWord) : getS (setS r n v) m = if n = m then v else getS r m :=
  tget_tset _ _ _ _ _ h.1
theorem getP_setP {r : RegFile} (h : RegsRise r) (n m : Nat) (v : BitVec 32) : getP (setP r n v) m = if n = m then v else getP r m :=
  tget_tset _ _ _ _ _ h.2.1
theorem getC_setC {r : RegFile} (h : RegsRise r) (n m : Nat) (v : Cap) : getC (setC r n v) m = if n = m then v else getC r m :=
  tget_tset _ _ _ _ _ h.2.2.1
theorem getV_setV {r : RegFile} (h : RegsRise r) (n m i j : Nat) (hi : i < 32) (hj : j < 32) (v : BitVec 32) :
    getV (setV r n i v) m j = if n = m ∧ i = j then v else getV r m j := by
  unfold getV setV
  rw [tget_tset _ _ _ _ _ h.2.2.2.1]
  congr 1; simp only [eq_iff_iff]; omega
theorem getVC_setVC {r : RegFile} (h : RegsRise r) (n m i j : Nat) (hi : i < 32) (hj : j < 32) (v : Cap) :
    getVC (setVC r n i v) m j = if n = m ∧ i = j then v else getVC r m j := by
  unfold getVC setVC
  rw [tget_tset _ _ _ _ _ h.2.2.2.2]
  congr 1; simp only [eq_iff_iff]; omega

/-- A write keeps the canonical form. -/
theorem setS_rise {r : RegFile} (h : RegsRise r) (n : Nat) (v : DWord) : RegsRise (setS r n v) :=
  ⟨trising_tset _ _ h.1 (Nat.zero_le _), h.2⟩
theorem setP_rise {r : RegFile} (h : RegsRise r) (n : Nat) (v : BitVec 32) : RegsRise (setP r n v) :=
  ⟨h.1, trising_tset _ _ h.2.1 (Nat.zero_le _), h.2.2⟩
theorem setC_rise {r : RegFile} (h : RegsRise r) (n : Nat) (v : Cap) : RegsRise (setC r n v) :=
  ⟨h.1, h.2.1, trising_tset _ _ h.2.2.1 (Nat.zero_le _), h.2.2.2⟩
theorem setV_rise {r : RegFile} (h : RegsRise r) (n l : Nat) (v : BitVec 32) : RegsRise (setV r n l v) :=
  ⟨h.1, h.2.1, h.2.2.1, trising_tset _ _ h.2.2.2.1 (Nat.zero_le _), h.2.2.2.2⟩
theorem setVC_rise {r : RegFile} (h : RegsRise r) (n l : Nat) (v : Cap) : RegsRise (setVC r n l v) :=
  ⟨h.1, h.2.1, h.2.2.1, h.2.2.2.1, trising_tset _ _ h.2.2.2.2 (Nat.zero_le _)⟩

end Sys2Proof.Laws.Tables
end

