-- ==== Sys2Proof/Laws/Memory.lean ====
section
/-! SUPPORT. Every operation of Machine/Mem.lean keeps the canonical form of memory, and what a read gives after a
write. -/
namespace Sys2Proof.Laws.Mem
open Sys2Proof Sys2Proof.Machine Sys2Proof.Laws.Tables

theorem wf_iff (m : List Host.Cell) : Memory.wf m = true ↔ trising 0 m = true ∧ ∀ e ∈ m, e.2 ≠ 0 := by
  simp [Memory.wf]

theorem wf_reset : Memory.wf State.reset.mem = true := rfl

theorem wf_tset {m : List Host.Cell} (h : Memory.wf m = true) (a : Nat) (b : Byte) : Memory.wf (tset 0 m a b) = true := by
  rw [wf_iff] at h ⊢
  refine ⟨trising_tset _ _ h.1 (Nat.zero_le _), fun e he => ?_⟩
  unfold tset at he
  split at he
  · exact h.2 e (mem_tdel he)
  · rcases mem_tput he with rfl | he
    · assumption
    · exact h.2 e he

theorem wf_tputBytes {m : List Host.Cell} (h : Memory.wf m = true) (a : Nat) (bs : List Byte) :
    Memory.wf (tputBytes m a bs) = true := by
  induction bs generalizing m a with
  | nil => exact h
  | cons b bs ih => exact ih (wf_tset h a b) (a + 1)

theorem wf_filter {m : List Host.Cell} (h : Memory.wf m = true) (p : Host.Cell → Bool) : Memory.wf (m.filter p) = true := by
  rw [wf_iff] at h ⊢
  exact ⟨trising_filter p h.1, fun e he => h.2 e (List.mem_filter.mp he).1⟩

theorem wf_foldl {β : Type} (f : List Host.Cell → β → List Host.Cell)
    (hf : ∀ m b, Memory.wf m = true → Memory.wf (f m b) = true) (l : List β) {m : List Host.Cell}
    (h : Memory.wf m = true) : Memory.wf (l.foldl f m) = true := by
  induction l generalizing m with
  | nil => exact h
  | cons b l ih => exact ih (hf m b h)

/-- A fold of operations that keep the form keeps it. -/
theorem wf_fold {β : Type} (f : State → β → State) (hf : ∀ s b, Memory.wf s.mem = true → Memory.wf (f s b).mem = true)
    (l : List β) {s : State} (h : Memory.wf s.mem = true) : Memory.wf (l.foldl f s).mem = true := by
  induction l generalizing s with
  | nil => exact h
  | cons b l ih => exact ih (hf s b h)

@[simp] theorem keepImage_mem (s : State) (line : Nat) : (keepImage s line).mem = s.mem := by
  unfold keepImage; split <;> rfl

@[simp] theorem foldl_keepImage_mem (l : List Nat) (s : State) : (l.foldl keepImage s).mem = s.mem := by
  induction l generalizing s with
  | nil => rfl
  | cons a l ih => simp [ih]

@[simp] theorem putBytes_mem (s : State) (pa : Nat) (bs : List Byte) : (putBytes s pa bs).mem = tputBytes s.mem pa bs := rfl
@[simp] theorem putBytes_owners (s : State) (pa : Nat) (bs : List Byte) : (putBytes s pa bs).owners = s.owners := rfl

@[simp] theorem pokeMem_mem (s : State) (pa : Nat) (bs : List Byte) : (pokeMem s pa bs).mem = tputBytes s.mem pa bs := by
  simp [pokeMem]

theorem wf_pokeMem {s : State} (h : Memory.wf s.mem = true) (pa : Nat) (bs : List Byte) :
    Memory.wf (pokeMem s pa bs).mem = true := by
  rw [pokeMem_mem]; exact wf_tputBytes h pa bs

@[simp] theorem setMemTag_mem (s : State) (pa : Nat) (t : Bool) : (setMemTag s pa t).mem = s.mem := rfl

theorem wf_pokeIpa {s : State} (h : Memory.wf s.mem = true) (w : Wing) (ipa : Nat) (bs : List Byte) :
    Memory.wf (pokeIpa s w ipa bs).mem = true := by
  unfold pokeIpa; split
  · split
    · exact h
    · exact wf_pokeMem h _ _
  · exact h

theorem wf_logPage {s : State} (h : Memory.wf s.mem = true) (w : Wing) (l : DirtyLog) (ipa : Nat) :
    Memory.wf (logPage s w l ipa).mem = true := by
  unfold logPage; split
  · exact h
  · exact wf_pokeIpa (wf_pokeIpa (wf_pokeIpa h _ _ _) _ _ _) _ _ _

theorem wf_logWrite {s : State} (h : Memory.wf s.mem = true) (pa : Nat) : Memory.wf (logWrite s pa).mem = true := by
  unfold logWrite
  refine wf_fold _ (fun s e hs => ?_) _ h
  split
  · exact hs
  · exact wf_fold _ (fun s ipa hs => wf_logPage hs _ _ _) _ hs

theorem wf_logChange {s : State} (h : Memory.wf s.mem = true) (pa : Nat) (bs : List Byte) :
    Memory.wf (logChange s pa bs).mem = true := by
  unfold logChange; split
  · exact h
  · refine wf_logWrite ?_ _
    split
    · exact h
    · exact wf_logWrite h _

theorem wf_writeMem {s : State} (h : Memory.wf s.mem = true) (pa : Nat) (bs : List Byte) :
    Memory.wf (writeMem s pa bs).mem = true := wf_pokeMem (wf_logChange h _ _) _ _

theorem wf_writeThru {s : State} (h : Memory.wf s.mem = true) (pa : Nat) (bs : List Byte) :
    Memory.wf (writeThru s pa bs).mem = true := wf_tputBytes (wf_logChange h _ _) _ _


@[simp] theorem cleanLine_mem (s : State) (line : Nat) : (cleanLine s line).mem = s.mem := rfl

theorem wf_restoreLine {s : State} (h : Memory.wf s.mem = true) (line : Nat) (im : LineImage) :
    Memory.wf (restoreLine s line im).mem = true := wf_foldl _ (fun _ _ hm => wf_tset hm _ _) _ (wf_filter h _)

theorem wf_discardLine {s : State} (h : Memory.wf s.mem = true) (line : Nat) : Memory.wf (discardLine s line).mem = true := by
  unfold discardLine
  split
  · exact h
  · exact wf_restoreLine (wf_logChange (s := forgetStrong s line) h _ _) _ _

theorem wf_scrubLine {s : State} (h : Memory.wf s.mem = true) (line owner : Nat) :
    Memory.wf (scrubLine s line owner).mem = true := by
  unfold scrubLine
  generalize List.replicate 128 (0 : Byte) = z
  exact wf_writeThru h _ z

theorem wf_scrubFrame {s : State} (h : Memory.wf s.mem = true) (frame owner : Nat) :
    Memory.wf (scrubFrame s frame owner).mem = true := wf_fold _ (fun _ _ hs => wf_scrubLine hs _ _) _ h

@[simp] theorem putScr_mem (s : State) (k off : Nat) (bs : List Byte) : (putScr s k off bs).mem = s.mem := rfl

theorem wf_writeVia {s : State} (h : Memory.wf s.mem = true) (thru : Bool) (pa : Nat) (bs : List Byte) :
    Memory.wf (writeVia s thru pa bs).mem = true := by
  unfold writeVia; split
  · exact wf_writeThru h pa bs
  · exact wf_writeMem h pa bs

theorem wf_writePieces (w : Wing) (l : List (Nat × Nat)) {s : State} (h : Memory.wf s.mem = true) (va : Nat) (bs : List Byte) :
    Memory.wf (writePieces s w va l bs).mem = true := by
  induction l generalizing s va bs with
  | nil => exact h
  | cons p l ih => exact ih (wf_writeVia h _ _ _) _ _

theorem wf_writeCapVia {s : State} (h : Memory.wf s.mem = true) (w : Wing) (va pa : Nat) (c : Cap) :
    Memory.wf (writeCapVia s w va pa c).mem = true := wf_writeVia h _ _ _

theorem wf_devWrite {s : State} (h : Memory.wf s.mem = true) (w : Wing) (va : Nat) (bs : List Byte) :
    Memory.wf (devWrite s w va bs).mem = true := by
  unfold devWrite; split
  · exact wf_writePieces w _ h _ _
  · exact h

theorem wf_writeLoc {s : State} (h : Memory.wf s.mem = true) (k : Nat) (l : Loc) (bs : List Byte) :
    Memory.wf (writeLoc s k l bs).mem = true := by
  cases l with
  | mem va pa ipa =>
    exact wf_writeVia h _ pa bs
  | scr off => exact h

theorem wf_writeCapLoc {s : State} (h : Memory.wf s.mem = true) (k : Nat) (l : Loc) (c : Cap) :
    Memory.wf (writeCapLoc s k l c).mem = true := by
  cases l with
  | mem va pa ipa => exact wf_writeLoc h k (.mem va pa ipa) (capBytes c)
  | scr off => exact h

-- Reads after writes.

theorem tget_tputBytes {m : List Host.Cell} (h : Memory.wf m = true) (a x : Nat) (bs : List Byte) :
    tget 0 (tputBytes m a bs) x = if a ≤ x ∧ x < a + bs.length then bs.getD (x - a) 0 else tget 0 m x := by
  induction bs generalizing m a with
  | nil => simp only [tputBytes, List.length_nil]; rw [if_neg (by omega)]
  | cons b bs ih =>
    simp only [tputBytes, List.length_cons]
    rw [ih (wf_tset h a b), tget_tset 0 m a x b ((wf_iff m).mp h).1]
    by_cases hx : a = x
    · subst hx
      rw [if_neg (by omega), if_pos rfl, if_pos (by omega)]; simp
    · by_cases hr : a + 1 ≤ x ∧ x < a + 1 + bs.length
      · rw [if_pos hr, if_pos (by omega), show x - a = (x - (a + 1)) + 1 by omega]; simp
      · rw [if_neg hr, if_neg hx, if_neg (by omega)]

/-- A byte read after a write: the written byte inside, the old byte outside. -/
theorem readByte_pokeMem {s : State} (h : Memory.wf s.mem = true) (pa x : Nat) (bs : List Byte) :
    readByte (pokeMem s pa bs) x = if pa ≤ x ∧ x < pa + bs.length then bs.getD (x - pa) 0 else readByte s x := by
  unfold readByte; rw [pokeMem_mem]; exact tget_tputBytes h pa x bs

theorem foldl_keepImage_owners (l : List Nat) (s : State) : (l.foldl keepImage s).owners = s.owners := by
  induction l generalizing s with
  | nil => rfl
  | cons a l ih => simp only [List.foldl_cons, ih]; unfold keepImage; split <;> rfl

/-- A write of a range changes no owner tag (R16). -/
theorem pokeMem_owners (s : State) (pa : Nat) (bs : List Byte) : (pokeMem s pa bs).owners = s.owners := by
  simp [pokeMem, foldl_keepImage_owners]

end Sys2Proof.Laws.Mem
end

