-- ==== Sys2Proof/Laws/State.lean ====
section
/-! SUPPORT. What each update of the state, of a register file and of the parts of a wave leaves in each field: one
lemma per field and update, true by definition. -/
namespace Sys2Proof.Laws.State
open Sys2Proof Sys2Proof.Machine
set_option Elab.async false

section setWave
variable (s : Machine.State) (k : Nat) (w : Wave)
@[simp] theorem setWave_mem : (setWave s k w).mem = s.mem := rfl
@[simp] theorem setWave_tags : (setWave s k w).tags = s.tags := rfl
@[simp] theorem setWave_owners : (setWave s k w).owners = s.owners := rfl
@[simp] theorem setWave_dirty : (setWave s k w).dirty = s.dirty := rfl
@[simp] theorem setWave_poison : (setWave s k w).poison = s.poison := rfl
@[simp] theorem setWave_retired : (setWave s k w).retired = s.retired := rfl
@[simp] theorem setWave_locks : (setWave s k w).locks = s.locks := rfl
@[simp] theorem setWave_lockNo : (setWave s k w).lockNo = s.lockNo := rfl
@[simp] theorem setWave_strong : (setWave s k w).strong = s.strong := rfl
@[simp] theorem setWave_waves : (setWave s k w).waves = tput s.waves k w := rfl
@[simp] theorem setWave_units : (setWave s k w).units = s.units := rfl
@[simp] theorem setWave_alcoves : (setWave s k w).alcoves = s.alcoves := rfl
@[simp] theorem setWave_banks : (setWave s k w).banks = s.banks := rfl
@[simp] theorem setWave_tlb : (setWave s k w).tlb = s.tlb := rfl
@[simp] theorem setWave_wings : (setWave s k w).wings = s.wings := rfl
@[simp] theorem setWave_worlds : (setWave s k w).worlds = s.worlds := rfl
@[simp] theorem setWave_levels : (setWave s k w).levels = s.levels := rfl
@[simp] theorem setWave_nodes : (setWave s k w).nodes = s.nodes := rfl
@[simp] theorem setWave_bindings : (setWave s k w).bindings = s.bindings := rfl
@[simp] theorem setWave_sweep : (setWave s k w).sweep = s.sweep := rfl
@[simp] theorem setWave_sweepQ : (setWave s k w).sweepQ = s.sweepQ := rfl
@[simp] theorem setWave_tokens : (setWave s k w).tokens = s.tokens := rfl
@[simp] theorem setWave_images : (setWave s k w).images = s.images := rfl
@[simp] theorem setWave_up : (setWave s k w).up = s.up := rfl
@[simp] theorem setWave_failedStep : (setWave s k w).failedStep = s.failedStep := rfl
@[simp] theorem setWave_fast : (setWave s k w).fast = s.fast := rfl
@[simp] theorem setWave_clockChange : (setWave s k w).clockChange = s.clockChange := rfl
@[simp] theorem setWave_powerCap : (setWave s k w).powerCap = s.powerCap := rfl
@[simp] theorem setWave_lidHot : (setWave s k w).lidHot = s.lidHot := rfl
@[simp] theorem setWave_powered : (setWave s k w).powered = s.powered := rfl
@[simp] theorem setWave_spares : (setWave s k w).spares = s.spares := rfl
@[simp] theorem setWave_corrected : (setWave s k w).corrected = s.corrected := rfl
@[simp] theorem setWave_temps : (setWave s k w).temps = s.temps := rfl
@[simp] theorem setWave_turn : (setWave s k w).turn = s.turn := rfl
@[simp] theorem setWave_assocs : (setWave s k w).assocs = s.assocs := rfl
@[simp] theorem setWave_outbox : (setWave s k w).outbox = s.outbox := rfl
@[simp] theorem setWave_droppedOption : (setWave s k w).droppedOption = s.droppedOption := rfl
@[simp] theorem setWave_droppedKey : (setWave s k w).droppedKey = s.droppedKey := rfl
@[simp] theorem setWave_capPending : (setWave s k w).capPending = s.capPending := rfl
@[simp] theorem setWave_capHeld : (setWave s k w).capHeld = s.capHeld := rfl
@[simp] theorem setWave_capNext : (setWave s k w).capNext = s.capNext := rfl
@[simp] theorem setWave_capIgnored : (setWave s k w).capIgnored = s.capIgnored := rfl
@[simp] theorem setWave_nextCtx : (setWave s k w).nextCtx = s.nextCtx := rfl
@[simp] theorem setWave_nextUnit : (setWave s k w).nextUnit = s.nextUnit := rfl
@[simp] theorem setWave_nextKey : (setWave s k w).nextKey = s.nextKey := rfl
@[simp] theorem setWave_nextTok : (setWave s k w).nextTok = s.nextTok := rfl
@[simp] theorem setWave_nextSeq : (setWave s k w).nextSeq = s.nextSeq := rfl
@[simp] theorem setWave_fresh : (setWave s k w).fresh = s.fresh := rfl
@[simp] theorem setWave_script : (setWave s k w).script = s.script := rfl
@[simp] theorem setWave_cur : (setWave s k w).cur = s.cur := rfl
end setWave

section setUnit
variable (s : Machine.State) (k : Nat) (x : Machine.Unit)
@[simp] theorem setUnit_mem : (setUnit s k x).mem = s.mem := rfl
@[simp] theorem setUnit_tags : (setUnit s k x).tags = s.tags := rfl
@[simp] theorem setUnit_owners : (setUnit s k x).owners = s.owners := rfl
@[simp] theorem setUnit_dirty : (setUnit s k x).dirty = s.dirty := rfl
@[simp] theorem setUnit_poison : (setUnit s k x).poison = s.poison := rfl
@[simp] theorem setUnit_retired : (setUnit s k x).retired = s.retired := rfl
@[simp] theorem setUnit_locks : (setUnit s k x).locks = s.locks := rfl
@[simp] theorem setUnit_lockNo : (setUnit s k x).lockNo = s.lockNo := rfl
@[simp] theorem setUnit_strong : (setUnit s k x).strong = s.strong := rfl
@[simp] theorem setUnit_waves : (setUnit s k x).waves = s.waves := rfl
@[simp] theorem setUnit_units : (setUnit s k x).units = tput s.units k x := rfl
@[simp] theorem setUnit_alcoves : (setUnit s k x).alcoves = s.alcoves := rfl
@[simp] theorem setUnit_banks : (setUnit s k x).banks = s.banks := rfl
@[simp] theorem setUnit_tlb : (setUnit s k x).tlb = s.tlb := rfl
@[simp] theorem setUnit_wings : (setUnit s k x).wings = s.wings := rfl
@[simp] theorem setUnit_worlds : (setUnit s k x).worlds = s.worlds := rfl
@[simp] theorem setUnit_levels : (setUnit s k x).levels = s.levels := rfl
@[simp] theorem setUnit_nodes : (setUnit s k x).nodes = s.nodes := rfl
@[simp] theorem setUnit_bindings : (setUnit s k x).bindings = s.bindings := rfl
@[simp] theorem setUnit_sweep : (setUnit s k x).sweep = s.sweep := rfl
@[simp] theorem setUnit_sweepQ : (setUnit s k x).sweepQ = s.sweepQ := rfl
@[simp] theorem setUnit_tokens : (setUnit s k x).tokens = s.tokens := rfl
@[simp] theorem setUnit_images : (setUnit s k x).images = s.images := rfl
@[simp] theorem setUnit_up : (setUnit s k x).up = s.up := rfl
@[simp] theorem setUnit_failedStep : (setUnit s k x).failedStep = s.failedStep := rfl
@[simp] theorem setUnit_fast : (setUnit s k x).fast = s.fast := rfl
@[simp] theorem setUnit_clockChange : (setUnit s k x).clockChange = s.clockChange := rfl
@[simp] theorem setUnit_powerCap : (setUnit s k x).powerCap = s.powerCap := rfl
@[simp] theorem setUnit_lidHot : (setUnit s k x).lidHot = s.lidHot := rfl
@[simp] theorem setUnit_powered : (setUnit s k x).powered = s.powered := rfl
@[simp] theorem setUnit_spares : (setUnit s k x).spares = s.spares := rfl
@[simp] theorem setUnit_corrected : (setUnit s k x).corrected = s.corrected := rfl
@[simp] theorem setUnit_temps : (setUnit s k x).temps = s.temps := rfl
@[simp] theorem setUnit_turn : (setUnit s k x).turn = s.turn := rfl
@[simp] theorem setUnit_assocs : (setUnit s k x).assocs = s.assocs := rfl
@[simp] theorem setUnit_outbox : (setUnit s k x).outbox = s.outbox := rfl
@[simp] theorem setUnit_droppedOption : (setUnit s k x).droppedOption = s.droppedOption := rfl
@[simp] theorem setUnit_droppedKey : (setUnit s k x).droppedKey = s.droppedKey := rfl
@[simp] theorem setUnit_capPending : (setUnit s k x).capPending = s.capPending := rfl
@[simp] theorem setUnit_capHeld : (setUnit s k x).capHeld = s.capHeld := rfl
@[simp] theorem setUnit_capNext : (setUnit s k x).capNext = s.capNext := rfl
@[simp] theorem setUnit_capIgnored : (setUnit s k x).capIgnored = s.capIgnored := rfl
@[simp] theorem setUnit_nextCtx : (setUnit s k x).nextCtx = s.nextCtx := rfl
@[simp] theorem setUnit_nextUnit : (setUnit s k x).nextUnit = s.nextUnit := rfl
@[simp] theorem setUnit_nextKey : (setUnit s k x).nextKey = s.nextKey := rfl
@[simp] theorem setUnit_nextTok : (setUnit s k x).nextTok = s.nextTok := rfl
@[simp] theorem setUnit_nextSeq : (setUnit s k x).nextSeq = s.nextSeq := rfl
@[simp] theorem setUnit_fresh : (setUnit s k x).fresh = s.fresh := rfl
@[simp] theorem setUnit_script : (setUnit s k x).script = s.script := rfl
@[simp] theorem setUnit_cur : (setUnit s k x).cur = s.cur := rfl
end setUnit

section setWing
variable (s : Machine.State) (k : Nat) (x : Wing)
@[simp] theorem setWing_mem : (setWing s k x).mem = s.mem := rfl
@[simp] theorem setWing_tags : (setWing s k x).tags = s.tags := rfl
@[simp] theorem setWing_owners : (setWing s k x).owners = s.owners := rfl
@[simp] theorem setWing_dirty : (setWing s k x).dirty = s.dirty := rfl
@[simp] theorem setWing_poison : (setWing s k x).poison = s.poison := rfl
@[simp] theorem setWing_retired : (setWing s k x).retired = s.retired := rfl
@[simp] theorem setWing_locks : (setWing s k x).locks = s.locks := rfl
@[simp] theorem setWing_lockNo : (setWing s k x).lockNo = s.lockNo := rfl
@[simp] theorem setWing_strong : (setWing s k x).strong = s.strong := rfl
@[simp] theorem setWing_waves : (setWing s k x).waves = s.waves := rfl
@[simp] theorem setWing_units : (setWing s k x).units = s.units := rfl
@[simp] theorem setWing_alcoves : (setWing s k x).alcoves = s.alcoves := rfl
@[simp] theorem setWing_banks : (setWing s k x).banks = s.banks := rfl
@[simp] theorem setWing_tlb : (setWing s k x).tlb = s.tlb := rfl
@[simp] theorem setWing_wings : (setWing s k x).wings = tput s.wings k x := rfl
@[simp] theorem setWing_worlds : (setWing s k x).worlds = s.worlds := rfl
@[simp] theorem setWing_levels : (setWing s k x).levels = s.levels := rfl
@[simp] theorem setWing_nodes : (setWing s k x).nodes = s.nodes := rfl
@[simp] theorem setWing_bindings : (setWing s k x).bindings = s.bindings := rfl
@[simp] theorem setWing_sweep : (setWing s k x).sweep = s.sweep := rfl
@[simp] theorem setWing_sweepQ : (setWing s k x).sweepQ = s.sweepQ := rfl
@[simp] theorem setWing_tokens : (setWing s k x).tokens = s.tokens := rfl
@[simp] theorem setWing_images : (setWing s k x).images = s.images := rfl
@[simp] theorem setWing_up : (setWing s k x).up = s.up := rfl
@[simp] theorem setWing_failedStep : (setWing s k x).failedStep = s.failedStep := rfl
@[simp] theorem setWing_fast : (setWing s k x).fast = s.fast := rfl
@[simp] theorem setWing_clockChange : (setWing s k x).clockChange = s.clockChange := rfl
@[simp] theorem setWing_powerCap : (setWing s k x).powerCap = s.powerCap := rfl
@[simp] theorem setWing_lidHot : (setWing s k x).lidHot = s.lidHot := rfl
@[simp] theorem setWing_powered : (setWing s k x).powered = s.powered := rfl
@[simp] theorem setWing_spares : (setWing s k x).spares = s.spares := rfl
@[simp] theorem setWing_corrected : (setWing s k x).corrected = s.corrected := rfl
@[simp] theorem setWing_temps : (setWing s k x).temps = s.temps := rfl
@[simp] theorem setWing_turn : (setWing s k x).turn = s.turn := rfl
@[simp] theorem setWing_assocs : (setWing s k x).assocs = s.assocs := rfl
@[simp] theorem setWing_outbox : (setWing s k x).outbox = s.outbox := rfl
@[simp] theorem setWing_droppedOption : (setWing s k x).droppedOption = s.droppedOption := rfl
@[simp] theorem setWing_droppedKey : (setWing s k x).droppedKey = s.droppedKey := rfl
@[simp] theorem setWing_capPending : (setWing s k x).capPending = s.capPending := rfl
@[simp] theorem setWing_capHeld : (setWing s k x).capHeld = s.capHeld := rfl
@[simp] theorem setWing_capNext : (setWing s k x).capNext = s.capNext := rfl
@[simp] theorem setWing_capIgnored : (setWing s k x).capIgnored = s.capIgnored := rfl
@[simp] theorem setWing_nextCtx : (setWing s k x).nextCtx = s.nextCtx := rfl
@[simp] theorem setWing_nextUnit : (setWing s k x).nextUnit = s.nextUnit := rfl
@[simp] theorem setWing_nextKey : (setWing s k x).nextKey = s.nextKey := rfl
@[simp] theorem setWing_nextTok : (setWing s k x).nextTok = s.nextTok := rfl
@[simp] theorem setWing_nextSeq : (setWing s k x).nextSeq = s.nextSeq := rfl
@[simp] theorem setWing_fresh : (setWing s k x).fresh = s.fresh := rfl
@[simp] theorem setWing_script : (setWing s k x).script = s.script := rfl
@[simp] theorem setWing_cur : (setWing s k x).cur = s.cur := rfl
end setWing

section setWorld
variable (s : Machine.State) (k : Nat) (x : World)
@[simp] theorem setWorld_mem : (setWorld s k x).mem = s.mem := rfl
@[simp] theorem setWorld_tags : (setWorld s k x).tags = s.tags := rfl
@[simp] theorem setWorld_owners : (setWorld s k x).owners = s.owners := rfl
@[simp] theorem setWorld_dirty : (setWorld s k x).dirty = s.dirty := rfl
@[simp] theorem setWorld_poison : (setWorld s k x).poison = s.poison := rfl
@[simp] theorem setWorld_retired : (setWorld s k x).retired = s.retired := rfl
@[simp] theorem setWorld_locks : (setWorld s k x).locks = s.locks := rfl
@[simp] theorem setWorld_lockNo : (setWorld s k x).lockNo = s.lockNo := rfl
@[simp] theorem setWorld_strong : (setWorld s k x).strong = s.strong := rfl
@[simp] theorem setWorld_waves : (setWorld s k x).waves = s.waves := rfl
@[simp] theorem setWorld_units : (setWorld s k x).units = s.units := rfl
@[simp] theorem setWorld_alcoves : (setWorld s k x).alcoves = s.alcoves := rfl
@[simp] theorem setWorld_banks : (setWorld s k x).banks = s.banks := rfl
@[simp] theorem setWorld_tlb : (setWorld s k x).tlb = s.tlb := rfl
@[simp] theorem setWorld_wings : (setWorld s k x).wings = s.wings := rfl
@[simp] theorem setWorld_worlds : (setWorld s k x).worlds = tput s.worlds k x := rfl
@[simp] theorem setWorld_levels : (setWorld s k x).levels = s.levels := rfl
@[simp] theorem setWorld_nodes : (setWorld s k x).nodes = s.nodes := rfl
@[simp] theorem setWorld_bindings : (setWorld s k x).bindings = s.bindings := rfl
@[simp] theorem setWorld_sweep : (setWorld s k x).sweep = s.sweep := rfl
@[simp] theorem setWorld_sweepQ : (setWorld s k x).sweepQ = s.sweepQ := rfl
@[simp] theorem setWorld_tokens : (setWorld s k x).tokens = s.tokens := rfl
@[simp] theorem setWorld_images : (setWorld s k x).images = s.images := rfl
@[simp] theorem setWorld_up : (setWorld s k x).up = s.up := rfl
@[simp] theorem setWorld_failedStep : (setWorld s k x).failedStep = s.failedStep := rfl
@[simp] theorem setWorld_fast : (setWorld s k x).fast = s.fast := rfl
@[simp] theorem setWorld_clockChange : (setWorld s k x).clockChange = s.clockChange := rfl
@[simp] theorem setWorld_powerCap : (setWorld s k x).powerCap = s.powerCap := rfl
@[simp] theorem setWorld_lidHot : (setWorld s k x).lidHot = s.lidHot := rfl
@[simp] theorem setWorld_powered : (setWorld s k x).powered = s.powered := rfl
@[simp] theorem setWorld_spares : (setWorld s k x).spares = s.spares := rfl
@[simp] theorem setWorld_corrected : (setWorld s k x).corrected = s.corrected := rfl
@[simp] theorem setWorld_temps : (setWorld s k x).temps = s.temps := rfl
@[simp] theorem setWorld_turn : (setWorld s k x).turn = s.turn := rfl
@[simp] theorem setWorld_assocs : (setWorld s k x).assocs = s.assocs := rfl
@[simp] theorem setWorld_outbox : (setWorld s k x).outbox = s.outbox := rfl
@[simp] theorem setWorld_droppedOption : (setWorld s k x).droppedOption = s.droppedOption := rfl
@[simp] theorem setWorld_droppedKey : (setWorld s k x).droppedKey = s.droppedKey := rfl
@[simp] theorem setWorld_capPending : (setWorld s k x).capPending = s.capPending := rfl
@[simp] theorem setWorld_capHeld : (setWorld s k x).capHeld = s.capHeld := rfl
@[simp] theorem setWorld_capNext : (setWorld s k x).capNext = s.capNext := rfl
@[simp] theorem setWorld_capIgnored : (setWorld s k x).capIgnored = s.capIgnored := rfl
@[simp] theorem setWorld_nextCtx : (setWorld s k x).nextCtx = s.nextCtx := rfl
@[simp] theorem setWorld_nextUnit : (setWorld s k x).nextUnit = s.nextUnit := rfl
@[simp] theorem setWorld_nextKey : (setWorld s k x).nextKey = s.nextKey := rfl
@[simp] theorem setWorld_nextTok : (setWorld s k x).nextTok = s.nextTok := rfl
@[simp] theorem setWorld_nextSeq : (setWorld s k x).nextSeq = s.nextSeq := rfl
@[simp] theorem setWorld_fresh : (setWorld s k x).fresh = s.fresh := rfl
@[simp] theorem setWorld_script : (setWorld s k x).script = s.script := rfl
@[simp] theorem setWorld_cur : (setWorld s k x).cur = s.cur := rfl
end setWorld

section setAlc
variable (s : Machine.State) (k : Nat) (x : Alcove)
@[simp] theorem setAlc_mem : (setAlc s k x).mem = s.mem := rfl
@[simp] theorem setAlc_tags : (setAlc s k x).tags = s.tags := rfl
@[simp] theorem setAlc_owners : (setAlc s k x).owners = s.owners := rfl
@[simp] theorem setAlc_dirty : (setAlc s k x).dirty = s.dirty := rfl
@[simp] theorem setAlc_poison : (setAlc s k x).poison = s.poison := rfl
@[simp] theorem setAlc_retired : (setAlc s k x).retired = s.retired := rfl
@[simp] theorem setAlc_locks : (setAlc s k x).locks = s.locks := rfl
@[simp] theorem setAlc_lockNo : (setAlc s k x).lockNo = s.lockNo := rfl
@[simp] theorem setAlc_strong : (setAlc s k x).strong = s.strong := rfl
@[simp] theorem setAlc_waves : (setAlc s k x).waves = s.waves := rfl
@[simp] theorem setAlc_units : (setAlc s k x).units = s.units := rfl
@[simp] theorem setAlc_alcoves : (setAlc s k x).alcoves = tput s.alcoves k x := rfl
@[simp] theorem setAlc_banks : (setAlc s k x).banks = s.banks := rfl
@[simp] theorem setAlc_tlb : (setAlc s k x).tlb = s.tlb := rfl
@[simp] theorem setAlc_wings : (setAlc s k x).wings = s.wings := rfl
@[simp] theorem setAlc_worlds : (setAlc s k x).worlds = s.worlds := rfl
@[simp] theorem setAlc_levels : (setAlc s k x).levels = s.levels := rfl
@[simp] theorem setAlc_nodes : (setAlc s k x).nodes = s.nodes := rfl
@[simp] theorem setAlc_bindings : (setAlc s k x).bindings = s.bindings := rfl
@[simp] theorem setAlc_sweep : (setAlc s k x).sweep = s.sweep := rfl
@[simp] theorem setAlc_sweepQ : (setAlc s k x).sweepQ = s.sweepQ := rfl
@[simp] theorem setAlc_tokens : (setAlc s k x).tokens = s.tokens := rfl
@[simp] theorem setAlc_images : (setAlc s k x).images = s.images := rfl
@[simp] theorem setAlc_up : (setAlc s k x).up = s.up := rfl
@[simp] theorem setAlc_failedStep : (setAlc s k x).failedStep = s.failedStep := rfl
@[simp] theorem setAlc_fast : (setAlc s k x).fast = s.fast := rfl
@[simp] theorem setAlc_clockChange : (setAlc s k x).clockChange = s.clockChange := rfl
@[simp] theorem setAlc_powerCap : (setAlc s k x).powerCap = s.powerCap := rfl
@[simp] theorem setAlc_lidHot : (setAlc s k x).lidHot = s.lidHot := rfl
@[simp] theorem setAlc_powered : (setAlc s k x).powered = s.powered := rfl
@[simp] theorem setAlc_spares : (setAlc s k x).spares = s.spares := rfl
@[simp] theorem setAlc_corrected : (setAlc s k x).corrected = s.corrected := rfl
@[simp] theorem setAlc_temps : (setAlc s k x).temps = s.temps := rfl
@[simp] theorem setAlc_turn : (setAlc s k x).turn = s.turn := rfl
@[simp] theorem setAlc_assocs : (setAlc s k x).assocs = s.assocs := rfl
@[simp] theorem setAlc_outbox : (setAlc s k x).outbox = s.outbox := rfl
@[simp] theorem setAlc_droppedOption : (setAlc s k x).droppedOption = s.droppedOption := rfl
@[simp] theorem setAlc_droppedKey : (setAlc s k x).droppedKey = s.droppedKey := rfl
@[simp] theorem setAlc_capPending : (setAlc s k x).capPending = s.capPending := rfl
@[simp] theorem setAlc_capHeld : (setAlc s k x).capHeld = s.capHeld := rfl
@[simp] theorem setAlc_capNext : (setAlc s k x).capNext = s.capNext := rfl
@[simp] theorem setAlc_capIgnored : (setAlc s k x).capIgnored = s.capIgnored := rfl
@[simp] theorem setAlc_nextCtx : (setAlc s k x).nextCtx = s.nextCtx := rfl
@[simp] theorem setAlc_nextUnit : (setAlc s k x).nextUnit = s.nextUnit := rfl
@[simp] theorem setAlc_nextKey : (setAlc s k x).nextKey = s.nextKey := rfl
@[simp] theorem setAlc_nextTok : (setAlc s k x).nextTok = s.nextTok := rfl
@[simp] theorem setAlc_nextSeq : (setAlc s k x).nextSeq = s.nextSeq := rfl
@[simp] theorem setAlc_fresh : (setAlc s k x).fresh = s.fresh := rfl
@[simp] theorem setAlc_script : (setAlc s k x).script = s.script := rfl
@[simp] theorem setAlc_cur : (setAlc s k x).cur = s.cur := rfl
end setAlc

section setLevel
variable (s : Machine.State) (k : Nat) (x : Level)
@[simp] theorem setLevel_mem : (setLevel s k x).mem = s.mem := rfl
@[simp] theorem setLevel_tags : (setLevel s k x).tags = s.tags := rfl
@[simp] theorem setLevel_owners : (setLevel s k x).owners = s.owners := rfl
@[simp] theorem setLevel_dirty : (setLevel s k x).dirty = s.dirty := rfl
@[simp] theorem setLevel_poison : (setLevel s k x).poison = s.poison := rfl
@[simp] theorem setLevel_retired : (setLevel s k x).retired = s.retired := rfl
@[simp] theorem setLevel_locks : (setLevel s k x).locks = s.locks := rfl
@[simp] theorem setLevel_lockNo : (setLevel s k x).lockNo = s.lockNo := rfl
@[simp] theorem setLevel_strong : (setLevel s k x).strong = s.strong := rfl
@[simp] theorem setLevel_waves : (setLevel s k x).waves = s.waves := rfl
@[simp] theorem setLevel_units : (setLevel s k x).units = s.units := rfl
@[simp] theorem setLevel_alcoves : (setLevel s k x).alcoves = s.alcoves := rfl
@[simp] theorem setLevel_banks : (setLevel s k x).banks = s.banks := rfl
@[simp] theorem setLevel_tlb : (setLevel s k x).tlb = s.tlb := rfl
@[simp] theorem setLevel_wings : (setLevel s k x).wings = s.wings := rfl
@[simp] theorem setLevel_worlds : (setLevel s k x).worlds = s.worlds := rfl
@[simp] theorem setLevel_levels : (setLevel s k x).levels = tput s.levels k x := rfl
@[simp] theorem setLevel_nodes : (setLevel s k x).nodes = s.nodes := rfl
@[simp] theorem setLevel_bindings : (setLevel s k x).bindings = s.bindings := rfl
@[simp] theorem setLevel_sweep : (setLevel s k x).sweep = s.sweep := rfl
@[simp] theorem setLevel_sweepQ : (setLevel s k x).sweepQ = s.sweepQ := rfl
@[simp] theorem setLevel_tokens : (setLevel s k x).tokens = s.tokens := rfl
@[simp] theorem setLevel_images : (setLevel s k x).images = s.images := rfl
@[simp] theorem setLevel_up : (setLevel s k x).up = s.up := rfl
@[simp] theorem setLevel_failedStep : (setLevel s k x).failedStep = s.failedStep := rfl
@[simp] theorem setLevel_fast : (setLevel s k x).fast = s.fast := rfl
@[simp] theorem setLevel_clockChange : (setLevel s k x).clockChange = s.clockChange := rfl
@[simp] theorem setLevel_powerCap : (setLevel s k x).powerCap = s.powerCap := rfl
@[simp] theorem setLevel_lidHot : (setLevel s k x).lidHot = s.lidHot := rfl
@[simp] theorem setLevel_powered : (setLevel s k x).powered = s.powered := rfl
@[simp] theorem setLevel_spares : (setLevel s k x).spares = s.spares := rfl
@[simp] theorem setLevel_corrected : (setLevel s k x).corrected = s.corrected := rfl
@[simp] theorem setLevel_temps : (setLevel s k x).temps = s.temps := rfl
@[simp] theorem setLevel_turn : (setLevel s k x).turn = s.turn := rfl
@[simp] theorem setLevel_assocs : (setLevel s k x).assocs = s.assocs := rfl
@[simp] theorem setLevel_outbox : (setLevel s k x).outbox = s.outbox := rfl
@[simp] theorem setLevel_droppedOption : (setLevel s k x).droppedOption = s.droppedOption := rfl
@[simp] theorem setLevel_droppedKey : (setLevel s k x).droppedKey = s.droppedKey := rfl
@[simp] theorem setLevel_capPending : (setLevel s k x).capPending = s.capPending := rfl
@[simp] theorem setLevel_capHeld : (setLevel s k x).capHeld = s.capHeld := rfl
@[simp] theorem setLevel_capNext : (setLevel s k x).capNext = s.capNext := rfl
@[simp] theorem setLevel_capIgnored : (setLevel s k x).capIgnored = s.capIgnored := rfl
@[simp] theorem setLevel_nextCtx : (setLevel s k x).nextCtx = s.nextCtx := rfl
@[simp] theorem setLevel_nextUnit : (setLevel s k x).nextUnit = s.nextUnit := rfl
@[simp] theorem setLevel_nextKey : (setLevel s k x).nextKey = s.nextKey := rfl
@[simp] theorem setLevel_nextTok : (setLevel s k x).nextTok = s.nextTok := rfl
@[simp] theorem setLevel_nextSeq : (setLevel s k x).nextSeq = s.nextSeq := rfl
@[simp] theorem setLevel_fresh : (setLevel s k x).fresh = s.fresh := rfl
@[simp] theorem setLevel_script : (setLevel s k x).script = s.script := rfl
@[simp] theorem setLevel_cur : (setLevel s k x).cur = s.cur := rfl
end setLevel

section setNode
variable (s : Machine.State) (k : Nat) (x : Node)
@[simp] theorem setNode_mem : (setNode s k x).mem = s.mem := rfl
@[simp] theorem setNode_tags : (setNode s k x).tags = s.tags := rfl
@[simp] theorem setNode_owners : (setNode s k x).owners = s.owners := rfl
@[simp] theorem setNode_dirty : (setNode s k x).dirty = s.dirty := rfl
@[simp] theorem setNode_poison : (setNode s k x).poison = s.poison := rfl
@[simp] theorem setNode_retired : (setNode s k x).retired = s.retired := rfl
@[simp] theorem setNode_locks : (setNode s k x).locks = s.locks := rfl
@[simp] theorem setNode_lockNo : (setNode s k x).lockNo = s.lockNo := rfl
@[simp] theorem setNode_strong : (setNode s k x).strong = s.strong := rfl
@[simp] theorem setNode_waves : (setNode s k x).waves = s.waves := rfl
@[simp] theorem setNode_units : (setNode s k x).units = s.units := rfl
@[simp] theorem setNode_alcoves : (setNode s k x).alcoves = s.alcoves := rfl
@[simp] theorem setNode_banks : (setNode s k x).banks = s.banks := rfl
@[simp] theorem setNode_tlb : (setNode s k x).tlb = s.tlb := rfl
@[simp] theorem setNode_wings : (setNode s k x).wings = s.wings := rfl
@[simp] theorem setNode_worlds : (setNode s k x).worlds = s.worlds := rfl
@[simp] theorem setNode_levels : (setNode s k x).levels = s.levels := rfl
@[simp] theorem setNode_nodes : (setNode s k x).nodes = tput s.nodes k x := rfl
@[simp] theorem setNode_bindings : (setNode s k x).bindings = s.bindings := rfl
@[simp] theorem setNode_sweep : (setNode s k x).sweep = s.sweep := rfl
@[simp] theorem setNode_sweepQ : (setNode s k x).sweepQ = s.sweepQ := rfl
@[simp] theorem setNode_tokens : (setNode s k x).tokens = s.tokens := rfl
@[simp] theorem setNode_images : (setNode s k x).images = s.images := rfl
@[simp] theorem setNode_up : (setNode s k x).up = s.up := rfl
@[simp] theorem setNode_failedStep : (setNode s k x).failedStep = s.failedStep := rfl
@[simp] theorem setNode_fast : (setNode s k x).fast = s.fast := rfl
@[simp] theorem setNode_clockChange : (setNode s k x).clockChange = s.clockChange := rfl
@[simp] theorem setNode_powerCap : (setNode s k x).powerCap = s.powerCap := rfl
@[simp] theorem setNode_lidHot : (setNode s k x).lidHot = s.lidHot := rfl
@[simp] theorem setNode_powered : (setNode s k x).powered = s.powered := rfl
@[simp] theorem setNode_spares : (setNode s k x).spares = s.spares := rfl
@[simp] theorem setNode_corrected : (setNode s k x).corrected = s.corrected := rfl
@[simp] theorem setNode_temps : (setNode s k x).temps = s.temps := rfl
@[simp] theorem setNode_turn : (setNode s k x).turn = s.turn := rfl
@[simp] theorem setNode_assocs : (setNode s k x).assocs = s.assocs := rfl
@[simp] theorem setNode_outbox : (setNode s k x).outbox = s.outbox := rfl
@[simp] theorem setNode_droppedOption : (setNode s k x).droppedOption = s.droppedOption := rfl
@[simp] theorem setNode_droppedKey : (setNode s k x).droppedKey = s.droppedKey := rfl
@[simp] theorem setNode_capPending : (setNode s k x).capPending = s.capPending := rfl
@[simp] theorem setNode_capHeld : (setNode s k x).capHeld = s.capHeld := rfl
@[simp] theorem setNode_capNext : (setNode s k x).capNext = s.capNext := rfl
@[simp] theorem setNode_capIgnored : (setNode s k x).capIgnored = s.capIgnored := rfl
@[simp] theorem setNode_nextCtx : (setNode s k x).nextCtx = s.nextCtx := rfl
@[simp] theorem setNode_nextUnit : (setNode s k x).nextUnit = s.nextUnit := rfl
@[simp] theorem setNode_nextKey : (setNode s k x).nextKey = s.nextKey := rfl
@[simp] theorem setNode_nextTok : (setNode s k x).nextTok = s.nextTok := rfl
@[simp] theorem setNode_nextSeq : (setNode s k x).nextSeq = s.nextSeq := rfl
@[simp] theorem setNode_fresh : (setNode s k x).fresh = s.fresh := rfl
@[simp] theorem setNode_script : (setNode s k x).script = s.script := rfl
@[simp] theorem setNode_cur : (setNode s k x).cur = s.cur := rfl
end setNode

section setBind
variable (s : Machine.State) (k : Nat) (x : Binding)
@[simp] theorem setBind_mem : (setBind s k x).mem = s.mem := rfl
@[simp] theorem setBind_tags : (setBind s k x).tags = s.tags := rfl
@[simp] theorem setBind_owners : (setBind s k x).owners = s.owners := rfl
@[simp] theorem setBind_dirty : (setBind s k x).dirty = s.dirty := rfl
@[simp] theorem setBind_poison : (setBind s k x).poison = s.poison := rfl
@[simp] theorem setBind_retired : (setBind s k x).retired = s.retired := rfl
@[simp] theorem setBind_locks : (setBind s k x).locks = s.locks := rfl
@[simp] theorem setBind_lockNo : (setBind s k x).lockNo = s.lockNo := rfl
@[simp] theorem setBind_strong : (setBind s k x).strong = s.strong := rfl
@[simp] theorem setBind_waves : (setBind s k x).waves = s.waves := rfl
@[simp] theorem setBind_units : (setBind s k x).units = s.units := rfl
@[simp] theorem setBind_alcoves : (setBind s k x).alcoves = s.alcoves := rfl
@[simp] theorem setBind_banks : (setBind s k x).banks = s.banks := rfl
@[simp] theorem setBind_tlb : (setBind s k x).tlb = s.tlb := rfl
@[simp] theorem setBind_wings : (setBind s k x).wings = s.wings := rfl
@[simp] theorem setBind_worlds : (setBind s k x).worlds = s.worlds := rfl
@[simp] theorem setBind_levels : (setBind s k x).levels = s.levels := rfl
@[simp] theorem setBind_nodes : (setBind s k x).nodes = s.nodes := rfl
@[simp] theorem setBind_bindings : (setBind s k x).bindings = tput s.bindings k x := rfl
@[simp] theorem setBind_sweep : (setBind s k x).sweep = s.sweep := rfl
@[simp] theorem setBind_sweepQ : (setBind s k x).sweepQ = s.sweepQ := rfl
@[simp] theorem setBind_tokens : (setBind s k x).tokens = s.tokens := rfl
@[simp] theorem setBind_images : (setBind s k x).images = s.images := rfl
@[simp] theorem setBind_up : (setBind s k x).up = s.up := rfl
@[simp] theorem setBind_failedStep : (setBind s k x).failedStep = s.failedStep := rfl
@[simp] theorem setBind_fast : (setBind s k x).fast = s.fast := rfl
@[simp] theorem setBind_clockChange : (setBind s k x).clockChange = s.clockChange := rfl
@[simp] theorem setBind_powerCap : (setBind s k x).powerCap = s.powerCap := rfl
@[simp] theorem setBind_lidHot : (setBind s k x).lidHot = s.lidHot := rfl
@[simp] theorem setBind_powered : (setBind s k x).powered = s.powered := rfl
@[simp] theorem setBind_spares : (setBind s k x).spares = s.spares := rfl
@[simp] theorem setBind_corrected : (setBind s k x).corrected = s.corrected := rfl
@[simp] theorem setBind_temps : (setBind s k x).temps = s.temps := rfl
@[simp] theorem setBind_turn : (setBind s k x).turn = s.turn := rfl
@[simp] theorem setBind_assocs : (setBind s k x).assocs = s.assocs := rfl
@[simp] theorem setBind_outbox : (setBind s k x).outbox = s.outbox := rfl
@[simp] theorem setBind_droppedOption : (setBind s k x).droppedOption = s.droppedOption := rfl
@[simp] theorem setBind_droppedKey : (setBind s k x).droppedKey = s.droppedKey := rfl
@[simp] theorem setBind_capPending : (setBind s k x).capPending = s.capPending := rfl
@[simp] theorem setBind_capHeld : (setBind s k x).capHeld = s.capHeld := rfl
@[simp] theorem setBind_capNext : (setBind s k x).capNext = s.capNext := rfl
@[simp] theorem setBind_capIgnored : (setBind s k x).capIgnored = s.capIgnored := rfl
@[simp] theorem setBind_nextCtx : (setBind s k x).nextCtx = s.nextCtx := rfl
@[simp] theorem setBind_nextUnit : (setBind s k x).nextUnit = s.nextUnit := rfl
@[simp] theorem setBind_nextKey : (setBind s k x).nextKey = s.nextKey := rfl
@[simp] theorem setBind_nextTok : (setBind s k x).nextTok = s.nextTok := rfl
@[simp] theorem setBind_nextSeq : (setBind s k x).nextSeq = s.nextSeq := rfl
@[simp] theorem setBind_fresh : (setBind s k x).fresh = s.fresh := rfl
@[simp] theorem setBind_script : (setBind s k x).script = s.script := rfl
@[simp] theorem setBind_cur : (setBind s k x).cur = s.cur := rfl
end setBind

section tick
variable (s : Machine.State) 
@[simp] theorem tick_mem : (tick s).mem = s.mem := rfl
@[simp] theorem tick_tags : (tick s).tags = s.tags := rfl
@[simp] theorem tick_owners : (tick s).owners = s.owners := rfl
@[simp] theorem tick_dirty : (tick s).dirty = s.dirty := rfl
@[simp] theorem tick_poison : (tick s).poison = s.poison := rfl
@[simp] theorem tick_retired : (tick s).retired = s.retired := rfl
@[simp] theorem tick_locks : (tick s).locks = s.locks := rfl
@[simp] theorem tick_lockNo : (tick s).lockNo = s.lockNo := rfl
@[simp] theorem tick_strong : (tick s).strong = s.strong := rfl
@[simp] theorem tick_waves : (tick s).waves = s.waves := rfl
@[simp] theorem tick_units : (tick s).units = s.units := rfl
@[simp] theorem tick_alcoves : (tick s).alcoves = s.alcoves := rfl
@[simp] theorem tick_banks : (tick s).banks = s.banks := rfl
@[simp] theorem tick_tlb : (tick s).tlb = s.tlb := rfl
@[simp] theorem tick_wings : (tick s).wings = s.wings := rfl
@[simp] theorem tick_worlds : (tick s).worlds = s.worlds := rfl
@[simp] theorem tick_levels : (tick s).levels = s.levels := rfl
@[simp] theorem tick_nodes : (tick s).nodes = s.nodes := rfl
@[simp] theorem tick_bindings : (tick s).bindings = s.bindings := rfl
@[simp] theorem tick_sweep : (tick s).sweep = s.sweep := rfl
@[simp] theorem tick_sweepQ : (tick s).sweepQ = s.sweepQ := rfl
@[simp] theorem tick_tokens : (tick s).tokens = s.tokens := rfl
@[simp] theorem tick_images : (tick s).images = s.images := rfl
@[simp] theorem tick_up : (tick s).up = s.up := rfl
@[simp] theorem tick_failedStep : (tick s).failedStep = s.failedStep := rfl
@[simp] theorem tick_fast : (tick s).fast = s.fast := rfl
@[simp] theorem tick_clockChange : (tick s).clockChange = s.clockChange := rfl
@[simp] theorem tick_powerCap : (tick s).powerCap = s.powerCap := rfl
@[simp] theorem tick_lidHot : (tick s).lidHot = s.lidHot := rfl
@[simp] theorem tick_powered : (tick s).powered = s.powered := rfl
@[simp] theorem tick_spares : (tick s).spares = s.spares := rfl
@[simp] theorem tick_corrected : (tick s).corrected = s.corrected := rfl
@[simp] theorem tick_temps : (tick s).temps = s.temps := rfl
@[simp] theorem tick_turn : (tick s).turn = s.turn := rfl
@[simp] theorem tick_assocs : (tick s).assocs = s.assocs := rfl
@[simp] theorem tick_outbox : (tick s).outbox = s.outbox := rfl
@[simp] theorem tick_droppedOption : (tick s).droppedOption = s.droppedOption := rfl
@[simp] theorem tick_droppedKey : (tick s).droppedKey = s.droppedKey := rfl
@[simp] theorem tick_capPending : (tick s).capPending = s.capPending := rfl
@[simp] theorem tick_capHeld : (tick s).capHeld = s.capHeld := rfl
@[simp] theorem tick_capNext : (tick s).capNext = s.capNext := rfl
@[simp] theorem tick_capIgnored : (tick s).capIgnored = s.capIgnored := rfl
@[simp] theorem tick_nextCtx : (tick s).nextCtx = s.nextCtx := rfl
@[simp] theorem tick_nextUnit : (tick s).nextUnit = s.nextUnit := rfl
@[simp] theorem tick_nextKey : (tick s).nextKey = s.nextKey := rfl
@[simp] theorem tick_nextTok : (tick s).nextTok = s.nextTok := rfl
@[simp] theorem tick_nextSeq : (tick s).nextSeq = s.nextSeq := rfl
@[simp] theorem tick_fresh : (tick s).fresh = s.fresh + 1 := rfl
@[simp] theorem tick_script : (tick s).script = s.script := rfl
@[simp] theorem tick_cur : (tick s).cur = s.cur := rfl
end tick

section emit
variable (s : Machine.State) (o : HostOut)
@[simp] theorem emit_mem : (emit s o).mem = s.mem := rfl
@[simp] theorem emit_tags : (emit s o).tags = s.tags := rfl
@[simp] theorem emit_owners : (emit s o).owners = s.owners := rfl
@[simp] theorem emit_dirty : (emit s o).dirty = s.dirty := rfl
@[simp] theorem emit_poison : (emit s o).poison = s.poison := rfl
@[simp] theorem emit_retired : (emit s o).retired = s.retired := rfl
@[simp] theorem emit_locks : (emit s o).locks = s.locks := rfl
@[simp] theorem emit_lockNo : (emit s o).lockNo = s.lockNo := rfl
@[simp] theorem emit_strong : (emit s o).strong = s.strong := rfl
@[simp] theorem emit_waves : (emit s o).waves = s.waves := rfl
@[simp] theorem emit_units : (emit s o).units = s.units := rfl
@[simp] theorem emit_alcoves : (emit s o).alcoves = s.alcoves := rfl
@[simp] theorem emit_banks : (emit s o).banks = s.banks := rfl
@[simp] theorem emit_tlb : (emit s o).tlb = s.tlb := rfl
@[simp] theorem emit_wings : (emit s o).wings = s.wings := rfl
@[simp] theorem emit_worlds : (emit s o).worlds = s.worlds := rfl
@[simp] theorem emit_levels : (emit s o).levels = s.levels := rfl
@[simp] theorem emit_nodes : (emit s o).nodes = s.nodes := rfl
@[simp] theorem emit_bindings : (emit s o).bindings = s.bindings := rfl
@[simp] theorem emit_sweep : (emit s o).sweep = s.sweep := rfl
@[simp] theorem emit_sweepQ : (emit s o).sweepQ = s.sweepQ := rfl
@[simp] theorem emit_tokens : (emit s o).tokens = s.tokens := rfl
@[simp] theorem emit_images : (emit s o).images = s.images := rfl
@[simp] theorem emit_up : (emit s o).up = s.up := rfl
@[simp] theorem emit_failedStep : (emit s o).failedStep = s.failedStep := rfl
@[simp] theorem emit_fast : (emit s o).fast = s.fast := rfl
@[simp] theorem emit_clockChange : (emit s o).clockChange = s.clockChange := rfl
@[simp] theorem emit_powerCap : (emit s o).powerCap = s.powerCap := rfl
@[simp] theorem emit_lidHot : (emit s o).lidHot = s.lidHot := rfl
@[simp] theorem emit_powered : (emit s o).powered = s.powered := rfl
@[simp] theorem emit_spares : (emit s o).spares = s.spares := rfl
@[simp] theorem emit_corrected : (emit s o).corrected = s.corrected := rfl
@[simp] theorem emit_temps : (emit s o).temps = s.temps := rfl
@[simp] theorem emit_turn : (emit s o).turn = s.turn := rfl
@[simp] theorem emit_assocs : (emit s o).assocs = s.assocs := rfl
@[simp] theorem emit_outbox : (emit s o).outbox = s.outbox ++ [o] := rfl
@[simp] theorem emit_droppedOption : (emit s o).droppedOption = s.droppedOption := rfl
@[simp] theorem emit_droppedKey : (emit s o).droppedKey = s.droppedKey := rfl
@[simp] theorem emit_capPending : (emit s o).capPending = s.capPending := rfl
@[simp] theorem emit_capHeld : (emit s o).capHeld = s.capHeld := rfl
@[simp] theorem emit_capNext : (emit s o).capNext = s.capNext := rfl
@[simp] theorem emit_capIgnored : (emit s o).capIgnored = s.capIgnored := rfl
@[simp] theorem emit_nextCtx : (emit s o).nextCtx = s.nextCtx := rfl
@[simp] theorem emit_nextUnit : (emit s o).nextUnit = s.nextUnit := rfl
@[simp] theorem emit_nextKey : (emit s o).nextKey = s.nextKey := rfl
@[simp] theorem emit_nextTok : (emit s o).nextTok = s.nextTok := rfl
@[simp] theorem emit_nextSeq : (emit s o).nextSeq = s.nextSeq := rfl
@[simp] theorem emit_fresh : (emit s o).fresh = s.fresh := rfl
@[simp] theorem emit_script : (emit s o).script = s.script := rfl
@[simp] theorem emit_cur : (emit s o).cur = s.cur := rfl
end emit

section setS
variable (r : RegFile) (n : Nat) (v : DWord)
@[simp] theorem setS_s : (setS r n v).s = tset 0 r.s n v := rfl
@[simp] theorem setS_p : (setS r n v).p = r.p := rfl
@[simp] theorem setS_c : (setS r n v).c = r.c := rfl
@[simp] theorem setS_v : (setS r n v).v = r.v := rfl
@[simp] theorem setS_vc : (setS r n v).vc = r.vc := rfl
@[simp] theorem setS_mode : (setS r n v).mode = r.mode := rfl
@[simp] theorem setS_seed : (setS r n v).seed = r.seed := rfl
@[simp] theorem setS_flags : (setS r n v).flags = r.flags := rfl
end setS

section setP
variable (r : RegFile) (n : Nat) (v : BitVec 32)
@[simp] theorem setP_s : (setP r n v).s = r.s := rfl
@[simp] theorem setP_p : (setP r n v).p = tset 0 r.p n v := rfl
@[simp] theorem setP_c : (setP r n v).c = r.c := rfl
@[simp] theorem setP_v : (setP r n v).v = r.v := rfl
@[simp] theorem setP_vc : (setP r n v).vc = r.vc := rfl
@[simp] theorem setP_mode : (setP r n v).mode = r.mode := rfl
@[simp] theorem setP_seed : (setP r n v).seed = r.seed := rfl
@[simp] theorem setP_flags : (setP r n v).flags = r.flags := rfl
end setP

section setC
variable (r : RegFile) (n : Nat) (v : Cap)
@[simp] theorem setC_s : (setC r n v).s = r.s := rfl
@[simp] theorem setC_p : (setC r n v).p = r.p := rfl
@[simp] theorem setC_c : (setC r n v).c = tset {} r.c n v := rfl
@[simp] theorem setC_v : (setC r n v).v = r.v := rfl
@[simp] theorem setC_vc : (setC r n v).vc = r.vc := rfl
@[simp] theorem setC_mode : (setC r n v).mode = r.mode := rfl
@[simp] theorem setC_seed : (setC r n v).seed = r.seed := rfl
@[simp] theorem setC_flags : (setC r n v).flags = r.flags := rfl
end setC

section setV
variable (r : RegFile) (n l : Nat) (v : BitVec 32)
@[simp] theorem setV_s : (setV r n l v).s = r.s := rfl
@[simp] theorem setV_p : (setV r n l v).p = r.p := rfl
@[simp] theorem setV_c : (setV r n l v).c = r.c := rfl
@[simp] theorem setV_v : (setV r n l v).v = tset 0 r.v (n * 32 + l) v := rfl
@[simp] theorem setV_vc : (setV r n l v).vc = r.vc := rfl
@[simp] theorem setV_mode : (setV r n l v).mode = r.mode := rfl
@[simp] theorem setV_seed : (setV r n l v).seed = r.seed := rfl
@[simp] theorem setV_flags : (setV r n l v).flags = r.flags := rfl
end setV

section setVC
variable (r : RegFile) (n l : Nat) (v : Cap)
@[simp] theorem setVC_s : (setVC r n l v).s = r.s := rfl
@[simp] theorem setVC_p : (setVC r n l v).p = r.p := rfl
@[simp] theorem setVC_c : (setVC r n l v).c = r.c := rfl
@[simp] theorem setVC_v : (setVC r n l v).v = r.v := rfl
@[simp] theorem setVC_vc : (setVC r n l v).vc = tset {} r.vc (n * 32 + l) v := rfl
@[simp] theorem setVC_mode : (setVC r n l v).mode = r.mode := rfl
@[simp] theorem setVC_seed : (setVC r n l v).seed = r.seed := rfl
@[simp] theorem setVC_flags : (setVC r n l v).flags = r.flags := rfl
end setVC

section putSlot
variable (w : Wave) (x : Src) (y : Slot)
@[simp] theorem putSlot_used : (putSlot w x y).used = w.used := by cases x <;> rfl
@[simp] theorem putSlot_unit : (putSlot w x y).unit = w.unit := by cases x <;> rfl
@[simp] theorem putSlot_waveId : (putSlot w x y).waveId = w.waveId := by cases x <;> rfl
@[simp] theorem putSlot_tether : (putSlot w x y).tether = w.tether := by cases x <;> rfl
@[simp] theorem putSlot_live : (putSlot w x y).live = w.live := by cases x <;> rfl
@[simp] theorem putSlot_jr : (putSlot w x y).jr = w.jr := by cases x <;> rfl
@[simp] theorem putSlot_divd : (putSlot w x y).divd = w.divd := by cases x <;> rfl
@[simp] theorem putSlot_regs : (putSlot w x y).regs = w.regs := by cases x <;> rfl
@[simp] theorem putSlot_counts : (putSlot w x y).counts = w.counts := by cases x <;> rfl
@[simp] theorem putSlot_errs : (putSlot w x y).errs = w.errs := by cases x <;> rfl
@[simp] theorem putSlot_accs : (putSlot w x y).accs = w.accs := by cases x <;> rfl
@[simp] theorem putSlot_seqC : (putSlot w x y).seqC = w.seqC := by cases x <;> rfl
@[simp] theorem putSlot_seqM : (putSlot w x y).seqM = w.seqM := by cases x <;> rfl
@[simp] theorem putSlot_seqG : (putSlot w x y).seqG = w.seqG := by cases x <;> rfl
@[simp] theorem putSlot_trapCause : (putSlot w x y).trapCause = w.trapCause := by cases x <;> rfl
@[simp] theorem putSlot_trapPc : (putSlot w x y).trapPc = w.trapPc := by cases x <;> rfl
@[simp] theorem putSlot_trapAddr : (putSlot w x y).trapAddr = w.trapAddr := by cases x <;> rfl
@[simp] theorem putSlot_trapLanes : (putSlot w x y).trapLanes = w.trapLanes := by cases x <;> rfl
@[simp] theorem putSlot_skid : (putSlot w x y).skid = w.skid := by cases x <;> rfl
@[simp] theorem putSlot_trapVec : (putSlot w x y).trapVec = w.trapVec := by cases x <;> rfl
@[simp] theorem putSlot_trapPix : (putSlot w x y).trapPix = w.trapPix := by cases x <;> rfl
@[simp] theorem putSlot_frame : (putSlot w x y).frame = w.frame := by cases x <;> rfl
@[simp] theorem putSlot_bank : (putSlot w x y).bank = w.bank := by cases x <;> rfl
@[simp] theorem putSlot_privBase : (putSlot w x y).privBase = w.privBase := by cases x <;> rfl
@[simp] theorem putSlot_privTop : (putSlot w x y).privTop = w.privTop := by cases x <;> rfl
@[simp] theorem putSlot_delivery : (putSlot w x y).delivery = w.delivery := by cases x <;> rfl
@[simp] theorem putSlot_pending : (putSlot w x y).pending = w.pending := by cases x <;> rfl
@[simp] theorem putSlot_current : (putSlot w x y).current = w.current := by cases x <;> rfl
@[simp] theorem putSlot_prio : (putSlot w x y).prio = w.prio := by cases x <;> rfl
@[simp] theorem putSlot_key : (putSlot w x y).key = w.key := by cases x <;> rfl
@[simp] theorem putSlot_aged : (putSlot w x y).aged = w.aged := by cases x <;> rfl
@[simp] theorem putSlot_shares : (putSlot w x y).shares = w.shares := by cases x <;> rfl
@[simp] theorem putSlot_since : (putSlot w x y).since = w.since := by cases x <;> rfl
@[simp] theorem putSlot_pre : (putSlot w x y).pre = w.pre := by cases x <;> rfl
@[simp] theorem putSlot_lastSlot : (putSlot w x y).lastSlot = w.lastSlot := by cases x <;> rfl
@[simp] theorem putSlot_stop : (putSlot w x y).stop = w.stop := by cases x <;> rfl
@[simp] theorem putSlot_tethSlot : (putSlot w x y).tethSlot = w.tethSlot := by cases x <;> rfl
@[simp] theorem putSlot_hadTether : (putSlot w x y).hadTether = w.hadTether := by cases x <;> rfl
@[simp] theorem putSlot_window : (putSlot w x y).window = w.window := by cases x <;> rfl
@[simp] theorem putSlot_queue : (putSlot w x y).queue = w.queue := by cases x <;> rfl
@[simp] theorem putSlot_owner : (putSlot w x y).owner = w.owner := by cases x <;> rfl
@[simp] theorem putSlot_lastPages : (putSlot w x y).lastPages = w.lastPages := by cases x <;> rfl
end putSlot

section putSeq
variable (w : Wave) (x : Src) (y : Seq)
@[simp] theorem putSeq_used : (putSeq w x y).used = w.used := by cases x <;> rfl
@[simp] theorem putSeq_unit : (putSeq w x y).unit = w.unit := by cases x <;> rfl
@[simp] theorem putSeq_waveId : (putSeq w x y).waveId = w.waveId := by cases x <;> rfl
@[simp] theorem putSeq_tether : (putSeq w x y).tether = w.tether := by cases x <;> rfl
@[simp] theorem putSeq_a : (putSeq w x y).a = w.a := by cases x <;> rfl
@[simp] theorem putSeq_b : (putSeq w x y).b = w.b := by cases x <;> rfl
@[simp] theorem putSeq_live : (putSeq w x y).live = w.live := by cases x <;> rfl
@[simp] theorem putSeq_jr : (putSeq w x y).jr = w.jr := by cases x <;> rfl
@[simp] theorem putSeq_divd : (putSeq w x y).divd = w.divd := by cases x <;> rfl
@[simp] theorem putSeq_regs : (putSeq w x y).regs = w.regs := by cases x <;> rfl
@[simp] theorem putSeq_counts : (putSeq w x y).counts = w.counts := by cases x <;> rfl
@[simp] theorem putSeq_errs : (putSeq w x y).errs = w.errs := by cases x <;> rfl
@[simp] theorem putSeq_accs : (putSeq w x y).accs = w.accs := by cases x <;> rfl
@[simp] theorem putSeq_trapCause : (putSeq w x y).trapCause = w.trapCause := by cases x <;> rfl
@[simp] theorem putSeq_trapPc : (putSeq w x y).trapPc = w.trapPc := by cases x <;> rfl
@[simp] theorem putSeq_trapAddr : (putSeq w x y).trapAddr = w.trapAddr := by cases x <;> rfl
@[simp] theorem putSeq_trapLanes : (putSeq w x y).trapLanes = w.trapLanes := by cases x <;> rfl
@[simp] theorem putSeq_skid : (putSeq w x y).skid = w.skid := by cases x <;> rfl
@[simp] theorem putSeq_trapVec : (putSeq w x y).trapVec = w.trapVec := by cases x <;> rfl
@[simp] theorem putSeq_trapPix : (putSeq w x y).trapPix = w.trapPix := by cases x <;> rfl
@[simp] theorem putSeq_frame : (putSeq w x y).frame = w.frame := by cases x <;> rfl
@[simp] theorem putSeq_bank : (putSeq w x y).bank = w.bank := by cases x <;> rfl
@[simp] theorem putSeq_privBase : (putSeq w x y).privBase = w.privBase := by cases x <;> rfl
@[simp] theorem putSeq_privTop : (putSeq w x y).privTop = w.privTop := by cases x <;> rfl
@[simp] theorem putSeq_delivery : (putSeq w x y).delivery = w.delivery := by cases x <;> rfl
@[simp] theorem putSeq_pending : (putSeq w x y).pending = w.pending := by cases x <;> rfl
@[simp] theorem putSeq_current : (putSeq w x y).current = w.current := by cases x <;> rfl
@[simp] theorem putSeq_prio : (putSeq w x y).prio = w.prio := by cases x <;> rfl
@[simp] theorem putSeq_key : (putSeq w x y).key = w.key := by cases x <;> rfl
@[simp] theorem putSeq_aged : (putSeq w x y).aged = w.aged := by cases x <;> rfl
@[simp] theorem putSeq_shares : (putSeq w x y).shares = w.shares := by cases x <;> rfl
@[simp] theorem putSeq_since : (putSeq w x y).since = w.since := by cases x <;> rfl
@[simp] theorem putSeq_pre : (putSeq w x y).pre = w.pre := by cases x <;> rfl
@[simp] theorem putSeq_lastSlot : (putSeq w x y).lastSlot = w.lastSlot := by cases x <;> rfl
@[simp] theorem putSeq_stop : (putSeq w x y).stop = w.stop := by cases x <;> rfl
@[simp] theorem putSeq_tethSlot : (putSeq w x y).tethSlot = w.tethSlot := by cases x <;> rfl
@[simp] theorem putSeq_hadTether : (putSeq w x y).hadTether = w.hadTether := by cases x <;> rfl
@[simp] theorem putSeq_window : (putSeq w x y).window = w.window := by cases x <;> rfl
@[simp] theorem putSeq_queue : (putSeq w x y).queue = w.queue := by cases x <;> rfl
@[simp] theorem putSeq_owner : (putSeq w x y).owner = w.owner := by cases x <;> rfl
@[simp] theorem putSeq_lastPages : (putSeq w x y).lastPages = w.lastPages := by cases x <;> rfl
end putSeq

section putHold
variable (w : Wave) (x : Src) (y : Hold)
@[simp] theorem putHold_used : (putHold w x y).used = w.used := by cases x <;> rfl
@[simp] theorem putHold_unit : (putHold w x y).unit = w.unit := by cases x <;> rfl
@[simp] theorem putHold_waveId : (putHold w x y).waveId = w.waveId := by cases x <;> rfl
@[simp] theorem putHold_tether : (putHold w x y).tether = w.tether := by cases x <;> rfl
@[simp] theorem putHold_live : (putHold w x y).live = w.live := by cases x <;> rfl
@[simp] theorem putHold_jr : (putHold w x y).jr = w.jr := by cases x <;> rfl
@[simp] theorem putHold_divd : (putHold w x y).divd = w.divd := by cases x <;> rfl
@[simp] theorem putHold_regs : (putHold w x y).regs = w.regs := by cases x <;> rfl
@[simp] theorem putHold_counts : (putHold w x y).counts = w.counts := by cases x <;> rfl
@[simp] theorem putHold_errs : (putHold w x y).errs = w.errs := by cases x <;> rfl
@[simp] theorem putHold_accs : (putHold w x y).accs = w.accs := by cases x <;> rfl
@[simp] theorem putHold_trapCause : (putHold w x y).trapCause = w.trapCause := by cases x <;> rfl
@[simp] theorem putHold_trapPc : (putHold w x y).trapPc = w.trapPc := by cases x <;> rfl
@[simp] theorem putHold_trapAddr : (putHold w x y).trapAddr = w.trapAddr := by cases x <;> rfl
@[simp] theorem putHold_trapLanes : (putHold w x y).trapLanes = w.trapLanes := by cases x <;> rfl
@[simp] theorem putHold_skid : (putHold w x y).skid = w.skid := by cases x <;> rfl
@[simp] theorem putHold_trapVec : (putHold w x y).trapVec = w.trapVec := by cases x <;> rfl
@[simp] theorem putHold_trapPix : (putHold w x y).trapPix = w.trapPix := by cases x <;> rfl
@[simp] theorem putHold_frame : (putHold w x y).frame = w.frame := by cases x <;> rfl
@[simp] theorem putHold_bank : (putHold w x y).bank = w.bank := by cases x <;> rfl
@[simp] theorem putHold_privBase : (putHold w x y).privBase = w.privBase := by cases x <;> rfl
@[simp] theorem putHold_privTop : (putHold w x y).privTop = w.privTop := by cases x <;> rfl
@[simp] theorem putHold_delivery : (putHold w x y).delivery = w.delivery := by cases x <;> rfl
@[simp] theorem putHold_pending : (putHold w x y).pending = w.pending := by cases x <;> rfl
@[simp] theorem putHold_current : (putHold w x y).current = w.current := by cases x <;> rfl
@[simp] theorem putHold_prio : (putHold w x y).prio = w.prio := by cases x <;> rfl
@[simp] theorem putHold_key : (putHold w x y).key = w.key := by cases x <;> rfl
@[simp] theorem putHold_aged : (putHold w x y).aged = w.aged := by cases x <;> rfl
@[simp] theorem putHold_shares : (putHold w x y).shares = w.shares := by cases x <;> rfl
@[simp] theorem putHold_since : (putHold w x y).since = w.since := by cases x <;> rfl
@[simp] theorem putHold_pre : (putHold w x y).pre = w.pre := by cases x <;> rfl
@[simp] theorem putHold_lastSlot : (putHold w x y).lastSlot = w.lastSlot := by cases x <;> rfl
@[simp] theorem putHold_stop : (putHold w x y).stop = w.stop := by cases x <;> rfl
@[simp] theorem putHold_tethSlot : (putHold w x y).tethSlot = w.tethSlot := by cases x <;> rfl
@[simp] theorem putHold_hadTether : (putHold w x y).hadTether = w.hadTether := by cases x <;> rfl
@[simp] theorem putHold_window : (putHold w x y).window = w.window := by cases x <;> rfl
@[simp] theorem putHold_queue : (putHold w x y).queue = w.queue := by cases x <;> rfl
@[simp] theorem putHold_owner : (putHold w x y).owner = w.owner := by cases x <;> rfl
@[simp] theorem putHold_lastPages : (putHold w x y).lastPages = w.lastPages := by cases x <;> rfl
end putHold

section putPix
variable (w : Wave) (x : Src) (y : DWord)
@[simp] theorem putPix_used : (putPix w x y).used = w.used := by cases x <;> rfl
@[simp] theorem putPix_unit : (putPix w x y).unit = w.unit := by cases x <;> rfl
@[simp] theorem putPix_waveId : (putPix w x y).waveId = w.waveId := by cases x <;> rfl
@[simp] theorem putPix_tether : (putPix w x y).tether = w.tether := by cases x <;> rfl
@[simp] theorem putPix_live : (putPix w x y).live = w.live := by cases x <;> rfl
@[simp] theorem putPix_jr : (putPix w x y).jr = w.jr := by cases x <;> rfl
@[simp] theorem putPix_divd : (putPix w x y).divd = w.divd := by cases x <;> rfl
@[simp] theorem putPix_regs : (putPix w x y).regs = w.regs := by cases x <;> rfl
@[simp] theorem putPix_counts : (putPix w x y).counts = w.counts := by cases x <;> rfl
@[simp] theorem putPix_errs : (putPix w x y).errs = w.errs := by cases x <;> rfl
@[simp] theorem putPix_accs : (putPix w x y).accs = w.accs := by cases x <;> rfl
@[simp] theorem putPix_trapCause : (putPix w x y).trapCause = w.trapCause := by cases x <;> rfl
@[simp] theorem putPix_trapPc : (putPix w x y).trapPc = w.trapPc := by cases x <;> rfl
@[simp] theorem putPix_trapAddr : (putPix w x y).trapAddr = w.trapAddr := by cases x <;> rfl
@[simp] theorem putPix_trapLanes : (putPix w x y).trapLanes = w.trapLanes := by cases x <;> rfl
@[simp] theorem putPix_skid : (putPix w x y).skid = w.skid := by cases x <;> rfl
@[simp] theorem putPix_trapVec : (putPix w x y).trapVec = w.trapVec := by cases x <;> rfl
@[simp] theorem putPix_trapPix : (putPix w x y).trapPix = w.trapPix := by cases x <;> rfl
@[simp] theorem putPix_frame : (putPix w x y).frame = w.frame := by cases x <;> rfl
@[simp] theorem putPix_bank : (putPix w x y).bank = w.bank := by cases x <;> rfl
@[simp] theorem putPix_privBase : (putPix w x y).privBase = w.privBase := by cases x <;> rfl
@[simp] theorem putPix_privTop : (putPix w x y).privTop = w.privTop := by cases x <;> rfl
@[simp] theorem putPix_delivery : (putPix w x y).delivery = w.delivery := by cases x <;> rfl
@[simp] theorem putPix_pending : (putPix w x y).pending = w.pending := by cases x <;> rfl
@[simp] theorem putPix_current : (putPix w x y).current = w.current := by cases x <;> rfl
@[simp] theorem putPix_prio : (putPix w x y).prio = w.prio := by cases x <;> rfl
@[simp] theorem putPix_key : (putPix w x y).key = w.key := by cases x <;> rfl
@[simp] theorem putPix_aged : (putPix w x y).aged = w.aged := by cases x <;> rfl
@[simp] theorem putPix_shares : (putPix w x y).shares = w.shares := by cases x <;> rfl
@[simp] theorem putPix_since : (putPix w x y).since = w.since := by cases x <;> rfl
@[simp] theorem putPix_pre : (putPix w x y).pre = w.pre := by cases x <;> rfl
@[simp] theorem putPix_lastSlot : (putPix w x y).lastSlot = w.lastSlot := by cases x <;> rfl
@[simp] theorem putPix_stop : (putPix w x y).stop = w.stop := by cases x <;> rfl
@[simp] theorem putPix_tethSlot : (putPix w x y).tethSlot = w.tethSlot := by cases x <;> rfl
@[simp] theorem putPix_hadTether : (putPix w x y).hadTether = w.hadTether := by cases x <;> rfl
@[simp] theorem putPix_window : (putPix w x y).window = w.window := by cases x <;> rfl
@[simp] theorem putPix_queue : (putPix w x y).queue = w.queue := by cases x <;> rfl
@[simp] theorem putPix_owner : (putPix w x y).owner = w.owner := by cases x <;> rfl
@[simp] theorem putPix_lastPages : (putPix w x y).lastPages = w.lastPages := by cases x <;> rfl
end putPix

section putLive
variable (w : Wave) (x : Src) (y : RegFile)
@[simp] theorem putLive_used : (putLive w x y).used = w.used := by cases x <;> rfl
@[simp] theorem putLive_unit : (putLive w x y).unit = w.unit := by cases x <;> rfl
@[simp] theorem putLive_waveId : (putLive w x y).waveId = w.waveId := by cases x <;> rfl
@[simp] theorem putLive_tether : (putLive w x y).tether = w.tether := by cases x <;> rfl
@[simp] theorem putLive_a : (putLive w x y).a = w.a := by cases x <;> rfl
@[simp] theorem putLive_b : (putLive w x y).b = w.b := by cases x <;> rfl
@[simp] theorem putLive_live : (putLive w x y).live = w.live := by cases x <;> rfl
@[simp] theorem putLive_jr : (putLive w x y).jr = w.jr := by cases x <;> rfl
@[simp] theorem putLive_divd : (putLive w x y).divd = w.divd := by cases x <;> rfl
@[simp] theorem putLive_counts : (putLive w x y).counts = w.counts := by cases x <;> rfl
@[simp] theorem putLive_errs : (putLive w x y).errs = w.errs := by cases x <;> rfl
@[simp] theorem putLive_accs : (putLive w x y).accs = w.accs := by cases x <;> rfl
@[simp] theorem putLive_trapCause : (putLive w x y).trapCause = w.trapCause := by cases x <;> rfl
@[simp] theorem putLive_trapPc : (putLive w x y).trapPc = w.trapPc := by cases x <;> rfl
@[simp] theorem putLive_trapAddr : (putLive w x y).trapAddr = w.trapAddr := by cases x <;> rfl
@[simp] theorem putLive_trapLanes : (putLive w x y).trapLanes = w.trapLanes := by cases x <;> rfl
@[simp] theorem putLive_skid : (putLive w x y).skid = w.skid := by cases x <;> rfl
@[simp] theorem putLive_trapVec : (putLive w x y).trapVec = w.trapVec := by cases x <;> rfl
@[simp] theorem putLive_trapPix : (putLive w x y).trapPix = w.trapPix := by cases x <;> rfl
@[simp] theorem putLive_frame : (putLive w x y).frame = w.frame := by cases x <;> rfl
@[simp] theorem putLive_bank : (putLive w x y).bank = w.bank := by cases x <;> rfl
@[simp] theorem putLive_privBase : (putLive w x y).privBase = w.privBase := by cases x <;> rfl
@[simp] theorem putLive_privTop : (putLive w x y).privTop = w.privTop := by cases x <;> rfl
@[simp] theorem putLive_delivery : (putLive w x y).delivery = w.delivery := by cases x <;> rfl
@[simp] theorem putLive_pending : (putLive w x y).pending = w.pending := by cases x <;> rfl
@[simp] theorem putLive_current : (putLive w x y).current = w.current := by cases x <;> rfl
@[simp] theorem putLive_prio : (putLive w x y).prio = w.prio := by cases x <;> rfl
@[simp] theorem putLive_key : (putLive w x y).key = w.key := by cases x <;> rfl
@[simp] theorem putLive_aged : (putLive w x y).aged = w.aged := by cases x <;> rfl
@[simp] theorem putLive_shares : (putLive w x y).shares = w.shares := by cases x <;> rfl
@[simp] theorem putLive_since : (putLive w x y).since = w.since := by cases x <;> rfl
@[simp] theorem putLive_pre : (putLive w x y).pre = w.pre := by cases x <;> rfl
@[simp] theorem putLive_lastSlot : (putLive w x y).lastSlot = w.lastSlot := by cases x <;> rfl
@[simp] theorem putLive_stop : (putLive w x y).stop = w.stop := by cases x <;> rfl
@[simp] theorem putLive_tethSlot : (putLive w x y).tethSlot = w.tethSlot := by cases x <;> rfl
@[simp] theorem putLive_hadTether : (putLive w x y).hadTether = w.hadTether := by cases x <;> rfl
@[simp] theorem putLive_window : (putLive w x y).window = w.window := by cases x <;> rfl
@[simp] theorem putLive_queue : (putLive w x y).queue = w.queue := by cases x <;> rfl
@[simp] theorem putLive_owner : (putLive w x y).owner = w.owner := by cases x <;> rfl
@[simp] theorem putLive_lastPages : (putLive w x y).lastPages = w.lastPages := by cases x <;> rfl
end putLive

section orFlags
variable (w : Wave) (f : BitVec 32)
@[simp] theorem orFlags_used : (orFlags w f).used = w.used := by rfl
@[simp] theorem orFlags_unit : (orFlags w f).unit = w.unit := by rfl
@[simp] theorem orFlags_waveId : (orFlags w f).waveId = w.waveId := by rfl
@[simp] theorem orFlags_tether : (orFlags w f).tether = w.tether := by rfl
@[simp] theorem orFlags_a : (orFlags w f).a = w.a := by rfl
@[simp] theorem orFlags_b : (orFlags w f).b = w.b := by rfl
@[simp] theorem orFlags_live : (orFlags w f).live = w.live := by rfl
@[simp] theorem orFlags_jr : (orFlags w f).jr = w.jr := by rfl
@[simp] theorem orFlags_divd : (orFlags w f).divd = w.divd := by rfl
@[simp] theorem orFlags_counts : (orFlags w f).counts = w.counts := by rfl
@[simp] theorem orFlags_errs : (orFlags w f).errs = w.errs := by rfl
@[simp] theorem orFlags_accs : (orFlags w f).accs = w.accs := by rfl
@[simp] theorem orFlags_seqC : (orFlags w f).seqC = w.seqC := by rfl
@[simp] theorem orFlags_seqM : (orFlags w f).seqM = w.seqM := by rfl
@[simp] theorem orFlags_seqG : (orFlags w f).seqG = w.seqG := by rfl
@[simp] theorem orFlags_trapCause : (orFlags w f).trapCause = w.trapCause := by rfl
@[simp] theorem orFlags_trapPc : (orFlags w f).trapPc = w.trapPc := by rfl
@[simp] theorem orFlags_trapAddr : (orFlags w f).trapAddr = w.trapAddr := by rfl
@[simp] theorem orFlags_trapLanes : (orFlags w f).trapLanes = w.trapLanes := by rfl
@[simp] theorem orFlags_skid : (orFlags w f).skid = w.skid := by rfl
@[simp] theorem orFlags_trapVec : (orFlags w f).trapVec = w.trapVec := by rfl
@[simp] theorem orFlags_trapPix : (orFlags w f).trapPix = w.trapPix := by rfl
@[simp] theorem orFlags_frame : (orFlags w f).frame = w.frame := by rfl
@[simp] theorem orFlags_bank : (orFlags w f).bank = w.bank := by rfl
@[simp] theorem orFlags_privBase : (orFlags w f).privBase = w.privBase := by rfl
@[simp] theorem orFlags_privTop : (orFlags w f).privTop = w.privTop := by rfl
@[simp] theorem orFlags_delivery : (orFlags w f).delivery = w.delivery := by rfl
@[simp] theorem orFlags_pending : (orFlags w f).pending = w.pending := by rfl
@[simp] theorem orFlags_current : (orFlags w f).current = w.current := by rfl
@[simp] theorem orFlags_prio : (orFlags w f).prio = w.prio := by rfl
@[simp] theorem orFlags_key : (orFlags w f).key = w.key := by rfl
@[simp] theorem orFlags_aged : (orFlags w f).aged = w.aged := by rfl
@[simp] theorem orFlags_shares : (orFlags w f).shares = w.shares := by rfl
@[simp] theorem orFlags_since : (orFlags w f).since = w.since := by rfl
@[simp] theorem orFlags_pre : (orFlags w f).pre = w.pre := by rfl
@[simp] theorem orFlags_lastSlot : (orFlags w f).lastSlot = w.lastSlot := by rfl
@[simp] theorem orFlags_stop : (orFlags w f).stop = w.stop := by rfl
@[simp] theorem orFlags_tethSlot : (orFlags w f).tethSlot = w.tethSlot := by rfl
@[simp] theorem orFlags_hadTether : (orFlags w f).hadTether = w.hadTether := by rfl
@[simp] theorem orFlags_window : (orFlags w f).window = w.window := by rfl
@[simp] theorem orFlags_queue : (orFlags w f).queue = w.queue := by rfl
@[simp] theorem orFlags_owner : (orFlags w f).owner = w.owner := by rfl
@[simp] theorem orFlags_lastPages : (orFlags w f).lastPages = w.lastPages := by rfl
end orFlags

end Sys2Proof.Laws.State
end

