-- ==== Sys2Proof/Laws/Ops.lean ====
section
/-! SUPPORT. What the shared operations can do, each said once: how an instruction ends, what a trap, a wait and an issued
access leave unchanged, how a message is taken and answered, and what a step can do. -/
namespace Sys2Proof.Laws.Ops
open Sys2Proof Sys2Proof.Machine Sys2Proof.Safety Sys2Proof.Laws.Tables

-- Instructions.

/-- A register-only instruction always answers: a trap, or registers of its own source and the source past its word. -/
theorem runLocal_cases (s : State) (sw : Bool) (a : Where) (f : Ctx → Except Trap RegFile) :
    (∃ e, runLocal s sw a f = .next (trapped s e)) ∨ ∃ r, f (ctx s) = .ok r ∧ runLocal s sw a f = .next (retire s sw r) := by
  simp only [runLocal]
  split
  · split
    · exact .inl ⟨_, rfl⟩
    · exact .inr ⟨_, ‹_›, rfl⟩
  · exact .inl ⟨_, rfl⟩

/-- An instruction of a slot that its meaning does not stop answers with its registers. -/
theorem runLocal_ok {s : State} {sw : Bool} {a : Where} {f : Ctx → Except Trap RegFile} {r : RegFile}
    (ha : allowed a (ctx s).src = true) (h : f (ctx s) = .ok r) : runLocal s sw a f = .next (retire s sw r) := by
  simp [runLocal, ha, h, retire]

/-- A slot may execute whatever any agent may. -/
theorem allowed_slot {s : State} (h : BySlot s) (a : Where) : allowed a (ctx s).src = true := by
  have : isSeq (ctx s).src = false := h
  cases a <;> simp [allowed, this]

/-- An instruction on the whole state always answers: a trap, or the state that its meaning gives. -/
theorem runState_cases (s : State) (a : Where) (f : Ctx → Except Trap State) :
    (∃ e, runState s a f = .next (trapped s e)) ∨ ∃ t, f (ctx s) = .ok t ∧ runState s a f = .next t := by
  simp only [runState]
  split
  · split
    · exact .inl ⟨_, rfl⟩
    · exact .inr ⟨_, ‹_›, rfl⟩
  · exact .inl ⟨_, rfl⟩

/-- It answers with the state that its meaning gives. -/
theorem runState_ok {s t : State} {a : Where} {f : Ctx → Except Trap State} (ha : allowed a (ctx s).src = true)
    (h : f (ctx s) = .ok t) : runState s a f = .next t := by simp [runState, ha, h]

/-- A supervisor instruction without SYS traps with 0x03. -/
theorem runSys_denied {s : State} (h : hasSys (ctx s) = false) (f : Ctx → Except Trap State) :
    runSys s f = .next (trapped s { cause := 0x03 }) := by simp [runSys, h, trapped]

/-- With SYS it is an instruction of the wave. -/
theorem runSys_sys {s : State} (h : hasSys (ctx s) = true) (f : Ctx → Except Trap State) : runSys s f = runState s .wave f := by
  simp [runSys, h]

-- Waves.

/-- A source that waits changes only its own slot or sequencer. -/
theorem waitWith_other (s : State) (c : Ctx) (h : Hold) (j : Nat) (hj : j ≠ c.k) : waveAt (waitWith s c h) j = waveAt s j := by
  simp [waitWith, Ne.symm hj]

/-- A wait leaves memory, tags and everything else but the waves. -/
theorem waitWith_mem (s : State) (c : Ctx) (h : Hold) :
    (waitWith s c h).mem = s.mem ∧ (waitWith s c h).tags = s.tags ∧ (waitWith s c h).wings = s.wings := ⟨rfl, rfl, rfl⟩

/-- A source that moves on changes only its own wave. -/
theorem finish_other (s : State) (c : Ctx) (sw : Bool) (j : Nat) (hj : j ≠ c.k) : waveAt (finish s c sw) j = waveAt s j := by
  simp [finish, Ne.symm hj]

/-- The wave that moves on. -/
theorem finish_self (s : State) (c : Ctx) (sw : Bool) : waveAt (finish s c sw) c.k = advance c sw (waveAt s c.k) := by
  simp [finish]

/-- Moving on leaves the registers. -/
theorem advance_regs (c : Ctx) (sw : Bool) (w : Wave) : (advance c sw w).regs = w.regs := by
  simp only [advance]; split
  · simp only [putSeq]; split <;> rfl
  · simp only [putSlot]; split <;> rfl

/-- Moving on leaves the accesses, their counters and the deferred errors. -/
theorem advance_accs (c : Ctx) (sw : Bool) (w : Wave) :
    (advance c sw w).accs = w.accs ∧ (advance c sw w).counts = w.counts ∧ (advance c sw w).errs = w.errs := by
  simp only [advance]; split
  · simp only [putSeq]; split <;> exact ⟨rfl, rfl, rfl⟩
  · simp only [putSlot]; split <;> exact ⟨rfl, rfl, rfl⟩

/-- Moving on leads to the next word. -/
theorem advance_pc (c : Ctx) (sw : Bool) (w : Wave) : srcPc (advance c sw w) c.src = c.pc + 4 := by
  cases h : c.src <;> simp [advance, srcPc, h, isSeq, putSeq, putSlot, seqOf, slotOf]

/-- An access that is issued where its counter has room. -/
theorem issueAcc_room {s : State} {c : Ctx} (sw : Bool) {a : Access} (h : countOf (waveAt s c.k) a.path < Config.counterMax) :
    issueAcc s c sw a = setWave s c.k (advance c sw { waveAt s c.k with
      counts := tput (waveAt s c.k).counts a.path (countOf (waveAt s c.k) a.path + 1), accs := (waveAt s c.k).accs ++ [stamped s c a] }) := by
  simp [issueAcc, Nat.not_le.mpr h]

/-- An access at issue leaves memory, tags, units and wings. -/
theorem issueAcc_mem (s : State) (c : Ctx) (sw : Bool) (a : Access) :
    (issueAcc s c sw a).mem = s.mem ∧ (issueAcc s c sw a).tags = s.tags ∧ (issueAcc s c sw a).owners = s.owners ∧
      (issueAcc s c sw a).units = s.units ∧ (issueAcc s c sw a).wings = s.wings := by
  simp only [issueAcc]; split <;> exact ⟨rfl, rfl, rfl, rfl, rfl⟩

/-- An access that is issued where its counter has room is the newest outstanding one of its wave. -/
theorem issueAcc_issued {s : State} (sw : Bool) {a : Access} (h : countOf (ctx s).w a.path < Config.counterMax) :
    Issued s (issueAcc s (ctx s) sw a) a := by
  have e : (ctx s).w = waveAt s (ctx s).k := rfl
  have l : (ctx s).live = srcLive (waveAt s (ctx s).k) (ctx s).src := rfl
  rw [issueAcc_room sw (e ▸ h)]
  refine ⟨⟨s.fresh, (stamped s (ctx s) a).pages, ?_⟩, ?_, ?_, ?_, ?_, fun j hj => ?_, ⟨rfl, rfl, rfl, rfl, rfl⟩⟩
  · simp [advance_accs, stamped, e]
  · simp [countOf, advance_accs, tget_tput, e]
  · simp [advance_pc]
  · cases hs : (ctx s).src <;> simp [advance, srcDix, hs, isSeq, putSeq, putSlot, seqOf, slotOf]
  · rw [l]; cases hs : (ctx s).src <;> simp [advance, srcLive, hs, isSeq, putSeq, putSlot, seqOf]
  · simp [Ne.symm hj]

-- Traps.

/-- A function of waves, applied to a list of them, changes nothing but waves. -/
theorem mapWaves_rest (f : Nat → Wave → Wave) (ks : List Nat) (s : State) :
    (mapWaves s f ks).mem = s.mem ∧ (mapWaves s f ks).tags = s.tags ∧ (mapWaves s f ks).owners = s.owners ∧
      (mapWaves s f ks).wings = s.wings ∧ (mapWaves s f ks).units = s.units ∧ (mapWaves s f ks).poison = s.poison := by
  induction ks generalizing s with
  | nil => exact ⟨rfl, rfl, rfl, rfl, rfl, rfl⟩
  | cons k ks ih => simpa [mapWaves] using ih (setWave s k (f k (waveAt s k)))

/-- What holds of every wave, and the function keeps, holds of every wave after. -/
theorem mapWaves_all {P : Wave → Prop} (f : Nat → Wave → Wave) (hf : ∀ k w, P w → P (f k w)) (ks : List Nat) (s : State)
    (h : ∀ k, P (waveAt s k)) (k : Nat) : P (waveAt (mapWaves s f ks) k) := by
  induction ks generalizing s with
  | nil => exact h k
  | cons j ks ih =>
    refine ih _ fun i => ?_
    by_cases e : j = i
    · simp only [waveAt_setWave, e, if_true]; exact hf _ _ (h i)
    · simp only [waveAt_setWave, e, if_false]; exact h i

/-- A capture trigger changes nothing but the captures. -/
theorem trapTrigger_rest (s : State) (wing : Nat) (t : Trap) :
    (trapTrigger s wing t).waves = s.waves ∧ (trapTrigger s wing t).units = s.units ∧
      (trapTrigger s wing t).mem = s.mem ∧ (trapTrigger s wing t).tags = s.tags ∧
      (trapTrigger s wing t).owners = s.owners ∧ (trapTrigger s wing t).wings = s.wings := by
  simp only [trapTrigger, capTrigger]
  split
  · split
    · exact ⟨rfl, rfl, rfl, rfl, rfl, rfl⟩
    · split <;> exact ⟨rfl, rfl, rfl, rfl, rfl, rfl⟩
  · exact ⟨rfl, rfl, rfl, rfl, rfl, rfl⟩

/-- A halt changes only waves, units and the queues of the alcoves. -/
theorem haltUnit_rest (s : State) (u except : Nat) :
    (haltUnit s u except).mem = s.mem ∧ (haltUnit s u except).tags = s.tags ∧ (haltUnit s u except).owners = s.owners ∧
      (haltUnit s u except).wings = s.wings := by
  obtain ⟨h1, h2, h3, h4, -, -⟩ := mapWaves_rest (haltWave except) (unitAt s u).waves s
  exact ⟨h1, h2, h3, h4⟩

/-- Taking a trap leaves memory, tags, owner tags and wings. -/
theorem takeTrap_rest (s : State) (k : Nat) (src : Src) (t : Trap) :
    (takeTrap s k src t).mem = s.mem ∧ (takeTrap s k src t).tags = s.tags ∧ (takeTrap s k src t).owners = s.owners ∧
      (takeTrap s k src t).wings = s.wings := by
  obtain ⟨-, -, h1, h2, h3, h4⟩ := trapTrigger_rest s (wingNoOf s k) t
  generalize hs : trapTrigger s (wingNoOf s k) t = s1 at h1 h2 h3 h4
  obtain ⟨m1, m2, m3, m4⟩ := haltUnit_rest s1 (waveAt s1 k).unit k
  simp only [takeTrap, hs]
  cases (waveAt s1 k).frame.isSome
  · exact ⟨m1.trans h1, m2.trans h2, m3.trans h3, m4.trans h4⟩
  · exact ⟨h1, h2, h3, h4⟩

-- The host link.

/-- An answer changes only the associations and what the host has received. -/
theorem reply_rest (s : State) (h : HostHdr) (op status val : Nat) (bytes : List Byte) :
    (reply s h op status val bytes).mem = s.mem ∧ (reply s h op status val bytes).waves = s.waves ∧
      (reply s h op status val bytes).wings = s.wings ∧ (reply s h op status val bytes).units = s.units := by
  simp only [reply]; split
  · split <;> exact ⟨rfl, rfl, rfl, rfl⟩
  · exact ⟨rfl, rfl, rfl, rfl⟩

/-- A message under a live key of a management association of a device that is up is taken. -/
theorem takeMsg_manages {s : State} {h : HostHdr} (hm : Manages s h) (op : Nat) (f : State → Out) : takeMsg s h op f = f s := by
  obtain ⟨h1, h2, h3, h4, h5⟩ := hm
  simp only [takeMsg, h1, h2, h3, h4, Nat.not_lt.mpr h5]; simp

/-- So is one whose payload its LEN counts. -/
theorem takeBytes_manages {s : State} {h : HostHdr} (hm : Manages s h) (op : Nat) {bs : List Byte} (hb : bs.length ≤ h.len.toNat)
    (f : State → Out) : takeBytes s h op bs f = f s := by
  rw [takeBytes, takeMsg_manages hm, if_neg (Nat.not_lt.mpr hb)]

/-- Such a message for a live wing reaches it. -/
theorem takeForWing_manages {s : State} {h : HostHdr} (hm : Manages s h) (hw : wingLives s h.wing.toNat = true) (op : Nat)
    (f : State → Nat → Out) : takeForWing s h op f = f s h.wing.toNat := by
  rw [takeForWing, takeMsg_manages hm, if_pos hw]

-- Memory.

/-- Keeping a line's image leaves the lines that hold an error. -/
theorem keepImage_poison (s : State) (line : Nat) : (keepImage s line).poison = s.poison := by
  simp only [keepImage]; split <;> rfl

/-- What every step of a fold keeps, the fold keeps. -/
theorem foldl_keeps {α β : Type} (p : State → α) (f : State → β → State) (hf : ∀ s b, p (f s b) = p s) (l : List β) (s : State) :
    p (l.foldl f s) = p s := by
  induction l generalizing s with
  | nil => rfl
  | cons b l ih => simp only [List.foldl_cons]; rw [ih, hf]

/-- A write leaves the lines that hold an error. -/
theorem pokeMem_poison (s : State) (pa : Nat) (bs : List Byte) : (pokeMem s pa bs).poison = s.poison :=
  foldl_keeps State.poison keepImage keepImage_poison _ s

/-- Neither does the dirty log change them. -/
theorem logWrite_poison (s : State) (pa : Nat) : (logWrite s pa).poison = s.poison := by
  have hp : ∀ (s : State) (w : Wing) (ipa : Nat) (bs : List Byte), (pokeIpa s w ipa bs).poison = s.poison := by
    intro s w ipa bs; simp only [pokeIpa]; split
    · split
      · rfl
      · exact pokeMem_poison _ _ _
    · rfl
  refine foldl_keeps State.poison _ (fun s e => ?_) _ s
  split
  · rfl
  · refine foldl_keeps State.poison _ (fun s ipa => ?_) _ s
    simp only [logPage]; split
    · rfl
    · simp only [hp]

/-- The log of a change leaves the lines that hold an error. -/
theorem logChange_poison (s : State) (pa : Nat) (bs : List Byte) : (logChange s pa bs).poison = s.poison := by
  simp only [logChange]; split
  · rfl
  · rw [logWrite_poison]; split
    · rfl
    · exact logWrite_poison _ _

/-- A logged write leaves the lines that hold an error. -/
theorem writeMem_poison (s : State) (pa : Nat) (bs : List Byte) : (writeMem s pa bs).poison = s.poison := by
  simp only [writeMem]; rw [pokeMem_poison, logChange_poison]

/-- So does a write that is served to DRAM. -/
theorem writeThru_poison (s : State) (pa : Nat) (bs : List Byte) : (writeThru s pa bs).poison = s.poison :=
  logChange_poison s pa bs

/-- In memory without an uncorrectable error every rewrite of a scrub succeeds. -/
theorem scrubLines_clean {s : State} (h : s.poison = []) (frame owner n i rep : Nat) :
    (scrubLines s frame owner n i rep).2.2 = none ∧ (scrubLines s frame owner n i rep).1.poison = [] := by
  induction n generalizing s i with
  | zero => exact ⟨rfl, h⟩
  | succ n ih =>
    have e : scrubLines s frame owner (n + 1) i rep = scrubLines (scrubLine s (frame * 512 + i) owner) frame owner n (i + 1) rep := by
      rw [scrubLines, h]; rfl
    have hp : (scrubLine s (frame * 512 + i) owner).poison = [] := by
      rw [scrubLine]; generalize List.replicate 128 (0 : Byte) = z
      exact (congrArg (tdel · (frame * 512 + i)) ((writeThru_poison s _ z).trans h)).trans rfl
    rw [e]; exact ih hp _

/-- So a scrub of one frame succeeds. -/
theorem scrubPage_clean {s : State} (h : s.poison = []) (f : Nat × Nat) (r : Receipt) : (scrubPage s [f] r).2.2 = none := by
  simp only [scrubPage, List.foldl_cons, List.foldl_nil]
  split
  · rfl
  · exact (scrubLines_clean ((logWrite_poison _ _).trans h) _ _ _ _ _).1

-- Accesses.

/-- The checks of an access at issue, evaluated. -/
def accessOkB (s : State) (path : Nat) (q : AccReq) (ls : List LaneReq) : Bool :=
  ls.all (fun l => (laneCause s (ctx s) q l).isNone) &&
  ls.all (fun l => match laneTr s (ctx s) q l with | .ok .. => true | _ => false) &&
  (capHas q.cap pSCRATCH || (decide (q.need = .write) && !q.atom) ||
    ls.all fun l => match tileAns (wingOf s (ctx s).k) (unitOf s (ctx s).k).build l.x.toNat (q.atom && q.rights.contains pST) true with
      | .park _ => false | _ => true) &&
  !acqHeld (ctx s) && (match (ctx s).hold with | .s2failed .. => false | _ => true) &&
  decide (countOf (ctx s).w path < Config.counterMax)

/-- An access whose checks evaluate to true passes them. -/
theorem accessOk_of {s : State} {path : Nat} {q : AccReq} {ls : List LaneReq} (h : accessOkB s path q ls = true) :
    AccessOk s path q ls := by
  simp only [accessOkB, Bool.and_eq_true, Bool.or_eq_true, decide_eq_true_eq, List.all_eq_true, Bool.not_eq_true',
    Option.isNone_iff_eq_none] at h
  obtain ⟨⟨⟨⟨⟨h1, h2⟩, h3⟩, h0⟩, h5⟩, h4⟩ := h
  refine ⟨h0, fun a b d e => by simp [e] at h5, h1, fun l hl => ?_, ?_, h4⟩
  · have := h2 l hl
    split at this
    · exact ⟨_, _, _, _, ‹_›⟩
    · cases this
  · rcases h3 with (h | h) | h
    · exact .inl h
    · exact .inr (.inl h)
    · refine .inr (.inr fun l hl id hid => ?_)
      have := h l hl
      rw [hid] at this; cases this

-- Steps.

/-- What a move ends with: the state before it, where a dirty log would overflow, or the state after it. -/
theorem afterMove_cases (b a : State) :
    afterMove b a = { tick b with turn := b.turn + 1 } ∨
      (logOverflow a = false ∧ logOverflow (tend a) = false ∧ afterMove b a = tend a) := by
  unfold afterMove; split
  · exact .inl rfl
  · next h =>
    simp only [Bool.or_eq_true, not_or, Bool.not_eq_true] at h
    exact .inr ⟨h.1, h.2, rfl⟩

/-- A closed move that answers a next state comes from one that did. -/
theorem closeMove_next {b t : State} {f : State → State} {o : Out} (h : closeMove b f o = .next t) :
    ∃ u, o = .next u ∧ t = afterMove b (f u) := by
  cases o with
  | next u => exact ⟨u, rfl, by simpa [closeMove] using h.symm⟩
  | fault r => simp [closeMove] at h
  | refused r => simp [closeMove] at h

/-- What an issue can do: the source waits for stage 2 or traps at the fetch, or its decoded instruction has executed. -/
theorem issueStep_next {k : Nat} {src : Src} {s t : State} (h : issueStep k src s = .next t) :
    (∃ cause, fetch s k src = .trap cause ∧
      t = afterMove s (takeTrap s k src { cause := cause, addr := srcPc (waveAt s k) src })) ∨
    (∃ ipa kind, fetch s k src = .s2 ipa kind ∧ t = afterMove s (fetchMiss s k src ipa kind)) ∨
    ∃ w u i v, fetch s k src = .word w u ∧ decodeWord w = .ok i ∧ exec i { u with cur := ⟨k, src⟩ } = .next v ∧
      t = afterMove s (afterIssue k src (srcHold (waveAt s k) src) i v) := by
  simp only [issueStep] at h
  split at h
  · exact .inl ⟨_, ‹_›, by simpa using h.symm⟩
  · exact .inr (.inl ⟨_, _, ‹_›, by simpa using h.symm⟩)
  · split at h
    · cases h
    · obtain ⟨v, hv, rfl⟩ := closeMove_next h
      exact .inr (.inr ⟨_, _, _, v, ‹_›, ‹_›, hv, rfl⟩)

/-- What a step can do: nothing enabled changes nothing but the script; else an issue, an event or a quiet move. -/
theorem step_next {s t : State} (h : step s = .next t) :
    t = s ∨ ∃ m, nextMove s = some m ∧
      (t = { s with script := s.script.tail } ∨
       (∃ k src, m = .issue k src ∧ issueStep k src { s with script := s.script.tail } = .next t) ∨
       (∃ k src, m = .settle k src ∧ settleWith issueStep k src { s with script := s.script.tail } = .next t) ∨
       (∃ i u, m = .event i ∧ exec i { s with script := s.script.tail } = .next u ∧
         t = afterMove { s with script := s.script.tail } u) ∨
       t = afterMove { s with script := s.script.tail } (quietMove { s with script := s.script.tail } m)) := by
  simp only [step] at h
  split at h
  · refine .inr ⟨_, ‹_›, ?_⟩
    split at h
    · simp only [runMove] at h
      split at h
      · split at h
        · exact .inr (.inl ⟨_, _, rfl, h⟩)
        · exact .inl (by simpa using h.symm)
      · split at h
        · exact .inr (.inr (.inl ⟨_, _, rfl, h⟩))
        · exact .inl (by simpa using h.symm)
      · split at h
        · exact .inl (by simpa using h.symm)
        · obtain ⟨u, hu, rfl⟩ := closeMove_next h
          exact .inr (.inr (.inr (.inl ⟨_, u, rfl, hu, rfl⟩)))
      · exact .inr (.inr (.inr (.inr (by simpa using h.symm))))
    · cases h
  · split at h
    · exact .inl (by simpa using h.symm)
    · cases h

end Sys2Proof.Laws.Ops
end

