-- ==== Sys2Proof/Tests/Slice0.lean ====
section
/-! SUPPORT. Tests: ill-formed terms that the well-formedness check refuses, words of the encoding tables, single steps with
results from the spec, and, for each statement with hypotheses, a state and operands that meet them. -/
namespace Sys2Proof.Tests
open Sys2Proof Sys2Proof.Machine Sys2Proof.Safety Sys2Proof.Laws.Ops
set_option Elab.async false
set_option linter.all false

-- The states of the tests.

/-- One wave of one unit in one wing, about to execute in slot A with SYS in PCC; stage 2 and stage 1 map the first 1 GiB to
itself (log 3). -/
def base : State := { placeWord State.reset 0 with cur := ⟨0, .slotA⟩, script := [] }
/-- The same with the wave changed. -/
def withW (f : Wave → Wave) : State := setWave base 0 (f (waveAt base 0))
/-- The same with registers and MODE; c31 stays PCC. -/
def withR (m : BitVec 32) (f : RegFile → RegFile) : State := withW fun w => { w with regs := f { w.regs with mode := m } }
/-- The same executing in a sequencer. -/
def inSeq (q : Src) : State := { base with cur := ⟨0, q⟩ }
/-- MODE with ETYPE and STYPE. -/
def mode (e t : Nat) : BitVec 32 := BitVec.ofNat 32 (e * 32 + t * 65536)
/-- A capability of world 1 over 64 KiB of data at 0x40000, with the permissions of a number. -/
def data (perms : Nat) : Cap := mkCap 0x40000 0x50000 0x40000 perms 0 1
/-- The state after an instruction; the same state where it gives none. -/
def after (i : Instr) (s : State) : State := match exec i s with | .next t => t | _ => s
/-- The registers of wave 0. -/
def regs (s : State) : RegFile := (waveAt s 0).regs
/-- The state with its memory's first data page holding bytes. -/
def withM (s : State) (bs : List Byte) : State := { s with mem := tputBytes s.mem 0x40000 bs }

-- Well-formedness.

/-- Ill-formed terms, part 1: each has one field out of its range (R49 to R52, R55, R64, R69). -/
theorem test_wf_refuses_1 : ([
  .setm false false 16384, .setm false false 9, .setm false false 6144, .setm false false 448, .setm false false 608,
  .setm false true 32, .setm false true 22, .setms true 64, .getm false 64, .jmpc false 32, .jmpcLink false 28 4,
  .jmpcLink false 31 4, .jmpcLink false 32 4, .jmpcLink false 2 32, .sadd true 64 4 6 true, .sadd true 2 64 6 true,
  .sadd true 2 4 64 false, .ssub false 64 4 6 true, .ssub false 2 64 6 true, .ssub false 2 4 64 false,
  .smul true 64 4 6 true, .smul true 2 64 6 true, .smul true 2 4 64 false, .smulh false 64 4 6 true true,
  .smulh false 2 64 6 true true, .smulh false 2 4 64 false true, .sand true 64 4 6 true, .sand true 2 64 6 true,
  .sand true 2 4 64 false, .sor true 64 4 6 true, .sor true 2 64 6 true, .sor true 2 4 64 false, .sxor false 64 4 6 true,
  .sxor false 2 64 6 true, .sxor false 2 4 64 false, .sshl true 64 4 6 true, .sshl true 2 64 6 true,
  .sshl true 2 4 64 false, .sshr false 64 4 6 true, .sshr false 2 64 6 true] : List Instr).all (fun i => !i.wf) = true := by decide

/-- Ill-formed terms, part 2: each has one field out of its range (R49 to R52, R55, R64, R69). -/
theorem test_wf_refuses_2 : ([
  .sshr false 2 4 64 false, .ssra true 64 4 6 true, .ssra true 2 64 6 true, .ssra true 2 4 64 false,
  .smin false 64 4 6 true true, .smin false 2 64 6 true true, .smin false 2 4 64 false true, .smax true 64 4 6 true true,
  .smax true 2 64 6 true true, .smax true 2 4 64 false true, .scmp true 6 1 4 6 true true, .scmp true 4 1 64 6 true true,
  .scmp true 4 1 4 64 false true, .ssel false 64 4 6, .ssel false 2 64 6, .ssel false 2 4 64, .sbfx true 64 4 6 true,
  .sbfx true 2 64 6 true, .sbfx true 2 4 64 true, .spopc true 64 4, .spopc true 2 64, .spopcP false 64 4,
  .spopcP false 2 8, .smovi true 64 3, .slui true 64 3, .pand true 8 4 6, .pand true 2 8 6, .pand true 2 4 8,
  .por false 8 4 6, .por false 2 8 6, .por false 2 4 8, .pxor false 8 4 6, .pxor false 2 8 6, .pxor false 2 4 8,
  .pnot true 8 4, .pnot true 2 8, .pmov false 8 4, .pmov false 2 8, .pmovFromS false 8 4, .pmovFromS false 2 64] : List Instr).all (fun i => !i.wf) = true := by decide

/-- Ill-formed terms, part 3: each has one field out of its range (R49 to R52, R55, R64, R69). -/
theorem test_wf_refuses_3 : ([
  .pmovToS true 64 4, .pmovToS true 2 8, .pmovMask false 8, .vcmp true 8 1 4 6 true, .vmovs true 2 64, .vmovsToS true 64 4,
  .vqnt true 2 4 64, .vdqnt true 2 4 64, .vcbk false 2 4 64, .rseed false 64 4, .rseed false 2 64, .vbfly true 2 4 32,
  .vball true 8 4, .vany false 64 4, .vany false 2 8, .vall true 64 4, .vall true 2 8, .vreds true 64 4 true,
  .cgeta true 64 4, .cgeta true 2 32, .cgetb true 64 4, .cgetb true 2 32, .cgetl false 64 4, .cgetl false 2 32,
  .cgetp true 64 4, .cgetp true 2 32, .cgett false 64 4, .cgett false 2 32, .cseta true 28 4 6 true,
  .cseta true 31 4 6 true, .cseta true 32 4 6 true, .cseta true 2 32 6 true, .cseta true 2 4 64 true, .cinc true 28 4 496,
  .cinc true 31 4 496, .cinc true 32 4 496, .cinc true 2 32 496, .csetb true 28 4 6 true, .csetb true 31 4 6 true,
  .csetb true 32 4 6 true] : List Instr).all (fun i => !i.wf) = true := by decide

/-- Ill-formed terms, part 4: each has one field out of its range (R49 to R52, R55, R64, R69). -/
theorem test_wf_refuses_4 : ([
  .csetb true 2 32 6 true, .csetb true 2 4 64 true, .cprune false 28 4 6, .cprune false 31 4 6, .cprune false 32 4 6,
  .cprune false 2 32 6, .cprune false 2 4 64, .cseal false 28 4 6, .cseal false 31 4 6, .cseal false 32 4 6,
  .cseal false 2 32 6, .cseal false 2 4 32, .cunsl false 28 4 6, .cunsl false 31 4 6, .cunsl false 32 4 6,
  .cunsl false 2 32 6, .cunsl false 2 4 32, .cmov true 28 4, .cmov true 31 4, .cmov true 32 4, .cmov true 2 32,
  .cmovS true 32 4, .cmovS true 2 32, .cmovFromVc false 28 4, .cmovFromVc false 31 4, .cmovFromVc false 32 4,
  .cmovFromVc false 2 8, .cmovToVc false 8 4, .cmovToVc false 2 32, .cmovVc false 8 4, .cmovVc false 2 8,
  .ctest false 64 4 6, .ctest false 2 32 6, .ctest false 2 4 32, .cldc false 28 5 6 3, .cldc false 31 5 6 3,
  .cldc false 32 5 6 3, .cldc false 2 5 64 3, .cstc false 32 5 6 3, .cstc false 2 5 64 3] : List Instr).all (fun i => !i.wf) = true := by decide

/-- Ill-formed terms, part 5: each has one field out of its range (R49 to R52, R55, R64, R69). -/
theorem test_wf_refuses_5 : ([
  .vcld true 8 5 6 3, .vcst true 8 5 6 3, .ldu false 2 5 64 3, .stu false 2 5 64 3, .lds true 64 5 6 3, .lds true 2 5 64 3,
  .sts true 64 5 6 3, .sts true 2 5 64 3, .gath true 64 5 6 3, .gath true 2 5 64 3, .scat false 64 5 6 3,
  .scat false 2 5 64 3, .pref true 2 5 6 3, .ldac true 2 5 6 5, .strl true 2 5 6 5, .waitc true 6 0 6 true,
  .waitc true 2 64 6 false, .waitc true 2 1 0 true, .waitc true 2 1 1 false, .rdcnt true 64 4 true, .rdcnt true 2 6 true,
  .tcpy false 32 5 6 3, .tcpy false 2 5 32 3, .bcpy true 32 5 6, .bcpy true 2 5 64, .publ true 64 5 6, .publ true 2 5 64,
  .fork false 3 9, .rdvz true 3, .aadd true 2 5 6 5 true, .amin false 2 5 6 5 true, .amax true 2 5 6 5 true,
  .aand true 2 5 6 5 true, .aor true 2 5 6 5 true, .axor false 2 5 6 5 true, .axchg false 2 5 6 5 true,
  .acas true 2 5 6 5 true, .amxix false 2 5 6 5 true, .axadd false 2 5 6 5 true, .axrd true 2 5 6 5 true] : List Instr).all (fun i => !i.wf) = true := by decide

/-- Ill-formed terms, part 6: each has one field out of its range (R49 to R52, R55, R64, R69). -/
theorem test_wf_refuses_6 : ([
  .dqpsh false 64 5 6 1 true, .dqpsh false 2 5 64 1 true, .dqpsh false 2 5 6 5 true, .dqpop true 64 5 6 1 true,
  .dqpop true 2 5 64 1 true, .dqpop true 2 5 6 5 true, .dqstl true 64 5 6 1 true, .dqstl true 2 5 64 1 true,
  .dqstl true 2 5 6 5 true, .bari true 64 5 6, .bari true 2 5 64, .bara true 64 5 6, .bara true 2 5 64, .barw false 64 5 6,
  .barw false 2 5 64, .barx true 64 5 6, .barx true 2 5 64, .mclm true 64, .mclmT true 1 64, .mrls true 64,
  .mldo false 16 5 6 true, .mldo false 2 5 64 true, .mrda true 3 121 2, .mwra true 3 121 2, .mdrn true 1 4 32 true true,
  .tldp false 0 5 6 3, .tldp false 65 5 6 3, .tldp false 2 5 64 3, .mcab true 5 64 3, .accsv false 8 5 6 3,
  .accsv false 2 5 64 3, .accrs false 8 5 6 3, .accrs false 2 5 64 3, .mstat false 64, .shtrp false 2 32 1,
  .shtrp false 2 4 3, .shopn false 4 32 true, .shrcv true 2 32 true, .shmul true 2 4 32, .shbtr false 2 4 32] : List Instr).all (fun i => !i.wf) = true := by decide

/-- Ill-formed terms, part 7: each has one field out of its range (R49 to R52, R55, R64, R69). -/
theorem test_wf_refuses_7 : ([
  .shcmp true 2 4 32, .shrvl true 4 32, .shrvlR false 2 4 32, .shdeal false 64 5 6, .shdeal false 2 5 64,
  .shsta true 64 4 3, .shsta true 2 32 3, .shsta true 2 4 7, .shdsc true 64 4 6, .shdsc true 2 64 6, .shdsc true 2 4 32,
  .shmma true 1 4 6 32, .rcpdef true 64 5 6 true, .rcpdef true 2 5 64 true, .rcppin true 64 4, .rcppin true 2 32,
  .rcpunp false 64 4, .rcpunp false 2 32, .rcpdrp false 64 4, .rcpdrp false 2 32, .rcpdrpR true 64 4, .rcpdrpR true 2 32,
  .rcpqry true 64 4, .rcpqry true 2 32, .enq false 32 5 6 3, .enq false 2 5 64 3, .enqa false 64 5 6, .enqa false 2 5 64,
  .cancl true 4 4, .cancl true 2 64, .compl true 0 4, .compl true 4 4, .compl true 2 64, .teth false 8 3, .sels false 64 4,
  .sels false 2 64, .prio true 64 4, .prio true 2 64, .phset false 64, .mfsr true 64 12] : List Instr).all (fun i => !i.wf) = true := by decide

/-- Ill-formed terms, part 8: each has one field out of its range (R49 to R52, R55, R64, R69). -/
theorem test_wf_refuses_8 : ([
  .mfsr true 2 1, .mfsr true 2 21, .mfsr true 2 31, .mfsr true 2 39, .mtsr true 64 13, .mtsr true 2 12, .mtsr true 2 14,
  .mtsr true 2 32, .mtsr true 2 39, .mtsrMode false 64, .mtsrAccown false 64, .mtsrPix false 64, .mtsrFlags false 64,
  .mtsrTrapcause true 64, .pgmap true 64 5 6, .pgmap true 2 5 64, .lpinv false 32 6, .lpinv false 4 64, .tlbi false 32 6,
  .tlbi false 4 64, .cflsh false 64 5 6 true, .cflsh false 2 5 64 true, .cinv false 64 5 6, .cinv false 2 5 64,
  .snap false 64 3, .pixrd false 64 4, .pixrd false 2 64, .pixwr false 64 6, .pixwr false 4 64, .scrub false 64 5 6,
  .scrub false 2 5 64] : List Instr).all (fun i => !i.wf) = true := by decide

-- Decoding: words written from the match and the fields of each row of the opcode table.

/-- Words from the encoding tables, `setm` to `smulh`. -/
theorem test_decode_1 :
    decodeWord 0x00810014 = .ok (.setm false true 20) ∧
    decodeWord 0x81000800 = .ok (.setms true 4) ∧
    decodeWord 0x01820000 = .ok (.getm false 2) ∧
    decodeWord 0x02000000 = .ok (.nop false) ∧
    decodeWord 0x02FFFFFE = .ok (.bra false 8388606) ∧
    decodeWord 0x03180009 = .ok (.brp false 1 true 9) ∧
    decodeWord 0x83800009 = .ok (.sjoin true 9) ∧
    decodeWord 0x84000000 = .ok (.join true) ∧
    decodeWord 0x04800009 = .ok (.call false 9) ∧
    decodeWord 0x85000800 = .ok (.ret true 4) ∧
    decodeWord 0x05800800 = .ok (.jmpc false 4) ∧
    decodeWord 0x05820801 = .ok (.jmpcLink false 2 4) ∧
    decodeWord 0x06000000 = .ok (.exit false) ∧
    decodeWord 0x86800000 = .ok (.yield true) ∧
    decodeWord 0x8802081A = .ok (.sadd true 2 4 6 true) ∧
    decodeWord 0x0882081A = .ok (.ssub false 2 4 6 true) ∧
    decodeWord 0x8902081A = .ok (.smul true 2 4 6 true) ∧
    decodeWord 0x0982081B = .ok (.smulh false 2 4 6 true true) := by decide

/-- Words from the encoding tables, `sand` to `pxor`. -/
theorem test_decode_2 :
    decodeWord 0x8A02081A = .ok (.sand true 2 4 6 true) ∧
    decodeWord 0x8A82081A = .ok (.sor true 2 4 6 true) ∧
    decodeWord 0x0B02081A = .ok (.sxor false 2 4 6 true) ∧
    decodeWord 0x8B82081A = .ok (.sshl true 2 4 6 true) ∧
    decodeWord 0x0C02081A = .ok (.sshr false 2 4 6 true) ∧
    decodeWord 0x8C82081A = .ok (.ssra true 2 4 6 true) ∧
    decodeWord 0x0D02081B = .ok (.smin false 2 4 6 true true) ∧
    decodeWord 0x8D82081B = .ok (.smax true 2 4 6 true true) ∧
    decodeWord 0x8E21081B = .ok (.scmp true 4 1 4 6 true true) ∧
    decodeWord 0x0E820818 = .ok (.ssel false 2 4 6) ∧
    decodeWord 0x8F020819 = .ok (.sbfx true 2 4 6 true) ∧
    decodeWord 0x8F820800 = .ok (.spopc true 2 4) ∧
    decodeWord 0x0F820801 = .ok (.spopcP false 2 4) ∧
    decodeWord 0x90020003 = .ok (.smovi true 2 3) ∧
    decodeWord 0x90820003 = .ok (.slui true 2 3) ∧
    decodeWord 0xAC020818 = .ok (.pand true 2 4 6) ∧
    decodeWord 0x2C820818 = .ok (.por false 2 4 6) ∧
    decodeWord 0x2D020818 = .ok (.pxor false 2 4 6) := by decide

/-- Words from the encoding tables, `pnot` to `vnot`. -/
theorem test_decode_3 :
    decodeWord 0xAD820800 = .ok (.pnot true 2 4) ∧
    decodeWord 0x2E020800 = .ok (.pmov false 2 4) ∧
    decodeWord 0x2E020804 = .ok (.pmovFromS false 2 4) ∧
    decodeWord 0xAE020808 = .ok (.pmovToS true 2 4) ∧
    decodeWord 0x2E02000C = .ok (.pmovMask false 2) ∧
    decodeWord 0x9402081A = .ok (.vadd true 2 4 6 true) ∧
    decodeWord 0x1482081A = .ok (.vsub false 2 4 6 true) ∧
    decodeWord 0x9502081A = .ok (.vmul true 2 4 6 true) ∧
    decodeWord 0x1582081A = .ok (.vmulh false 2 4 6 true) ∧
    decodeWord 0x1602081A = .ok (.vmad false 2 4 6 true) ∧
    decodeWord 0x1682081A = .ok (.vmin false 2 4 6 true) ∧
    decodeWord 0x9702081A = .ok (.vmax true 2 4 6 true) ∧
    decodeWord 0x17820800 = .ok (.vabs false 2 4) ∧
    decodeWord 0x98020800 = .ok (.vneg true 2 4) ∧
    decodeWord 0x9882081A = .ok (.vand true 2 4 6 true) ∧
    decodeWord 0x1902081A = .ok (.vor false 2 4 6 true) ∧
    decodeWord 0x1982081A = .ok (.vxor false 2 4 6 true) ∧
    decodeWord 0x9A020800 = .ok (.vnot true 2 4) := by decide

/-- Words from the encoding tables, `vshl` to `vsqrt`. -/
theorem test_decode_4 :
    decodeWord 0x9A82081A = .ok (.vshl true 2 4 6 true) ∧
    decodeWord 0x1B02081A = .ok (.vshr false 2 4 6 true) ∧
    decodeWord 0x9B82081A = .ok (.vsra true 2 4 6 true) ∧
    decodeWord 0x9C19081A = .ok (.vcmp true 3 1 4 6 true) ∧
    decodeWord 0x1C82081A = .ok (.vsel false 2 4 6 true) ∧
    decodeWord 0x1D020800 = .ok (.vmov false 2 4) ∧
    decodeWord 0x9D020192 = .ok (.vmovImm true 2 100) ∧
    decodeWord 0x9D820800 = .ok (.vmovs true 2 4) ∧
    decodeWord 0x9D820801 = .ok (.vmovsToS true 2 4) ∧
    decodeWord 0x9E020001 = .ok (.vlid true 2 true) ∧
    decodeWord 0x1E820800 = .ok (.vclz false 2 4) ∧
    decodeWord 0x9F020800 = .ok (.vpopc true 2 4) ∧
    decodeWord 0x9F82081A = .ok (.vdiv true 2 4 6 true) ∧
    decodeWord 0x20020800 = .ok (.vrcp false 2 4) ∧
    decodeWord 0xA0820800 = .ok (.vrsq true 2 4) ∧
    decodeWord 0xA1020800 = .ok (.vex2 true 2 4) ∧
    decodeWord 0x21820800 = .ok (.vlg2 false 2 4) ∧
    decodeWord 0x22020800 = .ok (.vsqrt false 2 4) := by decide

/-- Words from the encoding tables, `vcvt` to `vreds`. -/
theorem test_decode_5 :
    decodeWord 0x24020800 = .ok (.vcvt false 2 4) ∧
    decodeWord 0xA4820819 = .ok (.vpack true 2 4 6 true) ∧
    decodeWord 0x25020806 = .ok (.vunpk false 2 4 1) ∧
    decodeWord 0xA5820818 = .ok (.vqnt true 2 4 6) ∧
    decodeWord 0xA6020818 = .ok (.vdqnt true 2 4 6) ∧
    decodeWord 0x26820818 = .ok (.vcbk false 2 4 6) ∧
    decodeWord 0x2702001A = .ok (.vrng false 2 6 true) ∧
    decodeWord 0x27820800 = .ok (.rseed false 2 4) ∧
    decodeWord 0x2802081A = .ok (.vshfl false 2 4 6 true) ∧
    decodeWord 0xA882080E = .ok (.vbfly true 2 4 3) ∧
    decodeWord 0xA9020800 = .ok (.vball true 2 4) ∧
    decodeWord 0x29820800 = .ok (.vany false 2 4) ∧
    decodeWord 0xAA020800 = .ok (.vall true 2 4) ∧
    decodeWord 0x2A820801 = .ok (.vscan false 2 4 true) ∧
    decodeWord 0x2B020818 = .ok (.vmxix false 2 4 6) ∧
    decodeWord 0xAB020819 = .ok (.vmxixC true 2 4 6) ∧
    decodeWord 0x2B020803 = .ok (.vmxixD false 2 4) ∧
    decodeWord 0xAB820801 = .ok (.vreds true 2 4 true) := by decide

/-- Words from the encoding tables, `cgeta` to `cldc`. -/
theorem test_decode_6 :
    decodeWord 0xB0020800 = .ok (.cgeta true 2 4) ∧
    decodeWord 0xB0820800 = .ok (.cgetb true 2 4) ∧
    decodeWord 0x31020800 = .ok (.cgetl false 2 4) ∧
    decodeWord 0xB1820800 = .ok (.cgetp true 2 4) ∧
    decodeWord 0x32020800 = .ok (.cgett false 2 4) ∧
    decodeWord 0xB2820819 = .ok (.cseta true 2 4 6 true) ∧
    decodeWord 0xB30209F0 = .ok (.cinc true 2 4 496) ∧
    decodeWord 0xB3820819 = .ok (.csetb true 2 4 6 true) ∧
    decodeWord 0x34020818 = .ok (.cprune false 2 4 6) ∧
    decodeWord 0x34820818 = .ok (.cseal false 2 4 6) ∧
    decodeWord 0x35020818 = .ok (.cunsl false 2 4 6) ∧
    decodeWord 0xB5820800 = .ok (.cmov true 2 4) ∧
    decodeWord 0xB5820801 = .ok (.cmovS true 2 4) ∧
    decodeWord 0x35820804 = .ok (.cmovFromVc false 2 4) ∧
    decodeWord 0x35820808 = .ok (.cmovToVc false 2 4) ∧
    decodeWord 0x3582080C = .ok (.cmovVc false 2 4) ∧
    decodeWord 0x36020818 = .ok (.ctest false 2 4 6) ∧
    decodeWord 0x36822863 = .ok (.cldc false 2 5 6 3) := by decide

/-- Words from the encoding tables, `cstc` to `bcpy`. -/
theorem test_decode_7 :
    decodeWord 0x37022863 = .ok (.cstc false 2 5 6 3) ∧
    decodeWord 0xB7822863 = .ok (.vcld true 2 5 6 3) ∧
    decodeWord 0xB8022863 = .ok (.vcst true 2 5 6 3) ∧
    decodeWord 0xBC022863 = .ok (.ld true 2 5 6 3) ∧
    decodeWord 0xBC822863 = .ok (.st true 2 5 6 3) ∧
    decodeWord 0x3D022863 = .ok (.ldu false 2 5 6 3) ∧
    decodeWord 0x3D822863 = .ok (.stu false 2 5 6 3) ∧
    decodeWord 0xBE022863 = .ok (.lds true 2 5 6 3) ∧
    decodeWord 0xBE822863 = .ok (.sts true 2 5 6 3) ∧
    decodeWord 0xBF022863 = .ok (.gath true 2 5 6 3) ∧
    decodeWord 0x3F822863 = .ok (.scat false 2 5 6 3) ∧
    decodeWord 0xC0002863 = .ok (.pref true 0 5 6 3) ∧
    decodeWord 0xC0822862 = .ok (.ldac true 2 5 6 1) ∧
    decodeWord 0xC1022862 = .ok (.strl true 2 5 6 1) ∧
    decodeWord 0xC182001A = .ok (.waitc true 2 0 6 true) ∧
    decodeWord 0xC2020801 = .ok (.rdcnt true 2 4 true) ∧
    decodeWord 0x42822863 = .ok (.tcpy false 2 5 6 3) ∧
    decodeWord 0xC3022860 = .ok (.bcpy true 2 5 6) := by decide

/-- Words from the encoding tables, `publ` to `dqstl`. -/
theorem test_decode_8 :
    decodeWord 0xC3822860 = .ok (.publ true 2 5 6) ∧
    decodeWord 0x44100009 = .ok (.fork false 1 9) ∧
    decodeWord 0xC4900000 = .ok (.rdvz true 1) ∧
    decodeWord 0xC5000000 = .ok (.ende true) ∧
    decodeWord 0xC8022863 = .ok (.aadd true 2 5 6 1 true) ∧
    decodeWord 0x48822863 = .ok (.amin false 2 5 6 1 true) ∧
    decodeWord 0xC9022863 = .ok (.amax true 2 5 6 1 true) ∧
    decodeWord 0xC9822863 = .ok (.aand true 2 5 6 1 true) ∧
    decodeWord 0xCA022863 = .ok (.aor true 2 5 6 1 true) ∧
    decodeWord 0x4A822863 = .ok (.axor false 2 5 6 1 true) ∧
    decodeWord 0x4B022863 = .ok (.axchg false 2 5 6 1 true) ∧
    decodeWord 0xCB822863 = .ok (.acas true 2 5 6 1 true) ∧
    decodeWord 0x4C022863 = .ok (.amxix false 2 5 6 1 true) ∧
    decodeWord 0x4C822865 = .ok (.axadd false 2 5 6 2 true) ∧
    decodeWord 0xCD022863 = .ok (.axrd true 2 5 6 1 true) ∧
    decodeWord 0x4D822863 = .ok (.dqpsh false 2 5 6 1 true) ∧
    decodeWord 0xCE022863 = .ok (.dqpop true 2 5 6 1 true) ∧
    decodeWord 0xCE822863 = .ok (.dqstl true 2 5 6 1 true) := by decide

/-- Words from the encoding tables, `bari` to `mcab`. -/
theorem test_decode_9 :
    decodeWord 0xCF022862 = .ok (.bari true 2 5 6) ∧
    decodeWord 0xCF822862 = .ok (.bara true 2 5 6) ∧
    decodeWord 0x50022862 = .ok (.barw false 2 5 6) ∧
    decodeWord 0xD0822862 = .ok (.barx true 2 5 6) ∧
    decodeWord 0xD40000A0 = .ok (.mclm true 5) ∧
    decodeWord 0xD41000A1 = .ok (.mclmT true 1 5) ∧
    decodeWord 0xD48000A0 = .ok (.mrls true 5) ∧
    decodeWord 0x55022861 = .ok (.mldo false 2 5 6 true) ∧
    decodeWord 0xD5B46009 = .ok (.mma true 3 4 6 2 1) ∧
    decodeWord 0xD6100000 = .ok (.mzero true 1) ∧
    decodeWord 0xD6100001 = .ok (.mzeroF true 1) ∧
    decodeWord 0xD6000002 = .ok (.mzeroT true) ∧
    decodeWord 0xD6B00102 = .ok (.mrda true 3 8 2) ∧
    decodeWord 0xD7300102 = .ok (.mwra true 3 8 2) ∧
    decodeWord 0xD79400A3 = .ok (.mdrn true 1 4 5 true true) ∧
    decodeWord 0x58022863 = .ok (.tldp false 2 5 6 3) ∧
    decodeWord 0x589000A0 = .ok (.mscl false 1 5) ∧
    decodeWord 0xD9002863 = .ok (.mcab true 5 6 3) := by decide

/-- Words from the encoding tables, `accsv` to `rcppin`. -/
theorem test_decode_10 :
    decodeWord 0x59822863 = .ok (.accsv false 2 5 6 3) ∧
    decodeWord 0x5A022863 = .ok (.accrs false 2 5 6 3) ∧
    decodeWord 0x5A820000 = .ok (.mstat false 2) ∧
    decodeWord 0x5C020806 = .ok (.shtrp false 2 4 1) ∧
    decodeWord 0x5C800819 = .ok (.shopn false 4 6 true) ∧
    decodeWord 0xDD020019 = .ok (.shrcv true 2 6 true) ∧
    decodeWord 0xDD820818 = .ok (.shmul true 2 4 6) ∧
    decodeWord 0x5E020826 = .ok (.shtrc false 2 4 9) ∧
    decodeWord 0x5E820818 = .ok (.shbtr false 2 4 6) ∧
    decodeWord 0xDF020818 = .ok (.shcmp true 2 4 6) ∧
    decodeWord 0xDF800818 = .ok (.shrvl true 4 6) ∧
    decodeWord 0x5F820819 = .ok (.shrvlR false 2 4 6) ∧
    decodeWord 0x60022860 = .ok (.shdeal false 2 5 6) ∧
    decodeWord 0xE082080E = .ok (.shsta true 2 4 3) ∧
    decodeWord 0xE1020818 = .ok (.shdsc true 2 4 6) ∧
    decodeWord 0xE19460A0 = .ok (.shmma true 1 4 6 5) ∧
    decodeWord 0xE4022861 = .ok (.rcpdef true 2 5 6 true) ∧
    decodeWord 0xE4820800 = .ok (.rcppin true 2 4) := by decide

/-- Words from the encoding tables, `rcpunp` to `mtsr`. -/
theorem test_decode_11 :
    decodeWord 0x65020800 = .ok (.rcpunp false 2 4) ∧
    decodeWord 0x65820800 = .ok (.rcpdrp false 2 4) ∧
    decodeWord 0xE5820801 = .ok (.rcpdrpR true 2 4) ∧
    decodeWord 0xE6020800 = .ok (.rcpqry true 2 4) ∧
    decodeWord 0x68022863 = .ok (.enq false 2 5 6 3) ∧
    decodeWord 0x68822860 = .ok (.enqa false 2 5 6) ∧
    decodeWord 0xE9020800 = .ok (.cancl true 2 4) ∧
    decodeWord 0xE9820800 = .ok (.compl true 2 4) ∧
    decodeWord 0x6A020003 = .ok (.teth false 2 3) ∧
    decodeWord 0x6A800800 = .ok (.qpsh false 4) ∧
    decodeWord 0xEB020000 = .ok (.qpop true 2) ∧
    decodeWord 0x6B820800 = .ok (.sels false 2 4) ∧
    decodeWord 0xEC020800 = .ok (.prio true 2 4) ∧
    decodeWord 0x6C800800 = .ok (.phset false 4) ∧
    decodeWord 0xF000BEEF = .ok (.trap true 48879) ∧
    decodeWord 0xF0800000 = .ok (.sret true) ∧
    decodeWord 0xF102000C = .ok (.mfsr true 2 12) ∧
    decodeWord 0xF182000D = .ok (.mtsr true 2 13) := by decide

/-- Words from the encoding tables, `mtsrMode` to `scrub`. -/
theorem test_decode_12 :
    decodeWord 0x71820000 = .ok (.mtsrMode false 2) ∧
    decodeWord 0x71820010 = .ok (.mtsrAccown false 2) ∧
    decodeWord 0x71820011 = .ok (.mtsrPix false 2) ∧
    decodeWord 0x71820013 = .ok (.mtsrFlags false 2) ∧
    decodeWord 0xF1820020 = .ok (.mtsrTrapcause true 2) ∧
    decodeWord 0xF2022860 = .ok (.pgmap true 2 5 6) ∧
    decodeWord 0x72800818 = .ok (.lpinv false 4 6) ∧
    decodeWord 0xF2800001 = .ok (.lpinvW true) ∧
    decodeWord 0x73000818 = .ok (.tlbi false 4 6) ∧
    decodeWord 0x73000001 = .ok (.tlbiW false) ∧
    decodeWord 0x73822861 = .ok (.cflsh false 2 5 6 true) ∧
    decodeWord 0x74022860 = .ok (.cinv false 2 5 6) ∧
    decodeWord 0x74820003 = .ok (.snap false 2 3) ∧
    decodeWord 0xF5000000 = .ok (.halt true) ∧
    decodeWord 0x75820800 = .ok (.pixrd false 2 4) ∧
    decodeWord 0x76000818 = .ok (.pixwr false 4 6) ∧
    decodeWord 0x76822860 = .ok (.scrub false 2 5 6) := by decide

/-- One word of each family, bit by bit: the fields of its encoding from bit 31 down (R48 to R51). -/
theorem test_decode_bits :
    decodeWord 0b0_00010001_0000010_0000100_0000110_1_0 = .ok (.ssub false 2 4 6 true) ∧
    decodeWord 0b0_00000110_001_1_0000000000000001001 = .ok (.brp false 1 true 9) ∧
    decodeWord 0b1_00101000_0000010_0000100_0000110_1_0 = .ok (.vadd true 2 4 6 true) ∧
    decodeWord 0b0_01001000_0000010_0000100_000000000 = .ok (.vcvt false 2 4) ∧
    decodeWord 0b0_01010000_0000010_0000100_0000110_1_0 = .ok (.vshfl false 2 4 6 true) ∧
    decodeWord 0b1_01100111_0000010_0000100_0000110_0_1 = .ok (.csetb true 2 4 6 true) ∧
    decodeWord 0b1_01111000_0000010_00101_0000110_0011 = .ok (.ld true 2 5 6 3) ∧
    decodeWord 0b0_10001000_001_0_0000000000000001001 = .ok (.fork false 1 9) ∧
    decodeWord 0b1_10010000_0000010_00101_0000110_001_1 = .ok (.aadd true 2 5 6 1 true) ∧
    decodeWord 0b1_10011111_0000010_00101_0000110_0010 = .ok (.bara true 2 5 6) ∧
    decodeWord 0b1_10101011_011_0100_0110_0000000_010_01 = .ok (.mma true 3 4 6 2 1) ∧
    decodeWord 0b1_10111011_0000010_0000100_0000110_00 = .ok (.shmul true 2 4 6) ∧
    decodeWord 0b1_11001001_0000010_0000100_000000000 = .ok (.rcppin true 2 4) ∧
    decodeWord 0b0_11010001_0000010_00101_0000110_0000 = .ok (.enqa false 2 5 6) ∧
    decodeWord 0b0_11010100_0000010_0000000000000011 = .ok (.teth false 2 3) ∧
    decodeWord 0b1_111000000000000_1011111011101111 = .ok (.trap true 48879) ∧
    decodeWord 0b1_11100010_0000010_0000000000001100 = .ok (.mfsr true 2 12) ∧
    decodeWord 0b0_11101101_0000010_00101_0000110_0000 = .ok (.scrub false 2 5 6) := by decide

-- Witnesses: states and operands that meet the hypotheses of each clause.

/-- PredicateWrites: SCMP's condition 2 (LT) holds of −1 and the immediate 0 signed; unsigned it does not. -/
theorem witness_PredicateWrites :
    let r := (ctx (withR 0 fun r => setS r 4 0xFFFFFFFFFFFFFFFF)).rd
    let a := getS r 4
    a.toInt < 0 ∧ ¬ (a.toNat : Int) < 0 := by decide

/-- ModeWrites: a legal value, and values with the least reserved GUARD, ROUND, ETYPE and bit 21. -/
theorem witness_ModeWrites :
    let m := fun (s : State) => (getS (ctx s).rd 4).toNat % 2 ^ 32
    let legal := fun m => m / 2 ^ 21 = 0 ∧ m / 2 ^ 14 % 4 = 0 ∧ m % 16 < 9 ∧ m / 2 ^ 10 % 8 < 6 ∧
      etypeAssigned (m / 2 ^ 5 % 32) = true ∧ etypeAssigned (m / 2 ^ 16 % 32) = true
    legal (m (withR 0 fun r => setS r 4 0x00153688)) ∧
    ¬ legal (m (withR 0 fun r => setS r 4 9)) ∧ ¬ legal (m (withR 0 fun r => setS r 4 0x1800)) ∧
    ¬ legal (m (withR 0 fun r => setS r 4 0x1C0)) ∧ ¬ legal (m (withR 0 fun r => setS r 4 0x200000)) ∧
    ¬ legal (m (withR 0 fun r => setS r 4 0x4000)) ∧ ¬ legal (m (withR 0 fun r => setS r 4 0x130000)) := by decide

/-- PlainFlow: a slot executes. -/
theorem witness_PlainFlow : BySlot base := by unfold BySlot; decide

/-- UniformBranch: no lane, all lanes, and a sequencer. -/
theorem witness_UniformBranch :
    let c := ctx base
    c.mask &&& getP c.rd 0 = 0 ∧ (c.mask &&& ~~~(getP c.rd 0) ≠ 0 ∧ c.mask &&& ~~~(~~~(getP c.rd 0)) = 0) ∧
    (let c := ctx (withW fun w => { w with seqC := { regs := { p := [(0, 1)] } } });
     let d := ctx { (withW fun w => { w with seqC := { regs := { p := [(0, 1)] } } }) with cur := ⟨0, .seqCopy⟩ }
     d.mask &&& getP d.rd 0 ≠ 0 ∧ isSeq d.src = true ∧ c.k = d.k) := by decide

/-- A wave of whose lanes the upper 31 pass p0. -/
def parted (f : Wave → Wave) : State := withW fun w => f { w with regs := setP w.regs 0 0xFFFFFFFE }

/-- The same with data at 0x40000 for its records and a limit of one record. -/
def deep (s : State) : State :=
  { setUnit s 1 { unitAt s 1 with ddepth := 1 } with mem := tputBytes s.mem (placeTable + 0x2000) (natLe 8 0x0F) }
/-- One divergence open, the other slot idle, and room for its record. -/
def nested : State := deep (parted fun w => { w with divd := 1, regs := setC w.regs 30 (data 3) })

/-- Divergence: a first divergence, one whose record is written, and one beyond the limit: DDEPTH 0 with one open. -/
theorem witness_Divergence :
    (let n := ctx nested
     BySlot nested ∧ n.mask &&& getP n.rd 0 ≠ 0 ∧ n.mask &&& ~~~(getP n.rd 0) ≠ 0 ∧ 1 ≤ n.w.divd ∧
     n.w.divd ≤ (if n.w.frame.isSome then 0 else (unitOf nested n.k).ddepth) ∧ underWay (slotOf n.w (otherSrc n.src)).hold = false ∧
     (match recordSegs nested n.k n.w n.w.divd true n.hold with | .ok _ => true | .error _ => false) = true) ∧
    let c := ctx (parted id)
    let d := ctx (parted fun w => { w with divd := 1 })
    BySlot (parted id) ∧ c.mask &&& getP c.rd 0 ≠ 0 ∧ c.mask &&& ~~~(getP c.rd 0) ≠ 0 ∧ c.w.divd = 0 ∧
    BySlot (parted fun w => { w with divd := 1 }) ∧ d.mask &&& getP d.rd 0 ≠ 0 ∧ d.mask &&& ~~~(getP d.rd 0) ≠ 0 ∧
    1 ≤ d.w.divd ∧ (if d.w.frame.isSome then 0 else (unitOf (parted fun w => { w with divd := 1 }) d.k).ddepth) + 1 ≤ d.w.divd :=
  by unfold BySlot; decide

/-- A wave with one divergence open, its slot A at JR and slot B parked. -/
def atJoin : State := withW fun w =>
  { w with divd := 1, jr := w.a.pc, a := { w.a with mask := 1 }, b := { mask := 0xFFFFFFFE, st := .parked } }

/-- The same with a second divergence open, whose record is in the data. -/
def atJoin2 : State :=
  let s := deep atJoin
  setWave s 0 { waveAt s 0 with divd := 2, regs := setC (waveAt s 0).regs 30 (data 3) }
/-- The same with slot B READY. -/
def atJoinReady : State := setWave atJoin 0 { waveAt atJoin 0 with b := { mask := 0xFFFFFFFE, st := .ready } }

/-- JoinAndExit: no divergence; a divergence with JR elsewhere; EXIT of lane 31 only; the closing JOIN, one below another divergence,
and one while the other slot is READY; EXIT of a slot's last lanes beside a READY slot and beside a FREE one. -/
theorem witness_JoinAndExit :
    (let n := ctx atJoin2
     let y := slotOf n.w (otherSrc n.src)
     BySlot atJoin2 ∧ n.w.divd = 1 + 1 ∧ n.pc = n.w.jr ∧ y.st ≠ .ready ∧
     (slotOf n.w n.src).mask ||| (if y.st = .parked then y.mask else 0) ≠ 0 ∧
     (match recordSegs atJoin2 n.k n.w 1 false n.hold with | .ok _ => true | .error _ => false) = true) ∧
    (let r := ctx atJoinReady
     BySlot atJoinReady ∧ 1 ≤ r.w.divd ∧ r.pc = r.w.jr ∧ (slotOf r.w (otherSrc r.src)).st = .ready ∧
     r.w.frame = none ∧ (slotOf r.w r.src).mask &&& ~~~(guardOf r) = 0) ∧
    (let f := ctx base
     f.w.frame = none ∧ (slotOf f.w f.src).mask &&& ~~~(guardOf f) = 0 ∧ (slotOf f.w (otherSrc f.src)).st = .free ∧ f.w.divd = 0 ∧
     f.w.tethSlot = none ∧ f.w.tether = false) ∧
    let c := ctx base
    let j := ctx (withW fun w => { w with divd := 1, jr := 0 })
    let e := ctx (withR 1 fun r => setP r 0 0x80000000)
    let m := ctx atJoin
    BySlot base ∧ c.w.divd = 0 ∧ j.pc ≠ j.w.jr ∧
    (e.w.frame = none ∧ (slotOf e.w e.src).mask &&& ~~~(guardOf e) ≠ 0) ∧
    (BySlot atJoin ∧ m.w.divd = 1 ∧ m.pc = m.w.jr ∧ (slotOf m.w (otherSrc m.src)).st = .parked ∧
      m.w.a.mask ||| m.w.b.mask ≠ 0) := by unfold BySlot; decide

/-- CallsAndJumps: RET to an aligned address, and JMPC by a sentry of the wing's code. -/
theorem witness_CallsAndJumps :
    let s := withR 0 fun r => setC (setV (setV r 126 0 0x10040) 127 0 1) 5 (mkCap 0x10000 0x20000 0x10008 (2 ^ pEXEC) 1 1)
    let c := ctx s
    let k := getC c.rd 5
    BySlot s ∧ lowLane c.mask = some 0 ∧ getPair c.rd 126 0 % 4 = 0 ∧
    k.tag = true ∧ capHas k pEXEC = true ∧ capWorld k = worldOf s c.k ∧ capOtype k = 1 ∧ capAddr k % 4 = 0 := by
  unfold BySlot; decide

/-- VectorInteger: 32-bit signed and unsigned, 64-bit pairs on even registers, and a share type with an immediate. -/
theorem witness_VectorInteger :
    let s := withR (mode 0 0) id
    let p := withR (mode 7 0) id
    let h := withR (mode 0x12 0) id
    let n := withR (mode 1 0) id
    (VecOk n tINF tAny false [2, 4] ∧ tF (ety n) = false ∧ tN (ety n) = true) ∧
    tF (ety s) = false ∧ VecOk s tINSF tINS true [2, 4] ∧ VecOk s tINF tIN false [2, 4, 6] ∧ VecOk s tIN tIN true [2, 4] ∧
    VecOk s tINSF tAny false [2, 4] ∧ VecOk s tINF tAny false [2, 4] ∧ tI (ety s) = true ∧ VecOk s tINS tINS true [2, 4] ∧
    tF (ety p) = false ∧ VecOk p tINF tIN false [126, 0, 2] ∧
    tF (ety h) = false ∧ isShare (ety h) = true ∧ VecOk h tINSF tINS true [127, 1] := by unfold VecOk BySlot; decide

/-- VectorFloat: FP32, FP16 and BF16; a zero and a significand that is none. -/
theorem witness_VectorFloat :
    (oddPair (ety (withR (mode 8 0) id)) 2 = false ∧ oddPair (ety (withR (mode 8 0) id)) 4 = false ∧ (1 : Nat) ≠ 0) ∧
    tF (ety (withR (mode 8 0) id)) = true ∧ tF (ety (withR (mode 9 0) id)) = true ∧
    tF (ety (withR (mode 0xA 0) id)) = true ∧ BySlot (withR (mode 8 0) id) := by unfold BySlot; decide

/-- VectorBitsAndDivide: a zero divisor in one lane, in none; the other forms. -/
theorem witness_VectorBitsAndDivide :
    let s := withR (mode 4 0) fun r => setV r 6 31 0xFF
    let zero := fun (b : Bool) => (active (ctx s)).filter fun l => (if b then 1 else laneGet (ctx s).rd (ety s) 6 l) == 0
    VecOk s tINF tIN false [2, 4, 6] ∧ VecOk s tINF tIN true [2, 4] ∧ tF (ety s) = false ∧ zero false ≠ [] ∧ zero true = [] ∧
    VecOk s tINF tAny false [2, 4] ∧ VecOk s tIN tIN true [2, 4] ∧ VecOk s tI tI false [2, 4, 6] ∧
    VecOk s tIN tAny false [2, 4] := by unfold VecOk BySlot; decide

/-- VectorMoves: FP8 for VCMP, packed bytes for the moves. -/
theorem witness_VectorMoves :
    let s := withR (mode 0xB 0) id
    VecOk s (fun t => tINF t || tQ t) tIN false [4, 6] ∧ VecOk s tAny tAny true [2, 4] ∧ VecOk s tAny tAny false [2, 4] ∧
    VecOk s tAny tAny true [2] ∧ VecOk s tAny tAny false [2] ∧ VecOk s tAny tAny false [4] ∧ BySlot s := by
  unfold VecOk BySlot; decide

/-- Conversions: FP32 to FP16, the 8-bit affine forms, packing by halves and quarters, widening, and a codebook of two tables,
with an MCAB outstanding and without; and type pairs, odd pairs and groups that each form refuses. -/
theorem witness_Conversions :
    let v := withR (mode 9 8) id
    let q := withR (mode 0x14 8) id
    let d := withR (mode 8 0x14) fun r => setS r 6 0x0038
    let p := withR (mode 2 0) id
    let p4 := withR (mode 4 0) id
    let u := withR (mode 0 4) id
    let k := withR (mode 9 0x15) id
    let b := withR (mode 0x14 0x14) id
    let o := withR (mode 8 7) id
    let pend := setWave k 0 { waveAt k 0 with accs := [{ path := 0, kind := .loadCabinet {} 0, pc := 0, src := .slotA }] }
    (BySlot b ∧ (cvtElem (sty b) (ety b) (rndOf (ctx b) 0 0) 0).isSome = false ∧ oddPair (sty o) 3 = true ∧
      sameKind (sty b) (ety v) = false ∧ widens (sty b) (ety b) = false ∧ widthOf (ety u) / widthOf (sty u) ≤ 4 ∧
      ¬ (ety v = 0x14 ∧ tF (sty v) = true) ∧ ¬ (tF (ety b) = true ∧ sty b = 0x14) ∧
      ¬ (sty v = 0x15 ∧ tF (ety v) = true ∧ 124 % (if ety v = 8 then 8 else 4) = 0) ∧
      (sty pend = 0x15 ∧ tF (ety pend) = true ∧ mcabPending (ctx pend).w = true)) ∧
    BySlot v ∧ (cvtElem (sty v) (ety v) (rndOf (ctx v) 0 0) 0).isSome = true ∧ oddPair (sty v) 4 = false ∧ oddPair (ety v) 2 = false ∧
    (ety q = 0x14 ∧ tF (sty q) = true) ∧
    (tF (ety d) = true ∧ sty d = 0x14 ∧ ∃ n m e, k8Val ((getS (ctx d).rd 6).toNat % 2 ^ 16 % 256) = .fin n m e) ∧
    (sameKind (sty p) (ety p) = true ∧ widthOf (ety p) < widthOf (sty p) ∧ widthOf (sty p) ≤ 32 ∧ 2 * widthOf (ety p) = widthOf (sty p)) ∧
    (sameKind (sty p4) (ety p4) = true ∧ 4 * widthOf (ety p4) = widthOf (sty p4)) ∧
    (widens (sty u) (ety u) = true ∧ 3 < widthOf (ety u) / widthOf (sty u)) ∧
    (sty k = 0x15 ∧ tF (ety k) = true ∧ 124 % (if ety k = 8 then 8 else 4) = 0 ∧ mcabPending (ctx k).w = false) := by
  unfold BySlot
  refine ⟨by decide, by decide, by decide, by decide, by decide, by decide, ⟨by decide, by decide, ?_⟩, by decide, by decide, by decide, by decide⟩
  exact ⟨_, _, _, rfl⟩

/-- LaneExchange: packed elements, no lane active and some, a key type. -/
theorem witness_LaneExchange :
    let s := withR (mode 2 0) id
    let n := withR (mode 2 0 ||| 1) id
    VecOk s tAny tAny false [2, 4, 6] ∧ VecOk s tAny tAny true [2, 4] ∧ VecOk s tAny tAny false [4] ∧
    VecOk s tINSF tAny false [2, 4] ∧ active (ctx s) ≠ [] ∧ VecOk s tINF tAny false [4] ∧
    VecOk n tINSF tAny false [4] ∧ active (ctx n) = [] ∧
    (∃ y ys, (active (ctx s)).map (laneGet (ctx s).rd (ety s) 4) = y :: ys) ∧
    BySlot s ∧ (ety s = 2 ∨ ety s = 3 ∨ ety s = 9 ∨ ety s = 0xA) := by
  unfold VecOk BySlot
  refine ⟨by decide, by decide, by decide, by decide, by decide, by decide, by decide, by decide, ⟨_, _, rfl⟩, by decide, by decide⟩

/-- A wave with a data capability, the same sealed, and sealing and unsealing authorities over the types. -/
def caps : State := withR 0 fun r =>
  setC (setC (setC (setC (setC r 1 (data 0x3F)) 2 (mkCap 0x40000 0x50000 0x40000 0x3F 4 1)) 3 (mkCap 0 16 4 (2 ^ pSEAL) 0 1))
    4 (mkCap 0 16 4 (2 ^ pUNSEAL) 0 1)) 5 (mkCap 0x40000 0x50000 0x40000 0x3F 15 1)

/-- CapabilityReads and the unconditional clauses of the derivations: a slot executes. -/
theorem witness_CapabilityReads : BySlot caps := by unfold BySlot; decide

/-- CapabilityDerivations: a tagged sealed source, and a tagged unsealed one. -/
theorem witness_CapabilityDerivations :
    let k := fun n => getC (ctx caps).rd n
    BySlot caps ∧ ((k 2).tag = true ∧ capOtype (k 2) ≠ 0) ∧ capOtype (k 1) = 0 ∧ (k 9).tag = false := by
  unfold BySlot; decide

/-- SealAndMove: sealing with the least type, unsealing it, and PCC with SYS and without. -/
theorem witness_SealAndMove :
    let c := ctx caps
    let fit := fun (x k : Cap) => x.tag = true ∧ k.tag = true ∧ capBase k ≤ capAddr k ∧ (capAddr k : Int) < capTop k ∧
      capWorld k = worldOf caps c.k ∧ capOtype k = 0 ∧ capWorld x = capWorld k
    let u := withW fun w => { w with regs := {} }
    BySlot caps ∧
    (fit (getC c.rd 1) (getC c.rd 3) ∧ capHas (getC c.rd 3) pSEAL = true ∧ capOtype (getC c.rd 1) = 0 ∧
      4 ≤ capAddr (getC c.rd 3) ∧ capAddr (getC c.rd 3) ≤ 15) ∧
    (fit (getC c.rd 2) (getC c.rd 4) ∧ capHas (getC c.rd 4) pUNSEAL = true ∧ 4 ≤ capOtype (getC c.rd 2) ∧
      capAddr (getC c.rd 4) = capOtype (getC c.rd 2)) ∧
    hasSys c = true ∧ BySlot u ∧ hasSys (ctx u) = false := by unfold BySlot; decide

/-- DerivationsAreMonotonic: CINC of the data capability gives a next state. -/
theorem witness_DerivationsAreMonotonic :
    BySlot caps ∧ (Instr.cinc true 9 1 16) ∈ [Instr.cinc true 9 1 16] ∧ ∃ t, exec (.cinc true 9 1 16) caps = .next t := by
  refine ⟨by unfold BySlot; decide, by simp, _, rfl⟩

/-- BoundsEncoding: an empty range, the longest exact byte range, the longest that fits, and one unit more; a capability with the
fields of a request, at both ends of its window. -/
theorem witness_BoundsEncoding :
    (let k := fun (a : Nat) => mkCap 0x40000 0x50000 a 0 0 1
     ∀ a ∈ [0x40000, 0x40000 + 2 ^ (2 + 15) - 1], (encBounds 0x40000 0x50000).1 = 2 ∧ capE (k a) = 2 ∧
       capB (k a) = (encBounds 0x40000 0x50000).2.1 ∧ capL (k a) = (encBounds 0x40000 0x50000).2.2.1 ∧ capAddr (k a) = a) ∧
    (0 : Nat) ≤ 0 ∧ (encBounds 0 32767).2.2.2.2.2 = true ∧ (encBounds 0 (32767 * 2 ^ 42)).2.2.2.2.2 = true ∧
    (encBounds 0 (2 ^ 57)).2.2.2.2.2 = false := by decide

/-- A state whose first 1 GiB is readable and writable data, with lanes 0 and 31 live, registers and MODE. -/
def mem (m : BitVec 32) (f : RegFile → RegFile) : State :=
  let s := withW fun w => { w with a := { w.a with mask := 0x80000001 }, regs := f { w.regs with mode := m } }
  { s with mem := tputBytes s.mem (placeTable + 0x2000) (natLe 8 0x0F) }

/-- VectorLoadsAndStores: 2-byte elements at offsets −2 past the base and of 65,534 with the last 2 bytes. -/
theorem witness_VectorLoadsAndStores :
    let s := mem (mode 2 0) fun r => setV (setC (setC r 1 (data 3)) 2 (mkCap 0x40000 0x50000 0x40002 3 0 1)) 6 31 0xFFFE
    let c := ctx s
    let q := fun (k : Nat) (st : Bool) => ({ cap := getC c.rd k, n := 2, rights := [if st then pST else pLD], align := 2,
                                             need := if st then .write else .read } : AccReq)
    let per := fun (k : Nat) => (active c).map fun l =>
      ({ lane := l, x := (capAddr (getC c.rd 1) : Int) + (getV c.rd 6 l).toInt + k } : LaneReq)
    let uni := (active c).map fun l =>
      ({ lane := l, x := (capAddr (getC c.rd 2) : Int) + (getS c.rd 6).toInt + (2 * 15 : Nat) + (2 * l : Nat) } : LaneReq)
    BySlot s ∧ elemSize (ety s) = some 2 ∧ oddPair (ety s) 2 = false ∧
    AccessOk s 0 (q 1 false) (per 0) ∧ AccessOk s 1 (q 1 true) (per 0) ∧
    AccessOk s 0 (q 2 false) uni ∧ AccessOk s 1 (q 2 true) uni := by
  unfold BySlot
  exact ⟨by decide, by decide, by decide, accessOk_of (by decide), accessOk_of (by decide), accessOk_of (by decide),
    accessOk_of (by decide)⟩

/-- UniformLoadsAndStores: 8 bytes and a granule at the end of the data; a global capability to store. -/
theorem witness_UniformLoadsAndStores :
    let s := mem 0 fun r => setC (setC (setS (setS r 6 0xFFF8) 7 0xFFF0) 1 (data 15)) 2 (data 0x21)
    let c := ctx s
    let cap := getC c.rd 1
    let q := fun (n : Nat) (rs : List Nat) (st : Bool) => ({ cap := cap, n := n, rights := rs, align := n, scalar := true,
                                                             need := if st then .write else .read } : AccReq)
    let one := fun (o : Nat) => [({ lane := 0, x := (capAddr cap : Int) + (getS c.rd o).toInt } : LaneReq)]
    let cst := [({ lane := 0, x := (capAddr cap : Int) + (getS c.rd 7).toInt,
                   deny := denied s c.k cap (getC c.rd 2) ((capAddr cap : Int) + (getS c.rd 7).toInt) } : LaneReq)]
    BySlot s ∧
    places s (q 8 [pLD] false) (one 6) = [(0, .mem 0x4FFF8 0x4FFF8 0x4FFF8)] ∧ AccessOk s 0 (q 8 [pLD] false) (one 6) ∧
    places s (q 8 [pST] true) (one 6) = [(0, .mem 0x4FFF8 0x4FFF8 0x4FFF8)] ∧ AccessOk s 1 (q 8 [pST] true) (one 6) ∧
    places s (q 16 [pLD, pLDC] false) (one 7) = [(0, .mem 0x4FFF0 0x4FFF0 0x4FFF0)] ∧ AccessOk s 0 (q 16 [pLD, pLDC] false) (one 7) ∧
    places s (q 16 [pST, pSTC] true) cst = [(0, .mem 0x4FFF0 0x4FFF0 0x4FFF0)] ∧ AccessOk s 1 (q 16 [pST, pSTC] true) cst := by
  unfold BySlot
  exact ⟨by decide, by decide, accessOk_of (by decide), by decide, accessOk_of (by decide), by decide, accessOk_of (by decide),
    by decide, accessOk_of (by decide)⟩

/-- VectorCapabilityAccess: granules at 0 and at the end; PREF in a slot and in the copy sequencer. -/
theorem witness_VectorCapabilityAccess :
    let s := mem 0 fun r => setV (setC r 1 (data 15)) 6 31 0xFFF0
    let c := ctx s
    let cap := getC c.rd 1
    let x := fun (l : Nat) => (capAddr cap : Int) + (getV c.rd 6 l).toInt + (16 * 0 : Nat)
    let lq : AccReq := { cap := cap, n := 16, rights := [pLD, pLDC], align := 16, need := .read }
    let sq : AccReq := { cap := cap, n := 16, rights := [pST, pSTC], align := 16, need := .write }
    let ll := (active c).map fun l => ({ lane := l, x := x l } : LaneReq)
    let sl := (active c).map fun l =>
      ({ lane := l, x := x l, deny := denied s c.k cap (getVC c.rd 2 l) (x l) } : LaneReq)
    BySlot s ∧ AccessOk s 0 lq ll ∧ AccessOk s 1 sq sl ∧ SlotOr s .seqCopy ∧ SlotOr (inSeq .seqCopy) .seqCopy := by
  unfold BySlot SlotOr
  exact ⟨by decide, accessOk_of (by decide), accessOk_of (by decide), by decide, by decide⟩

/-- CounterInstructions: a count above the limit, at it, and at it with an error of the path. -/
theorem witness_CounterInstructions :
    let n := fun (s : State) => tget 0 (ctx s).w.counts 1
    let old := fun (s : State) => (ctx s).w.errs.find? fun r => r.path == 1
    let a := withW fun w => { w with counts := [(1, 3)] }
    let b := withW fun w => { w with errs := [⟨1, 0x10000, { cause := 6 }⟩] }
    (2 : Nat) < n a ∧ (n a ≤ 3 ∧ old a = none) ∧ (n b ≤ 0 ∧ old b = some ⟨1, 0x10000, { cause := 6 }⟩) := by decide

/-- EngineTransfersIssue: data and scratch capabilities with their rights, room on both paths, and PUBL of a page. -/
theorem witness_EngineTransfersIssue :
    let s := mem 0 fun r => setS (setC (setC r 1 (data 3)) 29 (mkCap 0 0x1000 0 (3 + 2 ^ pSCRATCH) 0 1)) 2 0x10000
    let c := ctx s
    let m := getC c.rd 1
    let ok := fun (k : Cap) (rs : List Nat) =>
      k.tag = true ∧ (∀ p ∈ rs, capHas k p = true) ∧ capWorld k = worldOf s c.k ∧ capOtype k = 0
    acqHeld c = false ∧ SlotOr s .seqGather ∧ SlotOr s .seqCopy ∧ SlotOr (inSeq .seqGather) .seqGather ∧
    countOf c.w 4 < Config.counterMax ∧ countOf c.w 3 < Config.counterMax ∧
    ok (getC c.rd 29) [pLD, pST] ∧ ok m [pLD] ∧ ok m [pST] ∧
    capCause m ((capAddr m : Int) + (getS c.rd 6).toInt) (getS c.rd 2).toNat [pST] (worldOf s c.k) (scrWin s c.k) = none ∧
    ((capAddr m : Int) + (getS c.rd 6).toInt) % 65536 = 0 ∧ (getS c.rd 2).toNat % 65536 = 0 := by unfold SlotOr; decide

/-- Sequencers: a free sequencer with no FORK before it, ended and running ones, and ENDE in each sequencer. -/
theorem witness_Sequencers :
    let c := ctx base
    let r := withW fun w => { w with seqG := { running := true } }
    BySlot base ∧ seqBusy base c.k (engineSrc 2) = false ∧ forkBehind base c.k (engineSrc 2) = false ∧
    (seqOf c.w (engineSrc 2)).running = false ∧ BySlot r ∧ (seqOf (ctx r).w (engineSrc 2)).running = true ∧
    ∀ q ∈ [Src.seqCopy, .seqGather, .seqMatrix], isSeq (ctx (inSeq q)).src = true := by unfold BySlot; decide

/-- AtomicsIssue: 4-byte and 8-byte elements in memory, keys, cells of 64 bytes. -/
theorem witness_AtomicsIssue :
    let s := fun e => mem (mode e 0) fun r => setV (setC r 1 (data 3)) 6 31 0xFFC0
    let q := fun (e n : Nat) => ({ cap := getC (ctx (s e)).rd 1, n := n, rights := [pLD, pST], align := n, need := .write, atom := true } : AccReq)
    let ls := fun (e : Nat) => (active (ctx (s e))).map fun l =>
      ({ lane := l, x := (capAddr (getC (ctx (s e)).rd 1) : Int) + (getV (ctx (s e)).rd 6 l).toInt } : LaneReq)
    let xq := fun (st : Bool) => ({ cap := getC (ctx (s 8)).rd 1, n := 64, rights := [if st then pST else pLD], align := 64,
                                    need := if st then .write else .read, atom := st, scr := some false } : AccReq)
    BySlot (s 0) ∧
    (elemSize (ety (s 0)) = some 4 ∧ oddPair (ety (s 0)) 2 = false ∧ tAdd (ety (s 0)) = true ∧ tMinMax (ety (s 0)) = true ∧
      tBits (ety (s 0)) = true ∧ 2 % 2 = 0) ∧ AccessOk (s 0) 0 (q 0 4) (ls 0) ∧
    (elemSize (ety (s 7)) = some 8 ∧ oddPair (ety (s 7)) 4 = false ∧ tAdd (ety (s 7)) = true ∧ 4 % 4 = 0) ∧ AccessOk (s 7) 0 (q 7 8) (ls 7) ∧
    tKey (ety (s 9)) = true ∧ AccessOk (s 9) 0 (q 9 4) (ls 9) ∧
    tCell (ety (s 8)) = true ∧ AccessOk (s 8) 1 (xq true) (ls 8) ∧ AccessOk (s 8) 0 (xq false) (ls 8) := by
  unfold BySlot
  exact ⟨by decide, by decide, accessOk_of (by decide), by decide, accessOk_of (by decide), by decide, accessOk_of (by decide),
    by decide, accessOk_of (by decide), accessOk_of (by decide)⟩

/-- Deques: the header at its place; a value with bit 63 and without; headers full, empty and with room, at the wrap of the
counters. -/
theorem witness_Deques :
    let s := mem 0 fun r => setS (setC r 1 (data 3)) 2 0x8000000000000000
    let c := ctx s
    let cap := getC c.rd 1
    let q : AccReq := { cap := cap, n := 64, rights := [pLD, pST], align := 64, need := .write, atom := true,
                        scalar := true, scr := some false }
    let ls := [({ lane := 0, x := (capAddr cap : Int) + (getS c.rd 6).toInt } : LaneReq)]
    let full : DequeHdr := { top := 2 ^ 64 - 1, bottom := 0, cap := 1 }
    let none_ : DequeHdr := { top := 5, bottom := 5, cap := 2 ^ 20 }
    BySlot s ∧ (getS c.rd 2).getLsbD 63 = true ∧ (getS c.rd 3).getLsbD 63 = false ∧
    places s q ls = [(0, .mem 0x40000 0x40000 0x40000)] ∧ AccessOk s 1 q ls ∧ AccessOk s 0 q ls ∧
    (dequeUsed full = full.cap ∧ dequeUsed full ≤ full.cap) ∧ dequeUsed none_ ≤ none_.cap ∧
    (∃ e h', dequeStep .push none_ = some (e, h')) ∧ (∃ e h', dequeStep .steal full = some (e, h')) := by
  unfold BySlot
  exact ⟨by decide, by decide, by decide, by decide, accessOk_of (by decide), accessOk_of (by decide), by decide, by decide,
    ⟨_, _, rfl⟩, ⟨_, _, rfl⟩⟩

/-- A unit with a scratch window and a capability of it. -/
def scr (f : RegFile → RegFile) : State :=
  let s := withR 0 fun r => f (setC r 1 (mkCap 0 0x1000 0 (3 + 2 ^ pSCRATCH) 0 1))
  setUnit s 1 { unitAt s 1 with scrSize := 0x1000 }

/-- Barriers: the last word of the window, of either phase, a wait that has seen it differ, and an uncorrectable word; a BARI with
BIND and one without; arrivals of 1,023 at once and of none. -/
theorem witness_Barriers :
    let s := scr fun r => setS (setS (setS r 6 0xFF8) 3 0x100000) 5 0x10000
    let bad := setUnit s 1 { unitAt s 1 with scrPoison := [(0xFF8 / 128, true)] }
    (scrPoisoned s 0 0xFF8 8 = false ∧ scrPoisoned bad 0 0xFF8 8 = true ∧ (getS (ctx s).rd 5).getLsbD 16 = true ∧
      (getS (ctx s).rd 3).getLsbD 16 = false) ∧
    let c := ctx s
    let cap := getC c.rd 1
    let q : AccReq := { cap := cap, n := 8, rights := [pLD, pST], align := 8, need := .write, scalar := true, scr := some true }
    let ls := [({ lane := 0, x := (capAddr cap : Int) + (getS c.rd 6).toInt } : LaneReq)]
    let phase := (BitVec.ofNat 64 (leNat (tbytes (unitOf s c.k).scr 0xFF8 8))).getLsbD 20
    let b : BarWord := { phase := true, arr := 0, tgt := 1023, bytes := 0 }
    BySlot s ∧ places s q ls = [(0, .scr 0xFF8)] ∧ AccessOk s 2 q ls ∧ heldBack s c.k (c.w.accs.filter fun a => decide (a.no < s.fresh)) [(true, 0xFF8, 8)] = false ∧
    c.hold ≠ .barSeen ∧ (ctx (withW fun w => { w with a := { w.a with hold := .barSeen } })).hold = .barSeen ∧ phase ≠ (getS c.rd 3).getLsbD 20 ∧ phase = (getS c.rd 2).getLsbD 20 ∧
    (b.arr < 1024 ∧ b.tgt < 1024 ∧ -(2 ^ 31) ≤ b.bytes ∧ b.bytes < 2 ^ 31 ∧ b.arr + 1023 ≤ b.tgt ∧ b.arr + 0 ≤ b.tgt) := by
  unfold BySlot
  exact ⟨by decide, by decide, by decide, accessOk_of (by decide), by decide, by decide, by decide, by decide, by decide, by decide⟩

/-- AtomicAddCombines: both sizes. -/
theorem witness_AtomicAddCombines : widthOf 0 = 8 * 4 ∧ widthOf 7 = 8 * 8 := by decide

/-- AccessesPerform: a load and a store that may perform. -/
theorem witness_AccessesPerform :
    let l := .mem 0x40000 0x40000 0x40000
    let ld : Access := { path := 0, kind := .loadS 2 l, pc := 0x10000, src := .slotA }
    let st : Access := { path := 1, kind := .store [(0, l, [1, 2])], pc := 0x10000, src := .slotA }
    let s := setWave (mem 0 id) 0 { (ctx (mem 0 id)).w with accs := [ld], counts := [(0, 1)] }
    let t := setWave (mem 0 id) 0 { (ctx (mem 0 id)).w with accs := [st], counts := [(1, 1)] }
    ((waveAt s 0).accs[0]? = some ld ∧ accReady s 0 0 ld = true ∧ ld.stale = false ∧ ld.fl = 0 ∧ NoRace s ld ∧
      locAns s 0 ld false false l 8 = .ok ∧ waveEnded (waveAt s 0) = false ∧ laterLanded (waveAt s 0) 0 ld.path (cellS 2) = false) ∧
    ((waveAt t 0).accs[0]? = some st ∧ accReady t 0 0 st = true ∧ st.stale = false ∧ st.fl = 0 ∧ NoRace t st ∧ Memory.wf t.mem = true ∧ (∀ e ∈ t.wings, e.2.log = none) ∧
      locAns t 0 st true false l 2 = .ok) := by unfold NoRace; decide

/-- The state with the matrix unit of wave 0's alcove changed. -/
def withMat (s : State) (f : Matrix → Matrix) : State := setMat s 0 (f (matOf s 0))

/-- SlotClaims: slots 0 and 15, free, and one of them another wave's; beside a matrix instruction that is part-way and not. -/
theorem witness_SlotClaims :
    let s := withR 0 fun r => setS r 4 0x8001
    let t := withMat s fun m => { m with claims := [(15, 3)] }
    let free := fun (s : State) => ∀ o : Nat, (BitVec.ofNat 16 (getS (ctx s).rd 4).toNat).getLsbD o = true → o < 16 → ∀ k,
      tlook (matOf s (ctx s).k).claims o = some k → k = (ctx s).k
    let busy := setWave s 0 { waveAt s 0 with seqM := { running := true, hold := .part } }
    (matBusy s (ctx s) { slots := [0, 15] } = false ∧ matBusy busy (ctx busy) { slots := [0, 15] } = true ∧ SlotOr busy .seqMatrix) ∧
    SlotOr s .seqMatrix ∧ free s ∧ (matOf s (ctx s).k).waiting = [] ∧ SlotOr t .seqMatrix ∧ ¬ free t := by
  refine ⟨⟨by decide, by decide, .inl rfl⟩, .inl rfl, ?_, rfl, .inl rfl, fun h => ?_⟩
  · intro o _ _ k h; exact absurd h (by simp [withR, withW, matOf, setWave, base, placeWord, alcAt, alcOf, tget, tput, tlook, ctx, ctxOf, State.reset])
  · exact absurd (h 15 (by decide) (by decide) 3 (by decide)) (by decide)

/-- TileMoves: the unit owns the accumulators and no drain runs; another unit owns them with a tile live. -/
theorem witness_TileMoves :
    let c := ctx base
    let t := withMat base fun m => { m with accown := 7, live := 0x80 }
    accOk (matOf base c.k) (unitOf base c.k).ctxid = true ∧ SlotOr base .seqMatrix ∧ matBusy base c { tiles := [7] } = false ∧
    matBusy base c { tail := true } = false ∧ BySlot base ∧
    (matOf t 0).accown ≠ (unitOf t 0).ctxid ∧ (matOf t 0).accown ≠ 0 ∧ (matOf t 0).live ≠ 0 ∧ BySlot t := by
  unfold SlotOr BySlot; decide

/-- Slot A at PIX.DONE `p` under a MODE, with every operand slot claimed. -/
def mmaAt (p : DWord) (m : BitVec 32) : State :=
  withMat (withW fun w => { w with a := { w.a with pix := p }, regs := { w.regs with mode := m } })
    fun m => { m with claims := (List.range 16).map fun i => (i, 0) }
/-- What MMA of tile 7, slots 0 to 7 and 8 to 15 needs. -/
def mmaOk (s : State) (g : Nat) : Bool :=
  (mmaPair (ety s) (sty s)).isSome && (g == 0 || sty s == 0x15) && (sty s != 0x15 || !mcabPending (ctx s).w) &&
  accOk (matOf s 0) (unitOf s 0).ctxid && !matBusy s (ctx s) { slots := mmaSlots (sty s) 0 8 g 8, tiles := [7] } &&
  (mmaSlots (sty s) 0 8 g 8).all fun o => decide (o ≤ 15) && claimedBy (matOf s 0) 0 o

/-- MatrixMultiply: eight K-steps of BF16 with claimed slots, at the first step, the last and past it; no row; codebook
indices; an integer pair, affine blocks; an element of another tile, of a row that the guard leaves out, and of a guarded row. -/
theorem witness_MatrixMultiply :
    let d := fun (s : State) => (ctx s).pix.toNat % 2 ^ 16
    let s := mmaAt 0 (mode 0xA 0xA)
    let l := mmaAt 7 (mode 0xA 0xA)
    let p := mmaAt 8 (mode 0xA 0xA)
    let n := mmaAt 0 (mode 0xA 0xA ||| 1)
    SlotOr s .seqMatrix ∧ mmaOk s 0 = true ∧ rowsOf (ctx s) ≠ [] ∧ d s + 1 < 8 ∧
    SlotOr l .seqMatrix ∧ mmaOk l 0 = true ∧ rowsOf (ctx l) ≠ [] ∧ d l + 1 = 8 ∧
    SlotOr p .seqMatrix ∧ mmaOk p 0 = true ∧ 8 ≤ d p ∧ SlotOr n .seqMatrix ∧ mmaOk n 0 = true ∧ rowsOf (ctx n) = [] ∧
    mmaOk (mmaAt 0 (mode 0xB 0x15)) 3 = true ∧
    (mmaPair 0xA 0xA = some (32, true) ∧ mmaPair 4 4 = some (64, false) ∧ mmaPair 4 0x14 = some (64, true) ∧
      mmaPair 0xB 0x15 = some (64, true)) ∧ mmaOk (mmaAt 0 (mode 4 4)) 0 = true ∧ mmaOk (mmaAt 0 (mode 4 0x14)) 0 = true ∧
    ((6 : Nat) ≠ (7#3).toNat ∧ 31 ∉ rowsOf (ctx n) ∧ 31 ∈ rowsOf (ctx s)) := by
  unfold SlotOr
  exact ⟨by decide, by decide, by decide, by decide, by decide, by decide, by decide, by decide, by decide, by decide, by decide,
    by decide, by decide, by decide, by decide, by decide, by decide, by decide, by decide, by decide⟩

/-- MatrixTransfers: the longest of each transfer inside the data, and a claimed slot. -/
theorem witness_MatrixTransfers :
    let s := withMat (mem 0 fun r => setC r 1 (data 3)) fun m => { m with claims := [(15, 0)] }
    let c := ctx s
    let cap := getC c.rd 1
    let base : Int := (capAddr cap : Int) + (getS c.rd 6).toInt
    let fits := fun (x : Int) (n right al : Nat) =>
      capCause cap x n [right] (worldOf s c.k) (scrWin s c.k) = none ∧ x % (al : Int) = 0
    let lines := fun (n : Nat) => (List.range (n / 128)).map fun j => ({ lane := 32 + j, x := base + (128 * j : Nat) } : LaneReq)
    let q : AccReq := { cap := cap, n := 128, rights := [pLD], align := 128, need := .read, scalar := true }
    acqHeld c = false ∧ SlotOr s .seqMatrix ∧ claimedBy (matOf s c.k) c.k 15 = true ∧ matBusy s c { slots := [15] } = false ∧
    fits base 2176 pLD 128 ∧ AccessOk s 0 q (lines 2176) ∧ fits base 2048 pLD 128 ∧ AccessOk s 0 q (lines 2048) ∧
    accOk (matOf s c.k) (unitOf s c.k).ctxid = true ∧ matBusy s c { tail := true } = false ∧ fits (base + (4 * 15 : Nat)) (4 * 64) pLD 4 ∧
    countOf c.w 0 < Config.counterMax ∧ matBusy s c {} = false ∧ fits (base + (2048 * 15 : Nat)) 2048 pLD 128 ∧
    matBusy s c { tiles := [7] } = false ∧ fits (base + (4096 * 15 : Nat)) 4096 pLD 128 ∧ fits (base + (4096 * 15 : Nat)) 4096 pST 128 ∧
    countOf c.w 1 < Config.counterMax ∧
    (∀ e ∈ [((60 : Nat), (256 : Nat), Need.read), (2048 * 15, 2048, .read), (4096 * 15, 4096, .read), (4096 * 15, 4096, .write)],
      (bulkTrs s c (0x40000 + e.1) e.2.2 (bulkPages cap (0x40000 + e.1) e.2.1)).2.isOk = true) := by
  unfold SlotOr
  exact ⟨by decide, by decide, by decide, by decide, by decide, accessOk_of (by decide), by decide, accessOk_of (by decide), by decide, by decide,
    by decide, by decide, by decide, by decide, by decide, by decide, by decide, by decide, by decide⟩

/-- DrainAndStatus: a drain at its first row, at its last, past them, and one whose access grows; with a Tail that uses a side
slot and with none. -/
theorem witness_DrainAndStatus :
    let s := mem 0 fun r => setC r 1 (data 3)
    let l := setWave s 0 { waveAt s 0 with a := { (waveAt s 0).a with pix := 1 } }
    let p := setWave s 0 { waveAt s 0 with a := { (waveAt s 0).a with pix := 3 } }
    let q : Access := { path := 1, kind := .drain (data 3) [], pc := 0x10000, src := .slotA, grows := true }
    let grown := setWave l 0 { waveAt l 0 with accs := [q], counts := [(1, 1)] }
    let ok := fun (s : State) =>
      let c := ctx s
      let m := matOf s c.k
      let cap := getC c.rd 1
      acqHeld c = false ∧
      SlotOr s .seqMatrix ∧ accOk m (unitOf s c.k).ctxid = true ∧ tailUsesSide (tailProgram m) = false ∧
      capCause cap (capAddr cap) (1024 * tailWidth (tailProgram m) + 4) [pST] (worldOf s c.k) (scrWin s c.k) = none ∧ capAddr cap % 4 = 0 ∧
      matBusy s c { tail := true, tiles := [7] } = false ∧ matBusy s c { tail := true } = false ∧ drainFailed c.w c = false ∧
      countOf c.w (if capHas cap pSCRATCH = true then 2 else 1) < Config.counterMax ∧
      (bulkTrs s c (capAddr cap) .write (bulkPages cap (capAddr cap) (1024 * tailWidth (tailProgram m) + 4))).2.isOk = true
    ok s ∧ (rowsOf (ctx s))[(ctx s).pix.toNat % 2 ^ 16]? = some 0 ∧ (ctx s).pix.toNat % 2 ^ 16 + 1 < (rowsOf (ctx s)).length ∧
    (ok p ∧ (rowsOf (ctx p)).length < (ctx p).pix.toNat % 2 ^ 16) ∧ growingOf (ctx s).w (ctx s) = none ∧
    (ok grown ∧ growingOf (ctx grown).w (ctx grown) = some 0 ∧ (ctx grown).w.accs[0]? = some q) ∧ ok l ∧ (rowsOf (ctx l))[(ctx l).pix.toNat % 2 ^ 16]? = some 31 ∧ (ctx l).pix.toNat % 2 ^ 16 + 1 = (rowsOf (ctx l)).length ∧
    (∀ x ∈ (ctx s).w.accs, x.performed = true ∨ matrixLoad x.kind = false) ∧ matBusy s (ctx s) {} = false := by
  unfold SlotOr; decide

/-- A wave whose wing is party 0 of binding 0, with its binding capability in c5 and its dealer's in c6. -/
def bound (m : BitVec 32) (f : Wave → Wave) : State :=
  let s := withR m fun r => setC (setC r 5 (bindCap 0 0 0 1 true)) 6 (bindCap 0 2 0 1 false)
  setBind (setWave s 0 (f (waveAt s 0))) 0 { used := true, wing0 := 0, wing1 := 1, pools := [(0, { cap := 8, tail := 8 })] }

/-- ShareLocalInstructions: a share type with F at its largest, a current record of the type, the least and largest kind, and a
dealer block at the start of the data. -/
theorem witness_ShareLocalInstructions :
    let s := bound (mode 0x10 0) fun w => { w with current := some ⟨0x10, []⟩, regs := setS (setC w.regs 1 (data 7)) 4 0x50000000000 }
    let c := ctx s
    let m := getC c.rd 1
    BySlot s ∧ c.w.tether = false ∧ isShare (ety s) = true ∧ (∀ r ∈ [2#7, 4], oddPair (ety s) r = false) ∧ 31 < widthOf (ety s) ∧
    bindCause s (wingNoOf s c.k) (getC c.rd 5) false = none ∧ c.w.current = some ⟨0x10, []⟩ ∧
    (getS c.rd 4).toNat / 2 ^ 40 % 8 < 6 ∧ m.tag = true ∧ capHas m pLD = true ∧ capHas m pLDC = true ∧
    capWorld m = worldOf s c.k ∧ capOtype m = 0 ∧ ((capAddr m : Int) + (getS c.rd 6).toInt) % 128 = 0 ∧
    countOf c.w 5 < Config.counterMax ∧ acqHeld c = false := by unfold BySlot; decide

/-- The hold of a fresh slot is no answer of the gate. -/
theorem noGateTrap {c : Ctx} (h : c.hold = .none) : ∀ e x, c.hold ≠ .gateTrap e x := by simp [h]

/-- ExchangesArrive: each exchange under its type, SHCMP at round 6 and 7, SHMMA on claimed slots before its values are opened, with them and
past its update, an open before, between and
after its two operands. -/
theorem witness_ExchangesArrive :
    let s := bound (mode 0x10 0x10) id
    let c := ctx s
    let pix := fun (p : DWord) => ctx (bound (mode 0x10 0x10) fun w => { w with a := { w.a with pix := p } })
    let y : PendingOpen := { binding := 0, kind := 0x10, x := [], pc := 0x10000 }
    let open_ := fun (p : PendingOpen) => (ctx (bound (mode 0x10 0x10) fun w => { w with pending := some p })).w.pending
    let m := withMat s fun m => { m with claims := [(0, 0), (15, 0)] }
    BySlot s ∧ c.w.tether = false ∧ (∀ e x, c.hold ≠ .gateTrap e x) ∧ bindCause s (wingNoOf s c.k) (getC c.rd 5) false = none ∧
    countOf c.w 5 < Config.counterMax ∧ c.w.divd = 0 ∧ (isShare (ety s) = true ∧ ∀ r ∈ [2#7, 4], oddPair (ety s) r = false) ∧
    ety s = 0x10 ∧ (pix 6).pix.toNat % 256 < 7 ∧ 7 ≤ (pix 7).pix.toNat % 256 ∧
    (sty s = 0x10 ∧ accOk (matOf m 0) (unitOf m 0).ctxid = true ∧ claimedBy (matOf m 0) 0 0 = true ∧ claimedBy (matOf m 0) 0 15 = true ∧
      matBusy m (ctx m) { slots := [0, 15], tiles := [7] } = false ∧ c.pix.toNat % 2 ^ 16 = 0 ∧
      (let v := ctx (bound (mode 0x10 0x10) fun w => { w with a := { w.a with pix := 1 }, shares := some ⟨true, 4, [7]⟩ })
       v.pix.toNat % 2 ^ 16 = 1 ∧ v.w.shares = some ⟨true, 4, [7]⟩) ∧ 2 ≤ (pix 2).pix.toNat % 2 ^ 16) ∧
    c.w.pending = none ∧ (open_ y = some y ∧ y.stage = .waitY ∧ y.kind = ety s) ∧
    open_ { y with stage := .opened [1] [2] } = some { y with stage := .opened [1] [2] } := by
  refine ⟨by unfold BySlot; decide, by decide, noGateTrap (by decide), by decide, by decide, by decide, by decide, by decide, by decide,
    by decide, by decide, by decide, by decide, by decide⟩

/-- A reveal with receipt by a wave. -/
def revealBy (k : Nat) : GateOp :=
  { wave := k, src := .slotA, kind := .reveal true, ety := 0x10, d := 2, x := [], y := [], grant := true, pc := 0x10000, sw := false }
/-- Two waves whose reveals are paired on channel 0 of binding 0. -/
def paired : State :=
  let s := setBind base 0 { used := true, wing0 := 0, wing1 := 1, channels := [(0, { paired := [{ op0 := revealBy 0, op1 := revealBy 16 }] })] }
  { s with waves := tput s.waves 16 placeWave, alcoves := tput s.alcoves 1 { wing := some 1 }, wings := tput s.wings 1 { placeWing with alcs := [1] } }

/-- ExchangesComplete: a first arrival of each party, while the binding is suspended and not, a pairing, a completion, and a triple of 16 bits. -/
theorem witness_ExchangesComplete :
    let s := setBind base 0 { used := true, wing0 := 0, wing1 := 1, channels := [(0, { wait1 := [revealBy 16] })] }
    let x := chanAt (bindAt s 0) 0
    let e := chanAt (bindAt base 0) 0
    let o := revealBy 0
    let q := revealBy 16
    (e.void0 = 0 ∧ e.void1 = 0 ∧ e.wait1 = [] ∧ e.wait0 = [] ∧ (bindAt base 0).suspended = false ∧
      (let b := bindAt (setBind base 0 { used := true, suspended := true }) 0
       b.suspended = true ∧ (chanAt b 0).void0 = 0 ∧ (chanAt b 0).void1 = 0 ∧ (chanAt b 0).wait1 = [])) ∧
    ((bindAt s 0).suspended = false ∧ x.void0 = 0 ∧ x.void1 = 0 ∧ x.wait0 = [] ∧ x.wait1 = [q] ∧ o.dead = false ∧ q.dead = false ∧
      o.kind = .reveal true ∧ q.kind = .reveal true ∧ o.ety = q.ety ∧ o.grant = true ∧ q.grant = true) ∧
    ((chanAt (bindAt paired 0) 0).paired = [{ op0 := o, op1 := q }] ∧ o.wave ≠ q.wave ∧
      (∀ e ∈ [o, q], (waveAt paired e.wave).frame = none ∧ (waveAt paired e.wave).tethSlot = none ∧ isSeq e.src = false ∧
        (slotOf (waveAt paired e.wave) e.src).pc = e.pc) ∧
      (∀ e ∈ [o, q], ∀ w, (alcAt paired (alcOf e.wave)).wing = some w → (wingAt paired w).run ≠ .swapped)) ∧
    (65535 + 2) % 2 ^ 16 = (65535 + 2) * (0 + 1) % 2 ^ 16 := by
  refine ⟨by decide, by decide, ⟨by decide, by decide, by decide, ?_⟩, by decide⟩
  intro e he w hw
  simp only [List.mem_cons, List.not_mem_nil, or_false] at he
  rcases he with rfl | rfl
  · have h0 : (alcAt paired (alcOf (revealBy 0).wave)).wing = some 0 := by decide
    rw [h0] at hw; cases hw; decide
  · have h0 : (alcAt paired (alcOf (revealBy 16).wave)).wing = some 1 := by decide
    rw [h0] at hw; cases hw; decide

/-- Two waves whose operations of a kind and type are paired on that channel, with one record of each kind left in both pools; each
has a split open pending. -/
def pairedBy (kind : GateKind) (ety : Nat) (id : Option Nat) : State × Exchange :=
  let op (k : Nat) : GateOp := { revealBy k with kind := kind, ety := ety, grant := false }
  let e : Exchange := { op0 := op 0, op1 := op 16, id := id }
  let x : Pool := { base := 0x40000, cap := 1, head := 2 ^ 40 - 1, tail := 0 }
  let s := setBind paired 0 { used := true, wing0 := 0, wing1 := 1, channels := [(0, { paired := [e] })],
                              pools := (List.range 16).map (·, x) }
  let s := { s with waves := tput s.waves 16 { placeWave with unit := 2 } }
  let pend (s : State) (k : Nat) : State :=
    setWave s k { waveAt s k with pending := some { binding := 0, kind := ety, x := [], pc := 0x10000, stage := .atGate } }
  (pend (pend s 0) 16, e)

/-- What the completion of such an exchange needs of its state. -/
def mayComplete (s : State) (e : Exchange) (kind : Nat) : Bool :=
  let bd := bindAt s 0
  let p0 := poolAt bd 0 kind
  let p1 := poolAt bd 1 kind
  ((chanAt bd 0).paired == [e]) && gateSame e.op0 e.op1 && gateRec e.op0 == some kind && e.op0.wave != e.op1.wave &&
  alcOf e.op0.wave != alcOf e.op1.wave &&
  [e.op0, e.op1].all (fun p => p.img.isNone && p.start == 0 && (waveAt s p.wave).frame.isNone && (waveAt s p.wave).tethSlot.isNone &&
    !isSeq p.src && (slotOf (waveAt s p.wave) p.src).pc == p.pc && !matMidway s (alcOf p.wave) p.wave p.src &&
    accOk (matOf s p.wave) (unitOf s p.wave).ctxid && (waveAt s p.wave).pending.isSome &&
    match (alcAt s (alcOf p.wave)).wing with | some w => (wingAt s w).run != .swapped | none => true) &&
  (e.id.isSome || (p0.head == p1.head && poolOcc p0 != 0 && poolOcc p1 != 0 &&
    (readRecord s (wingAt s bd.wing0) p0 kind p0.head).isSome && (readRecord s (wingAt s bd.wing1) p1 kind p1.head).isSome))

/-- ExchangesComplete: each kind of exchange with its record taken, and one that takes the last id of its pools. -/
theorem witness_ExchangesComplete_records :
    (∀ q ∈ [(GateKind.open2, 0x12, 0), (.mul, 0x10, 1), (.mul, 0x11, 2), (.btr, 0x10, 5), (.cmp, 0x10, 4), (.mma 7, 0x10, 3)],
      mayComplete (pairedBy q.1 q.2.1 (some 7)).1 (pairedBy q.1 q.2.1 (some 7)).2 q.2.2 = true) ∧
    mayComplete (pairedBy .mul 0x12 none).1 (pairedBy .mul 0x12 none).2 0 = true := by decide +kernel

/-- A capability of a recipe tile, and a wing whose Catalogue holds its record at id 0. -/
def tile : Cap := mkCap 0x40000 0x50000 0x40000 (2 ^ pRECIPE + 3) 0 1
/-- A wave with that capability in c4 and data in c1, the record as given. -/
def withRecipe (r : Recipe) : State :=
  let s := mem 0 fun r => setS (setC (setC r 4 tile) 1 (mkCap 0x60000 0x70000 0x60000 7 0 1)) 2 192
  setRecipe s 0 0 { r with used := true, tile := tile }

/-- RecipeInstructions: a block at its place, refused since its words are zero; each state of the record; a record named as a
source; an address in no tile. -/
theorem witness_RecipeInstructions :
    let s := withRecipe {}
    let c := ctx s
    let m := getC c.rd 1
    let x : Int := (capAddr m : Int) + (getS c.rd 6).toInt
    let fits := fun (s : State) (k : Cap) (x : Int) (n al : Nat) (rs : List Nat) =>
      capCause k x n rs (worldOf s c.k) (scrWin s c.k) = none ∧ capHas k pSCRATCH = false ∧ x % (al : Int) = 0
    let q := getC c.rd 4
    let r := fun (s : State) => recipeAt (wingAt s 0) 0
    let idle := fun (r : Recipe) => r.pins = 0 ∧ r.held = 0 ∧ r.st ≠ .building
    let segs : List (Loc × Nat) := [(.mem 0x60000 0x60000 0x60000, 192)]
    let p := parseRecipe s 0 { bytes := readSegs s 0 segs, caps := (List.range 7).map fun i => segCap s 0 segs (16 * i) }
    let named := setRecipe s 0 1 { used := true, srcs := [tile] }
    let bare := setWing s 0 { wingAt s 0 with recipes := [] }
    acqHeld c = false ∧ (idle (r named) ∧ namedAsSource (wingAt named 0) 0 = true) ∧
    (fits bare q (capAddr q) 1 1 [pRECIPE] ∧ findTile (wingAt bare 0) (capAddr q) = none) ∧
    BySlot s ∧ fits s m x 192 64 [pLD, pLDC] ∧ (segsVia s c.k (immAccess c) m x.toNat 192 .read = .ok segs) ∧
    heldBack s c.k c.w.accs (segRanges segs) = false ∧ recipeFaults s 0 p.1 p.2 ≠ [] ∧
    fits s q (capAddr q) 1 1 [pRECIPE] ∧ findTile (wingAt s 0) (capAddr q) = some 0 ∧
    (r (withRecipe { pins := 65534 })).pins < 65535 ∧ 0 < (r (withRecipe { pins := 65535 })).pins ∧ (r s).pins = 0 ∧
    (idle (r (withRecipe { st := .present })) ∧ (r (withRecipe { st := .present })).st = .present) ∧
    (idle (r s) ∧ (r s).st = .absent ∧ namedAsSource (wingAt s 0) 0 = false) ∧ ¬ idle (r (withRecipe { held := 1 })) ∧
    countOf c.w 1 < Config.counterMax ∧ fits s m x 192 1 [pLD] ∧ hasSys c = true ∧ fits s m x 128 128 [pST] := by
  unfold BySlot
  refine ⟨by decide, by decide, by decide, by decide, by decide, rfl, by decide, by decide, by decide, by decide, by decide, by decide, by decide, by decide, by decide,
    by decide, by decide, by decide, by decide, by decide⟩

/-- A wave whose data holds, at 0x60000, the record block of the 4 KiB tile at 1 GiB, a page of POLICY 4; the wing's reserve
has one slot. -/
def block : State :=
  let s := mem 0 fun r => setC r 1 (mkCap 0x60000 0x70000 0x60000 7 0 1)
  let s := { s with mem := tputBytes s.mem (placeTable + 0x2008) (natLe 8 0x800000000000000F) }
  let s := { s with mem := tputBytes s.mem 0x60080 (natLe 8 0x0001000100010000) }
  let s := setWing s 0 { wingAt s 0 with resvSlots := 1 }
  let put := fun s i c => writeCapLoc s 0 (.mem (0x60000 + 16 * i) (0x60000 + 16 * i) (0x60000 + 16 * i)) c
  put (put (put s 0 (mkCap 0x40000000 0x40001000 0x40000000 (2 ^ pRECIPE + 3) 0 1)) 1 (mkCap 0x10000 0x20000 0x10000 (2 ^ pEXEC) 1 1))
    2 (data 1)

/-- The same block with one source, in the tile of record 0, which is DEAD. -/
def blockOn : State :=
  let s := { block with mem := tputBytes block.mem 0x60080 (natLe 8 0x0001000100012000) }
  writeCapLoc (setRecipe s 0 0 { used := true, tile := data (2 ^ pRECIPE + 3), dead := true }) 0 (.mem 0x60030 0x60030 0x60030) (data 1)

/-- RecipeInstructions, the clauses of a valid block: with no source, and with a DEAD one. -/
theorem witness_RecipeInstructions_defined :
    let segs : List (Loc × Nat) := [(.mem 0x60000 0x60000 0x60000, 192)]
    let good := fun (s : State) =>
      let c := ctx s
      let m := getC c.rd 1
      let blk : RecipeBlock := { bytes := readSegs s 0 segs, caps := (List.range 7).map fun i => segCap s 0 segs (16 * i) }
      let p := parseRecipe s 0 blk
      BySlot s ∧ acqHeld c = false ∧ capCause m (capAddr m) 192 [pLD, pLDC] (worldOf s c.k) (scrWin s c.k) = none ∧
      segsVia s c.k (immAccess c) m (capAddr m) 192 .read = .ok segs ∧ heldBack s c.k c.w.accs (segRanges segs) = false ∧
      recipeFaults s 0 p.1 p.2 = []
    good block ∧ good blockOn := by
  unfold BySlot
  decide +kernel

/-- A wave that holds the sealed capability of node 0 in c7, whose records are 16 bytes, and the bytes of a launch record in
c1's data. -/
def nodes : State :=
  let s := mem 0 fun r => setC (setC r 7 (nodeCap 0 0 1)) 1 (mkCap 0x60000 0x70000 0x60000 (2 ^ pENQ + 7) 0 1)
  let s := { s with levels := tput s.levels 2 { used := true, body := .graph [0] false } }
  setNode s 0 { used := true, graph := 2, capacity := 1 }

/-- A launch record of one unit of one wave at 0x60000, with its code, argument and DONE capabilities. -/
def record : State :=
  let s := nodes
  let s := { s with mem := tputBytes s.mem 0x60060 (natLe 8 0x0001000100010000) }
  let s := { s with mem := tputBytes s.mem 0x60003 (natLe 1 1) }
  let put := fun s i c => writeCapLoc s 0 (.mem (0x60000 + 16 * i) (0x60000 + 16 * i) (0x60000 + 16 * i)) c
  put (put (put s 1 (mkCap 0x10000 0x20000 0x10000 (2 ^ pEXEC) 1 1)) 2 (data 1)) 3 (data 2)

/-- The record's segment, and the launch that its bytes and capabilities stand for. -/
def recSegs : List (Loc × Nat) := [(.mem 0x60000 0x60000 0x60000, 128)]
/-- The launch that the record of a state stands for. -/
def parsed (s : State) : Except Nat LaunchReq :=
  parseLaunch s 0 (hasSys (ctx s)) (readSegs s 0 recSegs) (segCap s 0 recSegs 16) (segCap s 0 recSegs 32) (segCap s 0 recSegs 48)
    (segCap s 0 recSegs 64)

/-- QueueInstructions: a node record of zeros, a launch record that is accepted, one that the full task queue makes wait and one
that is refused, with and without earlier accesses; a level of the wing of each kind, and an id of none. -/
theorem witness_QueueInstructions :
    let s := record
    let c := ctx s
    let m := getC c.rd 1
    let node := getC c.rd 7
    let segs : List (Loc × Nat) := [(.mem 0x60000 0x60000 0x60000, 16)]
    let busy := { c.w with accs := [{ path := 1, kind := .store [], pc := 0, src := .slotA }] }
    BySlot s ∧ acqHeld c = false ∧ nodeCause node (worldOf s c.k) = none ∧ nodeRecSize s node = 16 ∧
    capCause m (capAddr m) 16 [pLD] (worldOf s c.k) (scrWin s c.k) = none ∧ (capAddr m : Int) % 16 = 0 ∧
    segsVia nodes c.k (immAccess c) m (capAddr m) 16 .read = .ok segs ∧ heldBack nodes c.k c.w.accs (segRanges segs) = false ∧
    nodeHdrOk (readSegs nodes 0 segs) = true ∧ countOf c.w 1 < Config.counterMax ∧
    capCause m (capAddr m) 128 [pLD, pLDC, pENQ] (worldOf s c.k) (scrWin s c.k) = none ∧ (capAddr m : Int) % 64 = 0 ∧
    segsVia s c.k (immAccess c) m (capAddr m) 128 .read = .ok recSegs ∧ releaseReady c.w.accs = true ∧
    releaseReady busy.accs = false ∧ heldBack s c.k c.w.accs (segRanges recSegs) = false ∧
    (match parsed s with | .ok r => (enterLaunch s 0 r).isSome | .error _ => false) = true ∧
    (let full := { s with levels := s.levels ++ (List.range 1024).map fun i =>
       (i + 10, { used := true, body := .launch placeLaunch 0 none, size := 1 }) }
     match parsed full with | .ok r => (enterLaunch full 0 r).isNone | .error _ => false) = true ∧
    (match parsed nodes with
     | .ok _ => false
     | .error e => e == 1 && (match refuseLaunch nodes 0 (segCap nodes 0 recSegs 48) e c.hold with | .ok _ => true | .error _ => false)) = true ∧
    ownLevel s 0 1 (levelId s 2) = some 2 ∧ ownLevel s 0 0 (levelId s 1) = some 1 ∧ ownLevel s 0 2 0 = none := by
  unfold BySlot; decide +kernel

/-- A unit of two wave slots: wave 0 and the slot reserved for its tether. -/
def teth (f : Wave → Wave) (g : Wave → Wave) : State :=
  let s := setWave (withW f) 1 (g { used := true, unit := 1, tether := true })
  setUnit s 1 { unitAt s 1 with waves := [0, 1], tethers := 1 }

/-- TetherAndPhaseInstructions: the tether not yet started and started before, its owner's queue with 15 and with 16 entries,
priorities, and a unit with a phase and without. -/
theorem witness_TetherAndPhaseInstructions :
    let s := teth id id
    let c := ctx s
    let q := fun (n : Nat) => { (teth (fun w => { w with queue := List.replicate n [] }) id) with cur := ⟨1, .slotA⟩ }
    let ph := setLevel (setLevel s 2 { used := true, body := .phase 3 0 true 0 5 [] }) 1 { levelAt s 1 with parent := 2 }
    BySlot s ∧ c.w.tether = false ∧ c.w.hadTether = false ∧ reservedTether s c.k = some 1 ∧ 1 ≠ c.k ∧
    (ctx (teth (fun w => { w with hadTether := true }) id)).w.hadTether = true ∧
    ((ctx (q 15)).w.tether = true ∧ (waveAt (q 15) (ctx (q 15)).w.owner).queue.length < 16 ∧
      16 ≤ (waveAt (q 16) (ctx (q 16)).w.owner).queue.length) ∧
    ((ctx (teth (fun w => { w with hadTether := true, queue := [[1]] }) id)).w.queue = [[1]] ∧ c.w.queue = [] ∧ c.w.tethSlot = none ∧
      (ctx (teth (fun w => { w with tethSlot := some 1 }) id)).w.tethSlot ≠ none) ∧
    ((getS c.rd 4).toNat < 47 ∧ hasSys c = true ∧ c.w.prio ≠ 47) ∧
    ((getS (ctx (withW fun w => { w with regs := setS {} 4 46 })).rd 4).toNat = 46 ∧
      hasSys (ctx (withW fun w => { w with regs := setS {} 4 46 })) = false) ∧
    phaseOf s (unitOf s c.k) = none ∧ phaseOf ph (unitOf ph 0) = some 2 ∧ (levelAt ph 2).body = .phase 3 0 true 0 5 [] := by
  unfold BySlot; decide +kernel

/-- A wave in its handler. -/
def handling : State := takeTrap base 0 .slotA { cause := 0x14 }

/-- TakingATrap: outside a handler and in one, with a running wave beside it. -/
theorem witness_TakingATrap :
    let s := teth id id
    BySlot s ∧ (ctx s).w.frame = none ∧ (ctx handling).w.frame ≠ none ∧
    (1 ∈ (unitAt s (ctx s).w.unit).waves ∧ 1 ≠ (ctx s).k ∧ (waveAt s 1).frame = none ∧ (waveAt s 1).stop = .running) := by
  unfold BySlot; decide +kernel

/-- A wave of a handler with SYS. -/
def supervised (f : Wave → Wave) (src : Src) : State :=
  takeTrap (withW fun w => f { w with bank := { pcc := getC w.regs 31 } }) 0 src { cause := 0x14 }

/-- ReturnAndHalt: a handler whose bank holds SYS returns, to a slot and to a sequencer; a source that was not in use, the handler's
own sequencer; a running wave, a stopping one, a unit that a HALT holds; SRET outside a handler. -/
theorem witness_ReturnAndHalt :
    (let back := fun (s : State) =>
       let c := ctx s
       let reg := fun (n : Nat) => tget 0 c.sys n
       ({ src := (reg 0x020).toNat / 256 % 8, pc := reg 0x021 &&& ~~~3#64, pix := reg 0x026 } : Return)
     let ok := fun (s : State) (gone : Bool) => BySlot s ∧ hasSys (ctx s) = true ∧
       (match (ctx s).w.frame with | some fr => sretFaults (ctx s).w fr (back s) == gone | none => false) = true
     let seq := fun (w : Wave) => { w with seqM := { running := true } }
     let own := supervised id .slotA
     ok (supervised id .slotA) false ∧ ok (supervised seq .seqMatrix) false ∧ (back (supervised seq .seqMatrix)).src = 3 ∧
     ok (supervised id .slotB) true ∧ ok (setWave own 0 { waveAt own 0 with seqG := { running := true, handler := true } }) true ∧
     (ctx own).w.stop = .running ∧ (unitOf own 0).held = none ∧
     (unitOf (setUnit own 1 { unitAt own 1 with held := some (0, .slotA) }) 0).held.isSome = true) ∧
    let s := takeTrap (withW fun w => { w with bank := { pcc := getC w.regs 31 } }) 0 .slotA { cause := 0x14 }
    BySlot s ∧ hasSys (ctx s) = true ∧ (∃ fr, (ctx s).w.frame = some fr) ∧
    BySlot base ∧ hasSys (ctx base) = true ∧ (ctx base).w.frame = none := by
  unfold BySlot
  exact ⟨by decide +kernel, by decide +kernel, by decide +kernel, ⟨_, rfl⟩, by decide, by decide, by decide⟩

/-- PrivilegeTraps: no SYS with the least supervisor register; each sequencer with an instruction of another one, a row-wise one of
the matrix sequencer's among them, and SYS in its copies. -/
theorem witness_PrivilegeTraps :
    let u := withW fun w => { w with regs := {} }
    let q := fun (x : Src) => ({ (withW fun w => { w with seqC := { regs := w.regs }, seqM := { regs := w.regs }, seqG := { regs := w.regs } })
      with cur := ⟨0, x⟩ } : State)
    hasSys (ctx u) = false ∧ needsSys (.mfsr true 2 0x20) = true ∧ needsSys (.sret true) = true ∧
    ∀ e ∈ [(Src.seqMatrix, Instr.tcpy true 29 5 4 0), (.seqCopy, .mma true 3 4 6 2 1), (.seqGather, .pref true 2 5 6 0),
        (.seqMatrix, .mscl false 1 5), (.seqMatrix, .vadd true 2 4 6 false), (.seqCopy, .sret true)],
      isSeq (q e.1).cur.src = true ∧ encode e.2 ≠ none ∧ sequencerMay e.1 e.2 = false ∧ hasSys (ctx (q e.1)) = true := by
  decide +kernel

/-- SystemRegisters: at the start of a run and in one; legal and reserved MODE, sources 4 and 5, in a handler and outside, SYS;
a matrix sequencer stopped part-way through an MMA and none; in a handler of slot B, each source by its number. -/
theorem witness_SystemRegisters :
    (let k := fun (s : State) => (getS (ctx s).rd 4).toNat % 8
     let src := fun (s : State) => (tget 0 (ctx s).sys 0x020).toNat / 256 % 8
     let at_ := fun (n : DWord) (x : Src) => supervised (fun w => { w with regs := setS w.regs 4 n }) x
     let one := fun (s : State) => BySlot s ∧ hasSys (ctx s) = true ∧ (ctx s).w.frame.isSome = true
     one (at_ 1 .slotB) ∧ k (at_ 1 .slotB) = 1 ∧ src (at_ 1 .slotB) = 1 ∧ k (at_ 0 .slotB) = 0 ∧ src (at_ 0 .slotB) = 1 ∧
     one (at_ 1 .slotA) ∧ k (at_ 1 .slotA) = 1 ∧ src (at_ 1 .slotA) = 0 ∧ k (at_ 4 .slotA) = 4 ∧ k (at_ 5 .slotA) = 5) ∧
    let s := takeTrap (withW fun w => { w with bank := { pcc := getC w.regs 31 } }) 0 .slotA { cause := 0x14 }
    let run := withW fun w => { w with a := { w.a with snap := some { sys := [(0x022, 7)] } } }
    let part := withW fun w => { w with seqM := { running := true, hold := .part } }
    BySlot base ∧ modeBad (BitVec.setWidth 32 0#64) = false ∧ modeBad (BitVec.setWidth 32 9#64) = true ∧
    srcSnap (ctx base).w (ctx base).src = none ∧
    srcSnap (ctx run).w (ctx run).src = some { sys := [(0x022, 7)] } ∧
    (matMidway base (alcOf 0) 0 .slotA = false ∧ matMidway part (alcOf 0) 0 .slotA = true) ∧
    ((4#64).toNat % 8 < 5 ∧ (ctx base).w.frame = none) ∧ 5 ≤ (5#64).toNat % 8 ∧
    hasSys (ctx base) = true ∧ (0x400#64).toNat / 256 % 8 < 5 ∧ 5 ≤ (0x500#64).toNat / 256 % 8 ∧
    (BySlot s ∧ hasSys (ctx s) = true ∧ (ctx s).w.frame ≠ none ∧ 0 = (ctx s).w.trapCause.toNat / 256 % 8) := by
  unfold BySlot
  exact ⟨by decide +kernel, by decide, by decide, by decide, by decide, by decide, by decide, by decide, by decide, by decide, by decide, by decide,
    by decide +kernel⟩

/-- PagingInstructions: SYS; an empty range and a page; a translation in use and none; a request that the tables answer, and one
beside another request's scan; a wing armed for SNAP and not, with no capture held and with one; a latched answer. -/
theorem witness_PagingInstructions :
    let s := withR 0 fun r => setC (setC r 4 (data 3)) 1 (mkCap 0x40000 0x50000 0x40000 3 0 1)
    let k := getC (ctx s).rd 4
    let used := setWave s 0 { waveAt s 0 with accs := [{ path := 0, kind := .loadS 2 (.mem 0x40000 0x40000 0x40000), pc := 0, src := .slotA,
                                                               pages := [(4, 4)] }] }
    let scans := setWing s 0 { wingAt s 0 with scans := [{ wave := 0, src := .slotA, handler := false, pc := BitVec.ofNat 64 placeCode,
                                                           va := 0x60000, sh := 16, pages := [], since := 0, got := [] }] }
    let arm := setWing s 0 { wingAt s 0 with armed := ⟨true, [], false, false⟩ }
    let r := mapReq 0
    BySlot s ∧ hasSys (ctx s) = true ∧ usesPages (invalidate s 0 0 (2 ^ 57) true) 0 0 (2 ^ 57) = false ∧
    usesPages (invalidate used 0 0 (2 ^ 57) true) 0 0 (2 ^ 57) = true ∧
    (k.tag = true ∧ capWorld k = worldOf s 0 ∧ capOtype k = 0 ∧ capAddr k % 65536 = 0 ∧ 0 % 65536 = 0 ∧ 65536 % 65536 = 0) ∧
    usesPages (invalidate s 0 0x40000 0x50000 true) 0 0x40000 0x50000 = false ∧
    (pgmapCause (getC (ctx s).rd 1) r (capAddr (getC (ctx s).rd 1)) (worldOf s 0) = none ∧ scanBusy s 0 (scanOf s (ctx s)) = false ∧
      (ctx s).hold = .none ∧ scanBusy scans 0 none = true ∧
      (match mapRun (tendScans s 0) 0 0x40000 r 0 false [] with | .status .. => true | _ => false) = true) ∧
    (wingOf s 0).armed.program = false ∧ (ctx s).hold = .none ∧ (wingOf arm 0).armed.program = true ∧ arm.capHeld = none ∧
    ({ arm with capHeld := some ⟨1, [], {}⟩ } : State).capHeld ≠ none ∧
    (ctx (withW fun w => { w with a := { w.a with hold := .latched 3 } })).hold = .latched 3 := by
  unfold BySlot; decide +kernel

/-- MapRequestsRefused: each request, with the reserved bits, the sizes and the rights that decide it. -/
theorem witness_MapRequestsRefused :
    let q := fun (w : DWord) => mapReq w
    (q 0xFFFFFFFFFFFFFFFF).bad = true ∧ (q 0).bad = false ∧ (q 0).op = 0 ∧ (q 0).size = 0 ∧ 1 % 2 ^ sizeBits 0 ≠ 0 ∧
    (∃ w, (q w).bad = false ∧ (q w).op = 0 ∧ (q w).size ≠ 0) ∧
    (∃ w, (q w).bad = false ∧ (q w).op = 0 ∧ (q w).size = 0 ∧ (q w).w = true ∧ (q w).x = true) ∧
    (∃ w, (q w).bad = false ∧ (q w).op = 0 ∧ (q w).size = 0 ∧ (q w).w = false ∧ (q w).x = true ∧ (q w).policy = 4) ∧
    (∃ w, (q w).bad = false ∧ (q w).op = 2 ∧ (q w).w = false ∧ (q w).x = true ∧ 0 % (2 * 2 ^ sizeBits (q w).size) = 0) ∧
    (let misplaced := fun (op arg : Nat) (w : DWord) => (q w).bad = false ∧ (q w).op = op ∧ arg % 2 ^ sizeBits (q w).size ≠ 0
     misplaced 1 8 0x1000000000000000 ∧ 2 ^ 48 ≤ 2 ^ 48 ∧ misplaced 2 8 0x2000000000000000 ∧
     ((q 0x2020000000000000).op = 2 ∧ (q 0x2020000000000000).w = true ∧ (q 0x2020000000000000).bad = false)) ∧
    ((q 0x3260000000000000).bad = false ∧ (q 0x3260000000000000).op = 3 ∧ (q 0x4260000000000000).bad = false ∧ (q 0x4260000000000000).op = 4 ∧
      (q 0x3204000000000000).bad = false ∧ (q 0x3204000000000000).op = 3 ∧ (q 0x3204000000000000).policy = 4 ∧
      (q 0x3204000000000000).size = 2) ∧
    (match descend base (wingAt base 0) 0 (sizeLevel 2) 5 0 (wingAt base 0).s1root with
      | .at_ _ e => s1LeafOk e && leafPolicy e != 4 | _ => false) = true := by
  refine ⟨by decide, by decide, by decide, by decide, by decide, ⟨0x0100000000000000, by decide⟩, ⟨0x0060000000000000, by decide⟩, ⟨0x0044000000000000, by decide⟩, ⟨0x2040000000000000, by decide⟩, by decide, by decide, by decide +kernel⟩

/-- An answer without a failed line is a state and a receipt. -/
theorem clean_answers {x : State × Receipt × Option Nat} (h : x.2.2 = none) : ∃ s' r', x = (s', r', none) := by
  obtain ⟨a, b, c⟩ := x; cases h; exact ⟨a, b, rfl⟩

/-- Scrubbing: one page of data under SYS, its receipt empty. -/
theorem witness_Scrubbing :
    let s := mem 0 fun r => setS (setC r 1 (data 3)) 2 0x10000
    let c := ctx s
    let k := getC c.rd 1
    let n := (getS c.rd 2).toNat
    let r := receiptOf c.pix
    Memory.wf s.mem = true ∧ (∀ e ∈ s.wings, e.2.log = none) ∧ (5#4) ≠ 0 ∧
    BySlot s ∧ hasSys c = true ∧ capCause k (capAddr k) n [pST] (worldOf s c.k) (scrWin s c.k) = none ∧ capHas k pSCRATCH = false ∧
    (capAddr k : Int) % 65536 = 0 ∧ n % 65536 = 0 ∧ n < 2 ^ 39 ∧ n / 65536 = r.lines / 512 + r.ret + 1 ∧
    scrubReach s c.k 0x40000 c.hold = .ok [(4, s2Owner s (wingOf s 0) 0x40000)] ∧ pageTiled (wingOf s c.k) 0x40000 = false ∧
    heldBack s c.k c.w.accs [(false, 0x40000, 65536)] = false ∧ acqHeld c = false ∧ NoRace s plainAccess ∧
    (∃ s' r', scrubPage (tick s) [(4, s2Owner s (wingOf s 0) 0x40000)] r = (s', r', none)) := by
  unfold BySlot
  refine ⟨by decide, by decide, by decide, by decide, by decide, by decide, by decide, by decide, by decide, by decide, by decide, by decide,
    by decide, by decide, by decide, by unfold NoRace; decide +kernel, clean_answers (scrubPage_clean rfl _ _)⟩

/-- A launch of one unit that waits in the queue of wing 0. -/
def queued : State :=
  { base with levels := tput base.levels 1 { used := true, body := .launch placeLaunch 0 none, size := 1 }, units := [], waves := [] }
/-- A wing whose Catalogue has a record that unit 1's level builds, the level as given. -/
def building (l : Level) : State :=
  let s := setRecipe base 0 0 { used := true, tile := tile, st := .building, level := 2 }
  { s with levels := tput s.levels 2 { l with used := true, body := .launch placeLaunch 0 (some 0), size := 1 } }

/-- UnitAndLevelEvents: each event enabled; a completion whose DONE is mapped and one whose page misses stage 2. -/
theorem witness_UnitAndLevelEvents :
    let quiet := setWave base 0 { waveAt base 0 with a := {}, live := 0 }
    let re := setUnit quiet 1 { unitAt quiet 1 with ending := some .relaunch }
    let t0 := freeUnit (gateUnitEnded re (unitAt re 1).waves) 1
    let i := unitInfo re (unitAt re 1)
    let node := setNode base 0 { used := true, timer := 5, bin := [⟨[], []⟩] }
    let job := setLevel base 2 { used := true, body := .job [data 1] 0 0 false }
    (∃ cand, (wingAt queued 0).used = true ∧ (wingAt queued 0).run = .running ∧ nextStart queued 0 = some cand) ∧
    ((unitAt quiet 1).used = true ∧ (wingAt quiet 0).run ≠ .swapped ∧ (unitAt quiet 1).ending ≠ some .relaunch ∧
      unitQuiet quiet (unitAt quiet 1) = true ∧ (unitAt quiet 1).ending = none ∧ (unitAt quiet 1).level ≠ 0) ∧
    ((unitAt re 1).used = true ∧ (unitAt re 1).ending = some .relaunch ∧ (wingAt re 0).run = .running ∧ unitQuiet re (unitAt re 1) = true ∧
      (unitAt re 1).level ≠ 0 ∧ ∃ p, place t0 0 { start := .launch 1, info := i, build := none, die := (unitAt re 1).die } = some p) ∧
    (let d := fun (done : Cap) (m : List Host.Cell) =>
       setLevel { base with units := [], mem := m } 1 { levelAt base 1 with retired := 1, done := done }
     let off := d (data 2) (tputBytes (mem 0 id).mem (placeTable + 0x4000) (natLe 8 0))
     (levelDone (d {} base.mem) 1 = true ∧ isBuild (levelAt (d {} base.mem) 1) = false ∧
       (match signalLevel (d {} base.mem) 1 with | .ok _ => true | .error _ => false) = true ∧
       (match signalLevel (d (data 2) (mem 0 id).mem) 1 with | .ok _ => true | .error _ => false) = true) ∧
     levelDone off 1 = true ∧ (match signalLevel off 1 with | .ok _ => false | .error _ => true) = true) ∧
    (phaseReady job 2 = true ∧ (levelAt job 2).running = 0) ∧
    ((nodeAt node 0).used = true ∧ (nodeAt node 0).timer ≠ 0 ∧ (nodeAt node 0).bin ≠ []) ∧
    ((waveAt base 0).used = true ∧ (waveAt base 0).a.st = .ready) ∧
    (let s := building { retired := 1 }
     let r := recipeAt (wingAt s 0) 0
     r.used = true ∧ r.st = .building ∧ r.level ≠ 0 ∧ (levelAt s r.level).failed = false ∧ (levelAt s r.level).cancelled = false ∧
     (levelAt s r.level).retired = (levelAt s r.level).size) ∧
    (let s := building { failed := true }
     let r := recipeAt (wingAt s 0) 0
     r.used = true ∧ r.st = .building ∧ r.level ≠ 0 ∧ (levelAt s r.level).failed = true ∧ unitsOf s r.level = [] ∧
     savedUnits s r.level = false) ∧
    ((waveAt base 0).used = true ∧ (unitAt base (waveAt base 0).unit).used = true) ∧
    (let m := withMat base fun m => { m with claims := [(15, 0)], accown := 1, waiting := [(2, .slotA, 0x8000)] }
     (alcAt m 0).wing = some 0 ∧ (wingAt m 0).run ≠ .swapped ∧ (unitAt m 1).used = true ∧ (waveAt m 0).unit = 1 ∧
     (unitAt m 1).wing = 0 ∧ (unitAt m 1).ctxid = 1) := by
  refine ⟨⟨_, by decide, by decide, rfl⟩, by decide, ⟨by decide, by decide, by decide, by decide, by decide, _, rfl⟩,
    by decide +kernel, by decide, by decide, by decide, by decide, by decide, by decide, by decide⟩

/-- A wave with one outstanding access. -/
def one (a : Access) : State := setWave (mem 0 id) 0 { waveAt (mem 0 id) 0 with accs := [a], counts := [(a.path, 1)] }

/-- PackageEvents: each event enabled. -/
theorem witness_PackageEvents :
    let ld : Access := { path := 0, kind := .loadS 2 (.mem 0x40000 0x40000 0x40000), pc := 0x10000, src := .slotA }
    let pb : Access := { path := 3, kind := .publ false 0x40000 0, pc := 0x10000, src := .slotA, engine := true }
    let dl : Access := { path := 3, kind := .bcpy (data 3) (data 3) 0, pc := 0x10000, src := .slotA, engine := true, deliv := 8, bound := some 0 }
    let st := setWing { base with units := [], waves := [] } 0 { wingAt base 0 with run := .stopping }
    let g := fun (c : Channel) => setBind base 0 { used := true, timeout := 1, channels := [(0, c)] }
    let q : SweepReq := { world := 1, wing := 0, done := {}, map := {}, start := 0, len := 0x10000, bad := false }
    let good : SweepReq := { q with done := data 2, map := data 1 }
    let old := { ld with stale := true }
    let skid := setWave base 0 { waveAt base 0 with stop := .skidding 3 }
    State.reset.up = false ∧
    (oldestIdx (waveAt (one ld) 0) 0 = some 0 ∧ (waveAt (one ld) 0).accs[0]? = some ld ∧ accReady (one ld) 0 0 ld = true ∧
      ld.stale = false ∧ (performKind (one ld) 0 0 0 ld).isSome = true) ∧
    (oldestIdx (waveAt (one old) 0) 0 = some 0 ∧ (waveAt (one old) 0).accs[0]? = some old ∧ accReady (one old) 0 0 old = true) ∧
    (oldestIdx (waveAt (one pb) 0) 3 = some 0 ∧ (waveAt (one pb) 0).accs[0]? = some pb ∧ accReady (one pb) 0 0 pb = true ∧
      pb.stale = false) ∧
    ((waveAt (one dl) 0).accs.findIdx? (fun a => a.path == 3 && a.bound.isSome && decide (0 < a.deliv)) = some 0 ∧
      (waveAt (one dl) 0).accs[0]? = some dl ∧ dl.bound = some 0 ∧
      (barDeliver (BitVec.ofNat 64 (leNat (readLoc (one dl) 0 (.scr 0) 8))) dl.deliv (dl.performed && dl.err.isSome)).isSome = true) ∧
    ((wingAt st 0).run = .stopping ∧ wingStopped st 0 = true ∧ (∀ j ∈ (wingAt st 0).alcs, (alcAt st j).shadow = none) ∧
      (wingAt st 0).used = true ∧ (∃ j ∈ wingWaves skid 0, skidding (waveAt skid j) = true)) ∧
    (let x := chanAt (bindAt (g { wait1 := [revealBy 0] }) 0) 0
     x.paired = [] ∧ x.wait0 = [] ∧ x.wait1 = [revealBy 0]) ∧
    (let x := chanAt (bindAt (g { wait0 := [revealBy 0] }) 0) 0
     (bindAt (g { wait0 := [revealBy 0] }) 0).timeout ≠ 0 ∧ x.paired = [] ∧ x.wait1 = [] ∧ x.wait0 = [revealBy 0]) ∧
    (chanAt (bindAt (g { paired := [{ op0 := revealBy 0, op1 := revealBy 16 }] }) 0) 0).paired = [{ op0 := revealBy 0, op1 := revealBy 16 }] ∧
    (base.sweep = none ∧ sweepIdle q = true ∧ sweepMapOk q = false ∧ sweepIdle good = true ∧ sweepMapOk good = true ∧
      ∃ bs, devBytes (mem 0 id) (wingAt (mem 0 id) 0) (capAddr good.map) ((good.len / 16 + 7) / 8) good.hold = .ok bs) ∧
    (1 ≤ 7 ∧ 7 ≤ 7 ∧ State.reset.up = false) ∧
    ((∃ e, capCause q.done (capAddr q.done) 8 [pST] (wingAt base 0).world 0 = some e) ∧
      capCause good.done (capAddr good.done) 8 [pST] (wingAt base 0).world 0 = none ∧
      ∃ l, devSegs (mem 0 id) (wingAt (mem 0 id) 0) (capAddr good.done) 8 true good.hold = .ok l) ∧
    (∃ c, (capTrigger base []).capPending = some c) ∧ ({ base with clockChange := some true } : State).clockChange = some true ∧
    (∀ kind ∈ [SpareKind.core, .l2Slice, .dram, .linkLane], tget 0 base.spares (spareNo kind * 1024 + sparePlace kind 0) < spareCount kind) ∧
    spareCount .core ≤ tget 0 ({ base with spares := [(0, 2)] } : State).spares (spareNo .core * 1024 + sparePlace .core 23) ∧
    spareCount .dram ≤ tget 0 ({ base with spares := tput [] (2048 + dramStack 0) 1 } : State).spares (spareNo .dram * 1024 + sparePlace .dram 0) ∧
    (let a : Assoc := { used := true, gens := [1], pending := [{ token := 7, kgen := 1, op := 3, wing := 0 }] }
     let s := setAssoc base 2 a
     (assocAt s 2).used = true ∧ (assocAt s 2).gens.contains 0 = false ∧
     ((assocAt s 2).pending.find? fun r => r.token == 7) = some { token := 7, kgen := 1, op := 3, wing := 0 }) := by
  refine ⟨by decide, by decide +kernel, by decide +kernel, by decide +kernel, by decide +kernel, by decide, by decide, by decide, by decide,
    ⟨by decide, by decide, by decide, by decide, by decide, _, rfl⟩, by decide, ⟨⟨_, rfl⟩, by decide, _, rfl⟩,
    ⟨_, rfl⟩, by decide, by decide, by decide, by decide, by decide⟩

/-- PackageEvents: an element whose count of corrected errors is one past its threshold, and one with none. -/
theorem witness_PackageEvents_spares (kind : SpareKind) (elem : Nat) :
    spareDue { base with corrected := [(elemKey kind elem, Config.correctedLimit (elemKey kind elem) + 1)] } (elemKey kind elem) = true ∧
    spareDue base (elemKey kind elem) = false := by
  constructor
  · simp [spareDue, tget, tlook]
  · simp [spareDue, base, placeWord, State.reset, tget, tlook]

/-- The device with a management association, before the host's messages. -/
def host (s : State) : State := setAssoc s 0 { used := true, manage := true, gens := [0] }
/-- A message on it for wing 0. -/
def hdr : HostHdr := { assoc := 0, token := 9, kgen := 0, wing := 0, len := 65536 }
/-- Ill-formed events: a message with a LEN above 65,536, one that carries more bytes than its LEN counts, and a step of bring-up that
is none of the seven (R418, R423). -/
theorem test_wf_refuses_events :
    let long : HostHdr := { hdr with len := 65537 }
    let short : HostHdr := { hdr with len := 15 }
    ([.hostEnq long 0 [], .hostEnqa long [] none, .hostRead long 0 0 1, .hostWrite long 0 0 [], .capw long 0 0 [],
      .hostOpcodeUnassigned long 0x0F, .wingCreate long [], .wingDestroy long, .quota long 1 default, .stage2TableWrite long 0 4 0,
      .graphCreate long 0 0 [], .jobCreate long [], .bind long default, .unbind long 0, .deal long [], .suspendBinding long 0,
      .resumeBinding long 0, .preEmptWing long, .restoreWing long 0 true, .saveOut long, .unitPreEmpt long 0, .haltResume long 0,
      .haltEnd long 0, .stage2Answer long 0 true, .poolRefill long 0 none, .wingReset long, .hostCancel long 0,
      .hostScrub long true 0 65536 0, .hostRevocationSweep long 0 [], .logEnable long 0 0 0 1024, .harvest long 0 1, .logDisable long,
      .clockRaise long 0, .keyRoll long 0, .powerCap long 0, .snapshotArm long default, .snapshotTrigger long, .snapshotReadout long,
      .hostAssociationCreate long 0 1, .hostAssociationRemove long 0, .levelClose long 0, .stage1Map long 0 0 0,
      .hostEnq short 0 (natLe 16 0), .hostEnqa short (natLe 128 0) none, .hostWrite short 0 0 (natLe 16 0), .capw short 0 0 [0],
      .wingCreate short (natLe 16 0), .jobCreate short (natLe 16 0), .deal short (natLe 16 0), .hostRevocationSweep short 0 (natLe 16 0),
      .powerOn (some (0, 0)), .powerOn (some (8, 0))] : List Instr).all (fun i => !i.wf) = true := by decide +kernel

/-- The bytes of a launch record of one unit, with its code, argument and DONE capabilities. -/
def launchBytes : List Byte :=
  (natLe 16 (1 * 2 ^ 24) ++ natLe 16 (mkCap 0x10000 0x20000 0x10000 (2 ^ pEXEC) 1 1).bits.toNat ++ natLe 16 (data 1).bits.toNat ++
    natLe 16 (data 2).bits.toNat ++ natLe 32 0 ++ natLe 32 0x0001000100010000)
/-- The bytes of a job descriptor of one phase. -/
def jobBytes : List Byte := natLe 16 1 ++ natLe 16 (data 2).bits.toNat ++ natLe 16 (data 1).bits.toNat

/-- HostWorkMessages, memory and work: a node record, a launch that is accepted and one that is refused, a read and a write of the
data, capabilities, a refill, a level and an id of none. -/
theorem witness_HostWorkMessages :
    let s := host (mem 0 id)
    let n := host nodes
    let w := wingAt s 0
    let q := fun (i : Nat) => hostCap s (BitVec.ofNat 128 (fld launchBytes (16 * i) 16))
    let c := hostCap s (data 15).bits
    let d := worldAt s w.world
    Manages s hdr ∧ Manages n hdr ∧
    (let k := nodeCap 0 0 1
     hostCap n k.bits = some k ∧ capOtype k = 2 ∧ nodeRecSize n k = 16 ∧ nodeHdrOk (natLe 16 0) = true ∧ nodeOpen n (nodeNo k) = true ∧
      binRoom n (nodeNo k) = true ∧ enqBehind n (nodeNo k) = false ∧ (natLe 16 0).length ≤ hdr.len.toNat) ∧
    (reqOf s hdr 0x03 = none ∧ NoRace s plainAccess ∧
      (let u := setWorld s 1 { worldAt s 1 with q := { (worldAt s 1).q with l2q := 3 } }
       leafBypass u (wingAt u 0) 0x40000 = false)) ∧
    (wingLives s 0 = true ∧ launchBytes.length = 128 ∧ (q 1).isSome = true ∧ (q 2).isSome = true ∧ (q 3).isSome = true ∧
      (match q 1, q 2, q 3, hostCapOr0 s (BitVec.ofNat 128 (fld launchBytes 64 16)) with
       | some code, some args, some dn, some sv => match parseLaunch s 0 true launchBytes code args dn sv with
         | .ok r => (enterLaunch s 0 r).isSome
         | .error _ => false
       | _, _, _, _ => false) = true) ∧
    (let bytes := natLe 16 0 ++ launchBytes.drop 16
     bytes.length = 128 ∧ reqOf s hdr 0x02 = none ∧ (match q 1, q 2, q 3 with
       | some code, some args, some dn => match parseLaunch s 0 true bytes code args dn {} with
         | .ok _ => false
         | .error e => (match refuseLaunch s 0 dn e .none with | .ok _ => true | .error _ => false)
       | _, _, _ => false) = true) ∧
    (d.prot && migrating s hdr (capAddr (c.getD {}) + 0) 16) = false ∧ (∃ l, hostReach s hdr c 0 4096 [pLD] false = .ok l) ∧ (worldAt s w.world).prot = false ∧
    (∃ l, hostReach s hdr c 0 16 [pST] true = .ok l) ∧ (∃ l, hostReach s hdr c 0 16 [pST, pSTC] true = .ok l) ∧
    ((∃ k, c = some k ∧ (capAddr k + 0) % 16 = 0) ∧
      ∃ cs, ((List.range 1).mapM fun i => capwImage s w (nth 0 [(data 1).bits] i) (0x40000 + 16 * i : Nat)) = some cs) ∧
    ((0x100000#48).toNat % 65536 = 0 ∧ w.pool.length + w.poolPending.length + 1 ≤ 2 ^ 20) ∧
    findLevel s (levelId s 1) = some 1 ∧ findLevel s 0 = none ∧
    (unassignedOp (0x0F#8).toNat = true ∧ unassignedOp (0x34#8).toNat = true) := by
  unfold Manages NoRace
  refine ⟨by decide, by decide, by decide +kernel, by decide +kernel, by decide +kernel, by decide +kernel, by decide, ⟨_, rfl⟩, by decide, ⟨_, rfl⟩, ⟨_, rfl⟩, ⟨⟨_, rfl, by decide +kernel⟩, _, rfl⟩,
    by decide, by decide, by decide, by decide⟩

/-- A graph of one node whose units run the wing's code. -/
def nodeSpec : NodeSpec :=
  { recSize := 16, count := 1, capacity := 1, timer := 0, prio := 0, idem := false, code := (mkCap 0x10000 0x20000 0x10000 (2 ^ pEXEC) 1 1).bits,
    args := (data 1).bits, supv := 0, seed := 0, dixb := 0, geom := 0x0001000100010000, res := 0, privsz := 0 }
/-- A block of one record of kind 5 for binding 0's dealer. -/
def dealBytes : List Byte := natLe 16 (bindCap 0 2 5 1 false).bits.toNat ++ natLe 112 1 ++ natLe 1024 0

/-- The data page under a 64 KiB leaf with RD and W. -/
def paged : State :=
  let put := fun m (e : Nat × Nat) => tputBytes m (placeTable + e.1) (natLe 8 e.2)
  { mem 0 id with mem := [(0x2000, placeTable + 0x5001), (0x5000, placeTable + 0x6001), (0x6020, 0x4000F)].foldl put (mem 0 id).mem }

/-- HostWorkMessages, the rest: a scrub of a page, a sweep, a graph, a job, a dealt block, a map request that takes no right away,
one that fails, and one that takes the right to write away. -/
theorem witness_HostWorkMessages_more :
    let s := host (mem 0 id)
    let w := wingAt s 0
    let b := setBind s 0 { used := true, wing0 := 0, wing1 := 1 }
    (65536 % 65536 = 0 ∧ 65536 ≤ 2 ^ 39 - 65536 ∧ wingLives s 0 = true ∧ reqOf s hdr 0x25 = none ∧
      (match (hostScrubGo w true 5 0x100000 1 0 (receiptOf 0) { s with retired := [(16, true)] }).2 with | .done _ => true | _ => false) = true ∧
      (match (hostScrubGo w false 0 0x40000 1 0 (receiptOf 0) { s with retired := [(4, true)] }).2 with | .done _ => true | _ => false) = true) ∧
    ((natLe 64 0).length = 64 ∧ sweepWing s hdr (1#4).toNat = some 0 ∧ s.sweepQ.length < 16) ∧
    (match hostCap s (data 2).bits, [nodeSpec].mapM (nodeInfo s 0) with
     | some d, .ok is => doneOk d w.world && match newLevel s 0 d 0 0 (.graph [] false) with
       | some (s', slot) => (allotNodes s' slot ([nodeSpec].zip is)).isSome
       | none => false
     | _, _ => false) = true ∧
    (fld jobBytes 0 2 ≠ 0 ∧ fld jobBytes 2 14 = 0 ∧ jobBytes.length = 32 + 16 * fld jobBytes 0 2 ∧
      ∃ d ps s' slot, hostCap s (BitVec.ofNat 128 (fld jobBytes 16 16)) = some d ∧ jobCaps s jobBytes = some ps ∧ doneOk d w.world = true ∧
        (∀ p ∈ ps, plainCap p w.world [pLD] = true) ∧ newLevel s 0 d 0 0 (.job ps 0 0 false) = some (s', slot)) ∧
    (let k : Cap := ⟨true, BitVec.ofNat 128 (fld dealBytes 0 16)⟩
     capOtype k = 3 ∧ (bindAt b (bindNo k)).used = true ∧ 2 ≤ bindRole k ∧ bindKind k < 6 ∧ fld dealBytes 20 108 = 0 ∧
     128 + fld dealBytes 16 4 * recSize (bindKind k) ≤ dealBytes.length) ∧
    (dealAll ⟨true, BitVec.ofNat 128 (fld dealBytes 0 16)⟩ dealBytes (fld dealBytes 16 4) 0 b).2.2 < 256 ∧
    (reqOf s hdr 0x33 = none ∧ (w.scans.find? fun z => z.host == some ((0 : Nat), hdr.token)) = none ∧ scanBusy s 0 none = false ∧
      (let m := mapReq 0x0010000000000000
       regionOk w m 0x40000 = true ∧ losesRights (tendScans s 0) w 0x40000 m = false ∧
       (match mapRun (tendScans s 0) 0 0x40000 m 0 false [] with | .status .. => true | _ => false) = true)) ∧
    (let p := host paged
     let m := mapReq 0x3010000000000000
     reqOf p hdr 0x33 = none ∧ regionOk (wingAt p 0) m 0x40000 = true ∧ scanBusy p 0 none = false ∧
     losesRights (tendScans p 0) (wingAt p 0) 0x40000 m = true ∧
     (match mapRun (tendScans p 0) 0 0x40000 m 0 false [] with
      | .status s' v => v.toNat / 2 ^ 56 == 0 && !usesPages (invalidate s' 0 0x40000 0x50000 true) 0 0x40000 0x50000
      | _ => false) = true) := by
  refine ⟨⟨by decide, by decide, by decide, by decide, by decide +kernel, by decide +kernel⟩, by decide, by decide +kernel,
    ⟨by decide, by decide, by decide, _, _, _, _, rfl, rfl, by decide +kernel, by decide +kernel, rfl⟩, by decide +kernel, by decide +kernel,
    ⟨by decide, by decide, by decide +kernel, by decide +kernel, by decide +kernel, by decide +kernel⟩, by decide +kernel⟩

/-- HostManagementMessages: each command with nothing against it; a quota that keeps every way and one that loses some. -/
theorem witness_HostManagementMessages :
    let s := host base
    let w := wingAt s 0
    let l := setWing s 0 { w with log := some ⟨0x1000, 0x2000, 0x3000, 1024⟩ }
    let sw := setAlc (setWing s 0 { w with run := .swapped }) 0 { alcAt s 0 with shadow := some (0, {}) }
    let none_ : QuotaSpec := ⟨0, 0, 0, List.replicate 16 0⟩
    let ways := setWorld s 1 { worldAt s 1 with q := { none_ with l2q := 3 } }
    let held := setUnit s 1 { unitAt s 1 with held := some (0, .slotA) }
    let two := setWing s 1 { placeWing with world := 2, party := true, alcs := [1] }
    let bs := setBind two 0 { used := true, wing0 := 0, wing1 := 1 }
    Manages s hdr ∧ Manages two hdr ∧
    (liveWorlds s).contains (1#4).toNat = true ∧ quotaStatus s 1 none_ = 0 ∧ none_.l2q ≤ 15 ∧ none_.l2p = 0 ∧
    none_.msp.length = 16 ∧ losesWays (worldAt s 1).q none_ = false ∧ losesWays (worldAt ways 1).q none_ = true ∧ quotaStatus ways 1 none_ = 0 ∧
    (wingLives s 0 = true ∧ hdr.len.toNat = 65536 ∧ reqOf s hdr 0x11 = none ∧ (wingAt (destroyWing two 1) 1).run ≠ .ending ∧
      (let d := setLevel { s with mem := tputBytes (mem 0 id).mem (placeTable + 0x4000) (natLe 8 0) } 1 { levelAt s 1 with done := data 2 }
       wingLives d 0 = true ∧ (wingAt (destroyWing d 0) 0).run = .ending)) ∧
    (let o := setWing s 0 { w with tableFrames := [] }
     match s2TableFrom o 0x40000000 2 4 1 (s2Root w) with
      | some table => entryInDram (entryAt table 2 0x40000000) && !writeLocked o (entryAt table 2 0x40000000) &&
        !s2Breaks o (writeMem o (entryAt table 2 0x40000000) (natLe 8 0))
      | none => false) = true ∧ (w.run = .running ∧ ∀ j ∈ w.alcs, (alcAt s j).shadow = none) ∧
    ((wingAt sw 0).run = .swapped ∧ inShadow sw 0 = true ∧ (restoreWing sw 0 0 true).2 = 0 ∧
      restoreRoom sw 0 0 = true ∧ sweeping sw (wingAt sw 0).world = false) ∧
    (unitByCtx s 0 1 = some 1 ∧ (unitAt s 1).held = none ∧ (unitAt s 1).ending = none ∧ (unitAt s 1).boot = none ∧
      anyHandler s (unitAt s 1).waves = false ∧ preEmptTarget s (unitAt s 1) = some (0, .slotA)) ∧
    (∃ x, (held.units.find? fun e => e.2.used && e.2.wing == 0 && e.2.ctxid == 1) = some (1, x) ∧ x.held = some (0, .slotA)) ∧
    (1024 = 2 ^ (10 + 0) ∧ 1048576 = 2 ^ (10 + 10)) ∧ ((wingAt l 0).log = some ⟨0x1000, 0x2000, 0x3000, 1024⟩ ∧ 0 + 1 ≤ 2 ^ 32) ∧
    ((bindAt bs 0).used = true ∧ bindQuiet bs 0 = true) ∧
    ((wingAt two 0).used = true ∧ (wingAt two 1).used = true ∧ (wingAt two 0).world ≠ (wingAt two 1).world ∧ (wingAt two 0).party = false ∧
      (wingAt two 1).party = true ∧ ((List.range 256).find? fun m => !(bindAt two m).used) = some 0) ∧
    (liveWorlds s).length = 1 ∧ (∃ c, ({ s with capHeld := some ⟨1, [], {}⟩ } : State).capHeld = some c) ∧
    ((assocAt s 0).used = true ∧ (assocAt s 0).gens.length < 2) ∧
    ((assocAt (setAssoc s 3 { used := true }) 3).used = true ∧ (assocAt (setAssoc s 3 { used := true }) 3).manage = false) := by
  unfold Manages
  refine ⟨by decide, by decide, by decide, by decide, by decide, by decide, by decide, by decide, by decide, by decide, by decide +kernel,
    by decide +kernel, by decide, by decide +kernel, by decide, ⟨_, rfl, by decide⟩, by decide, by decide, by decide, by decide +kernel,
    by decide, ⟨_, rfl⟩, by decide, by decide⟩

/-- RegisterOnlyFrame: the first and the last of the instructions named. -/
theorem witness_RegisterOnlyFrame :
    registerOnly (.nop true) = true ∧ registerOnly (.ctest false 2 4 6) = true := by decide

/-- StepRunsDecoded: a fetch of ENDE's word's neighbour, NOP; an event; no power. -/
theorem witness_StepRunsDecoded :
    let s := State.reset.withFetchWord 32 0x02000000
    let u : State := { s with script := s.script.tail }
    let e := { s with script := [.event .lidOverTemperature] }
    let d := { State.reset with powered := false }
    s.powered = true ∧ nextMove s = some (.issue 0 .slotA) ∧ canIssue u 0 .slotA = true ∧
    pccCause (getC (srcRead (waveAt u 0) .slotA) 31) 0x10000 = none ∧
    failedAt (fetchHold (srcHold (waveAt u 0) .slotA)) 0x10000 4 = false ∧
    (match translateAs u 0 34 0x10000 .fetch (fetchHold (srcHold (waveAt u 0) .slotA)) with
      | .ok pa ipa _ _ => pa == 0x10000 && ipa == 0x10000 | _ => false) = true ∧
    ownerBad u (wingOf u 0) 0x10000 0x10000 4 = false ∧ poisoned u 0x10000 4 = false ∧
    decodeWord (wordOfBytes (readByte u 0x10000) (readByte u 0x10001) (readByte u 0x10002) (readByte u 0x10003)) = .ok (.nop false) ∧
    (e.powered = true ∧ nextMove e = some (.event .lidOverTemperature) ∧ encode .lidOverTemperature = none) ∧
    (d.powered = false ∧ nextMove d = none) := by
  refine ⟨by decide, by decide, by decide, by decide, by decide, by decide, by decide, by decide, by decide, by decide, by decide⟩

/-- EncodeDecode: a word that decodes. -/
theorem witness_EncodeDecode : decodeWord 0x8802081A = .ok (.sadd true 2 4 6 true) ∧ (Instr.sadd true 2 4 6 true).wf = true ∧
    encode (.sadd true 2 4 6 true) = some 0x8802081A := by decide

/-- DirtyLogNeverOverflows and MemoryStaysCanonical: a state with a full ring, canonical memory, that makes a step. -/
theorem witness_Invariants :
    let s := State.reset.withFetchWord 32 0x02000000
    let l := setWing s 0 { wingAt s 0 with log := some ⟨0x100000, 0x200000, 0x300000, 1024⟩ }
    let f := { l with mem := tputBytes l.mem 0x200000 (natLe 8 1024) }
    logOverflow f = false ∧ Memory.wf f.mem = true ∧ ∃ t, step f = .next t := by
  refine ⟨by decide +kernel, by decide +kernel, _, rfl⟩

-- The spec's worked encodings.

/-- The REASON with which the scanner rejects a word, 0 for a word that it accepts (R64). -/
def reason (w : Word) : Nat := match decodeWord w with | .error r => scanCode r | .ok _ => 0

/-- The worked encodings of the sections on instruction words and on vector instructions. -/
theorem test_decode_worked_words :
    decodeWord 0x00800102 = .ok (.setm false false 0x0102) ∧ decodeWord 0x94030208 = .ok (.vadd true 3 1 2 false) ∧
    decodeWord 0x14030216 = .ok (.vadd false 3 1 5 true) ∧ decodeWord 0x02FFFFFD = .ok (.bra false 0x7FFFFD) ∧
    decodeWord 0x03100006 = .ok (.brp false 1 false 6) ∧ decodeWord 0x7105000C = .ok (.mfsr false 5 0x00C) ∧
    decodeWord 0x02000000 = .ok (.nop false) ∧ decodeWord 0x9608040C = .ok (.vmad true 8 2 3 false) ∧
    decodeWord 0x1C130814 = .ok (.vcmp false 2 3 4 5 false) ∧ decodeWord 0x1D861200 = .ok (.vmovs false 6 9) ∧
    decodeWord 0x1D820E01 = .ok (.vmovsToS false 2 7) ∧ decodeWord 0x250A080E = .ok (.vunpk false 10 4 3) ∧
    decodeWord 0x28820242 = .ok (.vbfly false 2 1 16) ∧ decodeWord 0x2B030609 = .ok (.vmxixC false 3 3 2) ∧
    decodeWord 0x2B840600 = .ok (.vreds false 4 3 false) := by decide

/-- The worked encodings of the later sections. -/
theorem test_decode_worked_memory :
    decodeWord 0x3384041C = .ok (.csetb false 4 2 7 false) ∧ decodeWord 0x330509F0 = .ok (.cinc false 5 4 0x1F0) ∧
    decodeWord 0x3686F032 = .ok (.cldc false 6 30 3 2) ∧ decodeWord 0x38011090 = .ok (.vcst false 1 2 9 0) ∧
    decodeWord 0x359E0001 = .ok (.cmovS false 30 0) ∧ decodeWord 0x4F03E842 = .ok (.bari false 3 29 4) ∧
    decodeWord 0x4F85E842 = .ok (.bara false 5 29 4) ∧ decodeWord 0x5005E842 = .ok (.barw false 5 29 4) ∧
    decodeWord 0x5086E842 = .ok (.barx false 6 29 4) ∧ decodeWord 0xC1031006 = .ok (.strl true 3 2 0 3) ∧
    decodeWord 0x08040702 = .ok (.sadd false 4 3 64 true) ∧ decodeWord 0x429D2840 = .ok (.tcpy false 29 5 4 0) ∧
    decodeWord 0x41830002 = .ok (.waitc false 3 0 0 true) ∧ decodeWord 0x3D01E800 = .ok (.ldu false 1 29 0 0) ∧
    decodeWord 0x48041017 = .ok (.aadd false 4 2 1 3 true) ∧ decodeWord 0x10010007 = .ok (.smovi false 1 7) ∧
    decodeWord 0x06000000 = .ok (.exit false) := by decide

/-- The worked encodings of shares, recipes, queues and the supervisor. -/
theorem test_decode_worked_system :
    decodeWord 0xDD840414 = .ok (.shmul true 4 2 5) ∧ decodeWord 0x5E040812 = .ok (.shtrc false 4 4 4) ∧
    decodeWord 0x5F020214 = .ok (.shcmp false 2 1 5) ∧ decodeWord 0x5C800215 = .ok (.shopn false 1 5 true) ∧
    decodeWord 0x60870A02 = .ok (.shsta false 7 5 0) ∧ decodeWord 0x60032060 = .ok (.shdeal false 3 4 6) ∧
    decodeWord 0x618230A0 = .ok (.shmma false 0 2 3 5) ∧ decodeWord 0x64032061 = .ok (.rcpdef false 3 4 6 true) ∧
    decodeWord 0x68051030 = .ok (.enq false 5 2 3 0) ∧ decodeWord 0x6C800400 = .ok (.phset false 2) ∧
    decodeWord 0x71380020 = .ok (.mfsr false 56 0x20) ∧ decodeWord 0x3EB9C3A1 = .ok (.sts false 57 24 58 1) ∧
    decodeWord 0x748300A5 = .ok (.snap false 3 0xA5) ∧ decodeWord 0x76851060 = .ok (.scrub false 5 2 6) ∧
    decodeWord 0x73851070 = .ok (.cflsh false 5 2 7 false) := by decide

/-- The words that the spec's sections say the scanner rejects, with their reasons, and two that it accepts. -/
theorem test_decode_worked_rejects :
    reason 0x80000000 = 0x02 ∧ reason 0x00810000 = 0 ∧ reason 0x00810020 = 0x04 ∧ reason 0x08460000 = 0x03 ∧ reason 0x71810000 = 0 ∧
    reason 0x7181000F = 0x09 ∧ reason 0x08000000 = 0 ∧ reason 0x288202A2 = 0x0A ∧ reason 0x1781040E = 0x08 ∧ reason 0x29C60200 = 0x03 ∧
    reason 0x359E0000 = 0x05 := by decide

-- Single steps, with the spec's own numbers.

/-- R98: PNOT p2 in the slot of lanes 0 to 15 of 0x000000FF leaves the other slot's bits. -/
theorem test_pnot :
    (getP (regs (after (.pnot true 2 2) (withW fun w => { w with a := { w.a with mask := 0xFFFF }, regs := setP w.regs 2 0xFF }))) 2) =
      0x0000FF00 := by decide

/-- SLUI builds 0x0000_1234_5678_9ABC in two steps from 0x1234; this is the second. -/
theorem test_slui : getS (regs (after (.slui true 4 0x9ABC) (withR 0 fun r => setS r 4 0x12345678))) 4 = 0x123456789ABC := by decide

/-- R24: both VADDs of the listing read the values of the run's start, so the first of two in a run leaves no trace in the
second. -/
theorem test_run_start :
    let t := after (.vadd true 4 3 3 false) { (after (.vadd false 3 1 5 true) base) with cur := ⟨0, .slotA⟩ }
    getV (regs t) 3 7 = 5 ∧ getV (regs t) 4 7 = 0 := by decide

/-- R129: F32 0x3F80_4000 to BF16 under RSR, with the two draws of the example. -/
theorem test_stochastic_rounding :
    (cvtf 0xA { mode := 5, sat := false, r := 0xC00000 } (valueOf 8 0x3F804000)).pat = 0x3F81 ∧
    (cvtf 0xA { mode := 5, sat := false, r := 0xBFFFFF } (valueOf 8 0x3F804000)).pat = 0x3F80 := by decide

/-- R137: the keys of the example, and the decoding of the greatest. -/
theorem test_keys :
    keyOf 9 0x3C00 3 = 0xBC00FFFC ∧ keyOf 9 0x3C00 5 = 0xBC00FFFA ∧ keyOf 9 0x8000 7 = 0x7FFFFFF8 ∧ keyOf 9 0 8 = 0x8000FFF7 ∧
    keyOf 9 0x7E00 9 = 0xFFFFFFF6 ∧ keyVal 9 0xBC00FFFC = 0x3C00 ∧ keyVal 9 0xFFFFFFF6 = 0x7E00 := by decide

/-- R156: VQNT of the worked case, with its flags. -/
theorem test_vqnt :
    let s := withR (mode 0x14 8) fun r => setS (setV (setV (setV (setV r 1 0 0x3FA00000) 1 1 0xC28C0000) 1 2 0x3E800000) 1 3 0x3F400000) 5 0x0370
    let t := regs (after (.vqnt true 2 1 5) s)
    [0, 1, 2, 3].map (getV t 2) = [6, 0x80, 4, 4] ∧ t.flags = fINV ||| fINX := by decide

/-- R157: VDQNT of its results under F16. -/
theorem test_vdqnt :
    let s := withR (mode 9 0x14) fun r => setS (setV (setV (setV (setV r 2 0 6) 2 1 0x80) 2 2 4) 2 3 4) 5 0x0370
    let t := regs (after (.vdqnt true 3 2 5) s)
    [0, 1, 2, 3].map (fun l => laneGet t 9 3 l) = [0x3E00, 0xD418, 0x3800, 0x3800] := by decide

/-- R158: VCBK of the example's row under F16. -/
theorem test_vcbk :
    let s := withMat (withW fun w => { w with a := { w.a with mask := 1 }, regs := { setS (setV w.regs 1 0 0x03A5) 2 0x70 with mode := mode 9 0x15 } })
      fun m => { m with cabinet := tputBytes [] 24 [0x38, 0x30, 0x40, 0x00, 0x38, 0x44, 0x30, 0x28] }
    let t := regs (after (.vcbk true 8 1 2) s)
    [8, 9, 10, 11].map (fun r => getV t r 0) = [0xB4003800, 0x00003C00, 0x3E00B800, 0x3000B400] := by decide

/-- R164: the inclusive VSCAN of 2^100, 1 and −2^100 under RNE. -/
theorem test_vscan :
    let s := withR (mode 8 0) fun r => setV (setV (setV r 1 0 0x71800000) 1 1 0x3F800000) 1 2 0xF1800000
    let t := regs (after (.vscan true 2 1 false) s)
    [0, 1, 2, 31].map (getV t 2) = [0x71800000, 0x71800000, 0x3F800000, 0x3F800000] ∧ t.flags = fINX := by decide +kernel

/-- R138, R139: the same three values in an exact-accumulator cell: bit 320 alone, which reads as 1.0. -/
theorem test_cell :
    let put := fun (c : Nat) (v : Nat) => (cellAdd c (valueOf 8 v))
    let a := put (put (put 0 0x71800000) 0x3F800000) 0xF1800000
    a = 2 ^ 320 := by decide +kernel

/-- R170, R171: the worked bounds, encoded and decoded, and the ends of the representable window. -/
theorem test_worked_bounds :
    let b := 0x4000123400
    let c := mkCap b 0x4000217640 b 0x23 0 3
    encBounds b 0x4000217640 = (5, 0x11A0, 0x7A12, b, 0x4000217640, true) ∧ c.bits.toNat / 2 ^ 64 = 0x148D07A120300023 ∧
    capBase c = b ∧ capTop c = 0x4000217640 ∧ representable c 0x4000218000 = true ∧ representable c 0x40001233F0 = false ∧
    representable c 0x4000223400 = false := by decide

/-- R189, R190: CSETB of 64 bytes, then CINC below the base and past the top. -/
theorem test_csetb_cinc :
    let b := 0x4000123400
    let s := withR 0 fun r => setS (setC r 2 (mkCap b 0x4000217640 b 0x23 0 3)) 7 64
    let k := getC (regs (after (.csetb true 4 2 7 false) s)) 4
    let t := fun (i : BitVec 9) => getC (regs (after (.cinc true 5 4 i) (withR 0 fun r => setC r 4 k))) 5
    k.tag = true ∧ capE k = 0 ∧ capB k = 0x3400 ∧ capL k = 64 ∧ (t 0x1F0).tag = false ∧ (t 80).tag = true := by decide

/-- R343: the shared product of the example, lane 0 under S32. -/
theorem test_beaver :
    opened 32 10 1 0xFFFFFFF9 3 = 0xFFFFFFFF ∧ opened 32 5 2 0xFFFFFFF9 4 = 0xFFFFFFF8 ∧
    mulShare 32 0 1 2 20 0xFFFFFFFF 0xFFFFFFF8 = 0x12 ∧ mulShare 32 1 3 4 4 0xFFFFFFFF 0xFFFFFFF8 = 0xFFFFFFE8 := by decide

/-- R258: the lanes of the AADD example return 10, 15 and 16 at the first word, 0 at the second; the words end at 18 and 7. -/
theorem test_aadd :
    let l := fun (a : Nat) => Loc.mem a a a
    let a : Access := { path := 0, kind := .atomic .add 0 4 4 [(0, l 0x40000, 5), (1, l 0x40004, 7), (2, l 0x40000, 1), (3, l 0x40000, 2)],
                        pc := 0x10000, src := .slotA, acq := true, rel := true }
    let s := withM (one a) [10]
    let t := (perform s 0 0 0).getD s
    [0, 1, 2, 3].map (getV (regs t) 4) = [10, 0, 15, 16] ∧ readNat t 0x40000 4 = 18 ∧ readNat t 0x40004 4 = 7 := by decide +kernel

/-- R415: the receipt of the example: one page retired, one line repaired, 512 lines. -/
theorem test_receipt : receiptWord { ret := 1, rep := 1, lines := 512 } = 0x0001000100000200 := by decide

/-- R305, R309: TRAP 0xBEEF enters the handler with cause 0x14 of slot A, its immediate in TRAPADDR, the next word in TRAPPC. -/
theorem test_trap :
    let t := waveAt (after (.trap true 0xBEEF) base) 0
    t.trapCause = 0x14 ∧ t.trapAddr = 0xBEEF ∧ t.trapPc = 0x10004 ∧ t.frame.isSome = true := by decide

/-- R28: the first divergence of the two-level example: lanes 16 to 31 go on at the next word with DIX 12, lanes 0 to 15 at the
target with DIX 1,048,587. -/
theorem test_divergence :
    let s := withW fun w => { w with a := { w.a with dix := 11, sj := 0x1038, sjpend := true }, regs := setP w.regs 1 0xFFFF }
    let t := waveAt (after (.brp true 1 false 9) s) 0
    t.a.mask = 0xFFFF0000 ∧ t.a.dix = 12 ∧ t.b.mask = 0xFFFF ∧ t.b.dix = 1048587 ∧ t.b.pc = 0x10024 ∧ t.divd = 1 ∧ t.jr = 0x1038 := by decide

/-- R268, R269: BARI of TGT 2, then the two arrivals of one each flip the phase at the second. -/
theorem test_barrier :
    let w := barWord { phase := false, arr := 0, tgt := 2, bytes := 0 }
    (barStep .arrive w 1).map barOf = some { phase := false, arr := 1, tgt := 2, bytes := 0 } ∧
    ((barStep .arrive w 1).bind fun v => (barStep .arrive v 1).map barOf) = some { phase := true, arr := 0, tgt := 2, bytes := 0 } := by decide

/-- R149: arithmetic at the ends: 2^31 − 1 + 1 wraps without SAT and saturates with it, setting its flag. -/
theorem test_vadd_wraps :
    let s := fun m => withR m fun r => setV (setV r 1 0 0x7FFFFFFF) 2 0 1
    getV (regs (after (.vadd true 3 1 2 false) (s 0))) 3 0 = 0x80000000 ∧
    getV (regs (after (.vadd true 3 1 2 false) (s 0x2000))) 3 0 = 0x7FFFFFFF := by decide

/-- R116: SBFX of bits 4 to 7, unsigned and signed; R113: shifts by 64 and more. -/
theorem test_scalar_edges :
    let s := withR 0 fun r => setS (setS (setS r 1 0xF0) 2 0x404) 3 64
    getS (regs (after (.sbfx true 4 1 2 false) s)) 4 = 0xF ∧ getS (regs (after (.sbfx true 4 1 2 true) s)) 4 = 0xFFFFFFFFFFFFFFFF ∧
    getS (regs (after (.sshl true 4 1 3 false) s)) 4 = 0 ∧ getS (regs (after (.ssra true 4 1 3 false) s)) 4 = 0 := by decide

/-- The step after reset is bring-up; the step after a placed word runs it. -/
theorem test_first_steps :
    (match step State.reset with | .next t => t.up | _ => false) = true ∧
    (match step (State.reset.withFetchWord 32 0x10010007) with | .next t => getS (waveAt t 0).regs 1 | _ => 0) = 7 := by decide

end Sys2Proof.Tests
end

section
/-! What the shared operations leave unchanged outside the waves, and of the waves (R5, R97, R306, R310): one lemma per
operation, and with them the three outcomes of an instruction on registers alone (a trap, its registers with the source past
its word, a wait). -/
namespace Sys2Proof.Proofs.Kept
open Sys2Proof Sys2Proof.Machine Sys2Proof.Safety Sys2Proof.Laws.Tables Sys2Proof.Laws.State Sys2Proof.Laws.Ops

/-- The parts of the state outside waves, units, alcoves, TLBs and captures are the same. -/
structure OutsideKept (s t : State) : Prop where
  mem : t.mem = s.mem
  tags : t.tags = s.tags
  owners : t.owners = s.owners
  wings : t.wings = s.wings
  worlds : t.worlds = s.worlds
  levels : t.levels = s.levels
  nodes : t.nodes = s.nodes
  bindings : t.bindings = s.bindings
  outbox : t.outbox = s.outbox

theorem OutsideKept.refl (s : State) : OutsideKept s s := ⟨rfl, rfl, rfl, rfl, rfl, rfl, rfl, rfl, rfl⟩

theorem OutsideKept.trans {s t u : State} (h : OutsideKept s t) (g : OutsideKept t u) : OutsideKept s u where
  mem := g.mem.trans h.mem
  tags := g.tags.trans h.tags
  owners := g.owners.trans h.owners
  wings := g.wings.trans h.wings
  worlds := g.worlds.trans h.worlds
  levels := g.levels.trans h.levels
  nodes := g.nodes.trans h.nodes
  bindings := g.bindings.trans h.bindings
  outbox := g.outbox.trans h.outbox

/-- What every step of a fold keeps, the fold keeps. -/
theorem OutsideKept.foldl {β : Type} {f : State → β → State} (hf : ∀ s b, OutsideKept s (f s b)) (l : List β)
    (s : State) : OutsideKept s (l.foldl f s) := by
  induction l generalizing s with
  | nil => exact .refl s
  | cons b l ih => exact (hf s b).trans (ih (f s b))

theorem outsideKept_setWave (s : State) (k : Nat) (w : Wave) : OutsideKept s (setWave s k w) :=
  ⟨rfl, rfl, rfl, rfl, rfl, rfl, rfl, rfl, rfl⟩

theorem outsideKept_setUnit (s : State) (n : Nat) (u : Machine.Unit) : OutsideKept s (setUnit s n u) :=
  ⟨rfl, rfl, rfl, rfl, rfl, rfl, rfl, rfl, rfl⟩

theorem outsideKept_dropClaims (s : State) (ks : List Nat) : OutsideKept s (dropClaims s ks) :=
  ⟨rfl, rfl, rfl, rfl, rfl, rfl, rfl, rfl, rfl⟩

theorem outsideKept_mapWaves (f : Nat → Wave → Wave) (ks : List Nat) (s : State) : OutsideKept s (mapWaves s f ks) := by
  induction ks generalizing s with
  | nil => exact .refl s
  | cons k ks ih => exact (outsideKept_setWave s k _).trans (ih _)

theorem outsideKept_capTrigger (s : State) (snaps : List (Nat × DWord × BitVec 16)) : OutsideKept s (capTrigger s snaps) := by
  unfold capTrigger
  split
  · exact ⟨rfl, rfl, rfl, rfl, rfl, rfl, rfl, rfl, rfl⟩
  · split <;> exact ⟨rfl, rfl, rfl, rfl, rfl, rfl, rfl, rfl, rfl⟩

theorem outsideKept_trapTrigger (s : State) (wing : Nat) (t : Trap) : OutsideKept s (trapTrigger s wing t) := by
  unfold trapTrigger
  split
  · exact outsideKept_capTrigger s []
  · exact .refl s

theorem outsideKept_haltUnit (s : State) (u except : Nat) : OutsideKept s (haltUnit s u except) :=
  ((outsideKept_mapWaves _ _ s).trans (outsideKept_dropClaims _ _)).trans (outsideKept_setUnit _ _ _)

theorem outsideKept_endUnit (s : State) (u : Nat) (e : UnitEnd) (cause : Nat) : OutsideKept s (endUnit s u e cause) :=
  (outsideKept_dropClaims s _).trans (outsideKept_setUnit _ _ _)

/-- A trap, a double fault too, changes only waves, units, alcoves and captures (R310, R313). -/
theorem outsideKept_takeTrap (s : State) (k : Nat) (src : Src) (t : Trap) : OutsideKept s (takeTrap s k src t) := by
  refine (outsideKept_trapTrigger s (wingNoOf s k) t).trans ?_
  dsimp only [takeTrap]
  split
  · exact outsideKept_endUnit _ _ _ _
  · exact ((outsideKept_haltUnit _ _ _).trans (outsideKept_setUnit _ _ _)).trans (outsideKept_setWave _ _ _)

-- The waves.

/-- The outstanding accesses of a wave, their counters and its deferred errors. -/
def accessState (w : Wave) : List Access × Table Nat × List ErrEntry := (w.accs, w.counts, w.errs)

/-- The registers of a wave, where its slots stand, and its trap frame. -/
def registerState (w : Wave) : RegFile × DWord × DWord × Option TrapFrame := (w.regs, w.a.pc, w.b.pc, w.frame)

/-- Every wave has its accesses, counters and deferred errors, and every wave but `k` its registers, as before. -/
structure WavesKept (k : Nat) (s t : State) : Prop where
  access : ∀ j, accessState (waveAt t j) = accessState (waveAt s j)
  others : ∀ j, j ≠ k → registerState (waveAt t j) = registerState (waveAt s j)

/-- Where another state of the own wave has the accesses of the old one, putting it keeps the waves. -/
theorem wavesKept_setWave {s : State} {k : Nat} {w : Wave} (h : accessState w = accessState (waveAt s k)) :
    WavesKept k s (setWave s k w) where
  access j := by
    rw [waveAt_setWave]
    split
    · next e => rw [h, e]
    · rfl
  others j hj := by rw [waveAt_setWave, if_neg (Ne.symm hj)]

theorem WavesKept.trans {k : Nat} {s t u : State} (h : WavesKept k s t) (g : WavesKept k t u) : WavesKept k s u where
  access j := (g.access j).trans (h.access j)
  others j hj := (g.others j hj).trans (h.others j hj)

/-- A state with the same waves. -/
theorem wavesKept_of_waves {k : Nat} {s t : State} (h : t.waves = s.waves) : WavesKept k s t where
  access j := by simp only [waveAt, h]
  others j _ := by simp only [waveAt, h]

/-- What a function of waves keeps of each wave, its application to a list of them keeps. -/
theorem waveAt_mapWaves_keeps {α : Type} (p : Wave → α) {f : Nat → Wave → Wave} (hf : ∀ k w, p (f k w) = p w)
    (ks : List Nat) (s : State) (j : Nat) : p (waveAt (mapWaves s f ks) j) = p (waveAt s j) := by
  induction ks generalizing s with
  | nil => rfl
  | cons k ks ih =>
    simp only [mapWaves, ih, waveAt_setWave]
    split
    · next e => rw [hf, e]
    · rfl

theorem haltWave_accessState (except k : Nat) (w : Wave) : accessState (haltWave except k w) = accessState w := by
  unfold haltWave
  split
  · rfl
  · dsimp only [mapSeqs]
    split <;> rfl

theorem haltWave_registerState (except k : Nat) (w : Wave) : registerState (haltWave except k w) = registerState w := by
  unfold haltWave
  split
  · rfl
  · dsimp only [mapSeqs]
    split <;> rfl

/-- A halt stops waves; it changes no register and no access (R306). -/
theorem wavesKept_haltUnit (s : State) (u except k : Nat) : WavesKept k s (haltUnit s u except) where
  access := waveAt_mapWaves_keeps accessState (haltWave_accessState except) (unitAt s u).waves s
  others j _ := waveAt_mapWaves_keeps registerState (haltWave_registerState except) (unitAt s u).waves s j

theorem cutRuns_accessState (w : Wave) : accessState (cutRuns w) = accessState w := rfl

theorem haltHolds_accessState (w : Wave) : accessState (haltHolds w) = accessState w := rfl

theorem putHold_accessState (w : Wave) (src : Src) (h : Hold) : accessState (putHold w src h) = accessState w := by
  cases src <;> rfl

/-- The trapping wave keeps its accesses in its handler. -/
theorem enterHandler_accessState (w : Wave) (src : Src) (t : Trap) : accessState (enterHandler w src t) = accessState w := by
  show accessState (cutRuns (haltHolds
    (if t.cause = 0x16 then setTrapRegs w src t else putHold (setTrapRegs w src t) src .none))) = accessState w
  rw [cutRuns_accessState, haltHolds_accessState]
  split
  · rfl
  · exact putHold_accessState _ _ _

theorem wavesKept_takeTrap (s : State) (k : Nat) (src : Src) (t : Trap) : WavesKept k s (takeTrap s k src t) := by
  obtain ⟨hw, -⟩ := trapTrigger_rest s (wingNoOf s k) t
  refine (wavesKept_of_waves hw).trans ?_
  dsimp only [takeTrap]
  split
  · exact wavesKept_of_waves rfl
  · exact ((wavesKept_haltUnit _ _ _ k).trans (wavesKept_of_waves (setUnit_waves _ _ _))).trans
      (wavesKept_setWave (enterHandler_accessState _ _ _))

theorem advance_accessState (c : Ctx) (sw : Bool) (w : Wave) : accessState (advance c sw w) = accessState w := by
  obtain ⟨h1, h2, h3⟩ := advance_accs c sw w
  simp only [accessState, h1, h2, h3]

theorem putLive_accessState (w : Wave) (src : Src) (r : RegFile) : accessState (putLive w src r) = accessState w := by
  cases src <;> rfl

theorem wavesKept_retire (s : State) (sw : Bool) (r : RegFile) : WavesKept s.cur.wave s (retire s sw r) :=
  wavesKept_setWave ((advance_accessState _ _ _).trans (putLive_accessState _ _ _))

theorem wavesKept_waitWith (s : State) (h : Hold) : WavesKept s.cur.wave s (waitWith s (ctx s) h) := by
  refine wavesKept_setWave ?_
  cases hs : (ctx s).src <;> rfl

end Sys2Proof.Proofs.Kept
end

section
/-! The instructions on registers alone: what each can do, and what it leaves unchanged (R5, R97, R174). -/
namespace Sys2Proof.Proofs.RegisterOnly
open Sys2Proof Sys2Proof.Machine Sys2Proof.Safety Sys2Proof.Laws.Ops Sys2Proof.Proofs.Kept

/-- The outcome is that of an instruction that reads and writes the registers of its source. -/
def RunsLocally (s : State) (o : Out) : Prop := ∃ sw a f, o = runLocal s sw a f

-- The shared forms of such instructions.

theorem runsLocally_scalar2 (s : State) (sw : Bool) (d a b : BitVec 7) (i : Bool) (f : DWord → DWord → DWord) :
    RunsLocally s (scalar2 s sw d a b i f) := ⟨_, _, _, rfl⟩

theorem runsLocally_predOp (s : State) (sw : Bool) (d : BitVec 7) (f : Ctx → BitVec 32) : RunsLocally s (predOp s sw d f) :=
  ⟨_, _, _, rfl⟩

theorem runsLocally_vecOp (s : State) (sw : Bool) (acc immAcc : Nat → Bool) (imm : Bool) (fs : List (BitVec 7)) (d : BitVec 7)
    (f : Ctx → Nat → Nat → Res) : RunsLocally s (vecOp s sw acc immAcc imm fs d f) := ⟨_, _, _, rfl⟩

theorem runsLocally_vec1 (s : State) (sw : Bool) (acc : Nat → Bool) (d a : BitVec 7)
    (f : Ctx → Nat → Nat → Nat → Res) : RunsLocally s (vec1 s sw acc d a f) := runsLocally_vecOp ..

theorem runsLocally_vec2 (s : State) (sw : Bool) (acc immAcc : Nat → Bool) (d a b : BitVec 7) (i : Bool)
    (f : Ctx → Nat → Nat → Nat → Nat → Res) : RunsLocally s (vec2 s sw acc immAcc d a b i f) := runsLocally_vecOp ..

theorem runsLocally_vecFn (s : State) (sw : Bool) (d a : BitVec 7) (f : Nat → Rnd → Val → Res) :
    RunsLocally s (vecFn s sw d a f) := runsLocally_vec1 ..

theorem runsLocally_vmxix (s : State) (sw : Bool) (d : BitVec 7) (f : Ctx → Nat → Nat → Nat) :
    RunsLocally s (vmxix s sw d f) := ⟨_, _, _, rfl⟩

theorem runsLocally_capGet (s : State) (sw : Bool) (d a : BitVec 7) (f : Cap → Nat) : RunsLocally s (capGet s sw d a f) :=
  ⟨_, _, _, rfl⟩

theorem runsLocally_capDerive (s : State) (sw : Bool) (d a : BitVec 7) (f : Ctx → Cap → Cap) :
    RunsLocally s (capDerive s sw d a f) := ⟨_, _, _, rfl⟩

/-- An instruction on registers alone reads and writes the registers of its source, or it is VCBK, which reads the
Cabinet of the alcove too (R158). -/
theorem exec_registerOnly {i : Instr} (s : State) (h : registerOnly i = true) :
    RunsLocally s (exec i s) ∨ ∃ sw d a b, i = .vcbk sw d a b := by
  cases i <;> simp only [registerOnly, Bool.false_eq_true] at h
  case vcbk sw d a b => exact .inr ⟨sw, d, a, b, rfl⟩
  all_goals
    refine .inl ?_
    simp only [exec]
  case sadd | ssub | smul | smulh | sand | sor | sxor | sshl | sshr | ssra | smin | smax | sbfx =>
    exact runsLocally_scalar2 ..
  case pand | por | pxor | pnot | pmov | pmovFromS | pmovMask => exact runsLocally_predOp ..
  case vabs | vneg | vnot | vmov | vclz | vpopc => exact runsLocally_vec1 ..
  case vadd | vsub | vmul | vmulh | vmad | vmin | vmax | vand | vor | vxor | vshl | vshr | vsra => exact runsLocally_vec2 ..
  case vrcp | vrsq | vex2 | vlg2 | vsqrt => exact runsLocally_vecFn ..
  case vmovImm | vmovs | vscan => exact runsLocally_vecOp ..
  case vmxix | vmxixC | vmxixD => exact runsLocally_vmxix ..
  case cgeta | cgetb | cgetl | cgetp | cgett => exact runsLocally_capGet ..
  case cseta | cinc | csetb | cprune => exact runsLocally_capDerive ..
  all_goals exact ⟨_, _, _, rfl⟩

/-- A check that traps, then a wait: what passes the check waits or goes on. -/
theorem waits_or_goes_on {bad wait : Bool} {e : Trap} {x y t : State}
    (h : (if bad then .error e else if wait then .ok x else .ok y) = (.ok t : Except Trap State)) : t = x ∨ t = y := by
  cases bad
  · cases wait
    · exact .inr (Except.ok.inj h).symm
    · exact .inl (Except.ok.inj h).symm
  · cases h

/-- VCBK traps, waits for an MCAB, or writes its registers (R158). -/
theorem exec_vcbk_cases (sw : Bool) (d a b : BitVec 7) (s : State) :
    (∃ e, exec (.vcbk sw d a b) s = .next (trapped s e)) ∨ (∃ r, exec (.vcbk sw d a b) s = .next (retire s sw r)) ∨
      exec (.vcbk sw d a b) s = .next (waitWith s (ctx s) .poll) := by
  simp only [exec, execVcbk]
  refine (runState_cases s .lanes _).imp_right ?_
  rintro ⟨t, ht, he⟩
  rw [he]
  obtain rfl | rfl := waits_or_goes_on ht
  · exact .inr rfl
  · exact .inl ⟨_, rfl⟩

/-- The three outcomes of an instruction on registers alone. -/
theorem exec_registerOnly_cases {i : Instr} (s : State) (h : registerOnly i = true) :
    (∃ e, exec i s = .next (trapped s e)) ∨ (∃ sw r, exec i s = .next (retire s sw r)) ∨
      exec i s = .next (waitWith s (ctx s) .poll) := by
  obtain ⟨sw, a, f, he⟩ | ⟨sw, d, a, b, rfl⟩ := exec_registerOnly s h
  · rw [he]
    obtain ⟨e, h⟩ | ⟨r, -, h⟩ := runLocal_cases s sw a f
    · exact .inl ⟨e, h⟩
    · exact .inr (.inl ⟨sw, r, h⟩)
  · exact (exec_vcbk_cases sw d a b s).imp_right (Or.imp_left fun ⟨r, h⟩ => ⟨sw, r, h⟩)

/-- Each outcome keeps what lies outside the waves and, of the waves, all but the registers of its own. -/
theorem exec_registerOnly_kept {i : Instr} (s : State) (h : registerOnly i = true) :
    ∃ t, exec i s = .next t ∧ OutsideKept s t ∧ WavesKept s.cur.wave s t := by
  obtain ⟨e, he⟩ | ⟨sw, r, he⟩ | he := exec_registerOnly_cases s h
  · exact ⟨_, he, outsideKept_takeTrap _ _ _ _, wavesKept_takeTrap _ _ _ _⟩
  · exact ⟨_, he, outsideKept_setWave _ _ _, wavesKept_retire _ _ _⟩
  · exact ⟨_, he, outsideKept_setWave _ _ _, wavesKept_waitWith _ _⟩

/-- Settles O54: the frame of each outcome, read field by field. -/
theorem registerOnlyFrame : Obligations.RegisterOnlyFrame := by
  intro i s h
  obtain ⟨t, he, ho, hw⟩ := exec_registerOnly_kept s h
  refine ⟨t, he, fun a => by simp only [readByte, ho.mem], ho.tags, ho.owners, ho.wings, ho.worlds, ho.levels, ho.nodes,
    ho.bindings, ho.outbox, fun k => ?_, fun k hk => ?_⟩
  · simpa only [accessState, Prod.mk.injEq] using hw.access k
  · simpa only [registerState, Prod.mk.injEq] using hw.others k hk

end Sys2Proof.Proofs.RegisterOnly
end

section
/-! How an outstanding load or store of one lane performs where nothing races with it (R202, R211, R212). -/
namespace Sys2Proof.Proofs.OneLane
open Sys2Proof Sys2Proof.Machine Sys2Proof.Safety Sys2Proof.Laws.Tables Sys2Proof.Laws.Mem Sys2Proof.Laws.State
open Sys2Proof.Laws.Ops Sys2Proof.Proofs.Kept

-- An access of a wave, and what its going on leaves.

theorem waveAt_setAcc_regs (s : State) (k i : Nat) (f : Access → Access) :
    (waveAt (setAcc s k i f) k).regs = (waveAt s k).regs := by
  simp [setAcc]

theorem setAcc_getElem? (s : State) (k i : Nat) (f : Access → Access) :
    (waveAt (setAcc s k i f) k).accs[i]? = (waveAt s k).accs[i]?.map f := by
  simp [setAcc, List.getElem?_mapIdx]

theorem completeRun_regs (w : Wave) (path n : Nat) : (completeRun w path n).regs = w.regs := by
  induction n generalizing w with
  | zero => rfl
  | succ n ih =>
    have hc : (completeAcc w path).regs = w.regs := by
      unfold completeAcc
      split <;> rfl
    unfold completeRun
    split
    · rw [ih, hc]
    · rfl

/-- The completion of accesses writes no register (R202). -/
theorem waveAt_settle_regs (s : State) (k path : Nat) : (waveAt (settle s k path) k).regs = (waveAt s k).regs := by
  simp only [settle, waveAt_setWave, if_true]
  exact completeRun_regs _ _ _

theorem outsideKept_setAcc (s : State) (k i : Nat) (f : Access → Access) : OutsideKept s (setAcc s k i f) :=
  outsideKept_setWave _ _ _

theorem outsideKept_settle (s : State) (k path : Nat) : OutsideKept s (settle s k path) := outsideKept_setWave _ _ _

/-- An access that goes on without an error changes only its wave. -/
theorem outsideKept_goOn (s : State) (k i : Nat) (kind : AccKind) (left : Bool) :
    OutsideKept s (goOn s k i kind left none) := by
  dsimp only [goOn]
  split
  · split
    · exact ((outsideKept_setAcc _ _ _ _).trans (outsideKept_setWave _ _ _)).trans (outsideKept_settle _ _ _)
    · exact (outsideKept_setAcc _ _ _ _).trans (outsideKept_settle _ _ _)
  · exact outsideKept_setAcc _ _ _ _

/-- It writes no register where it has gathered no flags (R264). -/
theorem waveAt_goOn_regs {s : State} {k i : Nat} {a : Access} (ha : (waveAt s k).accs[i]? = some a) (hf : a.fl = 0)
    (kind : AccKind) (left : Bool) : (waveAt (goOn s k i kind left none) k).regs = (waveAt s k).regs := by
  simp only [goOn, setAcc_getElem?, ha, Option.map_some, hf]
  simp [waveAt_settle_regs, waveAt_setAcc_regs]

-- One lane.

/-- An access that nothing races with leaves nothing undefined. -/
theorem races_noRace {s : State} {a : Access} (h : NoRace s a) (k : Nat) (rs : List (Bool × Nat × Nat)) :
    races s k a rs = ([], s) := by
  obtain ⟨hold, hnow⟩ := h
  have hnone : ((s.waves.filter (·.2.used)).flatMap fun e => e.2.accs.flatMap (racedBytes s k a rs e)) = [] := by
    simp only [List.flatMap_eq_nil_iff]
    intro e he b hb
    simp [racedBytes, hnow e (List.mem_filter.mp he).1 b hb]
  simp [races, hnone, hold]

/-- A lane against which nothing stands does not fail and waits for no build. -/
theorem partsOf_ok {s : State} {k : Nat} {a : Access} {wr atom : Bool} {n lane : Nat} {l : Loc}
    (h : locAns s k a wr atom l n = .ok) : partsOf s k a wr atom n [(lane, l)] = { bad := [], park := none } := by
  simp [partsOf, h]

/-- A load of one lane lands what `f` gives for it, and has performed. -/
theorem performLoad_one {s : State} {k i n lane : Nat} {a : Access} {l : Loc} (hr : NoRace s a)
    (h : locAns s k a false false l n = .ok) (kind : List (Nat × Loc) → AccKind) (f : State → Nat → Loc → List LandCell) :
    performLoad s k i 0 a n [(lane, l)] kind f =
      some (goOn (landCells (noteLanes s k a n [(lane, l)]) k i (f s lane l)) k i (kind []) false none) := by
  simp [performLoad, chosenLanes, partsOf_ok h, failing, races_noRace hr, scramble, noteFails, badErr]

/-- A store of one lane writes what `f` gives for it, and has performed. -/
theorem performStore_one {α : Type} {s : State} {k i n lane : Nat} {a : Access} {l : Loc} {v : α} (hr : NoRace s a)
    (h : locAns s k a true false l n = .ok) (kind : List (Nat × Loc × α) → AccKind) (f : State → Loc → α → State) :
    performStore s k i 0 a n [(lane, l, v)] kind f =
      some (goOn (f (noteLanes s k a n [(lane, l)]) l v) k i (kind []) false none) := by
  simp [performStore, chosenLanes, partsOf_ok h, failing, races_noRace hr, scramble, badErr]

/-- The records of strong accesses are kept beside memory and waves (R251). -/
theorem outsideKept_noteLanes (s : State) (k : Nat) (a : Access) (n : Nat) (ls : List (Nat × Loc)) :
    OutsideKept s (noteLanes s k a n ls) := by
  unfold noteLanes
  split
  · refine OutsideKept.foldl (fun s e => ?_) ls s
    split
    · split
      · exact .refl s
      · exact ⟨rfl, rfl, rfl, rfl, rfl, rfl, rfl, rfl, rfl⟩
    · exact .refl s
  · exact .refl s

@[simp] theorem waveAt_noteLanes (s : State) (k : Nat) (a : Access) (n : Nat) (ls : List (Nat × Loc)) (j : Nat) :
    waveAt (noteLanes s k a n ls) j = waveAt s j := by
  unfold noteLanes
  split
  · refine foldl_keeps (waveAt · j) _ (fun s e => ?_) ls s
    split
    · split <;> rfl
    · rfl
  · rfl

-- What a load lands.

theorem outsideKept_landCells (s : State) (k i : Nat) (cs : List LandCell) : OutsideKept s (landCells s k i cs) := by
  dsimp only [landCells]
  split
  · exact .refl s
  · exact (outsideKept_setWave _ _ _).trans (outsideKept_setAcc _ _ _ _)

/-- The access that lands cells notes them. -/
theorem landCells_getElem? {s : State} {k i : Nat} {a : Access} (ha : (waveAt s k).accs[i]? = some a) (cs : List LandCell) :
    (waveAt (landCells s k i cs) k).accs[i]? = some { a with landed := a.landed ++ cs.map (·.1) } := by
  simp [landCells, ha, setAcc_getElem?]

/-- A cell of a live wave that no later access has landed is written (R26). -/
theorem landCells_one_regs {s : State} {k i cell : Nat} {a : Access} {f : RegFile → RegFile}
    (ha : (waveAt s k).accs[i]? = some a) (hw : waveEnded (waveAt s k) = false)
    (hl : laterLanded (waveAt s k) i a.path cell = false) :
    (waveAt (landCells s k i [(cell, f)]) k).regs = keepWindow (waveAt s k) (f (waveAt s k).regs) := by
  simp [landCells, ha, hw, hl, waveAt_setAcc_regs, putLive, isSeq]

/-- The window of a tether is in the V registers (R43). -/
theorem keepWindow_s_p_c (w : Wave) (r : RegFile) :
    (keepWindow w r).s = r.s ∧ (keepWindow w r).p = r.p ∧ (keepWindow w r).c = r.c := by
  unfold keepWindow
  split <;> exact ⟨rfl, rfl, rfl⟩

-- What a store writes.

/-- A write that no wing logs is not logged (R413). -/
theorem logWrite_noLog {s : State} (h : ∀ e ∈ s.wings, e.2.log = none) (pa : Nat) : logWrite s pa = s := by
  unfold logWrite
  generalize s.wings = ws at h
  induction ws with
  | nil => rfl
  | cons e ws ih =>
    simp only [List.foldl_cons, h e List.mem_cons_self]
    exact ih fun e he => h e (List.mem_cons_of_mem _ he)

theorem logChange_noLog {s : State} (h : ∀ e ∈ s.wings, e.2.log = none) (pa : Nat) (bs : List Byte) :
    logChange s pa bs = s := by
  unfold logChange
  split
  · rfl
  · simp only [logWrite_noLog h, ite_self]

theorem keepImage_tags (s : State) (line : Nat) : (keepImage s line).tags = s.tags := by
  unfold keepImage
  split <;> rfl

theorem keepImage_waves (s : State) (line : Nat) : (keepImage s line).waves = s.waves := by
  unfold keepImage
  split <;> rfl

/-- Bytes written at an address: they stand in memory, and the tags of their granules are cleared (R174). -/
structure BytesPut (s t : State) (pa : Nat) (bs : List Byte) : Prop where
  mem : t.mem = tputBytes s.mem pa bs
  tags : t.tags = (granulesOf pa bs.length).foldl (fun g n => tdel g n) s.tags
  owners : t.owners = s.owners

/-- What happens outside memory before and after the bytes are written does not matter to them. -/
theorem BytesPut.between {s s' t t' : State} {pa : Nat} {bs : List Byte} (h : BytesPut s' t pa bs) (hs : OutsideKept s s')
    (ht : OutsideKept t t') : BytesPut s t' pa bs where
  mem := by rw [ht.mem, h.mem, hs.mem]
  tags := by rw [ht.tags, h.tags, hs.tags]
  owners := by rw [ht.owners, h.owners, hs.owners]

theorem bytesPut_pokeMem (s : State) (pa : Nat) (bs : List Byte) : BytesPut s (pokeMem s pa bs) pa bs where
  mem := pokeMem_mem s pa bs
  tags := congrArg (List.foldl _ · _) (foldl_keeps State.tags keepImage keepImage_tags _ s)
  owners := pokeMem_owners s pa bs

/-- A write that no wing logs puts its bytes, whether it stays in the L2 or is served to DRAM (R363). -/
theorem bytesPut_writeVia {s : State} (h : ∀ e ∈ s.wings, e.2.log = none) (thru : Bool) (pa : Nat) (bs : List Byte) :
    BytesPut s (writeVia s thru pa bs) pa bs := by
  unfold writeVia
  split
  · rw [writeThru, logChange_noLog h]
    exact ⟨rfl, rfl, rfl⟩
  · rw [writeMem, logChange_noLog h]
    exact bytesPut_pokeMem s pa bs

/-- It changes no wave. -/
theorem writeVia_waves {s : State} (h : ∀ e ∈ s.wings, e.2.log = none) (thru : Bool) (pa : Nat) (bs : List Byte) :
    (writeVia s thru pa bs).waves = s.waves := by
  unfold writeVia
  split
  · rw [writeThru, logChange_noLog h]
    rfl
  · rw [writeMem, logChange_noLog h]
    exact foldl_keeps State.waves keepImage keepImage_waves _ s

theorem BytesPut.readByte {s t : State} {pa : Nat} {bs : List Byte} (h : BytesPut s t pa bs) (hm : Memory.wf s.mem = true)
    (x : Nat) : readByte t x = if pa ≤ x ∧ x < pa + bs.length then bs.getD (x - pa) 0 else readByte s x := by
  simp only [Machine.readByte, h.mem]
  exact tget_tputBytes hm pa x bs

-- The accesses.

/-- An access that is ready and stands where it was located performs by its kind. -/
theorem perform_ready {s : State} {k i : Nat} {a : Access} (ha : (waveAt s k).accs[i]? = some a)
    (hr : accReady s k i a = true) (hs : a.stale = false) (n : Nat) : perform s k i n = performKind s k i n a := by
  simp [perform, ha, hr, hs]

/-- A wave-uniform load that performs writes its S register alone. -/
theorem performKind_loadS {s : State} {k i t va pa ipa : Nat} {a : Access} (ha : (waveAt s k).accs[i]? = some a)
    (hf : a.fl = 0) (hr : NoRace s a) (hk : a.kind = .loadS t (.mem va pa ipa))
    (hl : locAns s k a false false (.mem va pa ipa) 8 = .ok) (hw : waveEnded (waveAt s k) = false)
    (hc : laterLanded (waveAt s k) i a.path (cellS t) = false) :
    ∃ s', performKind s k i 0 a = some s' ∧
      (waveAt s' k).regs = keepWindow (waveAt s k) (setS (waveAt s k).regs t (BitVec.ofNat 64 (leNat (readMem s pa 8)))) ∧
      OutsideKept s s' := by
  simp only [performKind, hk, performLoad_one hr hl]
  refine ⟨_, rfl, ?_, ?_⟩
  · rw [waveAt_goOn_regs (landCells_getElem? (by rwa [waveAt_noteLanes]) _) hf]
    rw [landS, landCells_one_regs (by rwa [waveAt_noteLanes]) (by rwa [waveAt_noteLanes]) (by rwa [waveAt_noteLanes]),
      waveAt_noteLanes]
    rfl
  · exact ((outsideKept_noteLanes _ _ _ _ _).trans (outsideKept_landCells _ _ _ _)).trans (outsideKept_goOn _ _ _ _ _)

/-- A store of one lane that performs, where no wing keeps a dirty log, puts its bytes and writes no register. -/
theorem performKind_store {s : State} {k i lane va pa ipa : Nat} {bs : List Byte} {a : Access}
    (ha : (waveAt s k).accs[i]? = some a) (hf : a.fl = 0) (hr : NoRace s a)
    (hk : a.kind = .store [(lane, .mem va pa ipa, bs)]) (hg : ∀ e ∈ s.wings, e.2.log = none)
    (hl : locAns s k a true false (.mem va pa ipa) bs.length = .ok) :
    ∃ s', performKind s k i 0 a = some s' ∧ BytesPut s s' pa bs ∧ (waveAt s' k).regs = (waveAt s k).regs := by
  simp only [performKind, hk, List.head?_cons, Option.map_some, Option.getD_some, performStore_one hr hl, writeLoc]
  have hn := outsideKept_noteLanes s k a bs.length [(lane, .mem va pa ipa)]
  have hw : waveAt (noteLanes s k a bs.length [(lane, .mem va pa ipa)]) k = waveAt s k := waveAt_noteLanes ..
  generalize noteLanes s k a bs.length [(lane, .mem va pa ipa)] = u at hn hw
  have hu : ∀ e ∈ u.wings, e.2.log = none := by rwa [hn.wings]
  have hv : waveAt (writeVia u (bypassed u k va) pa bs) k = waveAt s k := by rw [waveAt, writeVia_waves hu, ← hw, waveAt]
  refine ⟨_, rfl, (bytesPut_writeVia hu _ pa bs).between hn (outsideKept_goOn _ _ _ _ _), ?_⟩
  rw [waveAt_goOn_regs (by rwa [hv]) hf, hv]

/-- Settles O31: the load and the store of one lane. -/
theorem accessesPerform : Obligations.AccessesPerform := by
  intro s k i t lane va pa ipa bs a ha hr hs hf hn
  rw [perform_ready ha hr hs]
  refine ⟨fun hk hl hw hc => ?_, fun hk hm hg hl => ?_⟩
  · obtain ⟨s', hp, hregs, ho⟩ := performKind_loadS ha hf hn hk hl hw hc
    obtain ⟨h1, h2, h3⟩ := keepWindow_s_p_c (waveAt s k) (setS (waveAt s k).regs t (BitVec.ofNat 64 (leNat (readMem s pa 8))))
    refine ⟨s', hp, ?_, ?_, ?_, ho.mem, ho.tags⟩
    · rw [hregs, h1, setS_s]
    · rw [hregs, h2, setS_p]
    · rw [hregs, h3, setS_c]
  · obtain ⟨s', hp, hb, hregs⟩ := performKind_store ha hf hn hk hg hl
    exact ⟨s', hp, hb.readByte hm, hb.tags, hregs, hb.owners⟩

end Sys2Proof.Proofs.OneLane
end

section
/-! The step of an issue and the words of the encoding tables (R2, R48, R49, R68, R424). -/
namespace Sys2Proof.Proofs.StepWord
open Sys2Proof Sys2Proof.Machine Sys2Proof.Safety

/-- Four bytes of memory, read as one number, are the word that they stand for (R2, R48). -/
theorem ofNat_readNat_four (s : State) (pa : Nat) : BitVec.ofNat 32 (readNat s pa 4) =
    wordOfBytes (readByte s pa) (readByte s (pa + 1)) (readByte s (pa + 2)) (readByte s (pa + 3)) := by
  have hr : readMem s pa 4 = [readByte s pa, readByte s (pa + 1), readByte s (pa + 2), readByte s (pa + 3)] := rfl
  simp only [readNat, hr, leNat, wordOfBytes]
  congr 1
  omega

/-- A fetch that passes its checks gives the word at the physical address (R68, R227). -/
theorem fetch_word {s : State} {k pa ipa e sh : Nat} {src : Src}
    (hp : pccCause (getC (srcRead (waveAt s k) src) 31) (srcPc (waveAt s k) src).toNat = none)
    (hf : failedAt (fetchHold (srcHold (waveAt s k) src)) (srcPc (waveAt s k) src).toNat 4 = false)
    (ht : translateAs s k 34 (srcPc (waveAt s k) src).toNat .fetch (fetchHold (srcHold (waveAt s k) src)) = .ok pa ipa e sh)
    (ho : ownerBad s (wingOf s k) pa ipa 4 = false) (hu : poisoned s pa 4 = false) :
    fetch s k src = .word (wordOfBytes (readByte s pa) (readByte s (pa + 1)) (readByte s (pa + 2)) (readByte s (pa + 3)))
      (noteFetch s k (srcPc (waveAt s k) src).toNat (.ok pa ipa e sh)) := by
  simp [fetch, hp, hf, ht, ho, hu, ofNat_readNat_four]

/-- An issue executes the instruction that its word decodes to. -/
theorem issueStep_word {s t : State} {k : Nat} {src : Src} {w : Word} {i : Instr} (hf : fetch s k src = .word w t)
    (hd : decodeWord w = .ok i) : issueStep k src s =
      closeMove s (afterIssue k src (srcHold (waveAt s k) src) i) (exec i { t with cur := ⟨k, src⟩ }) := by
  simp [issueStep, hf, hd]

/-- A device with power runs its next move. -/
theorem step_powered {s : State} {m : Move} (hp : s.powered = true) (hm : nextMove s = some m) :
    step s = runMove m { s with script := s.script.tail } := by
  simp [step, hm, hp]

/-- A device without power makes no move but POWER_ON (R424). -/
theorem step_noPower {s : State} (hp : s.powered = false) (hm : ∀ m, nextMove s = some m → isPowerOn m = false) :
    step s = .fault .noPower := by
  unfold step
  split
  · next m h => simp [hp, hm m h]
  · simp [hp]

/-- Settles O55: the next move, its fetch and its decoding, one after the other. -/
theorem stepRunsDecoded : Obligations.StepRunsDecoded := by
  intro s k pa ipa e sh src i u pc
  refine ⟨fun hp hm hi hc hf ht ho hu hd => ?_, fun hp hm he => ?_, step_noPower⟩
  · rw [step_powered hp hm]
    show (if canIssue u k src then issueStep k src u else .next u) = _
    rw [if_pos hi, issueStep_word (fetch_word hc hf ht ho hu) hd]
  · rw [step_powered hp hm]
    simp [runMove, he, u]

/-- Settles O57: the decoder evaluated on each word. -/
theorem decodeWords : Obligations.DecodeWords := by
  unfold Obligations.DecodeWords
  decide

end Sys2Proof.Proofs.StepWord
end

section
/-! Bring-up: the first move of a device with power, and all that it leaves (R417, R423). With no wing, wave, unit, level and node
and no command under way, what follows a move changes nothing but the counters of the model (log 4). -/
namespace Sys2Proof.Proofs.BringUp
open Sys2Proof Sys2Proof.Machine Sys2Proof.Laws.Mem Sys2Proof.Laws.State Sys2Proof.Proofs.StepWord

-- What follows a move, where there is nothing to tend.

/-- A device without wings keeps no dirty log (R413). -/
theorem logOverflow_of_noWings {s : State} (h : s.wings = []) : logOverflow s = false := by
  simp [logOverflow, h]

theorem wakeBars_of_noWaves {s : State} (h : s.waves = []) : wakeBars s = s := by
  simp [wakeBars, h]

theorem tendPosts_of_noLevels {s : State} (h : s.levels = []) : tendPosts s = s := by
  simp [tendPosts, h]

theorem tendBoots_of_noUnits {s : State} (h : s.units = []) : tendBoots s = s := by
  simp [tendBoots, bootWaiters, h]

theorem tendPorts_of_noNodes {s : State} (h : s.nodes = []) : tendPorts s = s := by
  simp [tendPorts, h]

theorem endWings_of_noWings {s : State} (h : s.wings = []) : endWings s = s := by
  simp [endWings, h]

/-- Nothing on the device goes on by itself: no wave, unit, level, node or wing, and no command of the host under way. -/
structure NothingToTend (s : State) : Prop where
  waves : s.waves = []
  units : s.units = []
  levels : s.levels = []
  nodes : s.nodes = []
  wings : s.wings = []
  pending : ∀ e ∈ s.assocs, e.2.pending = []

/-- A fold whose every step keeps the state it starts from gives that state. -/
theorem foldl_eq_self {α β : Type} {f : α → β → α} {a : α} {l : List β} (h : ∀ b ∈ l, f a b = a) : l.foldl f a = a :=
  List.foldlRecOn (motive := (· = a)) l f rfl fun _ hc b hb => hc ▸ h b hb

theorem hostTick_of_nothingToTend {s : State} (h : NothingToTend s) : hostTick s = s := by
  rw [hostTick, foldl_eq_self fun e he => by simp [h.pending e he]]
  simp only [tendPorts_of_noNodes h.nodes, endWings_of_noWings h.wings]

theorem tend_of_nothingToTend {s : State} (h : NothingToTend s) : tend s = { tick s with turn := s.turn + 1 } := by
  simp only [tend, wakeBars_of_noWaves h.waves, tendPosts_of_noLevels h.levels, h.wings, List.map_nil, List.foldl_nil,
    tendBoots_of_noUnits h.units, hostTick_of_nothingToTend h, tick_turn]

theorem afterMove_of_nothingToTend (before : State) {s : State} (h : NothingToTend s) :
    afterMove before s = { tick s with turn := s.turn + 1 } := by
  have hover : logOverflow (tend s) = false := logOverflow_of_noWings (by rw [tend_of_nothingToTend h]; exact h.wings)
  rw [afterMove, logOverflow_of_noWings h.wings, hover, Bool.or_self, if_neg Bool.false_ne_true, tend_of_nothingToTend h]

-- Bring-up.

/-- The device as the whole of bring-up leaves it (R423): its management associations are there and the ready record is sent. -/
def broughtUp (s : State) : State := emit { bringBase s with up := true, assocs := managePorts } .ready

theorem exec_powerOn_whole {s : State} (h : s.up = false) : exec (.powerOn none) s = .next (broughtUp s) := by
  simp [exec, execPowerOn, broughtUp, stepOk, h]

/-- An association that bring-up creates is in use, for management, and has no command under way (R417). -/
theorem managePorts_mem {e : Nat × Assoc} (h : e ∈ managePorts) :
    e.2.used = true ∧ e.2.manage = true ∧ e.2.pending = [] := by
  simp only [managePorts, List.mem_cons, List.not_mem_nil, or_false] at h
  obtain rfl | rfl | rfl | rfl := h <;> exact ⟨rfl, rfl, rfl⟩

theorem nothingToTend_broughtUp (s : State) : NothingToTend (broughtUp s) :=
  ⟨rfl, rfl, rfl, rfl, rfl, fun _ he => (managePorts_mem he).2.2⟩

/-- A device that has power and is not up brings itself up, unless bring-up has failed (R423). -/
theorem nextMove_bringUp {s : State} (hs : s.script = []) (hp : s.powered = true) (hu : s.up = false)
    (hf : s.failedStep = none) : nextMove s = some (.event (.powerOn none)) := by
  simp [nextMove, defaultMove, hs, hp, hu, hf]

/-- The step of bring-up: the device as bring-up leaves it, one move later. -/
theorem step_bringUp {s : State} (hs : s.script = []) (hp : s.powered = true) (hu : s.up = false)
    (hf : s.failedStep = none) :
    step s = .next { tick (broughtUp { s with script := [] }) with turn := s.turn + 1 } := by
  have hx : exec (.powerOn none) { s with script := [] } = .next (broughtUp { s with script := [] }) := exec_powerOn_whole hu
  have hw : encode (.powerOn none) = none := rfl
  rw [step_powered hp (nextMove_bringUp hs hp hu hf), hs, List.tail_nil]
  simp only [runMove, hw, Option.isSome_none, Bool.false_eq_true, if_false, hx, closeMove, id_eq,
    afterMove_of_nothingToTend _ (nothingToTend_broughtUp _)]
  rfl

/-- Settles O60: the empty state field by field, and bring-up as its first step. -/
theorem resetState : Obligations.ResetState := by
  refine ⟨rfl, rfl, rfl, rfl, rfl, rfl, rfl, rfl, rfl, rfl, rfl, fun _ => rfl, wf_reset, logOverflow_of_noWings rfl,
    _, step_bringUp rfl rfl rfl rfl, rfl, rfl, rfl, logOverflow_of_noWings rfl, rfl, List.cons_ne_nil _ _, fun e he => ?_⟩
  obtain ⟨hused, hmanage, -⟩ := managePorts_mem he
  exact ⟨hused, hmanage⟩

end Sys2Proof.Proofs.BringUp
end

section
/-! The rules of a slot's moves: what a source reads of the slot that executes, what a control transfer and a retirement leave in
each field of the wave (R21, R23, R97), and the other slot as it was. -/
namespace Sys2Proof.Proofs.Slots
open Sys2Proof Sys2Proof.Machine Sys2Proof.Safety Sys2Proof.Laws.Tables Sys2Proof.Laws.State Sys2Proof.Laws.Ops

-- Outcomes.

/-- An instruction whose meaning is a trap takes it. -/
theorem runState_error {s : State} {a : Where} {f : Ctx → Except Trap State} {e : Trap} (ha : allowed a (ctx s).src = true)
    (h : f (ctx s) = .error e) : runState s a f = .next (trapped s e) := by simp [runState, ha, h, trapped]

theorem runLocal_error {s : State} {sw : Bool} {a : Where} {f : Ctx → Except Trap RegFile} {e : Trap}
    (ha : allowed a (ctx s).src = true) (h : f (ctx s) = .error e) : runLocal s sw a f = .next (trapped s e) := by
  simp [runLocal, ha, h, trapped]

-- Slots.

/-- A slot depends on the slots of the wave alone. -/
theorem slotOf_congr {w v : Wave} (ha : w.a = v.a) (hb : w.b = v.b) (x : Src) : slotOf w x = slotOf v x := by
  cases x <;> simp only [slotOf, ha, hb]

@[simp] theorem slotOf_putSlot_self (w : Wave) (x : Src) (y : Slot) : slotOf (putSlot w x y) x = y := by cases x <;> rfl

theorem slotOf_putSlot_other {x : Src} (h : isSeq x = false) (w : Wave) (y : Slot) :
    slotOf (putSlot w x y) (otherSrc x) = slotOf w (otherSrc x) := by
  cases x with
  | slotA | slotB => rfl
  | _ => cases h

theorem slotOf_putSlot_of_other {x : Src} (h : isSeq x = false) (w : Wave) (y : Slot) :
    slotOf (putSlot w (otherSrc x) y) x = slotOf w x := by
  cases x with
  | slotA | slotB => rfl
  | _ => cases h

/-- What does not tell the two slots apart may name either of them as the first. -/
theorem slots_comm {β : Type} {f : Slot → Slot → β} (hf : ∀ x y, f x y = f y x) {x : Src} (h : isSeq x = false) (w : Wave) :
    f (slotOf w x) (slotOf w (otherSrc x)) = f w.a w.b := by
  cases x with
  | slotA => rfl
  | slotB => exact hf ..
  | _ => cases h

/-- A property of both slots. -/
theorem both_slots {P : Slot → Prop} {x : Src} (h : isSeq x = false) {w : Wave} (hx : P (slotOf w x))
    (hy : P (slotOf w (otherSrc x))) : P w.a ∧ P w.b :=
  (slots_comm (f := fun a b => P a ∧ P b) (fun _ _ => propext and_comm) h w).mp ⟨hx, hy⟩

/-- A property of the other slot is one of slot A or of slot B. -/
theorem some_slot {P : Slot → Prop} {x : Src} (h : isSeq x = false) {w : Wave} (hy : P (slotOf w (otherSrc x))) :
    P w.a ∨ P w.b :=
  (slots_comm (f := fun a b => P a ∨ P b) (fun _ _ => propext or_comm) h w).mp (.inr hy)

/-- What a source reads of itself, where it is a slot. -/
theorem srcPc_slot {x : Src} (h : isSeq x = false) (w : Wave) : srcPc w x = (slotOf w x).pc := by simp [srcPc, h]
theorem srcDix_slot {x : Src} (h : isSeq x = false) (w : Wave) : srcDix w x = (slotOf w x).dix := by simp [srcDix, h]

-- Control transfers.

/-- A branch target as a number: pc + 4 × DISP (R50). -/
theorem target_eq {n : Nat} (pc : DWord) (d : BitVec n) : target pc d = pc + BitVec.ofInt 64 (4 * d.toInt) := by
  rw [target, BitVec.ofInt_mul]; rfl

section goTo
variable (c : Ctx) (pc : DWord) (w : Wave)

/-- A slot that has gone to an address: one DIX further, with no hold, progress and run (R23). -/
def movedSlot (x : Slot) : Slot :=
  { x with pc := pc, dix := c.dix + 1, pix := 0, prog := none, hold := .none, snap := none }

theorem slotOf_goTo_self (h : isSeq c.src = false) : slotOf (goTo c pc w) c.src = movedSlot c pc (slotOf w c.src) := by
  rw [goTo, if_neg (by rw [h]; exact Bool.false_ne_true)]
  exact (slotOf_congr rfl rfl _).trans (slotOf_putSlot_self ..)

theorem srcPc_goTo : srcPc (goTo c pc w) c.src = pc := by
  cases hs : c.src <;> simp [goTo, srcPc, hs, isSeq, putSeq, putSlot, seqOf, slotOf]

@[simp] theorem goTo_regs : (goTo c pc w).regs = w.regs := by cases hs : c.src <;> simp [goTo, hs, isSeq]
@[simp] theorem goTo_live : (goTo c pc w).live = w.live := by cases hs : c.src <;> simp [goTo, hs, isSeq]
@[simp] theorem goTo_divd : (goTo c pc w).divd = w.divd := by cases hs : c.src <;> simp [goTo, hs, isSeq]
@[simp] theorem goTo_frame : (goTo c pc w).frame = w.frame := by cases hs : c.src <;> simp [goTo, hs, isSeq]
theorem seqOf_goTo (h : isSeq c.src = false) (q : Src) : seqOf (goTo c pc w) q = seqOf w q := by
  cases hs : c.src <;> cases q <;> simp_all [goTo, isSeq, seqOf]
end goTo

end Sys2Proof.Proofs.Slots
end

section
/-! Wave control: plain moves, the divergence engine and its stack, EXIT (R28, R30, R102 to R108). Each instruction has one equation
for each of its cases, with the wave that it leaves as a definition. -/
namespace Sys2Proof.Proofs.WaveFlow
open Sys2Proof Sys2Proof.Machine Sys2Proof.Safety Sys2Proof.Laws.Tables Sys2Proof.Laws.State Sys2Proof.Laws.Ops
open Sys2Proof.Proofs.Slots Sys2Proof.Proofs.Kept

-- NOP, BRA, SJOIN and YIELD.

theorem exec_nop (s : State) (sw : Bool) : exec (.nop sw) s = .next (retire s sw (ctx s).live) := by
  simp only [exec, execNop]
  exact runLocal_ok rfl rfl

theorem exec_bra (s : State) (sw : Bool) (j : BitVec 23) : exec (.bra sw j) s = .next (jumped s (target (ctx s).pc j)) := by
  simp only [exec, execBra]
  exact runState_ok rfl rfl

theorem exec_sjoin {s : State} (h : BySlot s) (sw : Bool) (j : BitVec 23) :
    exec (.sjoin sw j) s = .next (setWave s (ctx s).k (advance (ctx s) sw (putSlot (ctx s).w (ctx s).src
      { slotOf (ctx s).w (ctx s).src with sj := target (ctx s).pc j, sjpend := true }))) := by
  simp only [exec, execSjoin]
  exact runState_ok (allowed_slot h _) rfl

theorem exec_yield {s : State} (h : BySlot s) (sw : Bool) :
    exec (.yield sw) s = .next (withNextKey (setWave s (ctx s).k
      (withKey (goTo (ctx s) ((ctx s).pc + 4) (ctx s).w) s.nextKey)) (s.nextKey + 1)) := by
  simp only [exec, execYield]
  exact runState_ok (allowed_slot h _) rfl

/-- Settles O5, each instruction by its equation. -/
theorem plainFlow : Obligations.PlainFlow := by
  intro s sw j
  refine ⟨exec_nop s sw, ?_, fun h => ?_, fun h => exec_yield h sw⟩
  · rw [exec_bra, target_eq]
  · rw [exec_sjoin h, target_eq]

-- BRP whose lanes agree.

/-- The lanes for which a BRP branches: p, inverted where the word says so (R106). -/
def branchLanes (c : Ctx) (p : BitVec 3) (n : Bool) : BitVec 32 := if n then ~~~(getP c.rd p.toNat) else getP c.rd p.toNat

theorem exec_brp_none {s : State} {p : BitVec 3} {n : Bool} (sw : Bool) (j : BitVec 19)
    (h : (ctx s).mask &&& branchLanes (ctx s) p n = 0) : exec (.brp sw p n j) s = .next (jumped s ((ctx s).pc + 4)) := by
  simp only [exec, execBrp]
  exact runState_ok rfl (if_pos h)

theorem exec_brp_all {s : State} {p : BitVec 3} {n : Bool} (sw : Bool) (j : BitVec 19)
    (ht : (ctx s).mask &&& branchLanes (ctx s) p n ≠ 0)
    (hf : (ctx s).mask &&& ~~~(branchLanes (ctx s) p n) = 0 ∨ isSeq (ctx s).src = true) :
    exec (.brp sw p n j) s = .next (jumped s (target (ctx s).pc j)) := by
  simp only [exec, execBrp]
  exact runState_ok rfl ((if_neg ht).trans (if_pos (by simpa [branchLanes] using hf)))

/-- Settles O6: of the lanes of MASK none branches, or all do, or a sequencer branches as one lane. -/
theorem uniformBranch : Obligations.UniformBranch := by
  intro s sw n p j
  refine ⟨exec_brp_none sw j, fun ht hf => ?_⟩
  rw [← target_eq]
  exact exec_brp_all sw j ht hf

-- Divergence.

section Diverged
variable (c : Ctx) (pv : BitVec 32) (dest : DWord)

/-- The slot that takes the lanes that branch (R28). -/
def branchedSlot : Slot :=
  { pc := dest, mask := c.mask &&& pv, dix := BitVec.ofNat 48 (c.dix.toNat + 2 ^ 20), st := .ready,
    sj := (slotOf c.w (otherSrc c.src)).sj }

/-- The wave after a divergence under the branch lanes `pv` (R28): the executing slot falls through with its other lanes, the
other slot branches, one more divergence is open, and JR is the pending join address or NOJOIN. -/
def divergedWave : Wave :=
  let w := goTo c (c.pc + 4) c.w
  let w := putSlot w c.src { slotOf w c.src with mask := c.mask &&& ~~~pv, sjpend := false }
  let w := putSlot w (otherSrc c.src) (branchedSlot c pv dest)
  { w with divd := w.divd + 1, jr := if (slotOf c.w c.src).sjpend then (slotOf c.w c.src).sj else Config.noJoin }

theorem slotOf_divergedWave_self (h : isSeq c.src = false) :
    slotOf (divergedWave c pv dest) c.src =
      { movedSlot c (c.pc + 4) (slotOf c.w c.src) with mask := c.mask &&& ~~~pv, sjpend := false } := by
  rw [← slotOf_goTo_self c _ _ h]
  exact (slotOf_congr rfl rfl _).trans ((slotOf_putSlot_of_other h ..).trans (slotOf_putSlot_self ..))

theorem slotOf_divergedWave_other :
    slotOf (divergedWave c pv dest) (otherSrc c.src) = branchedSlot c pv dest :=
  (slotOf_congr rfl rfl _).trans (slotOf_putSlot_self ..)

@[simp] theorem divergedWave_divd : (divergedWave c pv dest).divd = c.w.divd + 1 := by simp [divergedWave]
@[simp] theorem divergedWave_regs : (divergedWave c pv dest).regs = c.w.regs := by simp [divergedWave]
end Diverged

section brp
variable {s : State} {p : BitVec 3} {n : Bool} (sw : Bool) (j : BitVec 19) (hslot : BySlot s)
  (hf : (ctx s).mask &&& ~~~(branchLanes (ctx s) p n) ≠ 0)
include hslot hf

/-- A BRP of a slot whose lanes disagree does what the divergence engine does. -/
theorem brp_lanes_disagree :
    ¬ (decide ((ctx s).mask &&& ~~~(branchLanes (ctx s) p n) = 0) || isSeq (ctx s).src) = true := by
  have hsrc : isSeq (ctx s).src = false := hslot
  simp only [hf, hsrc, decide_false, Bool.or_false, Bool.false_eq_true, not_false_eq_true]

variable (ht : (ctx s).mask &&& branchLanes (ctx s) p n ≠ 0)
include ht

/-- A divergence beyond the depth (R28, R108). -/
theorem exec_brp_overdeep (hd : 1 ≤ (ctx s).w.divd) (hdeep : depthOf s (ctx s) + 1 ≤ (ctx s).w.divd) :
    exec (.brp sw p n j) s = .next (trapped s { cause := 0x0C }) := by
  simp only [exec, execBrp]
  refine runState_error rfl ((if_neg ht).trans ((if_neg (brp_lanes_disagree hslot hf)).trans (if_pos ?_)))
  simp only [hd, Nat.lt_succ_of_le hdeep, decide_true, Bool.and_self]

/-- A first divergence. -/
theorem exec_brp_first (hd : (ctx s).w.divd = 0) :
    exec (.brp sw p n j) s =
      .next (setWave s (ctx s).k (divergedWave (ctx s) (branchLanes (ctx s) p n) (target (ctx s).pc j))) := by
  have hnone : ¬ 1 ≤ (ctx s).w.divd := by omega
  simp only [exec, execBrp]
  refine runState_ok rfl ((if_neg ht).trans ((if_neg (brp_lanes_disagree hslot hf)).trans
    ((if_neg ?_).trans ((if_neg ?_).trans (if_neg hnone)))))
  all_goals simp only [hnone, decide_false, Bool.false_and, Bool.false_eq_true, not_false_eq_true]

/-- A nested divergence writes the other slot and the old JR as its record (R30). -/
theorem exec_brp_nested {l : List (Nat × Nat)} (hd : 1 ≤ (ctx s).w.divd) (hdeep : (ctx s).w.divd ≤ depthOf s (ctx s))
    (hfree : underWay (slotOf (ctx s).w (otherSrc (ctx s).src)).hold = false)
    (hl : recordSegs s (ctx s).k (ctx s).w (ctx s).w.divd true (ctx s).hold = .ok l) :
    exec (.brp sw p n j) s = .next (setWave
      (writePieces s (wingOf s (ctx s).k) (recordVa (ctx s).w.regs (ctx s).w.divd).toNat l
        (natLe 48 (recordNat (slotOf (ctx s).w (otherSrc (ctx s).src)) (ctx s).w.jr))) (ctx s).k
      (divergedWave (ctx s) (branchLanes (ctx s) p n) (target (ctx s).pc j))) := by
  have hroom : ¬ depthOf s (ctx s) + 1 < (ctx s).w.divd + 1 := by omega
  simp only [exec, execBrp]
  refine runState_ok rfl ((if_neg ht).trans ((if_neg (brp_lanes_disagree hslot hf)).trans
    ((if_neg ?_).trans ((if_neg ?_).trans ((if_pos hd).trans ?_)))))
  · simp only [hroom, decide_false, Bool.and_false, Bool.false_eq_true, not_false_eq_true]
  · simp only [hfree, Bool.and_false, Bool.false_eq_true, not_false_eq_true]
  · rw [hl]
    rfl

end brp

/-- Settles O7: beyond the depth a trap; else the wave of `divergedWave`, with a record where a divergence was open. -/
theorem divergence : Obligations.Divergence := by
  intro s sw n p j
  dsimp only
  intro hslot ht hf
  have hsrc : isSeq (ctx s).src = false := hslot
  have hself := slotOf_divergedWave_self (ctx s) (branchLanes (ctx s) p n) (target (ctx s).pc j) hslot
  have hother := slotOf_divergedWave_other (ctx s) (branchLanes (ctx s) p n) (target (ctx s).pc j)
  refine ⟨fun hd hdeep => exec_brp_overdeep sw j hslot hf ht hd hdeep,
    fun hd => ⟨_, exec_brp_first sw j hslot hf ht hd, ?_, rfl⟩,
    fun l hd hdeep hfree hl => ⟨_, exec_brp_nested sw j hslot hf ht hd hdeep hfree hl, ?_, rfl⟩⟩
  all_goals
    rw [waveAt_setWave, if_pos rfl, hself, hother, ← target_eq]
    exact ⟨rfl, rfl, rfl, rfl, rfl, rfl, rfl, rfl, rfl, rfl, divergedWave_divd .., rfl, divergedWave_regs ..⟩

-- The close of a divergence.

/-- The lanes of the parked slots (R28). -/
def parkedMask (w : Wave) : BitVec 32 :=
  (if w.a.st = .parked then w.a.mask else 0) ||| (if w.b.st = .parked then w.b.mask else 0)

/-- The larger DIX of the parked slots. -/
def parkedDix (w : Wave) : Nat :=
  max (if w.a.st = .parked then w.a.dix.toNat else 0) (if w.b.st = .parked then w.b.dix.toNat else 0)

/-- The lanes and the DIX of the parked slots, from the side of either slot. -/
theorem parkedMask_slots {x : Src} (h : isSeq x = false) (w : Wave) : parkedMask w =
    (if (slotOf w x).st = .parked then (slotOf w x).mask else 0) |||
      (if (slotOf w (otherSrc x)).st = .parked then (slotOf w (otherSrc x)).mask else 0) :=
  (slots_comm (f := fun a b => (if a.st = .parked then a.mask else 0) ||| (if b.st = .parked then b.mask else 0))
    (fun _ _ => BitVec.or_comm ..) h w).symm

theorem parkedDix_slots {x : Src} (h : isSeq x = false) (w : Wave) : parkedDix w =
    max (if (slotOf w x).st = .parked then (slotOf w x).dix.toNat else 0)
      (if (slotOf w (otherSrc x)).st = .parked then (slotOf w (otherSrc x)).dix.toNat else 0) :=
  (slots_comm (f := fun a b => max (if a.st = .parked then a.dix.toNat else 0) (if b.st = .parked then b.dix.toNat else 0))
    (fun _ _ => Nat.max_comm ..) h w).symm

/-- Slot A where a divergence closes: with the lanes of the parked slots at the word past the join address (R28). -/
def joinedSlot (w : Wave) : Slot :=
  { w.a with mask := parkedMask w, pc := w.jr + 4, dix := BitVec.ofNat 48 (parkedDix w + 1), st := .ready, snap := none,
             hold := .none }

/-- Slot B as a record `r` gives it, without the lanes that have exited and those of slot A (R28). -/
def poppedSlot (live m : BitVec 32) (r : Nat) : Slot :=
  let y := (recordSlot r).1
  let bm := y.mask &&& live &&& ~~~m
  { y with mask := bm, st := if bm = 0 then .free else y.st }

/-- A wave with no open divergence, or with a READY slot, stays as it is. -/
theorem resolve_idle {w : Wave} (h : w.divd = 0 ∨ w.a.st = .ready ∨ w.b.st = .ready) (s : State) (k : Nat) (hold : Hold)
    (n : Nat) : resolve s k hold n w = .ok w := by
  cases n with
  | zero => rfl
  | succ n => exact if_pos (by simpa [or_assoc] using h)

section resolve
variable {w : Wave} (hready : w.a.st ≠ .ready ∧ w.b.st ≠ .ready) (hm : parkedMask w ≠ 0) (s : State) (k n : Nat)
  (hold : Hold)
include hready

/-- With no READY slot an open divergence closes. -/
theorem resolve_open (hd : w.divd ≠ 0) :
    ¬ (decide (w.divd = 0) || decide (w.a.st = .ready) || decide (w.b.st = .ready)) = true := by
  simp [hready, hd]

include hm

/-- The only open divergence closes. -/
theorem resolve_last (hd : w.divd = 1) :
    resolve s k hold (n + 1) w = .ok { w with
      a := joinedSlot w, b := { w.b with mask := 0, st := .free, snap := none }, divd := 0, jr := Config.noJoin } := by
  unfold parkedMask at hm
  rw [resolve, if_neg (resolve_open hready (by omega))]
  simp only [if_pos hm, hd, Nat.sub_self, if_true]
  exact resolve_idle (.inl rfl) _ _ _ _

/-- The innermost of several open divergences closes. -/
theorem resolve_inner {d : Nat} {l : List (Nat × Nat)} (hd : w.divd = d + 1) (h1 : 1 ≤ d)
    (hl : recordSegs s k w d false hold = .ok l) :
    let r := leNat (l.flatMap fun p => readMem s p.1 p.2)
    resolve s k hold (n + 1) w = .ok { w with
      a := joinedSlot w, b := poppedSlot w.live (parkedMask w) r, divd := d, jr := (recordSlot r).2 } := by
  have h0 : d ≠ 0 := by omega
  unfold parkedMask at hm
  rw [resolve, if_neg (resolve_open hready (by omega))]
  simp only [if_pos hm, hd, Nat.add_sub_cancel, if_neg h0, hl]
  exact resolve_idle (.inr (.inl rfl)) _ _ _ _
end resolve

-- What follows a wave that goes on, and one that ends.

theorem waveEnded_eq_false {w : Wave} (h : w.a.st ≠ .free ∨ w.b.st ≠ .free ∨ w.divd ≠ 0) : waveEnded w = false := by
  simp only [waveEnded, Bool.and_eq_false_iff, decide_eq_false_iff_not]
  tauto

theorem afterEnd_setWave_running (s : State) (k : Nat) {w : Wave} (h : waveEnded w = false) :
    afterEnd (setWave s k w) k = setWave s k w := by
  rw [afterEnd, waveAt_setWave, if_pos rfl]
  exact if_pos (by rw [show waveEnded (endRegs w) = false from h]; rfl)

/-- A wave that is no tether and has none: its claims are released and its registers exist no more (R96, R274). -/
theorem afterEnd_setWave_ended (s : State) (k : Nat) {w : Wave} (h : waveEnded w = true) (ht : w.tethSlot = none)
    (hn : w.tether = false) : afterEnd (setWave s k w) k = setWave (releaseAll (setWave s k w) k) k (endRegs w) := by
  have hend : waveEnded (endRegs w) = true := h
  have hteth : (endRegs w).tethSlot = none := ht
  have hown : (endRegs w).tether = false := hn
  simp only [afterEnd, waveAt_setWave, if_true, hend, hteth, hown, Bool.not_true, Bool.false_eq_true, if_false]

/-- A release of claims changes only the alcoves. -/
theorem outsideKept_releaseAll (s : State) (k : Nat) : OutsideKept s (releaseAll s k) := by
  dsimp only [releaseAll]
  split
  · exact ⟨rfl, rfl, rfl, rfl, rfl, rfl, rfl, rfl, rfl⟩
  · exact .refl s

theorem resolveInto_of_running {s : State} {c : Ctx} {w w' : Wave} (h : resolve s c.k c.hold 258 w = .ok w')
    (hrun : waveEnded w' = false) : resolveInto s c w = .ok (setWave s c.k w') := by
  rw [resolveInto, h]
  exact congrArg Except.ok (afterEnd_setWave_running s c.k hrun)

-- JOIN.

section parked
variable (c : Ctx)

/-- The wave after a JOIN at the join address has parked its slot (R28). -/
def parkedWave : Wave :=
  { putSlot c.w c.src { slotOf c.w c.src with st := .parked, pix := 0, prog := none, snap := none, hold := .none } with
    lastSlot := c.src = .slotB }

@[simp] theorem parkedWave_divd : (parkedWave c).divd = c.w.divd := putSlot_divd ..
@[simp] theorem parkedWave_jr : (parkedWave c).jr = c.w.jr := putSlot_jr ..
@[simp] theorem parkedWave_regs : (parkedWave c).regs = c.w.regs := putSlot_regs ..
@[simp] theorem parkedWave_live : (parkedWave c).live = c.w.live := putSlot_live ..
@[simp] theorem parkedWave_accs : (parkedWave c).accs = c.w.accs := putSlot_accs ..

/-- It holds a record at the same place as before. -/
theorem recordSegs_parkedWave (s : State) (k d : Nat) (wr : Bool) (h : Hold) :
    recordSegs s k (parkedWave c) d wr h = recordSegs s k c.w d wr h := by
  simp only [recordSegs, parkedWave_regs, parkedWave_accs]

theorem slotOf_parkedWave_self : slotOf (parkedWave c) c.src =
    { slotOf c.w c.src with st := .parked, pix := 0, prog := none, snap := none, hold := .none } :=
  (slotOf_congr rfl rfl _).trans (slotOf_putSlot_self ..)

variable {c} (h : isSeq c.src = false)
include h

theorem slotOf_parkedWave_other : slotOf (parkedWave c) (otherSrc c.src) = slotOf c.w (otherSrc c.src) :=
  (slotOf_congr rfl rfl _).trans (slotOf_putSlot_other h ..)

/-- The lanes of the parked slots are those of the slot that joins and, where it is parked, of the other one. -/
theorem parkedMask_parkedWave : parkedMask (parkedWave c) = (slotOf c.w c.src).mask |||
    (if (slotOf c.w (otherSrc c.src)).st = .parked then (slotOf c.w (otherSrc c.src)).mask else 0) := by
  rw [parkedMask_slots h, slotOf_parkedWave_self, slotOf_parkedWave_other h]
  rfl

theorem parkedDix_parkedWave : parkedDix (parkedWave c) = max (slotOf c.w c.src).dix.toNat
    (if (slotOf c.w (otherSrc c.src)).st = .parked then (slotOf c.w (otherSrc c.src)).dix.toNat else 0) := by
  rw [parkedDix_slots h, slotOf_parkedWave_self, slotOf_parkedWave_other h]
  rfl

/-- Neither slot is READY where the other one was not. -/
theorem parkedWave_notReady (hy : (slotOf c.w (otherSrc c.src)).st ≠ .ready) :
    (parkedWave c).a.st ≠ .ready ∧ (parkedWave c).b.st ≠ .ready :=
  both_slots (P := fun x => x.st ≠ .ready) h (by rw [slotOf_parkedWave_self]; nofun) (by rwa [slotOf_parkedWave_other h])

theorem parkedWave_ready (hy : (slotOf c.w (otherSrc c.src)).st = .ready) :
    (parkedWave c).a.st = .ready ∨ (parkedWave c).b.st = .ready :=
  some_slot (P := fun x => x.st = .ready) h (by rwa [slotOf_parkedWave_other h])
end parked

section join
variable {s : State} (h : BySlot s) (sw : Bool)
include h

theorem exec_join_away (ha : (ctx s).w.divd = 0 ∨ (ctx s).pc ≠ (ctx s).w.jr) :
    exec (.join sw) s = .next (jumped s ((ctx s).pc + 4)) := by
  simp only [exec, execJoin]
  exact runState_ok (allowed_slot h _) (if_pos (by simpa using ha))

variable (hpc : (ctx s).pc = (ctx s).w.jr)
include hpc

/-- A JOIN at the join address gives what resolve makes of the parked slot. -/
theorem exec_join_resolve (hd : (ctx s).w.divd ≠ 0) {w : Wave}
    (hw : resolve s (ctx s).k (ctx s).hold 258 (parkedWave (ctx s)) = .ok w) (hrun : waveEnded w = false) :
    exec (.join sw) s = .next (setWave s (ctx s).k w) := by
  have hat : ¬ (decide ((ctx s).w.divd = 0) || decide ((ctx s).pc ≠ (ctx s).w.jr)) = true := by simp [hpc, hd]
  simp only [exec, execJoin]
  exact runState_ok (allowed_slot h _) ((if_neg hat).trans (resolveInto_of_running hw hrun))

/-- With a READY other slot the JOIN only parks. -/
theorem exec_join_parks (hd : (ctx s).w.divd ≠ 0) (hy : (slotOf (ctx s).w (otherSrc (ctx s).src)).st = .ready) :
    exec (.join sw) s = .next (setWave s (ctx s).k (parkedWave (ctx s))) :=
  exec_join_resolve h sw hpc hd (resolve_idle (.inr (parkedWave_ready (c := ctx s) h hy)) _ _ _ _)
    (waveEnded_eq_false (.inr (.inr (by rwa [parkedWave_divd]))))

variable (hy : (slotOf (ctx s).w (otherSrc (ctx s).src)).st ≠ .ready) (hm : parkedMask (parkedWave (ctx s)) ≠ 0)
include hy hm

/-- Else it closes the only open divergence. -/
theorem exec_join_last (hd : (ctx s).w.divd = 1) :
    let w := parkedWave (ctx s)
    exec (.join sw) s = .next (setWave s (ctx s).k { w with
      a := joinedSlot w, b := { w.b with mask := 0, st := .free, snap := none }, divd := 0, jr := Config.noJoin }) :=
  exec_join_resolve h sw hpc (by omega)
    (resolve_last (parkedWave_notReady (c := ctx s) h hy) hm s _ 257 _ ((parkedWave_divd _).trans hd))
    (waveEnded_eq_false (.inl nofun))

/-- Or the innermost of several, from its record. -/
theorem exec_join_inner {d : Nat} {l : List (Nat × Nat)} (hd : (ctx s).w.divd = d + 1) (h1 : 1 ≤ d)
    (hl : recordSegs s (ctx s).k (ctx s).w d false (ctx s).hold = .ok l) :
    let w := parkedWave (ctx s)
    let r := leNat (l.flatMap fun p => readMem s p.1 p.2)
    exec (.join sw) s = .next (setWave s (ctx s).k { w with
      a := joinedSlot w, b := poppedSlot w.live (parkedMask w) r, divd := d, jr := (recordSlot r).2 }) :=
  exec_join_resolve h sw hpc (by omega)
    (resolve_inner (parkedWave_notReady (c := ctx s) h hy) hm s _ 257 _ ((parkedWave_divd _).trans hd) h1
      (by rwa [recordSegs_parkedWave])) (waveEnded_eq_false (.inl nofun))
end join

-- EXIT.

section exitWaves
variable (c : Ctx)

/-- The wave without the lanes that an EXIT's guard selects (R28). -/
def exitedWave : Wave := { c.w with live := c.w.live &&& ~~~(guardOf c) }

/-- The lanes that an EXIT leaves its slot. -/
def lanesLeft : BitVec 32 := (slotOf (exitedWave c) c.src).mask &&& ~~~(guardOf c)

/-- The wave whose slot has some lanes left: it goes on with them. -/
def remainingWave : Wave :=
  let w := goTo c (c.pc + 4) (exitedWave c)
  putSlot w c.src { slotOf w c.src with mask := lanesLeft c }

/-- The wave whose slot has no lane left: the slot is FREE. -/
def leftWave : Wave :=
  { putSlot (exitedWave c) c.src
      { slotOf (exitedWave c) c.src with
        mask := lanesLeft c, st := .free, pix := 0, prog := none, snap := none, hold := .none } with
    lastSlot := c.src = .slotB }

theorem slotOf_exitedWave (x : Src) : slotOf (exitedWave c) x = slotOf c.w x := slotOf_congr rfl rfl x

theorem lanesLeft_eq : lanesLeft c = (slotOf c.w c.src).mask &&& ~~~(guardOf c) := by rw [lanesLeft, slotOf_exitedWave]

@[simp] theorem leftWave_divd : (leftWave c).divd = c.w.divd := putSlot_divd ..
@[simp] theorem leftWave_jr : (leftWave c).jr = c.w.jr := putSlot_jr ..
@[simp] theorem leftWave_regs : (leftWave c).regs = c.w.regs := putSlot_regs ..
@[simp] theorem leftWave_counts : (leftWave c).counts = c.w.counts := putSlot_counts ..
@[simp] theorem leftWave_tethSlot : (leftWave c).tethSlot = c.w.tethSlot := putSlot_tethSlot ..
@[simp] theorem leftWave_tether : (leftWave c).tether = c.w.tether := putSlot_tether ..
@[simp] theorem leftWave_live : (leftWave c).live = c.w.live &&& ~~~(guardOf c) := putSlot_live ..

theorem slotOf_leftWave_self : slotOf (leftWave c) c.src = { slotOf (exitedWave c) c.src with
    mask := lanesLeft c, st := .free, pix := 0, prog := none, snap := none, hold := .none } :=
  (slotOf_congr rfl rfl _).trans (slotOf_putSlot_self ..)

theorem slotOf_leftWave_other (h : isSeq c.src = false) : slotOf (leftWave c) (otherSrc c.src) = slotOf c.w (otherSrc c.src) :=
  (slotOf_congr rfl rfl _).trans ((slotOf_putSlot_other h ..).trans (slotOf_exitedWave ..))

theorem slotOf_remainingWave (h : isSeq c.src = false) : slotOf (remainingWave c) c.src =
    { movedSlot c (c.pc + 4) (slotOf c.w c.src) with mask := lanesLeft c } := by
  rw [remainingWave, slotOf_putSlot_self, slotOf_goTo_self _ _ _ h, slotOf_exitedWave]

@[simp] theorem remainingWave_live : (remainingWave c).live = c.w.live &&& ~~~(guardOf c) := by simp [remainingWave, exitedWave]
@[simp] theorem remainingWave_regs : (remainingWave c).regs = c.w.regs := by simp [remainingWave, exitedWave]

/-- A READY other slot is one of the two. -/
theorem leftWave_ready (h : isSeq c.src = false) (hy : (slotOf c.w (otherSrc c.src)).st = .ready) :
    (leftWave c).a.st = .ready ∨ (leftWave c).b.st = .ready :=
  some_slot (P := fun x => x.st = .ready) h (by rwa [slotOf_leftWave_other c h])

/-- With a FREE other slot both are. -/
theorem leftWave_free (h : isSeq c.src = false) (hy : (slotOf c.w (otherSrc c.src)).st = .free) :
    (leftWave c).a.st = .free ∧ (leftWave c).b.st = .free :=
  both_slots (P := fun x => x.st = .free) h (by rw [slotOf_leftWave_self]) (by rwa [slotOf_leftWave_other c h])
end exitWaves

section exit
variable {s : State} (h : BySlot s) (sw : Bool) (hframe : (ctx s).w.frame = none)
include h hframe

/-- An EXIT that leaves the slot some lanes goes on with them. -/
theorem exec_exit_some (hm : lanesLeft (ctx s) ≠ 0) :
    exec (.exit sw) s = .next (setWave s (ctx s).k (remainingWave (ctx s))) := by
  have hf : ¬ (ctx s).w.frame.isSome = true := by simp [hframe]
  simp only [exec, execExit]
  exact runState_ok (allowed_slot h _) ((if_neg hf).trans (if_neg hm))

/-- An EXIT that leaves it none, where no divergence closes, gives what follows the FREE slot. -/
theorem exec_exit_last (hm : lanesLeft (ctx s) = 0)
    (hidle : (ctx s).w.divd = 0 ∨ (slotOf (ctx s).w (otherSrc (ctx s).src)).st = .ready) :
    exec (.exit sw) s = .next (afterEnd (setWave s (ctx s).k (leftWave (ctx s))) (ctx s).k) := by
  have hf : ¬ (ctx s).w.frame.isSome = true := by simp [hframe]
  have hres : resolve s (ctx s).k (ctx s).hold 258 (leftWave (ctx s)) = .ok (leftWave (ctx s)) :=
    resolve_idle (hidle.imp (leftWave_divd _).trans (leftWave_ready (ctx s) h)) _ _ _ _
  have hinto : resolveInto s (ctx s) (leftWave (ctx s)) =
      .ok (afterEnd (setWave s (ctx s).k (leftWave (ctx s))) (ctx s).k) := by rw [resolveInto, hres]
  simp only [exec, execExit]
  exact runState_ok (allowed_slot h _) ((if_neg hf).trans ((if_pos hm).trans hinto))

/-- With a READY other slot the slot alone ends. -/
theorem exec_exit_slot (hm : lanesLeft (ctx s) = 0) (hy : (slotOf (ctx s).w (otherSrc (ctx s).src)).st = .ready) :
    exec (.exit sw) s = .next (setWave s (ctx s).k (leftWave (ctx s))) := by
  have hrun : waveEnded (leftWave (ctx s)) = false := by
    refine waveEnded_eq_false ((leftWave_ready (ctx s) h hy).imp (fun ha => ?_) fun hb => .inl ?_)
    · rw [ha]; nofun
    · rw [hb]; nofun
  rw [exec_exit_last h sw hframe hm (.inr hy), afterEnd_setWave_running s _ hrun]

/-- With a FREE other slot and no divergence open the wave ends. -/
theorem exec_exit_wave (hm : lanesLeft (ctx s) = 0) (hy : (slotOf (ctx s).w (otherSrc (ctx s).src)).st = .free)
    (hd : (ctx s).w.divd = 0) (hteth : (ctx s).w.tethSlot = none) (hown : (ctx s).w.tether = false) :
    exec (.exit sw) s = .next (setWave (releaseAll (setWave s (ctx s).k (leftWave (ctx s))) (ctx s).k) (ctx s).k
      (endRegs (leftWave (ctx s)))) := by
  obtain ⟨ha, hb⟩ := leftWave_free (ctx s) h hy
  have hend : waveEnded (leftWave (ctx s)) = true := by simp [waveEnded, ha, hb, hd]
  rw [exec_exit_last h sw hframe hm (.inl hd), afterEnd_setWave_ended s _ hend ((leftWave_tethSlot _).trans hteth)
    ((leftWave_tether _).trans hown)]
end exit

/-- Settles O8: each clause is one equation of JOIN or EXIT, and the wave that it leaves read field by field. -/
theorem joinAndExit : Obligations.JoinAndExit := by
  intro s sw
  dsimp only
  intro hslot
  have hsrc : isSeq (ctx s).src = false := hslot
  rw [← lanesLeft_eq]
  refine ⟨exec_join_away hslot sw, fun hframe hm => ⟨_, exec_exit_some hslot sw hframe hm, ?_⟩, fun hd hpc hy hm => ?_,
    fun d l hd h1 hpc hy hm hl => ?_, fun hd hpc hy => ⟨_, exec_join_parks hslot sw hpc (by omega) hy, ?_⟩,
    fun hframe hm hy => ⟨_, exec_exit_slot hslot sw hframe hm hy, ?_⟩,
    fun hframe hm hy hd hteth hown => ⟨_, exec_exit_wave hslot sw hframe hm hy hd hteth hown, ?_⟩⟩
  · rw [waveAt_setWave, if_pos rfl, slotOf_remainingWave _ hsrc]
    exact ⟨rfl, rfl, remainingWave_live _, remainingWave_regs _, rfl⟩
  · have hmask : parkedMask (parkedWave (ctx s)) = (ctx s).w.a.mask ||| (ctx s).w.b.mask := by
      rw [parkedMask_parkedWave hsrc, if_pos hy]
      exact slots_comm (f := fun x y => x.mask ||| y.mask) (fun _ _ => BitVec.or_comm ..) hsrc _
    have hdix : parkedDix (parkedWave (ctx s)) = max (ctx s).w.a.dix.toNat (ctx s).w.b.dix.toNat := by
      rw [parkedDix_parkedWave hsrc, if_pos hy]
      exact slots_comm (f := fun x y => max x.dix.toNat y.dix.toNat) (fun _ _ => Nat.max_comm ..) hsrc _
    refine ⟨_, exec_join_last hslot sw hpc (by rw [hy]; nofun) (hmask ▸ hm) hd, ?_⟩
    rw [waveAt_setWave, if_pos rfl, ← hdix]
    exact ⟨rfl, hmask, congrArg (· + 4) (parkedWave_jr _), rfl, rfl, rfl, rfl⟩
  · rw [← parkedMask_parkedWave hsrc] at hm ⊢
    rw [← parkedDix_parkedWave hsrc]
    refine ⟨_, exec_join_inner hslot sw hpc hy hm hd h1 hl, ?_⟩
    rw [waveAt_setWave, if_pos rfl, parkedWave_live]
    exact ⟨rfl, rfl, congrArg (· + 4) (parkedWave_jr _), rfl, rfl, rfl, rfl, rfl, rfl, rfl, rfl, rfl, parkedWave_regs _, rfl⟩
  · rw [waveAt_setWave, if_pos rfl, slotOf_parkedWave_self, slotOf_parkedWave_other hsrc]
    exact ⟨rfl, rfl, (srcPc_slot hsrc _).symm, (srcDix_slot hsrc _).symm, rfl, parkedWave_divd _, parkedWave_jr _,
      parkedWave_regs _, parkedWave_live _, rfl⟩
  · rw [waveAt_setWave, if_pos rfl, slotOf_leftWave_self, slotOf_leftWave_other _ hsrc]
    exact ⟨rfl, hm, leftWave_live _, rfl, leftWave_divd _, leftWave_jr _, leftWave_regs _, rfl⟩
  · obtain ⟨ha, hb⟩ := leftWave_free _ hsrc hy
    rw [waveAt_setWave, if_pos rfl]
    exact ⟨ha, hb, (leftWave_divd _).trans hd, leftWave_live _, rfl, rfl, rfl, rfl, rfl, leftWave_counts _,
      (outsideKept_releaseAll (setWave s _ _) (ctx s).k).mem⟩

end Sys2Proof.Proofs.WaveFlow
end

section
/-! The supervisor's instructions: SRET and HALT (R313, R325, R328), and the system registers and progress indices that MFSR, MTSR,
PIXRD and PIXWR read and write (R69, R70, R309, R326, R327). -/
namespace Sys2Proof.Proofs.Supervisor
open Sys2Proof Sys2Proof.Machine Sys2Proof.Safety Sys2Proof.Laws.Tables Sys2Proof.Laws.State Sys2Proof.Laws.Ops
open Sys2Proof.Proofs.Slots Sys2Proof.Proofs.Kept

-- Supervisor instructions.

section runSys
variable {s : State} (h : BySlot s) (hs : hasSys (ctx s) = true) {f : Ctx → Except Trap State}
include h hs

theorem runSys_ok {t : State} (hf : f (ctx s) = .ok t) : runSys s f = .next t :=
  (runSys_sys hs f).trans (runState_ok (allowed_slot h _) hf)

theorem runSys_error {e : Trap} (hf : f (ctx s) = .error e) : runSys s f = .next (trapped s e) :=
  (runSys_sys hs f).trans (runState_error (allowed_slot h _) hf)
end runSys

-- The resumption of a unit (R308).

/-- A property of a wave that its own application of a function keeps, the function's application to a list of waves keeps. -/
theorem waveAt_mapWaves_invariant {P : Wave → Prop} {f : Nat → Wave → Wave} {j : Nat} (hf : ∀ w, P w → P (f j w))
    (ks : List Nat) (s : State) (h : P (waveAt s j)) : P (waveAt (mapWaves s f ks) j) := by
  induction ks generalizing s with
  | nil => exact h
  | cons k ks ih =>
    refine ih _ ?_
    rw [waveAt_setWave]
    split
    · next e => exact e ▸ hf _ (e ▸ h)
    · exact h

theorem waveAt_resumeUnit_invariant {P : Wave → Prop} (hf : ∀ w, P w → P (resumeSeqs (resumeWave w))) (s : State) (u j : Nat)
    (h : P (waveAt s j)) : P (waveAt (resumeUnit s u) j) := by
  dsimp only [resumeUnit]
  split
  · exact h
  · exact waveAt_mapWaves_invariant (P := P) (f := fun _ w => resumeSeqs (resumeWave w)) hf _ s h

/-- A unit that is held does not resume (R328). -/
theorem resumeUnit_held {s : State} {u : Nat} (h : (unitAt s u).held.isSome = true) : resumeUnit s u = s := by
  simp only [resumeUnit, h, Bool.true_or, if_true]

theorem outsideKept_resumeUnit (s : State) (u : Nat) : OutsideKept s (resumeUnit s u) := by
  dsimp only [resumeUnit]
  split
  · exact .refl s
  · exact (outsideKept_mapWaves _ _ s).trans (outsideKept_setUnit _ _ _)

/-- What a return gives back: the handler is left, the divergence count, JR, the bank and the registers, and where a source is. -/
def returnState (x : Src) (w : Wave) : Option TrapFrame × Nat × DWord × Bank × RegFile × DWord × DWord :=
  (w.frame, w.divd, w.jr, w.bank, w.regs, srcPc w x, srcPix w x)

theorem resume_returnState (x : Src) (w : Wave) : returnState x (resumeSeqs (resumeWave w)) = returnState x w := by
  cases hs : w.stop <;> cases x <;> simp only [resumeWave, hs] <;> rfl

/-- A running wave keeps its slots where its unit resumes. -/
theorem resume_running {w : Wave} (h : w.stop = .running) :
    (resumeSeqs (resumeWave w)).a = w.a ∧ (resumeSeqs (resumeWave w)).b = w.b ∧
    (resumeSeqs (resumeWave w)).stop = .running := by
  simp only [resumeWave, h]
  exact ⟨rfl, rfl, h⟩

-- SRET.

section leaveHandler
variable (w : Wave) (fr : TrapFrame) (r : Return) (held : Bool)

theorem leaveHandler_returnState : returnState (srcOf r.src) (leaveHandler w fr r held) =
    (none, fr.divd, fr.jr, bankOf w.regs, putBank { w.regs with mode := fr.mode } w.bank, r.pc, r.pix) := by
  dsimp only [leaveHandler]
  cases srcOf r.src <;> rfl

theorem leaveHandler_stop : (leaveHandler w fr r held).stop = if held then .stopped else w.stop := by
  dsimp only [leaveHandler]
  cases srcOf r.src <;> rfl

/-- A slot that the return does not go to is the frame's, its run cut (R27). -/
theorem leaveHandler_a (h : srcOf r.src ≠ .slotA) :
    (leaveHandler w fr r held).a = { fr.a with snap := cutSnap fr.a.hold fr.a.snap } := by
  dsimp only [leaveHandler]
  cases hs : srcOf r.src with
  | slotA => exact absurd hs h
  | _ => rfl

theorem leaveHandler_b (h : srcOf r.src ≠ .slotB) :
    (leaveHandler w fr r held).b = { fr.b with snap := cutSnap fr.b.hold fr.b.snap } := by
  dsimp only [leaveHandler]
  cases hs : srcOf r.src with
  | slotB => exact absurd hs h
  | _ => rfl
end leaveHandler

section sret
variable {s : State} (h : BySlot s) (hs : hasSys (ctx s) = true) (sw : Bool)
include h hs

theorem exec_sret_outside (hframe : (ctx s).w.frame = none) : exec (.sret sw) s = .next (trapped s { cause := 0x0A }) := by
  simp only [exec, execSret]
  exact runSys_error h hs (by rw [hframe])

theorem exec_sret_faults {fr : TrapFrame} (hframe : (ctx s).w.frame = some fr)
    (hf : sretFaults (ctx s).w fr (returnOf (ctx s).sys) = true) :
    exec (.sret sw) s = .next (endUnit s (ctx s).w.unit .failed 0) := by
  simp only [exec, execSret]
  refine runSys_ok h hs ?_
  rw [hframe]
  exact if_pos hf

theorem exec_sret_returns {fr : TrapFrame} (hframe : (ctx s).w.frame = some fr)
    (hf : sretFaults (ctx s).w fr (returnOf (ctx s).sys) = false) :
    exec (.sret sw) s = .next (resumeUnit (setWave s (ctx s).k
      (leaveHandler (ctx s).w fr (returnOf (ctx s).sys) (unitOf s (ctx s).k).held.isSome)) (ctx s).w.unit) := by
  simp only [exec, execSret]
  refine runSys_ok h hs ?_
  rw [hframe]
  exact if_neg (by rw [hf]; exact Bool.false_ne_true)
end sret

/-- The wave of SRET after its unit has resumed, where it may (R308, R325): what the return gives back stands, and a wave that
is held or was not stopping has its slots and its halt state as the return left them. -/
theorem waveAt_resumeUnit_return {s : State} {k u : Nat} {w : Wave} {fr : TrapFrame} {r : Return} {held : Bool}
    (hheld : (unitAt s u).held.isSome = held) :
    let v := leaveHandler w fr r held
    let t := resumeUnit (setWave s k v) u
    returnState (srcOf r.src) (waveAt t k) = returnState (srcOf r.src) v ∧
    (held = true ∨ w.stop = .running → (waveAt t k).a = v.a ∧ (waveAt t k).b = v.b ∧ (waveAt t k).stop = v.stop) := by
  dsimp only
  generalize hv : leaveHandler w fr r held = v
  have hat : waveAt (setWave s k v) k = v := by rw [waveAt_setWave, if_pos rfl]
  have hkeep : ∀ {P : Wave → Prop}, (∀ w, P w → P (resumeSeqs (resumeWave w))) → P v →
      P (waveAt (resumeUnit (setWave s k v) u) k) :=
    fun {P} hf h => waveAt_resumeUnit_invariant (P := P) hf _ _ _ (hat.symm ▸ h)
  refine ⟨hkeep (P := fun w => returnState _ w = returnState _ v)
    (fun w h => (resume_returnState _ w).trans h) rfl, fun h => ?_⟩
  cases held with
  | true => rw [resumeUnit_held (s := setWave s k v) hheld, hat]; exact ⟨rfl, rfl, rfl⟩
  | false =>
    have hrun : v.stop = .running := by
      rw [← hv, leaveHandler_stop]
      exact h.resolve_left Bool.false_ne_true
    rw [hrun]
    exact hkeep (P := fun w => w.a = v.a ∧ w.b = v.b ∧ w.stop = .running)
      (fun w ⟨ha, hb, hr⟩ => ⟨(resume_running hr).1.trans ha, (resume_running hr).2.1.trans hb, (resume_running hr).2.2⟩)
      ⟨rfl, rfl, hrun⟩

-- HALT.

section haltHere
variable (c : Ctx) (w : Wave)
theorem haltHere_stop : (haltHere c w).stop = .stopped := rfl
theorem haltHere_frame : (haltHere c w).frame = w.frame := goTo_frame ..
theorem haltHere_regs : (haltHere c w).regs = w.regs := goTo_regs ..
theorem srcPc_haltHere : srcPc (haltHere c w) c.src = c.pc + 4 := by
  rw [← srcPc_goTo c (c.pc + 4) w]
  cases c.src <;> rfl
end haltHere

/-- The halt broadcast leaves the wave that raised it. -/
theorem waveAt_haltUnit_except (s : State) (u k : Nat) : waveAt (haltUnit s u k) k = waveAt s k :=
  waveAt_mapWaves_invariant (P := (· = waveAt s k)) (fun w h => by simp [haltWave, h]) _ s rfl

theorem unitAt_haltUnit (s : State) (u k : Nat) : unitAt (haltUnit s u k) u = { unitAt s u with halted := true } := by
  simp only [haltUnit, unitAt_setUnit, if_true]

/-- The unit after the halt broadcast, held for the host by the first HALT (R328). -/
def heldUnit (c : Ctx) (u : Machine.Unit) : Machine.Unit :=
  { u with halted := true, held := some (u.held.getD (c.k, c.src)),
           heldHandlers := if c.w.frame.isSome then u.heldHandlers ++ [c.k] else u.heldHandlers }

/-- The state that a HALT leaves, before the host is told. -/
def heldState (s : State) : State :=
  let c := ctx s
  setUnit (setWave (dropClaims (haltUnit s c.w.unit c.k) [c.k]) c.k (haltHere c c.w)) c.w.unit (heldUnit c (unitAt s c.w.unit))

theorem exec_halt {s : State} (h : BySlot s) (hs : hasSys (ctx s) = true) (sw : Bool) :
    exec (.halt sw) s = .next (emit (heldState s) (.halted (unitOf s (ctx s).k).wing (unitOf s (ctx s).k).ctxid (ctx s).pc)) := by
  have hw : waveAt (dropClaims (haltUnit s (ctx s).w.unit (ctx s).k) [(ctx s).k]) (ctx s).k = (ctx s).w :=
    waveAt_haltUnit_except ..
  have hu : ∀ w, unitAt (setWave (dropClaims (haltUnit s (ctx s).w.unit (ctx s).k) [(ctx s).k]) (ctx s).k w) (ctx s).w.unit =
      { unitAt s (ctx s).w.unit with halted := true } := fun _ => unitAt_haltUnit ..
  simp only [exec, execHalt]
  refine runSys_ok h hs ?_
  simp only [hw, hu]
  rfl

theorem outsideKept_heldState (s : State) : OutsideKept s (heldState s) :=
  (((outsideKept_haltUnit s _ _).trans (outsideKept_dropClaims _ _)).trans (outsideKept_setWave _ _ _)).trans
    (outsideKept_setUnit _ _ _)

theorem waveAt_heldState (s : State) : waveAt (heldState s) (ctx s).k = haltHere (ctx s) (ctx s).w :=
  (waveAt_setWave ..).trans (if_pos rfl)

theorem unitAt_heldState (s : State) : unitAt (heldState s) (ctx s).w.unit = heldUnit (ctx s) (unitAt s (ctx s).w.unit) :=
  (unitAt_setUnit ..).trans (if_pos rfl)

/-- Settles O44: SRET by what `returnState` and `waveAt_resumeUnit_return` say of its wave, HALT by the wave and the
unit that it leaves. -/
theorem returnAndHalt : Obligations.ReturnAndHalt := by
  intro s sw
  dsimp only
  intro h hs
  refine ⟨fun fr hframe hf => exec_sret_faults h hs sw hframe hf, fun fr hframe hf => ?_, exec_sret_outside h hs sw,
    _, exec_halt h hs sw, ?_⟩
  · obtain ⟨hback, hstay⟩ := waveAt_resumeUnit_return (s := s) (k := (ctx s).k) (u := (ctx s).w.unit)
      (w := (ctx s).w) (fr := fr) (r := returnOf (ctx s).sys) (held := (unitOf s (ctx s).k).held.isSome) rfl
    rw [leaveHandler_returnState, returnState] at hback
    simp only [Prod.mk.injEq] at hback
    obtain ⟨hf, hd, hj, hb, hr, hp, hx⟩ := hback
    refine ⟨_, exec_sret_returns h hs sw hframe ‹_›, hf, hd, hj, hb, hr, hp, hx,
      fun hrun => ⟨fun hsrc => ?_, fun hsrc => ?_⟩, fun hheld => ?_, fun hheld hrun => ?_, (outsideKept_resumeUnit _ _).mem⟩
    · exact (hstay hrun).1.trans (leaveHandler_a _ _ _ _ hsrc)
    · exact (hstay hrun).2.1.trans (leaveHandler_b _ _ _ _ hsrc)
    · rw [(hstay (.inl hheld)).2.2, leaveHandler_stop, if_pos hheld]
    · rw [(hstay (.inr hrun)).2.2, leaveHandler_stop, hheld]
      exact hrun
  · have hw : ∀ o, waveAt (emit (heldState s) o) (ctx s).k = haltHere (ctx s) (ctx s).w := fun _ => waveAt_heldState s
    have hu : ∀ o, unitAt (emit (heldState s) o) (ctx s).w.unit = heldUnit (ctx s) (unitAt s (ctx s).w.unit) :=
      fun _ => unitAt_heldState s
    rw [hw, hu]
    exact ⟨rfl, srcPc_haltHere .., haltHere_frame .., haltHere_regs .., rfl, rfl,
      congrArg (· ++ _) (outsideKept_heldState s).outbox, (outsideKept_heldState s).mem⟩

-- What a run holds of the system registers (R24).

theorem ctx_sys_of_snap {s : State} {n : Snapshot} (h : srcSnap (ctx s).w (ctx s).src = some n) : (ctx s).sys = n.sys := by
  change ((srcSnap (ctx s).w (ctx s).src).map (·.sys)).getD _ = n.sys
  rw [h]; rfl

theorem ctx_sys_of_noSnap {s : State} (h : srcSnap (ctx s).w (ctx s).src = none) :
    (ctx s).sys = sysNow s (ctx s).k (ctx s).w (ctx s).src := by
  change ((srcSnap (ctx s).w (ctx s).src).map (·.sys)).getD _ = _
  rw [h]; rfl

/-- The progress index of a selector: in a handler TRAPPIX for the source that trapped, the frame's for another slot (R327). -/
theorem pixOf_frame {w : Wave} {fr : TrapFrame} (h : w.frame = some fr) (j : Nat) : pixOf w j =
    if j = w.trapCause.toNat / 256 % 8 then w.trapPix else if j = 0 then fr.a.pix else if j = 1 then fr.b.pix
      else livePix w (srcOf j) := by
  rw [pixOf, h]
  match j with
  | 0 | 1 | _ + 2 => rfl

theorem pixOf_noFrame {w : Wave} (h : w.frame = none) (j : Nat) : pixOf w j = livePix w (srcOf j) := by rw [pixOf, h]

/-- The system registers outside the register file as they stand (R69). -/
theorem sysNow_slot {x : Src} (hx : isSeq x = false) (s : State) (k : Nat) (w : Wave) : sysNow s k w x =
    [(0x010, (matOf s k).accown.setWidth 64), (0x011, (slotOf w x).pix), (0x012, BitVec.ofNat 64 (min w.divd 255)),
      (0x014, (wingOf s k).snapId.setWidth 64), (0x020, w.trapCause.setWidth 64), (0x021, w.trapPc), (0x022, w.trapAddr),
      (0x023, w.trapLanes.setWidth 64), (0x024, w.skid.setWidth 64), (0x025, w.trapVec), (0x026, w.trapPix)] ++
    (List.range 5).map fun j => (0x100 + j, pixOf w j) := by
  simp only [sysNow, livePix, hx, Bool.false_eq_true, if_false]
  rfl

-- MFSR.

section mfsr
variable {s : State} (h : BySlot s) (sw : Bool) (d : BitVec 7)
include h

theorem exec_mfsr_plain {r : BitVec 16} (hr : sysReadNeeds r.toNat = false) :
    exec (.mfsr sw d r) s = .next (retire s sw (setS (ctx s).live d.toNat (sysRead s (ctx s) r.toNat))) := by
  simp only [exec, execMfsr, hr, Bool.false_eq_true, if_false]
  exact runState_ok (allowed_slot h _) rfl

theorem exec_mfsr_sys (hs : hasSys (ctx s) = true) {r : BitVec 16} (hr : sysReadNeeds r.toNat = true) :
    exec (.mfsr sw d r) s = .next (retire s sw (setS (ctx s).live d.toNat (sysRead s (ctx s) r.toNat))) := by
  simp only [exec, execMfsr, hr, if_true]
  exact runSys_ok h hs rfl
end mfsr

-- MTSR.

/-- SRC of a value for TRAPCAUSE (R309). -/
theorem bits_setWidth (v : DWord) : Machine.bits (v.setWidth 32).toNat 10 8 = v.toNat / 256 % 8 := by
  simp only [Machine.bits, BitVec.toNat_setWidth]
  omega

section mtsr
variable {s : State} (h : BySlot s) (sw : Bool) (d : BitVec 7)
include h

theorem exec_mtsr_seed :
    exec (.mtsr sw d 0x00D) s = .next (retire s sw { (ctx s).live with seed := getS (ctx s).rd d.toNat }) := by
  simp only [exec, execMtsr]
  exact (if_pos rfl).trans (runLocal_ok (allowed_slot h _) rfl)

theorem exec_mtsrFlags : exec (.mtsrFlags sw d) s =
    .next (retire s sw { (ctx s).live with flags := (getS (ctx s).rd d.toNat).setWidth 32 &&& 31#32 }) := by
  simp only [exec, execMtsrFlags]
  exact runLocal_ok (allowed_slot h _) rfl

theorem exec_mtsrMode_ok (hm : modeBad ((getS (ctx s).rd d.toNat).setWidth 32) = false) : exec (.mtsrMode sw d) s =
    .next (retire s sw { (ctx s).live with mode := (getS (ctx s).rd d.toNat).setWidth 32 }) := by
  simp only [exec, execMtsrMode]
  exact runLocal_ok (allowed_slot h _) (if_neg (by rw [opS, hm]; exact Bool.false_ne_true))

theorem exec_mtsrMode_bad (hm : modeBad ((getS (ctx s).rd d.toNat).setWidth 32) = true) :
    exec (.mtsrMode sw d) s = .next (trapped s { cause := 0x0A }) := by
  simp only [exec, execMtsrMode]
  exact runLocal_error (allowed_slot h _) (if_pos hm)

variable (hs : hasSys (ctx s) = true)
include hs

theorem exec_mtsr_trapReg {r : BitVec 16} (hr : r.toNat ≠ 0x00D) : exec (.mtsr sw d r) s = .next
    (finish (setWave s (ctx s).k (trapRegWrite (ctx s).w r.toNat (getS (ctx s).rd d.toNat))) (ctx s) sw) := by
  simp only [exec, execMtsr, hr, if_false]
  exact runSys_ok h hs rfl

theorem exec_mtsrTrapcause_ok (hv : (getS (ctx s).rd d.toNat).toNat / 256 % 8 < 5) : exec (.mtsrTrapcause sw d) s = .next
    (finish (setWave s (ctx s).k { (ctx s).w with
      trapCause := (getS (ctx s).rd d.toNat).setWidth 32 &&& 0xFFF#32 }) (ctx s) sw) := by
  simp only [exec, execMtsrTrapcause]
  exact runSys_ok h hs (if_neg (by rw [opS, bits_setWidth]; exact Nat.not_le.mpr hv))

theorem exec_mtsrTrapcause_bad (hv : 5 ≤ (getS (ctx s).rd d.toNat).toNat / 256 % 8) :
    exec (.mtsrTrapcause sw d) s = .next (trapped s { cause := 0x0A }) := by
  simp only [exec, execMtsrTrapcause]
  exact runSys_error h hs (if_pos (by rw [opS, bits_setWidth]; exact hv))

theorem exec_mtsrAccown_ok (hm : matMidway s (alcOf (ctx s).k) (ctx s).k (ctx s).src = false) :
    exec (.mtsrAccown sw d) s = .next (finish (setMat s (ctx s).k { matOf s (ctx s).k with
      accown := (getS (ctx s).rd d.toNat).setWidth 32, tp := false, tail := [] }) (ctx s) sw) := by
  simp only [exec, execMtsrAccown]
  exact runSys_ok h hs (if_neg (by rw [hm]; exact Bool.false_ne_true))

theorem exec_mtsrAccown_waits (hm : matMidway s (alcOf (ctx s).k) (ctx s).k (ctx s).src = true) :
    exec (.mtsrAccown sw d) s = .next (waitWith s (ctx s) .poll) := by
  simp only [exec, execMtsrAccown]
  exact runSys_ok h hs (if_pos hm)

theorem exec_mtsrPix : exec (.mtsrPix sw d) s = .next (setWave (finish s (ctx s) sw) (ctx s).k
    (putPix (advance (ctx s) sw (ctx s).w) (ctx s).src (getS (ctx s).rd d.toNat))) := by
  simp only [exec, execMtsrPix]
  refine runSys_ok h hs ?_
  rw [finish_self]
  rfl
end mtsr

theorem srcPc_putPix (w : Wave) (x : Src) (v : DWord) : srcPc (putPix w x v) x = srcPc w x := by cases x <;> rfl

/-- A source that has moved on has no progress, so that its next instruction starts at the PIX that it has been given (R315). -/
theorem srcPix_putPix_advance (c : Ctx) (sw : Bool) (w : Wave) (v : DWord) :
    srcPix (putPix (advance c sw w) c.src v) c.src = v := by
  cases hs : c.src <;> simp [srcPix, putPix, advance, hs, isSeq, seqOf, putSeq, slotOf, putSlot]

-- PIXRD and PIXWR.

section pix
variable {s : State} (h : BySlot s) (sw : Bool) (a b : BitVec 7)
include h

theorem exec_pixrd_ok (hk : (getS (ctx s).rd b.toNat).toNat % 8 < 5) : exec (.pixrd sw a b) s = .next
    (retire s sw (setS (ctx s).live a.toNat (tget 0 (ctx s).sys (0x100 + (getS (ctx s).rd b.toNat).toNat % 8)))) := by
  simp only [exec, execPixrd]
  exact runState_ok (allowed_slot h _) (if_neg (Nat.not_le.mpr hk))

theorem exec_pixrd_bad (hk : 5 ≤ (getS (ctx s).rd b.toNat).toNat % 8) :
    exec (.pixrd sw a b) s = .next (trapped s { cause := 0x0A }) := by
  simp only [exec, execPixrd]
  exact runState_error (allowed_slot h _) (if_pos hk)

variable (hs : hasSys (ctx s) = true)
include hs

theorem exec_pixwr_ok (hk : (getS (ctx s).rd a.toNat).toNat % 8 < 5) {fr : TrapFrame} (hframe : (ctx s).w.frame = some fr)
    {w : Wave} (hw : pixWrite (ctx s).w (returnOf (ctx s).sys).src ((getS (ctx s).rd a.toNat).toNat % 8)
      (getS (ctx s).rd b.toNat) = w) :
    exec (.pixwr sw a b) s = .next (finish (setWave s (ctx s).k w) (ctx s) sw) := by
  simp only [exec, execPixwr]
  subst hw
  exact runSys_ok h hs (if_neg (by simp only [opS, hframe, Nat.not_le.mpr hk]; exact Bool.false_ne_true))

theorem exec_pixwr_bad (hk : (ctx s).w.frame = none ∨ 5 ≤ (getS (ctx s).rd a.toNat).toNat % 8) :
    exec (.pixwr sw a b) s = .next (trapped s { cause := 0x0A }) := by
  simp only [exec, execPixwr]
  exact runSys_error h hs (if_pos
    ((Bool.or_eq_true _ _).mpr (hk.imp Option.isNone_iff_eq_none.mpr decide_eq_true)))
end pix

section pixWrite
variable {w : Wave} {fr : TrapFrame} (h : w.frame = some fr) {src k : Nat} (v : DWord)

theorem pixWrite_trapped (hk : k = src) : pixWrite w src k v = { w with trapPix := v } := if_pos hk

include h in
theorem pixWrite_slotA (hk : k ≠ src) (h0 : k = 0) :
    pixWrite w src k v = { w with frame := some { fr with a := { fr.a with pix := v } } } := by
  subst h0
  rw [pixWrite, if_neg hk]
  simp only [mapFrameSlot, h, Option.map_some]

include h in
theorem pixWrite_slotB (hk : k ≠ src) (h1 : k = 1) :
    pixWrite w src k v = { w with frame := some { fr with b := { fr.b with pix := v } } } := by
  subst h1
  rw [pixWrite, if_neg hk]
  simp only [mapFrameSlot, h, Option.map_some]

theorem pixWrite_seq (hk : k ≠ src) (h2 : 2 ≤ k) :
    pixWrite w src k v = putSeq w (srcOf k) { seqOf w (srcOf k) with pix := v } := by
  match k, hk, h2 with
  | 2, hk, _ | 3, hk, _ | _ + 4, hk, _ => exact (if_neg hk).trans rfl
end pixWrite

/-- Settles O46: each register by the equation of the instruction that reads or writes it. -/
theorem systemRegisters : Obligations.SystemRegisters := by
  intro s sw d a b
  dsimp only
  intro h
  refine ⟨?_, fun n hn => ctx_sys_of_snap hn, ?_, exec_mtsr_seed h sw d, exec_mtsrFlags h sw d, exec_mtsrMode_ok h sw d,
    exec_mtsrMode_bad h sw d, exec_pixrd_ok h sw d a, exec_pixrd_bad h sw d a, fun hs => ?_⟩
  · intro hn
    rw [ctx_sys_of_noSnap hn, sysNow_slot (x := (ctx s).src) h]
    refine congrArg (_ ++ ·) (List.map_congr_left fun j _ => congrArg (Prod.mk _) ?_)
    cases hf : (ctx s).w.frame with
    | none => exact pixOf_noFrame hf j
    | some fr => exact pixOf_frame hf j
  · intro p hp
    simp only [List.mem_cons, List.not_mem_nil, or_false] at hp
    obtain rfl | rfl | rfl | rfl | rfl | rfl | rfl | rfl | rfl | rfl | rfl | rfl | rfl | rfl | rfl | rfl | rfl |
      rfl | rfl | rfl := hp
    all_goals exact exec_mfsr_plain h sw d rfl
  · have htrap := fun {r} hr => exec_mtsr_trapReg (s := s) (r := r) h sw d hs hr
    refine ⟨?_, htrap (by decide), htrap (by decide), htrap (by decide), htrap (by decide), htrap (by decide),
      htrap (by decide), exec_mtsrTrapcause_ok h sw d hs, exec_mtsrTrapcause_bad h sw d hs,
      exec_mtsrAccown_ok h sw d hs, exec_mtsrAccown_waits h sw d hs,
      ⟨_, exec_mtsrPix h sw d hs, ?_⟩, fun fr hk hframe => ?_, fun hk => exec_pixwr_bad h sw a b hs (.inr hk),
      fun hframe => exec_pixwr_bad h sw a b hs (.inl hframe)⟩
    · intro p hp
      simp only [List.mem_cons, List.not_mem_nil, or_false] at hp
      obtain rfl | rfl | rfl | rfl | rfl | rfl | rfl := hp
      all_goals exact exec_mfsr_sys h sw d hs rfl
    · rw [waveAt_setWave, if_pos rfl]
      exact ⟨srcPix_putPix_advance .., (srcPc_putPix ..).trans (advance_pc ..), (putPix_regs ..).trans (advance_regs ..)⟩
    · exact ⟨fun hsrc => exec_pixwr_ok h sw a b hs hk hframe (pixWrite_trapped _ hsrc),
        fun hsrc h0 => exec_pixwr_ok h sw a b hs hk hframe (pixWrite_slotA hframe _ hsrc h0),
        fun hsrc h1 => exec_pixwr_ok h sw a b hs hk hframe (pixWrite_slotB hframe _ hsrc h1),
        fun hsrc h2 => exec_pixwr_ok h sw a b hs hk hframe (pixWrite_seq _ hsrc h2)⟩

end Sys2Proof.Proofs.Supervisor
end

section
/-! Sequencers (R44, R46, R221), tethers and their queue (R42, R43, R400, R401), and the instructions on phases and priority (R402,
R403). -/
namespace Sys2Proof.Proofs.Tethers
open Sys2Proof Sys2Proof.Machine Sys2Proof.Safety Sys2Proof.Laws.Tables Sys2Proof.Laws.State Sys2Proof.Laws.Ops
open Sys2Proof.Proofs.Slots

-- FORK, RDVZ and ENDE.

@[simp] theorem seqOf_putSeq_self (w : Wave) (q : Src) (x : Seq) : seqOf (putSeq w q x) q = x := by cases q <;> rfl

/-- A sequencer as a FORK starts it, with copies of S, P, MODE and C (R44). -/
def forkedSeq (c : Ctx) (born : Nat) (dest : DWord) : Seq :=
  { running := true, born := born, pc := dest, dix := BitVec.ofNat 48 (c.dix.toNat + 2 ^ 32), handler := c.w.frame.isSome,
    stop := if c.w.stop = .running then .running else .stopped, pre := c.w.pre,
    regs := { s := c.w.regs.s, p := c.w.regs.p, c := c.w.regs.c, mode := c.w.regs.mode } }

section sequencers
variable {s : State} (h : BySlot s) (sw : Bool) (p : BitVec 3)
include h

theorem exec_fork_free (j : BitVec 19) (hbusy : seqBusy s (ctx s).k (engineSrc p) = false)
    (hbehind : forkBehind s (ctx s).k (engineSrc p) = false) :
    exec (.fork sw p j) s = .next (setWave
      (setAlc s (alcOf (ctx s).k) { alcAt s (alcOf (ctx s).k) with forkQ := forkWaiters s (ctx s).k (engineSrc p) }) (ctx s).k
      (goTo (ctx s) ((ctx s).pc + 4)
        (putSeq (ctx s).w (engineSrc p) (forkedSeq (ctx s) s.fresh (target (ctx s).pc j))))) := by
  simp only [exec, execFork]
  exact runState_ok (allowed_slot h _) (if_neg (by rw [hbusy, hbehind]; exact Bool.false_ne_true))

theorem exec_rdvz_passes (hq : (seqOf (ctx s).w (engineSrc p)).running = false) :
    exec (.rdvz sw p) s = .next (jumped s ((ctx s).pc + 4)) := by
  simp only [exec, execRdvz]
  exact runState_ok (allowed_slot h _) (if_neg (by rw [hq]; exact Bool.false_ne_true))

theorem exec_rdvz_waits (hq : (seqOf (ctx s).w (engineSrc p)).running = true) :
    exec (.rdvz sw p) s = .next (waitWith s (ctx s) .poll) := by
  simp only [exec, execRdvz]
  exact runState_ok (allowed_slot h _) (if_pos hq)

theorem exec_ende_wave : exec (.ende sw) s = .next (trapped s { cause := 0x0A }) := by
  have hsrc : ¬ isSeq (ctx s).src = true := by rw [show isSeq (ctx s).src = false from h]; exact Bool.false_ne_true
  simp only [exec, execEnde]
  exact if_neg hsrc
end sequencers

theorem exec_ende_seq {s : State} (h : isSeq (ctx s).src = true) (sw : Bool) :
    exec (.ende sw) s = .next (setWave s (ctx s).k (putSeq (ctx s).w (ctx s).src {})) := by
  simp only [exec, execEnde]
  exact if_pos h

/-- Settles O26: one equation of each instruction for each of its cases. -/
theorem sequencers : Obligations.Sequencers := by
  intro s sw p j
  refine ⟨fun h hbusy hbehind => ⟨_, exec_fork_free h sw p j hbusy hbehind, ?_⟩, fun h => exec_rdvz_passes h sw p,
    fun h => exec_rdvz_waits h sw p, fun h => exec_ende_wave h sw, fun h => exec_ende_seq h sw⟩
  rw [waveAt_setWave, if_pos rfl, seqOf_goTo _ _ _ (show isSeq (ctx s).src = false from h), seqOf_putSeq_self, ← target_eq]
  exact ⟨rfl, rfl, rfl, rfl, rfl, rfl, rfl, rfl, srcPc_goTo .., (goTo_regs ..).trans (putSeq_regs ..), rfl⟩

-- TETH.

/-- What a tether's owner keeps of it: its slot, whether it ever had one, the window and the queue (R43). -/
def ownerState (w : Wave) : Option Nat × Bool × Nat × List (List (BitVec 32)) := (w.tethSlot, w.hadTether, w.window, w.queue)

theorem advance_ownerState (c : Ctx) (sw : Bool) (w : Wave) : ownerState (advance c sw w) = ownerState w := by
  dsimp only [advance]
  cases c.src <;> rfl

/-- The state in which a TETH has started the tether in slot `t`, before the owner moves on (R42, R400). -/
def tetherStarted (s : State) (c : Ctx) (t : Nat) (dest : DWord) (window : Nat) : State :=
  let s1 := setWave s t { startTether c dest s.nextKey (unitOf s c.k).halted (waveAt s t) with since := s.fresh }
  let s2 := { s1 with nextKey := s1.nextKey + 1 }
  setWave s2 c.k { waveAt s2 c.k with tethSlot := some t, hadTether := true, window := window, queue := [] }

theorem waveAt_tetherStarted_tether {s : State} {c : Ctx} {t : Nat} (h : t ≠ c.k) (dest : DWord) (window : Nat) :
    waveAt (tetherStarted s c t dest window) t =
      { startTether c dest s.nextKey (unitOf s c.k).halted (waveAt s t) with since := s.fresh } :=
  (waveAt_setWave ..).trans ((if_neg h.symm).trans ((waveAt_setWave ..).trans (if_pos rfl)))

theorem ownerState_tetherStarted (s : State) (c : Ctx) (t : Nat) (dest : DWord) (window : Nat) :
    ownerState (waveAt (tetherStarted s c t dest window) c.k) = (some t, true, window, []) := by
  rw [tetherStarted, waveAt_setWave, if_pos rfl]
  rfl

/-- The tether's argument block and scratch window are its owner's (R42). -/
theorem getC_startTether (c : Ctx) (dest : DWord) (key : Nat) (halted : Bool) (t : Wave) :
    getC (startTether c dest key halted t).regs 28 = getC c.rd 28 ∧
    getC (startTether c dest key halted t).regs 29 = getC c.rd 29 := by
  have h0 : RegsRise { c := [(30, getC t.regs 30)], seed := c.rd.seed } := ⟨rfl, rfl, rfl, rfl, rfl⟩
  have h28 := setC_rise h0 28 (getC c.rd 28)
  have h29 := setC_rise h28 29 (getC c.rd 29)
  simp only [startTether, List.foldl_cons, List.foldl_nil, getC_setC h29, getC_setC h28, getC_setC h0]
  exact ⟨rfl, rfl⟩

section teth
variable {s : State} (h : BySlot s) (sw : Bool) (d : BitVec 7) (imm : BitVec 16)
include h

theorem exec_teth_starts {t : Nat} (hn : (ctx s).w.tether = false) (hh : (ctx s).w.hadTether = false)
    (ht : reservedTether s (ctx s).k = some t) : exec (.teth sw d imm) s =
      .next (finish (tetherStarted s (ctx s) t (target (ctx s).pc imm) (d.toNat * 16)) (ctx s) sw) := by
  simp only [exec, execTeth]
  refine runState_ok (allowed_slot h _) ?_
  simp only [hn, hh, ht, Bool.or_self, Bool.false_eq_true, if_false]
  rfl

theorem exec_teth_second (hh : (ctx s).w.hadTether = true) : exec (.teth sw d imm) s = .next (trapped s { cause := 0x0A }) := by
  simp only [exec, execTeth]
  refine runState_error (allowed_slot h _) ?_
  simp only [hh, Bool.or_true, if_true]
end teth

-- QPSH and QPOP.

section queue
variable {s : State} (h : BySlot s) (sw : Bool) (r : BitVec 7)
include h

/-- The entry that a QPSH appends: zero where the guard is clear (R401). -/
def queueEntry (c : Ctx) (r : BitVec 7) : List (BitVec 32) :=
  (List.range 32).map fun l => if (guardOf c).getLsbD l then getV c.rd r.toNat l else 0

theorem exec_qpsh_room (ht : (ctx s).w.tether = true) (hq : (waveAt s (ctx s).w.owner).queue.length < 16) :
    exec (.qpsh sw r) s = .next (finish (setWave s (ctx s).w.owner { waveAt s (ctx s).w.owner with
      queue := (waveAt s (ctx s).w.owner).queue ++ [queueEntry (ctx s) r] }) (ctx s) sw) := by
  simp only [exec, execQpsh]
  exact runState_ok (allowed_slot h _) ((if_neg (by rw [ht]; exact Bool.false_ne_true)).trans (if_neg (Nat.not_le.mpr hq)))

theorem exec_qpsh_full (ht : (ctx s).w.tether = true) (hq : 16 ≤ (waveAt s (ctx s).w.owner).queue.length) :
    exec (.qpsh sw r) s = .next (waitWith s (ctx s) .poll) := by
  simp only [exec, execQpsh]
  exact runState_ok (allowed_slot h _) ((if_neg (by rw [ht]; exact Bool.false_ne_true)).trans (if_pos hq))

variable (hh : (ctx s).w.hadTether = true)
include hh

theorem exec_qpop_entry {e : List (BitVec 32)} {es : List (List (BitVec 32))} (hq : (ctx s).w.queue = e :: es) :
    exec (.qpop sw r) s = .next (finishRegs (setWave s (ctx s).k { (ctx s).w with queue := es }) (ctx s) sw
      fun g => (active (ctx s)).foldl (fun g l => setV g r.toNat l (nth 0 e l)) g) := by
  simp only [exec, execQpop]
  refine runState_ok (allowed_slot h _) ((if_neg (by rw [hh]; exact Bool.false_ne_true)).trans ?_)
  rw [hq]

theorem exec_qpop_ended (hq : (ctx s).w.queue = []) (ht : (ctx s).w.tethSlot = none) :
    exec (.qpop sw r) s = .next (retire s sw
      (addFlags ((active (ctx s)).foldl (fun g l => setV g r.toNat l 0) (ctx s).live) fINV)) := by
  simp only [exec, execQpop]
  refine runState_ok (allowed_slot h _) ((if_neg (by rw [hh]; exact Bool.false_ne_true)).trans ?_)
  rw [hq]
  exact if_neg (by rw [ht]; exact Bool.false_ne_true)

theorem exec_qpop_waits (hq : (ctx s).w.queue = []) (ht : (ctx s).w.tethSlot ≠ none) :
    exec (.qpop sw r) s = .next (waitWith s (ctx s) .poll) := by
  simp only [exec, execQpop]
  refine runState_ok (allowed_slot h _) ((if_neg (by rw [hh]; exact Bool.false_ne_true)).trans ?_)
  rw [hq]
  exact if_pos (Option.isSome_iff_ne_none.mpr ht)
end queue

-- SELS, PRIO and PHSET.

section phases
variable {s : State} (h : BySlot s) (sw : Bool) (d a : BitVec 7)
include h

theorem exec_sels : exec (.sels sw d a) s = .next (retire s sw (setS (ctx s).live d.toNat
    (BitVec.ofNat 64 (chosenSchedule s (unitOf s (ctx s).k) (getS (ctx s).rd a.toNat).toNat)))) := by
  simp only [exec, execSels]
  exact runLocal_ok (allowed_slot h _) rfl

theorem exec_prio_ok (hv : (getS (ctx s).rd a.toNat).toNat < 47)
    (hsys : (getS (ctx s).rd a.toNat).toNat = 46 → hasSys (ctx s) = true) (hp : (ctx s).w.prio ≠ 47) :
    exec (.prio sw d a) s = .next (finishRegs (setWave s (ctx s).k { (ctx s).w with prio := (getS (ctx s).rd a.toNat).toNat })
      (ctx s) sw fun r => setS r d.toNat (BitVec.ofNat 64 (ctx s).w.prio)) := by
  simp only [exec, execPrio]
  refine runState_ok (allowed_slot h _) ((if_neg fun hc => ?_).trans (if_neg fun hc => ?_))
  · obtain ⟨h46, hno⟩ := (Bool.and_eq_true _ _).mp hc
    rw [hsys (of_decide_eq_true h46)] at hno
    exact Bool.false_ne_true hno
  · obtain h47 | h47 := (Bool.or_eq_true _ _).mp hc
    · exact absurd hv (Nat.not_lt.mpr (of_decide_eq_true h47))
    · exact hp (of_decide_eq_true h47)

theorem exec_prio_denied (hv : (getS (ctx s).rd a.toNat).toNat = 46) (hs : hasSys (ctx s) = false) :
    exec (.prio sw d a) s = .next (trapped s { cause := 0x03 }) := by
  simp only [exec, execPrio]
  exact runState_error (allowed_slot h _) (if_pos (by simp [opS, hv, hs]))

theorem exec_phset_none (hp : phaseOf s (unitOf s (ctx s).k) = none) :
    exec (.phset sw a) s = .next (finish s (ctx s) sw) := by
  simp only [exec, execPhset]
  refine runState_ok (allowed_slot h _) ?_
  rw [hp]

theorem exec_phset_some {p j i : Nat} {op : Bool} {z out : DWord} {ch : List Nat}
    (hp : phaseOf s (unitOf s (ctx s).k) = some p) (hb : (levelAt s p).body = .phase j i op z out ch) :
    exec (.phset sw a) s = .next (finish (setLevel s p { levelAt s p with
      body := .phase j i op z (if out.toNat < (getS (ctx s).rd a.toNat).toNat then getS (ctx s).rd a.toNat else out) ch })
      (ctx s) sw) := by
  simp only [exec, execPhset]
  refine runState_ok (allowed_slot h _) ?_
  rw [hp]
  simp only [hb]
  rfl
end phases

/-- Settles O42: the clauses on one instruction by its equations; the tether and its owner after a TETH field by field. -/
theorem tetherAndPhaseInstructions : Obligations.TetherAndPhaseInstructions := by
  intro s sw d a imm
  dsimp only
  intro h
  refine ⟨fun k hn hh ht hk => ⟨_, exec_teth_starts h sw d imm hn hh ht, ?_⟩, fun _ hh => exec_teth_second h sw d imm hh,
    fun ht => ⟨exec_qpsh_room h sw a ht, exec_qpsh_full h sw a ht⟩,
    fun hh => ⟨fun e es => exec_qpop_entry h sw d hh, exec_qpop_ended h sw d hh, exec_qpop_waits h sw d hh⟩, exec_sels h sw d a,
    exec_prio_ok h sw d a, exec_prio_denied h sw d a, exec_phset_none h sw a, fun p j i op z out ch => exec_phset_some h sw a⟩
  obtain ⟨h28, h29⟩ := getC_startTether (ctx s) (target (ctx s).pc imm) s.nextKey (unitOf s (ctx s).k).halted (waveAt s k)
  have hown := (advance_ownerState (ctx s) sw _).trans
    (ownerState_tetherStarted s (ctx s) k (target (ctx s).pc imm) (d.toNat * 16))
  simp only [ownerState, Prod.mk.injEq] at hown
  obtain ⟨hslot, hhad, hwin, hqueue⟩ := hown
  rw [finish_other _ _ _ _ hk, finish_self, waveAt_tetherStarted_tether hk, ← target_eq]
  exact ⟨rfl, rfl, rfl, rfl, rfl, h28, h29, hslot, hwin, hqueue, hhad, advance_pc .., rfl⟩

end Sys2Proof.Proofs.Tethers
end

section
/-! The events of units, levels, nodes and builds (R35 to R41, R370, R372, R391), and the two uncorrectable errors that end
units (R285, R316). -/
namespace Sys2Proof.Proofs.UnitEvents
open Sys2Proof Sys2Proof.Machine Sys2Proof.Safety Sys2Proof.Laws.Tables Sys2Proof.Laws.State Sys2Proof.Laws.Ops
open Sys2Proof.Proofs.Kept Sys2Proof.Proofs.WaveFlow

-- The start of a unit.

/-- A fold that at each member keeps what it has or takes the member ends with what it had or a member. -/
theorem foldl_picks {α : Type} {f : Option α → α → Option α} (hf : ∀ m a, f m a = m ∨ f m a = some a) {l : List α}
    {m : Option α} {c : α} (h : l.foldl f m = some c) : m = some c ∨ c ∈ l := by
  induction l generalizing m with
  | nil => exact .inl h
  | cons a l ih =>
    obtain hfold | hmem := ih h
    · obtain hkeep | htake := hf m a
      · exact .inl (hkeep.symm.trans hfold)
      · exact .inr (Option.some.inj (htake.symm.trans hfold) ▸ List.mem_cons_self)
    · exact .inr (List.mem_cons_of_mem _ hmem)

/-- The candidate that starts is one of those that fit (R391). -/
theorem place_of_nextStart {s : State} {g : Nat} {c : Cand} (h : nextStart s g = some c) : ∃ p, place s g c = some p := by
  have hmem := (foldl_picks (fun m a => ?_) h).resolve_left nofun
  · exact Option.isSome_iff_exists.mp (List.mem_filter.mp hmem).2
  · cases m with
    | none => exact .inr rfl
    | some b =>
      dsimp only
      split
      · exact .inr rfl
      · exact .inl rfl

theorem exec_unitStart {s : State} {g : Nat} {c : Cand} (hu : (wingAt s g).used = true) (hr : (wingAt s g).run = .running)
    (hc : nextStart s g = some c) : ∃ p, place s g c = some p ∧ exec (.unitStart g []) s = .next (startCand s g c p) := by
  obtain ⟨p, hp⟩ := place_of_nextStart hc
  refine ⟨p, hp, ?_⟩
  simp [exec, execUnitStart, hu, hr, hc, chosenPlace, hp]

/-- The registers of a wave that starts, with the number of records of its batch in s0 (R41). -/
def withBatch (r : RegFile) (batch : Nat) : RegFile := if batch = 0 then r else setS r 0 (BitVec.ofNat 64 batch)

theorem withBatch_rest (r : RegFile) (batch : Nat) : (withBatch r batch).seed = r.seed ∧ (withBatch r batch).mode = r.mode ∧
    (withBatch r batch).c = r.c := by
  unfold withBatch
  split <;> exact ⟨rfl, rfl, rfl⟩

theorem getC_withBatch (r : RegFile) (batch n : Nat) : getC (withBatch r batch) n = getC r n :=
  congrArg (tget ({} : Cap) · n) (withBatch_rest r batch).2.2

theorem getS_withBatch {r : RegFile} (h : RegsRise r) (h0 : getS r 0 = 0) (batch : Nat) :
    getS (withBatch r batch) 0 = BitVec.ofNat 64 batch := by
  unfold withBatch
  split
  · next hb => rw [hb, h0]; rfl
  · rw [getS_setS h, if_pos rfl]

/-- The registers of a wave at unit start (R35, R176). -/
theorem startRegs_fields (g : Wing) (i : LaunchInfo) (args : Cap) (seed : DWord) (batch : Nat) (win : Option Nat) :
    let r := startRegs g i args seed batch win
    r.seed = seed ∧ r.mode = 0 ∧ getC r 28 = args ∧ getC r 31 = withOtype i.code 0 ∧ getS r 0 = BitVec.ofNat 64 batch := by
  have h0 : RegsRise { seed := seed } := ⟨rfl, rfl, rfl, rfl, rfl⟩
  have h28 := setC_rise h0 28 args
  have h29 := setC_rise h28 29 (mkCap 0 i.scr 0 scrPerms 0 g.world)
  have h30 := setC_rise h29 30 (privCap g i win)
  have h31 := setC_rise h30 31 (withOtype i.code 0)
  obtain ⟨hseed, hmode, -⟩ := withBatch_rest _ batch
  refine ⟨hseed, hmode, (getC_withBatch ..).trans ?_, (getC_withBatch ..).trans ?_, getS_withBatch h31 rfl batch⟩
  · exact (getC_setC h30 31 28 _).trans ((getC_setC h29 30 28 _).trans ((getC_setC h28 29 28 _).trans (getC_setC h0 28 28 _)))
  · exact getC_setC h30 31 31 _

-- Retirement.

theorem outsideKept_freeUnit (s : State) (n : Nat) : OutsideKept s (freeUnit s n) := by
  refine (((OutsideKept.foldl outsideKept_releaseAll (unitAt s n).waves s).trans (OutsideKept.foldl (fun s a => ?_) _ _)).trans
    (outsideKept_dropClaims _ (unitAt s n).waves)).trans ⟨rfl, rfl, rfl, rfl, rfl, rfl, rfl, rfl, rfl⟩
  dsimp only
  split
  · exact ⟨rfl, rfl, rfl, rfl, rfl, rfl, rfl, rfl, rfl⟩
  · exact .refl s

/-- A unit that has ended by itself counts once at its level, which it does not fail (R36). -/
theorem levelAt_retireUnit {s : State} {n : Nat} (he : (unitAt s n).ending = none) (hl : (unitAt s n).level ≠ 0) :
    levelAt (retireUnit s n) (unitAt s n).level =
      { levelAt s (unitAt s n).level with retired := (levelAt s (unitAt s n).level).retired + 1 } := by
  have hlevel : levelAt (freeUnit s n) (unitAt s n).level = levelAt s (unitAt s n).level := by
    rw [levelAt, (outsideKept_freeUnit s n).levels, levelAt]
  simp [retireUnit, he, hl, hlevel]

theorem exec_unitRetirement {s : State} {n : Nat} (hu : (unitAt s n).used = true)
    (hr : (wingAt s (unitAt s n).wing).run ≠ .swapped) (he : (unitAt s n).ending ≠ some .relaunch)
    (hq : unitQuiet s (unitAt s n) = true) : exec (.unitRetirement n) s = .next (retireUnit s n) := by
  simp [exec, execUnitRetirement, hu, hr, he, hq]

theorem exec_unitRelaunch {s : State} {n : Nat} {p : List Nat} (hu : (unitAt s n).used = true)
    (he : (unitAt s n).ending = some .relaunch) (hr : (wingAt s (unitAt s n).wing).run = .running)
    (hq : unitQuiet s (unitAt s n) = true) (hl : (unitAt s n).level ≠ 0)
    (hp : place (freeUnit (gateUnitEnded s (unitAt s n).waves) n) (unitAt s n).wing
      { start := .launch (unitAt s n).level, info := unitInfo s (unitAt s n), build := (unitAt s n).build,
        die := (unitAt s n).die } = some p) :
    let x := unitAt s n
    let r := putUnit (freeUnit (gateUnitEnded s x.waves) n) x.wing
      { info := unitInfo s x, level := x.level, node := x.node, unitId := x.unitId, args := x.args, batch := x.batch,
        build := x.build, die := x.die } p
    exec (.unitRelaunch n []) s = .next (bootUnit r.1 r.2) := by
  simp [exec, execUnitRelaunch, hu, he, hr, hq, hl, chosenPlace, hp]

-- Levels, phases, nodes, waves and builds.

section levels
variable {s : State} {n : Nat} (hd : levelDone s n = true) (hb : isBuild (levelAt s n) = false)
include hd hb

theorem exec_levelCompletion : exec (.levelCompletion n) s = .next (completeLevel s n) := by
  simp [exec, execLevelCompletion, hd, hb]

theorem exec_levelCompletion_signals {t : State} (ht : signalLevel s n = .ok t) :
    exec (.levelCompletion n) s = .next (dropLevel t n) := by
  rw [exec_levelCompletion hd hb, completeLevel, ht]

theorem exec_levelCompletion_misses {va ipa kind : Nat} (hm : signalLevel s n = .error (va, ipa, kind)) :
    exec (.levelCompletion n) s = .next (levelMiss
      (setLevel s n { levelAt s n with word := some (levelWord (levelAt s n)) }) n va ipa kind true) := by
  rw [exec_levelCompletion hd hb, completeLevel, hm]
end levels

theorem dropLevel_used (s : State) (n : Nat) : (levelAt (dropLevel s n) n).used = false := by
  simp only [dropLevel, levelAt_setLevel, if_true]

theorem exec_phaseStart {s : State} {n : Nat} (hp : phaseReady s n = true) (hr : (levelAt s n).running = 0) :
    exec (.phaseStart n) s = .next (startPhase s n) := by simp [exec, execPhaseStart, hp, hr]

theorem exec_nodeTimerExpiry {s : State} {n : Nat} (hu : (nodeAt s n).used = true) (ht : (nodeAt s n).timer ≠ 0)
    (hb : (nodeAt s n).bin ≠ []) : exec (.nodeTimerExpiry n) s = .next (setNode s n { nodeAt s n with due := true }) := by
  simp [exec, execNodeTimerExpiry, hu, ht, hb]

theorem exec_agingThreshold {s : State} {k : Nat} (hu : (waveAt s k).used = true)
    (hr : (waveAt s k).a.st = .ready ∨ (waveAt s k).b.st = .ready) :
    exec (.agingThreshold k) s = .next (setWave s k { waveAt s k with aged := true }) := by
  simp [exec, execAgingThreshold, hu, hr]

section builds
variable {s : State} {g id : Nat} (hu : (recipeAt (wingAt s g) id).used = true) (hst : (recipeAt (wingAt s g) id).st = .building)
  (hl : (recipeAt (wingAt s g) id).level ≠ 0)
include hu hst hl

theorem exec_recipeBuildComplete (hf : (levelAt s (recipeAt (wingAt s g) id).level).failed = false)
    (hc : (levelAt s (recipeAt (wingAt s g) id).level).cancelled = false)
    (hr : (levelAt s (recipeAt (wingAt s g) id).level).retired = (levelAt s (recipeAt (wingAt s g) id).level).size) :
    let n := (recipeAt (wingAt s g) id).level
    exec (.recipeBuildComplete g id) s =
      .next (bootWaiters (buildDone (setLevel s n { levelAt s n with used := false }) g id)) := by
  simp [exec, execRecipeBuildComplete, hu, hst, hl, hf, hc, hr]

theorem exec_recipeBuildFailure (hf : (levelAt s (recipeAt (wingAt s g) id).level).failed = true ∨
      (levelAt s (recipeAt (wingAt s g) id).level).cancelled = true)
    (hn : unitsOf s (recipeAt (wingAt s g) id).level = []) (hs : savedUnits s (recipeAt (wingAt s g) id).level = false) :
    let n := (recipeAt (wingAt s g) id).level
    exec (.recipeBuildFailure g id) s =
      .next (bootWaiters (tendBuilds (buildFailed (setLevel s n { levelAt s n with used := false }) g 65536 id) g)) := by
  simp [exec, execRecipeBuildFailure, hu, hst, hl, hf, hn, hs]
end builds

-- Uncorrectable errors: the units that end.

/-- A unit that an uncorrectable error reaches: it is to be launched again where its record is idempotent, else it fails (R285). -/
def faultedUnit (x : Machine.Unit) : Machine.Unit :=
  if x.used then { x with ending := some (endReason x.ending (if x.idem then .relaunch else .failed)), halted := true } else x

/-- A second error of the same kind changes nothing more. -/
theorem faultedUnit_idem (x : Machine.Unit) : faultedUnit (faultedUnit x) = faultedUnit x := by
  have hreason : ∀ e, endReason (some (endReason x.ending e)) e = endReason x.ending e := by
    intro e
    cases h : x.ending with
    | none => cases e <;> rfl
    | some r => cases r <;> cases e <;> rfl
  cases hu : x.used with
  | false => simp only [faultedUnit, hu, Bool.false_eq_true, if_false]
  | true => simp only [faultedUnit, hu, if_true, hreason]

theorem faultedUnit_ending {x : Machine.Unit} (h : x.used = true) :
    (faultedUnit x).ending = some (endReason x.ending (if x.idem then .relaunch else .failed)) := by
  simp only [faultedUnit, h, if_true]

theorem unitAt_faultUnit (s : State) (n u : Nat) :
    unitAt (faultUnit s n) u = if n = u then faultedUnit (unitAt s u) else unitAt s u := by
  by_cases hn : n = u
  · subst hn
    rw [if_pos rfl]
    cases hu : (unitAt s n).used with
    | false => simp only [faultUnit, faultedUnit, hu, Bool.false_eq_true, if_false]
    | true =>
      have hcause : (if (unitAt s n).firstCause = 0 then BitVec.ofNat 8 0 else (unitAt s n).firstCause) =
          (unitAt s n).firstCause := by
        split
        · next h => exact h.symm
        · rfl
      simp only [faultUnit, faultedUnit, hu, if_true, endUnit, unitAt_setUnit, hcause]
  · rw [if_neg hn]
    dsimp only [faultUnit]
    split
    · exact (unitAt_setUnit ..).trans (if_neg hn)
    · rfl

theorem faultUnit_waves (s : State) (n : Nat) : (faultUnit s n).waves = s.waves := by
  dsimp only [faultUnit]
  split <;> rfl

/-- Each unit of a list that is faulted has been faulted, once or more often. -/
theorem unitAt_foldl_faultUnit (l : List Nat) (s : State) (u : Nat) :
    unitAt (l.foldl faultUnit s) u = if u ∈ l then faultedUnit (unitAt s u) else unitAt s u := by
  induction l generalizing s with
  | nil => simp
  | cons n l ih =>
    rw [List.foldl_cons, ih, unitAt_faultUnit]
    by_cases hn : n = u
    · subst hn
      simp [faultedUnit_idem]
    · simp [hn, Ne.symm hn]

/-- A capture trigger changes only the captures. -/
theorem capTrigger_rest (s : State) (snaps : List (Nat × DWord × BitVec 16)) : (capTrigger s snaps).waves = s.waves ∧
    (capTrigger s snaps).units = s.units ∧ (capTrigger s snaps).alcoves = s.alcoves := by
  unfold capTrigger
  split
  · exact ⟨rfl, rfl, rfl⟩
  · split <;> exact ⟨rfl, rfl, rfl⟩

theorem uncorrTrigger_rest (s : State) (wing : Nat) : (uncorrTrigger s wing).waves = s.waves ∧
    (uncorrTrigger s wing).units = s.units ∧ (uncorrTrigger s wing).alcoves = s.alcoves := by
  unfold uncorrTrigger
  split
  · exact capTrigger_rest s []
  · exact ⟨rfl, rfl, rfl⟩

@[simp] theorem waveAt_uncorrTrigger (s : State) (wing j : Nat) : waveAt (uncorrTrigger s wing) j = waveAt s j := by
  simp only [waveAt, (uncorrTrigger_rest s wing).1]
@[simp] theorem unitAt_uncorrTrigger (s : State) (wing u : Nat) : unitAt (uncorrTrigger s wing) u = unitAt s u := by
  simp only [unitAt, (uncorrTrigger_rest s wing).2.1]
@[simp] theorem alcAt_uncorrTrigger (s : State) (wing a : Nat) : alcAt (uncorrTrigger s wing) a = alcAt s a := by
  simp only [alcAt, (uncorrTrigger_rest s wing).2.2]

-- The registers of a wave.

/-- The wave whose registers held the error: its slot is rewritten with zeros (R316). -/
def zeroedWave (w : Wave) : Wave :=
  { w with a := {}, b := {}, live := 0, jr := 0, divd := 0, regs := {}, frame := none, bank := {}, errs := [], trapCause := 0,
           trapPc := 0, trapAddr := 0, trapLanes := 0, trapPix := 0, skid := 0 }

theorem exec_registerError {s : State} {k : Nat} (hu : (waveAt s k).used = true) :
    exec (.registerUncorrectableError k) s = .next (uncorrTrigger
      (setWave (faultUnit s (waveAt s k).unit) k (zeroedWave (waveAt (faultUnit s (waveAt s k).unit) k))) (wingNoOf s k)) := by
  simp only [exec, execRegisterUncorrectableError, hu, Bool.not_true, Bool.false_eq_true, if_false]
  rfl

-- The matrix unit.

/-- The storage of a matrix unit beside its claims. -/
def matStorage (m : Matrix) : Table Byte × Table (BitVec 32) × BitVec 8 × BitVec 32 × Bool × List (BitVec 32) × Table Byte :=
  (m.slots, m.tiles, m.live, m.accown, m.tp, m.tail, m.cabinet)

theorem grantFrom_storage (m : Matrix) (l : List (Nat × Src × BitVec 16)) : matStorage (grantFrom m l) = matStorage m := by
  induction l generalizing m with
  | nil => rfl
  | cons e l ih =>
    rw [grantFrom]
    split
    · exact ih _
    · exact ih _

/-- A claim for all the slots of a mask adds claims of that wave for slots of that mask alone. -/
theorem mem_claimAll {m : Matrix} {k : Nat} {v : BitVec 16} {e : Nat × Nat} (h : e ∈ (claimAll m k v).claims) :
    e ∈ m.claims ∨ (k = e.2 ∧ v.getLsbD e.1 = true) := by
  have hfold : ∀ (l : List Nat) (t : Table Nat), e ∈ l.foldl (fun t i => tput t i k) t →
      e ∈ t ∨ (e.1 ∈ l ∧ k = e.2) := by
    intro l
    induction l with
    | nil => exact fun t h => .inl h
    | cons i l ih =>
      intro t h
      obtain h | ⟨hl, hk⟩ := ih _ h
      · obtain rfl | h := mem_tput h
        · exact .inr ⟨List.mem_cons_self, rfl⟩
        · exact .inl h
      · exact .inr ⟨List.mem_cons_of_mem _ hl, hk⟩
  obtain h | ⟨hl, hk⟩ := hfold _ _ h
  · exact .inl h
  · exact .inr ⟨hk, (List.mem_filter.mp hl).2⟩

/-- A claim that stands after the waiting ones are granted stood before or is one that a waiting MCLM asked for (R294). -/
theorem mem_grantFrom {l : List (Nat × Src × BitVec 16)} {m : Matrix} {e : Nat × Nat} (h : e ∈ (grantFrom m l).claims) :
    e ∈ m.claims ∨ ∃ q ∈ l, q.1 = e.2 ∧ q.2.2.getLsbD e.1 = true := by
  induction l generalizing m with
  | nil => exact .inl h
  | cons q l ih =>
    rw [grantFrom] at h
    split at h
    · obtain h | ⟨q', hq', hc⟩ := ih h
      · exact (mem_claimAll h).imp_right fun hc => ⟨q, List.mem_cons_self, hc⟩
      · exact .inr ⟨q', List.mem_cons_of_mem _ hq', hc⟩
    · exact (ih h).imp_right fun ⟨q', hq', hc⟩ => ⟨q', List.mem_cons_of_mem _ hq', hc⟩

theorem tget_map {α : Type} {d : α} {f : α → α} (hd : f d = d) (t : Table α) (n : Nat) :
    tget d (t.map fun e => (e.1, f e.2)) n = f (tget d t n) := by
  induction t with
  | nil => exact hd.symm
  | cons e t ih =>
    obtain ⟨k, v⟩ := e
    simp only [List.map_cons, tget]
    split
    · rfl
    · split
      · exact hd.symm
      · exact ih

/-- An alcove after waiting claims and FORKs have been withdrawn (R306). -/
def withdrawn (ks : List Nat) (a : Alcove) : Alcove :=
  { a with mat := { a.mat with waiting := a.mat.waiting.filter fun q => !ks.contains q.1 },
           forkQ := a.forkQ.filter fun q => !ks.contains q.1 }

theorem waiting_dropClaims {s : State} {ks : List Nat} {alc : Nat} {q : Nat × Src × BitVec 16}
    (h : q ∈ (alcAt (dropClaims s ks) alc).mat.waiting) : q ∈ (alcAt s alc).mat.waiting := by
  have hat : alcAt (dropClaims s ks) alc = withdrawn ks (alcAt s alc) := tget_map (f := withdrawn ks) rfl s.alcoves alc
  rw [hat] at h
  exact (List.mem_filter.mp h).1

/-- What a table holds beside the default it lists. -/
theorem mem_of_tget_ne {α : Type} {d : α} {t : Table α} {n : Nat} (h : tget d t n ≠ d) : (n, tget d t n) ∈ t := by
  induction t with
  | nil => exact absurd rfl h
  | cons e t ih =>
    obtain ⟨k, v⟩ := e
    simp only [tget] at h ⊢
    split at h
    · next hk => rw [if_pos hk, hk]; exact List.mem_cons_self
    · next hk =>
      rw [if_neg hk]
      split at h
      · exact absurd rfl h
      · next hlt => rw [if_neg hlt]; exact List.mem_cons_of_mem _ (ih h)

/-- Units that end withdraw waiting claims and add none. -/
theorem waiting_faultUnit {s : State} {n alc : Nat} {q : Nat × Src × BitVec 16}
    (h : q ∈ (alcAt (faultUnit s n) alc).mat.waiting) : q ∈ (alcAt s alc).mat.waiting := by
  dsimp only [faultUnit] at h
  split at h
  · exact waiting_dropClaims h
  · exact h

theorem waiting_foldl_faultUnit {l : List Nat} {s : State} {alc : Nat} {q : Nat × Src × BitVec 16}
    (h : q ∈ (alcAt (l.foldl faultUnit s) alc).mat.waiting) : q ∈ (alcAt s alc).mat.waiting := by
  induction l generalizing s with
  | nil => exact h
  | cons n l ih => exact waiting_faultUnit (ih h)

/-- The units that an uncorrectable error in the matrix unit of an alcove ends: those with a claim there, its accumulator owner, and
the unit of the wave that read it (R285). -/
def concernedUnits (s : State) (alc k wing : Nat) : List Nat :=
  let a := alcAt s alc
  let claimers := a.mat.claims.map fun e => (waveAt s e.2).unit
  let owners := s.units.filterMap fun e =>
    if e.2.used && e.2.wing == wing && e.2.ctxid == a.mat.accown && a.mat.accown != 0 then some e.1 else none
  let reader := if alcOf k = alc ∧ (waveAt s k).used then [(waveAt s k).unit] else []
  (claimers ++ owners ++ reader).eraseDups

/-- The matrix unit with zero storage and no claim, before waiting claims are granted. -/
def clearedMatrix (m : Matrix) (cab : Bool) : Matrix :=
  { resetTail m with slots := [], tiles := [], claims := [], live := 0, accown := 0, cabinet := if cab then [] else m.cabinet }

theorem exec_matrixError {s : State} {alc k wing : Nat} (cab : Bool) (hw : (alcAt s alc).wing = some wing)
    (hr : (wingAt s wing).run ≠ .swapped) :
    let t := (concernedUnits s alc k wing).foldl faultUnit s
    exec (.matrixUncorrectableError alc k cab) s = .next (uncorrTrigger (setAlc t alc { alcAt t alc with
      mat := grantClaims (clearedMatrix (alcAt t alc).mat cab) }) wing) := by
  have hrun : ¬ ((wingAt s wing).run == .swapped) = true := by simpa using hr
  simp only [exec, execMatrixUncorrectableError, hw]
  exact if_neg hrun

/-- A unit that is in use is listed. -/
theorem mem_units_of_used {s : State} {u : Nat} (h : (unitAt s u).used = true) : (u, unitAt s u) ∈ s.units :=
  mem_of_tget_ne fun he => Bool.false_ne_true ((congrArg Machine.Unit.used he).symm.trans h)

theorem mem_concernedUnits {s : State} {alc k wing u : Nat} (hu : (unitAt s u).used = true)
    (h : (∃ e ∈ (alcAt s alc).mat.claims, (waveAt s e.2).unit = u) ∨
      ((unitAt s u).wing = wing ∧ (unitAt s u).ctxid = (alcAt s alc).mat.accown ∧ (alcAt s alc).mat.accown ≠ 0) ∨
      (alcOf k = alc ∧ (waveAt s k).used = true ∧ (waveAt s k).unit = u)) : u ∈ concernedUnits s alc k wing := by
  simp only [concernedUnits, List.mem_eraseDups, List.mem_append]
  obtain ⟨e, he, rfl⟩ | ⟨hw, hc, h0⟩ | ⟨ha, hk, rfl⟩ := h
  · exact .inl (.inl (List.mem_map.mpr ⟨e, he, rfl⟩))
  · exact .inl (.inr (List.mem_filterMap.mpr ⟨_, mem_units_of_used hu, by simpa [hu, hw, hc] using h0⟩))
  · exact .inr (by simp [ha, hk])

/-- Settles O50: each event by its equation; of the two uncorrectable errors what they leave of units, waves and the
matrix unit. -/
theorem unitAndLevelEvents : Obligations.UnitAndLevelEvents := by
  intro s g n k alc id cab
  dsimp only
  refine ⟨fun c hu hr hc => exec_unitStart hu hr hc,
    fun i u wid uid key batch args win => ?_,
    fun hu hr he hq => ⟨exec_unitRetirement hu hr he hq, fun he hl => ?_⟩,
    fun p hu he hr hq hl hp => exec_unitRelaunch hu he hr hq hl hp,
    fun hd hb => ⟨fun t ht => ⟨exec_levelCompletion_signals hd hb ht, dropLevel_used t n⟩,
      fun va ipa kind => exec_levelCompletion_misses hd hb⟩,
    exec_phaseStart, exec_nodeTimerExpiry, exec_agingThreshold,
    fun hu hst hl => ⟨exec_recipeBuildComplete hu hst hl, exec_recipeBuildFailure hu hst hl⟩,
    fun hw hu => ⟨_, exec_registerError hw, ?_⟩,
    fun wing hw hr => ⟨_, exec_matrixError cab hw hr, ?_, ?_⟩⟩
  · obtain ⟨hseed, hmode, hargs, hcode, hbatch⟩ := startRegs_fields (wingAt s g) i args
      (waveSeed i.seed (uid * i.nwaves + wid)) batch win
    exact ⟨rfl, rfl, rfl, rfl, rfl, rfl, rfl, hseed, hmode, hargs, hcode, hbatch⟩
  · rw [levelAt_retireUnit he hl]
    exact ⟨rfl, rfl⟩
  · rw [waveAt_uncorrTrigger, unitAt_uncorrTrigger, waveAt_setWave, if_pos rfl]
    refine ⟨rfl, rfl, rfl, rfl, ?_⟩
    have hunit : unitAt (faultUnit s (waveAt s k).unit) (waveAt s k).unit = faultedUnit (unitAt s (waveAt s k).unit) :=
      (unitAt_faultUnit ..).trans (if_pos rfl)
    exact (congrArg Machine.Unit.ending hunit).trans (faultedUnit_ending hu)
  · rw [alcAt_uncorrTrigger, alcAt_setAlc, if_pos rfl]
    refine ⟨fun u hu hc => ?_, fun e he => ?_⟩
    · have hunit : unitAt ((concernedUnits s alc k wing).foldl faultUnit s) u = faultedUnit (unitAt s u) :=
        (unitAt_foldl_faultUnit ..).trans (if_pos (mem_concernedUnits hu hc))
      rw [unitAt_uncorrTrigger]
      exact (congrArg Machine.Unit.ending hunit).trans (faultedUnit_ending hu)
    · obtain ⟨q, hq, hclaim⟩ := (mem_grantFrom he).resolve_left (List.not_mem_nil)
      exact ⟨q, waiting_foldl_faultUnit hq, hclaim⟩
  · rw [alcAt_uncorrTrigger, alcAt_setAlc, if_pos rfl]
    have hstore := grantFrom_storage (clearedMatrix (alcAt ((concernedUnits s alc k wing).foldl faultUnit s) alc).mat cab)
      (clearedMatrix (alcAt ((concernedUnits s alc k wing).foldl faultUnit s) alc).mat cab).waiting
    simp only [matStorage, Prod.mk.injEq] at hstore
    obtain ⟨hslots, htiles, hlive, hown, htp, htail, hcab⟩ := hstore
    exact ⟨hslots, htiles, hlive, hown, htp, htail, fun hc => hcab.trans (if_pos hc)⟩

end Sys2Proof.Proofs.UnitEvents
end

section
/-! A word is what a format of R49 builds from its own fields, and the fields that overlap or that one format splits. -/
namespace Sys2Proof.Proofs.WordFields
open Sys2Proof Sys2Proof.Laws.Words

theorem toNat_bit (w : Word) (k : Nat) : (bit w k).toNat = w.toNat / 2 ^ k % 2 := by
  rcases Nat.mod_two_eq_zero_or_one (w.toNat / 2 ^ k) with h | h <;> simp [bit, h]

theorem toNat_bits (w : Word) (k n : Nat) : (Sys2Proof.bits w k n).toNat = w.toNat / 2 ^ k % 2 ^ n := BitVec.toNat_ofNat ..

-- The formats, each in two parts: the word built again from its fields, and with that the fields that a word of the format has.

section formats
variable {w : Word} {s : Bool} {m : Nat}

theorem wordR_fields (w : Word) : wordR (fS w) (fMaj w).toNat (fD w) (fA w) (fB w) (fX1 w) (fX0 w) = w := by
  have := w.isLt
  apply BitVec.eq_of_toNat_eq
  simp only [wordR, fS, fMaj, fD, fA, fB, fX1, fX0, toNat_bit, toNat_bits, BitVec.toNat_ofNat]
  omega

@[simp] theorem wordR_eq_iff (hm : m < 256) {d a b : BitVec 7} {x1 x0 : Bool} : wordR s m d a b x1 x0 = w ↔
    fS w = s ∧ (fMaj w).toNat = m ∧ fD w = d ∧ fA w = a ∧ fB w = b ∧ fX1 w = x1 ∧ fX0 w = x0 := by
  constructor
  · rintro rfl
    simp [hm]
  · rintro ⟨rfl, rfl, rfl, rfl, rfl, rfl, rfl⟩
    exact wordR_fields w

theorem wordI_fields (w : Word) : wordI (fS w) (fMaj w).toNat (fD w) (fA w) (fI9 w) = w := by
  have := w.isLt
  apply BitVec.eq_of_toNat_eq
  simp only [wordI, fS, fMaj, fD, fA, fI9, toNat_bit, toNat_bits, BitVec.toNat_ofNat]
  omega

@[simp] theorem wordI_eq_iff (hm : m < 256) {d a : BitVec 7} {i : BitVec 9} : wordI s m d a i = w ↔
    fS w = s ∧ (fMaj w).toNat = m ∧ fD w = d ∧ fA w = a ∧ fI9 w = i := by
  constructor
  · rintro rfl
    simp [hm]
  · rintro ⟨rfl, rfl, rfl, rfl, rfl⟩
    exact wordI_fields w

theorem wordL_fields (w : Word) : wordL (fS w) (fMaj w).toNat (fD w) (fI16 w) = w := by
  have := w.isLt
  apply BitVec.eq_of_toNat_eq
  simp only [wordL, fS, fMaj, fD, fI16, toNat_bit, toNat_bits, BitVec.toNat_ofNat]
  omega

@[simp] theorem wordL_eq_iff (hm : m < 256) {d : BitVec 7} {i : BitVec 16} : wordL s m d i = w ↔
    fS w = s ∧ (fMaj w).toNat = m ∧ fD w = d ∧ fI16 w = i := by
  constructor
  · rintro rfl
    simp [hm]
  · rintro ⟨rfl, rfl, rfl, rfl⟩
    exact wordL_fields w

theorem wordJ_fields (w : Word) : wordJ (fS w) (fMaj w).toNat (fJ23 w) = w := by
  have := w.isLt
  apply BitVec.eq_of_toNat_eq
  simp only [wordJ, fS, fMaj, fJ23, toNat_bit, toNat_bits, BitVec.toNat_ofNat]
  omega

@[simp] theorem wordJ_eq_iff (hm : m < 256) {j : BitVec 23} : wordJ s m j = w ↔
    fS w = s ∧ (fMaj w).toNat = m ∧ fJ23 w = j := by
  constructor
  · rintro rfl
    simp [hm]
  · rintro ⟨rfl, rfl, rfl⟩
    exact wordJ_fields w

theorem wordP_fields (w : Word) : wordP (fS w) (fMaj w).toNat (fP3 w) (fN w) (fJ19 w) = w := by
  have := w.isLt
  apply BitVec.eq_of_toNat_eq
  simp only [wordP, fS, fMaj, fP3, fN, fJ19, toNat_bit, toNat_bits, BitVec.toNat_ofNat]
  omega

@[simp] theorem wordP_eq_iff (hm : m < 256) {p : BitVec 3} {n : Bool} {j : BitVec 19} : wordP s m p n j = w ↔
    fS w = s ∧ (fMaj w).toNat = m ∧ fP3 w = p ∧ fN w = n ∧ fJ19 w = j := by
  constructor
  · rintro rfl
    simp [hm]
  · rintro ⟨rfl, rfl, rfl, rfl, rfl⟩
    exact wordP_fields w

theorem wordM_fields (w : Word) : wordM (fS w) (fMaj w).toNat (fD w) (fC5 w) (fO7 w) (fI4 w) = w := by
  have := w.isLt
  apply BitVec.eq_of_toNat_eq
  simp only [wordM, fS, fMaj, fD, fC5, fO7, fI4, toNat_bit, toNat_bits, BitVec.toNat_ofNat]
  omega

@[simp] theorem wordM_eq_iff (hm : m < 256) {t o : BitVec 7} {c : BitVec 5} {i : BitVec 4} : wordM s m t c o i = w ↔
    fS w = s ∧ (fMaj w).toNat = m ∧ fD w = t ∧ fC5 w = c ∧ fO7 w = o ∧ fI4 w = i := by
  constructor
  · rintro rfl
    simp [hm]
  · rintro ⟨rfl, rfl, rfl, rfl, rfl, rfl⟩
    exact wordM_fields w

theorem wordT_fields (w : Word) : wordT (fS w) (fMaj w).toNat (fP3 w) (fOA w) (fOB w) (fREG w) (fCTL w) = w := by
  have := w.isLt
  apply BitVec.eq_of_toNat_eq
  simp only [wordT, fS, fMaj, fP3, fOA, fOB, fREG, fCTL, toNat_bit, toNat_bits, BitVec.toNat_ofNat]
  omega

@[simp] theorem wordT_eq_iff (hm : m < 256) {acc : BitVec 3} {oa ob : BitVec 4} {reg : BitVec 7} {ctl : BitVec 5} :
    wordT s m acc oa ob reg ctl = w ↔
      fS w = s ∧ (fMaj w).toNat = m ∧ fP3 w = acc ∧ fOA w = oa ∧ fOB w = ob ∧ fREG w = reg ∧ fCTL w = ctl := by
  constructor
  · rintro rfl
    simp [hm]
  · rintro ⟨rfl, rfl, rfl, rfl, rfl, rfl, rfl⟩
    exact wordT_fields w
end formats

section overlaps
variable (w : Word)

theorem fI4_split : fI4 w = fScope w ++ BitVec.ofBool (fX0 w) := by
  apply BitVec.eq_of_toNat_eq
  simp only [append_toNat, fI4, fScope, fX0, toNat_bits, BitVec.toNat_ofBool, toNat_bit]
  omega

theorem fCTL_split : fCTL w = fK3 w ++ fX2 w := by
  apply BitVec.eq_of_toNat_eq
  simp only [append_toNat, fCTL, fK3, fX2, toNat_bits]
  omega

theorem fX2_split : fX2 w = BitVec.ofBool (fX1 w) ++ BitVec.ofBool (fX0 w) := by
  apply BitVec.eq_of_toNat_eq
  simp only [append_toNat, fX2, fX1, fX0, toNat_bits, BitVec.toNat_ofBool, toNat_bit]
  omega

theorem fD_split : fD w = fCond w ++ fP18 w := by
  apply BitVec.eq_of_toNat_eq
  simp only [append_toNat, fD, fCond, fP18, toNat_bits]
  omega

/-- The destination field of SETM is its one bit, once the scanner has let it pass. -/
theorem fD_of_le_one (h : (fD w).toNat ≤ 1) : fD w = 0#6 ++ BitVec.ofBool (fH w) := by
  apply BitVec.eq_of_toNat_eq
  simp only [append_toNat, fD, fH, toNat_bits, BitVec.toNat_ofBool, toNat_bit, BitVec.toNat_ofNat] at h ⊢
  omega

/-- The two flags of MDRN. -/
theorem append_fX2 : 0#3 ++ fX2 w = 0#3 ++ BitVec.ofBool (fX1 w) ++ BitVec.ofBool (fX0 w) := by
  rw [fX2_split]
  generalize fX1 w = z
  generalize fX0 w = f
  revert z f; decide

-- The unused low bits that the scanner tests with a mask.

theorem mod_two_eq_zero_iff : w.toNat % 2 = 0 ↔ fX0 w = false := by simp [fX0, bit]

theorem and_14_eq_zero_iff : w.toNat &&& 14 = 0 ↔ fScope w = 0#3 := by
  have h : w.toNat % 2 ^ 4 = (fScope w).toNat * 2 + (fX0 w).toNat := by
    simp only [fScope, fX0, toNat_bits, toNat_bit]
    omega
  rw [and_low _ 4 14 (by decide), h]
  generalize fScope w = e
  generalize fX0 w = q
  revert e q; decide

theorem and_28_eq_zero_iff : w.toNat &&& 28 = 0 ↔ fK3 w = 0#3 := by
  have h : w.toNat % 2 ^ 5 = (fK3 w).toNat * 4 + (fX2 w).toNat := by
    simp only [fK3, fX2, toNat_bits]
    omega
  rw [and_low _ 5 28 (by decide), h]
  generalize fK3 w = k
  generalize fX2 w = g
  revert k g; decide
end overlaps

/-- The fourth value of a field of two bits. -/
theorem eq_zero_of_ne {g : BitVec 2} (h1 : g ≠ 1) (h2 : g ≠ 2) (h3 : g ≠ 3) : g = 0 := by
  revert g; decide

end Sys2Proof.Proofs.WordFields
end

section
/-! The decoder's answers (R48 to R53, R60, R64): what passes the scanner's conditions on a word is well formed, and the word
is its own. Three rules decide each row of the opcode map: an error answers nothing, a check gives its conditions, and a choice gives
its test; with them the fields of the word are those of its format. -/
namespace Sys2Proof.Proofs.Decoded
open Sys2Proof Sys2Proof.Laws Sys2Proof.Proofs.WordFields

/-- An instruction that answers a word is well formed, and its word is that word. -/
def Sound (w : Word) (r : Except ScanReason Instr) : Prop := ∀ i, r = .ok i → i.wf = true ∧ encode i = some w

theorem scanLowest_eq_none_iff (cs : List (Bool × ScanReason)) : scanLowest cs = none ↔ ∀ c ∈ cs, c.1 = false := by
  induction cs with
  | nil => simp [scanLowest]
  | cons c cs ih => cases hc : c.1 <;> simp [scanLowest, hc, ih]

theorem fieldsOk_iff (bad : List Bool) : fieldsOk bad = true ↔ ∀ b ∈ bad, b = false := by simp [fieldsOk]

variable {w : Word}

@[simp] theorem sound_error (r : ScanReason) : Sound w (.error r) := fun _ h => nomatch h

@[simp] theorem sound_check (cs : List (Bool × ScanReason)) (i : Instr) :
    Sound w (check cs i) ↔ ((∀ c ∈ cs, c.1 = false) → i.wf = true ∧ encode i = some w) := by
  rw [← scanLowest_eq_none_iff, Sound, check]
  cases scanLowest cs <;> simp

@[simp] theorem sound_ite (c : Prop) [Decidable c] (x y : Except ScanReason Instr) :
    Sound w (if c then x else y) ↔ (c → Sound w x) ∧ (¬c → Sound w y) := by
  by_cases hc : c <;> simp [hc]

/-- SETM by its one-bit destination; JMPC.l by the range of its destination, c0 to c27. -/
theorem sound_decodeRow0 (hm : (fMaj w).toNat = 0x00 + (fMaj w).toNat % 16) : Sound w (decodeRow0 w) := by
  unfold decodeRow0
  generalize (fMaj w).toNat % 16 = n at hm ⊢
  split <;> simp +contextual [Instr.wf, fieldsOk_iff, encode, hm]
  · exact fun hd _ => fD_of_le_one w hd
  · omega

theorem sound_decodeRow1 (hm : (fMaj w).toNat = 0x10 + (fMaj w).toNat % 16) : Sound w (decodeRow1 w) := by
  unfold decodeRow1
  generalize (fMaj w).toNat % 16 = n at hm ⊢
  split <;> simp +contextual [Instr.wf, fieldsOk_iff, encode, hm, fD_split]

theorem sound_decodeRow2 (hm : (fMaj w).toNat = 0x20 + (fMaj w).toNat % 16) : Sound w (decodeRow2 w) := by
  unfold decodeRow2
  generalize (fMaj w).toNat % 16 = n at hm ⊢
  split <;> simp +contextual [Instr.wf, fieldsOk_iff, encode, hm]

theorem sound_decodeRow3 (hm : (fMaj w).toNat = 0x30 + (fMaj w).toNat % 16) : Sound w (decodeRow3 w) := by
  unfold decodeRow3
  generalize (fMaj w).toNat % 16 = n at hm ⊢
  split <;> simp +contextual [Instr.wf, fieldsOk_iff, encode, hm, fD_split]

theorem sound_decodeRow4 (hm : (fMaj w).toNat = 0x40 + (fMaj w).toNat % 16) : Sound w (decodeRow4 w) := by
  unfold decodeRow4
  generalize (fMaj w).toNat % 16 = n at hm ⊢
  split <;> simp +contextual [Instr.wf, fieldsOk_iff, encode, hm]

/-- VMXIX by the two bits that select its form. -/
theorem sound_decodeRow5 (hm : (fMaj w).toNat = 0x50 + (fMaj w).toNat % 16) : Sound w (decodeRow5 w) := by
  unfold decodeRow5
  generalize (fMaj w).toNat % 16 = n at hm ⊢
  split <;> simp +contextual [Instr.wf, fieldsOk_iff, encode, hm]
  cases h1 : fX1 w <;> cases h0 : fX0 w <;> simp [fX2_split, h1, h0]

/-- The destinations of capabilities are c0 to c27. -/
theorem sound_decodeRow6 (hm : (fMaj w).toNat = 0x60 + (fMaj w).toNat % 16) : Sound w (decodeRow6 w) := by
  unfold decodeRow6
  generalize (fMaj w).toNat % 16 = n at hm ⊢
  split <;> simp +contextual [Instr.wf, fieldsOk_iff, encode, hm]
  all_goals omega

theorem sound_decodeRow7 (hm : (fMaj w).toNat = 0x70 + (fMaj w).toNat % 16) : Sound w (decodeRow7 w) := by
  unfold decodeRow7
  generalize (fMaj w).toNat % 16 = n at hm ⊢
  split <;> simp +contextual [Instr.wf, fieldsOk_iff, encode, hm]

theorem sound_decodeRow8 (hm : (fMaj w).toNat = 0x80 + (fMaj w).toNat % 16) : Sound w (decodeRow8 w) := by
  unfold decodeRow8
  generalize (fMaj w).toNat % 16 = n at hm ⊢
  split <;> simp +contextual [Instr.wf, fieldsOk_iff, encode, hm, fI4_split, mod_two_eq_zero_iff]

theorem sound_decodeRow9 (hm : (fMaj w).toNat = 0x90 + (fMaj w).toNat % 16) : Sound w (decodeRow9 w) := by
  unfold decodeRow9
  generalize (fMaj w).toNat % 16 = n at hm ⊢
  split <;> simp +contextual [Instr.wf, fieldsOk_iff, encode, hm, fI4_split]

/-- MZERO by the one selection that is left; MDRN by its two flags. -/
theorem sound_decodeRowA (hm : (fMaj w).toNat = 0xA0 + (fMaj w).toNat % 16) : Sound w (decodeRowA w) := by
  unfold decodeRowA
  generalize (fMaj w).toNat % 16 = n at hm ⊢
  split <;> simp +contextual [Instr.wf, fieldsOk_iff, encode, hm, fI4_split, fCTL_split, and_14_eq_zero_iff, and_28_eq_zero_iff]
  · intro h3 h1 h2 _ _ _ _
    rw [eq_zero_of_ne h1 h2 h3]
    rfl
  · exact fun _ _ _ => append_fX2 w

theorem sound_decodeRowB (hm : (fMaj w).toNat = 0xB0 + (fMaj w).toNat % 16) : Sound w (decodeRowB w) := by
  unfold decodeRowB
  generalize (fMaj w).toNat % 16 = n at hm ⊢
  split <;> simp +contextual [Instr.wf, fieldsOk_iff, encode, hm]

theorem sound_decodeRowC (hm : (fMaj w).toNat = 0xC0 + (fMaj w).toNat % 16) : Sound w (decodeRowC w) := by
  unfold decodeRowC
  generalize (fMaj w).toNat % 16 = n at hm ⊢
  split <;> simp +contextual [Instr.wf, fieldsOk_iff, encode, hm, fI4_split, and_14_eq_zero_iff]

theorem sound_decodeRowD (hm : (fMaj w).toNat = 0xD0 + (fMaj w).toNat % 16) : Sound w (decodeRowD w) := by
  unfold decodeRowD
  generalize (fMaj w).toNat % 16 = n at hm ⊢
  split <;> simp +contextual [Instr.wf, fieldsOk_iff, encode, hm]

theorem sound_decodeRowE (hm : (fMaj w).toNat = 0xE0 + (fMaj w).toNat % 16) : Sound w (decodeRowE w) := by
  unfold decodeRowE
  generalize (fMaj w).toNat % 16 = n at hm ⊢
  split <;> simp +contextual [Instr.wf, fieldsOk_iff, encode, hm, fI4_split, and_14_eq_zero_iff]

/-- The high half of the opcode selects the row (R60). -/
theorem sound_decodeWord (w : Word) : Sound w (decodeWord w) := by
  unfold decodeWord
  refine (sound_ite ..).mpr ⟨fun _ => sound_error _, fun _ => ?_⟩
  generalize hr : (fMaj w).toNat / 16 = r
  split
  · exact sound_decodeRow0 (by omega)
  · exact sound_decodeRow1 (by omega)
  · exact sound_decodeRow2 (by omega)
  · exact sound_decodeRow3 (by omega)
  · exact sound_decodeRow4 (by omega)
  · exact sound_decodeRow5 (by omega)
  · exact sound_decodeRow6 (by omega)
  · exact sound_decodeRow7 (by omega)
  · exact sound_decodeRow8 (by omega)
  · exact sound_decodeRow9 (by omega)
  · exact sound_decodeRowA (by omega)
  · exact sound_decodeRowB (by omega)
  · exact sound_decodeRowC (by omega)
  · exact sound_decodeRowD (by omega)
  · exact sound_decodeRowE (by omega)
  · exact sound_error _

/-- The lemma of each instruction that has a word; the messages and events have none. -/
theorem encoding_statement (i : Instr) : Encoding.Statement i := by
  cases i with
  | setm => exact Encoding.setm _ _ _ | setms => exact Encoding.setms _ _ | getm => exact Encoding.getm _ _
  | nop => exact Encoding.nop _ | bra => exact Encoding.bra _ _ | brp => exact Encoding.brp _ _ _ _
  | sjoin => exact Encoding.sjoin _ _ | join => exact Encoding.join _ | call => exact Encoding.call _ _
  | ret => exact Encoding.ret _ _ | jmpc => exact Encoding.jmpc _ _ | jmpcLink => exact Encoding.jmpcLink _ _ _
  | exit => exact Encoding.exit _ | yield => exact Encoding.yield _ | sadd => exact Encoding.sadd _ _ _ _ _
  | ssub => exact Encoding.ssub _ _ _ _ _ | smul => exact Encoding.smul _ _ _ _ _ | smulh => exact Encoding.smulh _ _ _ _ _ _
  | sand => exact Encoding.sand _ _ _ _ _ | sor => exact Encoding.sor _ _ _ _ _ | sxor => exact Encoding.sxor _ _ _ _ _
  | sshl => exact Encoding.sshl _ _ _ _ _ | sshr => exact Encoding.sshr _ _ _ _ _ | ssra => exact Encoding.ssra _ _ _ _ _
  | smin => exact Encoding.smin _ _ _ _ _ _ | smax => exact Encoding.smax _ _ _ _ _ _
  | scmp => exact Encoding.scmp _ _ _ _ _ _ _ | ssel => exact Encoding.ssel _ _ _ _ | sbfx => exact Encoding.sbfx _ _ _ _ _
  | spopc => exact Encoding.spopc _ _ _ | spopcP => exact Encoding.spopcP _ _ _ | smovi => exact Encoding.smovi _ _ _
  | slui => exact Encoding.slui _ _ _ | pand => exact Encoding.pand _ _ _ _ | por => exact Encoding.por _ _ _ _
  | pxor => exact Encoding.pxor _ _ _ _ | pnot => exact Encoding.pnot _ _ _ | pmov => exact Encoding.pmov _ _ _
  | pmovFromS => exact Encoding.pmovFromS _ _ _ | pmovToS => exact Encoding.pmovToS _ _ _
  | pmovMask => exact Encoding.pmovMask _ _ | vadd => exact Encoding.vadd _ _ _ _ _ | vsub => exact Encoding.vsub _ _ _ _ _
  | vmul => exact Encoding.vmul _ _ _ _ _ | vmulh => exact Encoding.vmulh _ _ _ _ _ | vmad => exact Encoding.vmad _ _ _ _ _
  | vmin => exact Encoding.vmin _ _ _ _ _ | vmax => exact Encoding.vmax _ _ _ _ _ | vabs => exact Encoding.vabs _ _ _
  | vneg => exact Encoding.vneg _ _ _ | vand => exact Encoding.vand _ _ _ _ _ | vor => exact Encoding.vor _ _ _ _ _
  | vxor => exact Encoding.vxor _ _ _ _ _ | vnot => exact Encoding.vnot _ _ _ | vshl => exact Encoding.vshl _ _ _ _ _
  | vshr => exact Encoding.vshr _ _ _ _ _ | vsra => exact Encoding.vsra _ _ _ _ _ | vcmp => exact Encoding.vcmp _ _ _ _ _ _
  | vsel => exact Encoding.vsel _ _ _ _ _ | vmov => exact Encoding.vmov _ _ _ | vmovImm => exact Encoding.vmovImm _ _ _
  | vmovs => exact Encoding.vmovs _ _ _ | vmovsToS => exact Encoding.vmovsToS _ _ _ | vlid => exact Encoding.vlid _ _ _
  | vclz => exact Encoding.vclz _ _ _ | vpopc => exact Encoding.vpopc _ _ _ | vdiv => exact Encoding.vdiv _ _ _ _ _
  | vrcp => exact Encoding.vrcp _ _ _ | vrsq => exact Encoding.vrsq _ _ _ | vex2 => exact Encoding.vex2 _ _ _
  | vlg2 => exact Encoding.vlg2 _ _ _ | vsqrt => exact Encoding.vsqrt _ _ _ | vcvt => exact Encoding.vcvt _ _ _
  | vpack => exact Encoding.vpack _ _ _ _ _ | vunpk => exact Encoding.vunpk _ _ _ _ | vqnt => exact Encoding.vqnt _ _ _ _
  | vdqnt => exact Encoding.vdqnt _ _ _ _ | vcbk => exact Encoding.vcbk _ _ _ _ | vrng => exact Encoding.vrng _ _ _ _
  | rseed => exact Encoding.rseed _ _ _ | vshfl => exact Encoding.vshfl _ _ _ _ _ | vbfly => exact Encoding.vbfly _ _ _ _
  | vball => exact Encoding.vball _ _ _ | vany => exact Encoding.vany _ _ _ | vall => exact Encoding.vall _ _ _
  | vscan => exact Encoding.vscan _ _ _ _ | vmxix => exact Encoding.vmxix _ _ _ _ | vmxixC => exact Encoding.vmxixC _ _ _ _
  | vmxixD => exact Encoding.vmxixD _ _ _ | vreds => exact Encoding.vreds _ _ _ _ | cgeta => exact Encoding.cgeta _ _ _
  | cgetb => exact Encoding.cgetb _ _ _ | cgetl => exact Encoding.cgetl _ _ _ | cgetp => exact Encoding.cgetp _ _ _
  | cgett => exact Encoding.cgett _ _ _ | cseta => exact Encoding.cseta _ _ _ _ _ | cinc => exact Encoding.cinc _ _ _ _
  | csetb => exact Encoding.csetb _ _ _ _ _ | cprune => exact Encoding.cprune _ _ _ _ | cseal => exact Encoding.cseal _ _ _ _
  | cunsl => exact Encoding.cunsl _ _ _ _ | cmov => exact Encoding.cmov _ _ _ | cmovS => exact Encoding.cmovS _ _ _
  | cmovFromVc => exact Encoding.cmovFromVc _ _ _ | cmovToVc => exact Encoding.cmovToVc _ _ _
  | cmovVc => exact Encoding.cmovVc _ _ _ | ctest => exact Encoding.ctest _ _ _ _ | cldc => exact Encoding.cldc _ _ _ _ _
  | cstc => exact Encoding.cstc _ _ _ _ _ | vcld => exact Encoding.vcld _ _ _ _ _ | vcst => exact Encoding.vcst _ _ _ _ _
  | ld => exact Encoding.ld _ _ _ _ _ | st => exact Encoding.st _ _ _ _ _ | ldu => exact Encoding.ldu _ _ _ _ _
  | stu => exact Encoding.stu _ _ _ _ _ | lds => exact Encoding.lds _ _ _ _ _ | sts => exact Encoding.sts _ _ _ _ _
  | gath => exact Encoding.gath _ _ _ _ _ | scat => exact Encoding.scat _ _ _ _ _ | pref => exact Encoding.pref _ _ _ _ _
  | ldac => exact Encoding.ldac _ _ _ _ _ | strl => exact Encoding.strl _ _ _ _ _ | waitc => exact Encoding.waitc _ _ _ _ _
  | rdcnt => exact Encoding.rdcnt _ _ _ _ | tcpy => exact Encoding.tcpy _ _ _ _ _ | bcpy => exact Encoding.bcpy _ _ _ _
  | publ => exact Encoding.publ _ _ _ _ | fork => exact Encoding.fork _ _ _ | rdvz => exact Encoding.rdvz _ _
  | ende => exact Encoding.ende _ | aadd => exact Encoding.aadd _ _ _ _ _ _ | amin => exact Encoding.amin _ _ _ _ _ _
  | amax => exact Encoding.amax _ _ _ _ _ _ | aand => exact Encoding.aand _ _ _ _ _ _ | aor => exact Encoding.aor _ _ _ _ _ _
  | axor => exact Encoding.axor _ _ _ _ _ _ | axchg => exact Encoding.axchg _ _ _ _ _ _
  | acas => exact Encoding.acas _ _ _ _ _ _ | amxix => exact Encoding.amxix _ _ _ _ _ _
  | axadd => exact Encoding.axadd _ _ _ _ _ _ | axrd => exact Encoding.axrd _ _ _ _ _ _
  | dqpsh => exact Encoding.dqpsh _ _ _ _ _ _ | dqpop => exact Encoding.dqpop _ _ _ _ _ _
  | dqstl => exact Encoding.dqstl _ _ _ _ _ _ | bari => exact Encoding.bari _ _ _ _ | bara => exact Encoding.bara _ _ _ _
  | barw => exact Encoding.barw _ _ _ _ | barx => exact Encoding.barx _ _ _ _ | mclm => exact Encoding.mclm _ _
  | mclmT => exact Encoding.mclmT _ _ _ | mrls => exact Encoding.mrls _ _ | mldo => exact Encoding.mldo _ _ _ _ _
  | mma => exact Encoding.mma _ _ _ _ _ _ | mzero => exact Encoding.mzero _ _ | mzeroF => exact Encoding.mzeroF _ _
  | mzeroT => exact Encoding.mzeroT _ | mrda => exact Encoding.mrda _ _ _ _ | mwra => exact Encoding.mwra _ _ _ _
  | mdrn => exact Encoding.mdrn _ _ _ _ _ _ | tldp => exact Encoding.tldp _ _ _ _ _ | mscl => exact Encoding.mscl _ _ _
  | mcab => exact Encoding.mcab _ _ _ _ | accsv => exact Encoding.accsv _ _ _ _ _ | accrs => exact Encoding.accrs _ _ _ _ _
  | mstat => exact Encoding.mstat _ _ | shtrp => exact Encoding.shtrp _ _ _ _ | shopn => exact Encoding.shopn _ _ _ _
  | shrcv => exact Encoding.shrcv _ _ _ _ | shmul => exact Encoding.shmul _ _ _ _ | shtrc => exact Encoding.shtrc _ _ _ _
  | shbtr => exact Encoding.shbtr _ _ _ _ | shcmp => exact Encoding.shcmp _ _ _ _ | shrvl => exact Encoding.shrvl _ _ _
  | shrvlR => exact Encoding.shrvlR _ _ _ _ | shdeal => exact Encoding.shdeal _ _ _ _ | shsta => exact Encoding.shsta _ _ _ _
  | shdsc => exact Encoding.shdsc _ _ _ _ | shmma => exact Encoding.shmma _ _ _ _ _
  | rcpdef => exact Encoding.rcpdef _ _ _ _ _ | rcppin => exact Encoding.rcppin _ _ _ | rcpunp => exact Encoding.rcpunp _ _ _
  | rcpdrp => exact Encoding.rcpdrp _ _ _ | rcpdrpR => exact Encoding.rcpdrpR _ _ _ | rcpqry => exact Encoding.rcpqry _ _ _
  | enq => exact Encoding.enq _ _ _ _ _ | enqa => exact Encoding.enqa _ _ _ _ | cancl => exact Encoding.cancl _ _ _
  | compl => exact Encoding.compl _ _ _ | teth => exact Encoding.teth _ _ _ | qpsh => exact Encoding.qpsh _ _
  | qpop => exact Encoding.qpop _ _ | sels => exact Encoding.sels _ _ _ | prio => exact Encoding.prio _ _ _
  | phset => exact Encoding.phset _ _ | trap => exact Encoding.trap _ _ | sret => exact Encoding.sret _
  | mfsr => exact Encoding.mfsr _ _ _ | mtsr => exact Encoding.mtsr _ _ _ | mtsrMode => exact Encoding.mtsrMode _ _
  | mtsrAccown => exact Encoding.mtsrAccown _ _ | mtsrPix => exact Encoding.mtsrPix _ _
  | mtsrFlags => exact Encoding.mtsrFlags _ _ | mtsrTrapcause => exact Encoding.mtsrTrapcause _ _
  | pgmap => exact Encoding.pgmap _ _ _ _ | lpinv => exact Encoding.lpinv _ _ _ | lpinvW => exact Encoding.lpinvW _
  | tlbi => exact Encoding.tlbi _ _ _ | tlbiW => exact Encoding.tlbiW _ | cflsh => exact Encoding.cflsh _ _ _ _ _
  | cinv => exact Encoding.cinv _ _ _ _ | snap => exact Encoding.snap _ _ _ | halt => exact Encoding.halt _
  | pixrd => exact Encoding.pixrd _ _ _ | pixwr => exact Encoding.pixwr _ _ _ | scrub => exact Encoding.scrub _ _ _ _
  | _ => exact Encoding.no_word rfl

/-- Settles O56: the lemma of each instruction, and the decoder's rows one after the other. -/
theorem encodeDecode : Obligations.EncodeDecode := ⟨encoding_statement, sound_decodeWord⟩

end Sys2Proof.Proofs.Decoded
end

section
/-! PGMAP, LPINV, TLBI and SNAP where their checks pass (R66, R67, R236 to R239, R427). -/
namespace Sys2Proof.Proofs.PagingInstr
open Sys2Proof Sys2Proof.Machine Sys2Proof.Safety Sys2Proof.Laws.State Sys2Proof.Laws.Ops
open Sys2Proof.Proofs.Supervisor

-- Scans and the wing of a wave.

theorem wingNoOf_unlockPages (s : State) (wing : Nat) (ps : List Nat) (k : Nat) :
    wingNoOf (unlockPages s wing ps) k = wingNoOf s k :=
  foldl_keeps (wingNoOf · k) dropLock (fun _ _ => rfl) _ s

theorem wingNoOf_endScan (s : State) (wing : Nat) (q : Option Scan) (keep : Bool) (k : Nat) :
    wingNoOf (endScan s wing q keep) k = wingNoOf s k := by
  cases q with
  | none => rfl
  | some q => cases keep with
    | false => exact wingNoOf_unlockPages s wing q.pages k
    | true => rfl

/-- The end of the scans whose request is gone moves no wave to another wing. -/
theorem wingNoOf_tendScans (s : State) (wing k : Nat) : wingNoOf (tendScans s wing) k = wingNoOf s k := by
  rw [tendScans]
  split
  · rfl
  · refine foldl_keeps (wingNoOf · k) _ (fun t q => ?_) _ s
    split
    · rfl
    · exact wingNoOf_endScan ..

-- PGMAP.

/-- Tables that answer a request with a status end its scan; the status goes into s[T] (R236, R237). -/
theorem pgmapGo_status (s s' : State) (c : Ctx) (sw : Bool) (t : BitVec 7) (va arg : Nat) (r : MapReq) (v : DWord) :
    pgmapGo s c sw t va r arg (.status s' v) = .ok (finishRegs (endScan s' (wingNoOf s c.k) (scanOf s c)
      (decide (v.toNat / 2 ^ 56 = 0))) c sw fun f => setS f t.toNat v) := rfl

section pgmap
variable {s : State} (h : BySlot s) (hs : hasSys (ctx s) = true) (sw : Bool) (t b : BitVec 7) (cr : BitVec 5)
  (hcause : pgmapCause (getC (ctx s).rd cr.toNat) (mapReq (getS (ctx s).rd b.toNat)) (capAddr (getC (ctx s).rd cr.toNat))
    (worldOf s (ctx s).k) = none) (hhold : (ctx s).hold = .none)
include h hs hcause hhold

/-- It waits while another request of the wing is in its scan (R237). -/
theorem exec_pgmap_waits (hb : scanBusy s (wingNoOf s (ctx s).k) (scanOf s (ctx s)) = true) :
    exec (.pgmap sw t cr b) s = .next (waitWith s (ctx s) .poll) :=
  runSys_ok h hs (by simp only [opC, opS, hcause, hhold, hb, if_true])

theorem exec_pgmap_status (hb : scanBusy s (wingNoOf s (ctx s).k) (scanOf s (ctx s)) = false) {s' : State} {v : DWord}
    (hm : mapRun (tendScans s (wingNoOf s (ctx s).k)) (wingNoOf s (ctx s).k) (capAddr (getC (ctx s).rd cr.toNat))
      (mapReq (getS (ctx s).rd b.toNat)) (getS (ctx s).rd t.toNat).toNat false
      (((scanOf s (ctx s)).map (·.got)).getD []) = .status s' v) :
    exec (.pgmap sw t cr b) s = .next (finishRegs (endScan s' (wingNoOf s (ctx s).k)
      (scanOf (tendScans s (wingNoOf s (ctx s).k)) (ctx s)) (decide (v.toNat / 2 ^ 56 = 0))) (ctx s) sw
      fun f => setS f t.toNat v) :=
  runSys_ok h hs (by
    simp only [opC, opS, hcause, hhold, hb, hm, Bool.false_eq_true, if_false, pgmapGo_status, wingNoOf_tendScans])
end pgmap

-- LPINV and TLBI.

/-- The range of a capability of the wave's world, with its tag and unsealed, and of whole pages (R239). -/
theorem pageRange_ok {s : State} {c : Ctx} {a b : BitVec 7} (htag : (getC c.rd a.toNat).tag = true)
    (hworld : capWorld (getC c.rd a.toNat) = worldOf s c.k) (hotype : capOtype (getC c.rd a.toNat) = 0)
    (haddr : capAddr (getC c.rd a.toNat) % 65536 = 0) (hn : (getS c.rd b.toNat).toNat % 65536 = 0) :
    pageRange s c a b = .ok (capAddr (getC c.rd a.toNat), capAddr (getC c.rd a.toNat) + (getS c.rd b.toNat).toNat) := by
  simp [pageRange, rangeCause, opC, opS, htag, hworld, hotype, haddr, hn]

section tlbiRange
variable {s : State} {c : Ctx} (sw : Bool) {lo hi : Nat}

theorem tlbiRange_empty (hr : hi ≤ lo) : tlbiRange sw lo hi s c = .ok (finish s c sw) := if_pos hr

/-- It waits for the accesses that use a translation of the range (log 9). -/
theorem tlbiRange_waits (hr : lo < hi)
    (hu : usesPages (invalidate s (wingNoOf s c.k) lo hi true) (wingNoOf s c.k) lo hi = true) :
    tlbiRange sw lo hi s c = .ok (waitWith (invalidate s (wingNoOf s c.k) lo hi true) c .busy) :=
  (if_neg (Nat.not_le.mpr hr)).trans (if_pos hu)

theorem tlbiRange_frees (hr : lo < hi)
    (hu : usesPages (invalidate s (wingNoOf s c.k) lo hi true) (wingNoOf s c.k) lo hi = false) :
    tlbiRange sw lo hi s c = .ok (finish (freeAfterTlbi (invalidate s (wingNoOf s c.k) lo hi true) (wingNoOf s c.k) lo hi)
      c sw) :=
  (if_neg (Nat.not_le.mpr hr)).trans (if_neg (by rw [hu]; exact Bool.false_ne_true))
end tlbiRange

section ranged
variable {s : State} (h : BySlot s) (hs : hasSys (ctx s) = true) (sw : Bool) {a b : BitVec 7} {lo hi : Nat}
  (hr : pageRange s (ctx s) a b = .ok (lo, hi))
include h hs hr

theorem exec_lpinv : exec (.lpinv sw a b) s =
    .next (finish (if hi ≤ lo then s else invalidate s (wingNoOf s (ctx s).k) lo hi false) (ctx s) sw) :=
  runSys_ok h hs (by rw [hr]; rfl)

theorem exec_tlbi {t : State} (ht : tlbiRange sw lo hi s (ctx s) = .ok t) : exec (.tlbi sw a b) s = .next t :=
  runSys_ok h hs (by rw [hr]; exact ht)
end ranged

-- SNAP.

section snap
variable {s : State} (h : BySlot s) (sw : Bool) (t : BitVec 7) (imm : BitVec 16)
include h

/-- At its edge a capture gives its number (R427). -/
theorem exec_snap_latched {j : Nat} (hj : (ctx s).hold = .latched j) :
    exec (.snap sw t imm) s = .next (retire s sw (setS (ctx s).live t.toNat (BitVec.ofNat 64 j))) := by
  simp only [exec, execSnap]
  exact runState_ok (allowed_slot h _) (by rw [hj]; rfl)

variable (hj : ∀ j, (ctx s).hold ≠ .latched j)
include hj

theorem exec_snap_unarmed (ha : (wingOf s (ctx s).k).armed.program = false) :
    exec (.snap sw t imm) s = .next (retire s sw (setS (ctx s).live t.toNat 0)) := by
  simp only [exec, execSnap]
  refine runState_ok (allowed_slot h _) ?_
  split
  · exact absurd ‹_› (hj _)
  · simp only [ha, Bool.false_and, Bool.false_eq_true, if_false]
    rfl

theorem exec_snap_joins (ha : (wingOf s (ctx s).k).armed.program = true) (hc : s.capHeld = none) :
    exec (.snap sw t imm) s = .next (waitWith (capTrigger s [((ctx s).k, (ctx s).pc, imm)]) (ctx s) .latch) := by
  simp only [exec, execSnap]
  refine runState_ok (allowed_slot h _) ?_
  split
  · exact absurd ‹_› (hj _)
  · simp [ha, hc]

/-- While a capture is held, another one is not taken (R426). -/
theorem exec_snap_held (ha : (wingOf s (ctx s).k).armed.program = true) (hc : s.capHeld ≠ none) :
    exec (.snap sw t imm) s = .next (finishRegs (capTrigger s []) (ctx s) sw fun f => setS f t.toNat 0) := by
  simp only [exec, execSnap]
  refine runState_ok (allowed_slot h _) ?_
  split
  · exact absurd ‹_› (hj _)
  · simp [ha, hc]
end snap

/-- Settles O47: each instruction by its equation. -/
theorem pagingInstructions : Obligations.PagingInstructions := by
  intro s sw t a b cr imm
  dsimp only
  intro h
  refine ⟨fun hs => ?_, fun ha hj => exec_snap_unarmed h sw t imm hj ha, fun ha hc hj => exec_snap_joins h sw t imm hj ha hc,
    fun ha hc hj => exec_snap_held h sw t imm hj ha hc, fun j => exec_snap_latched h sw t imm⟩
  have all : (0 : Nat) < 2 ^ 57 := by decide
  refine ⟨runSys_ok h hs rfl, fun hu => runSys_ok h hs (tlbiRange_frees sw all hu),
    fun hu => runSys_ok h hs (tlbiRange_waits sw all hu), ?_, ?_,
    fun s' v hk hb hh hm => exec_pgmap_status h hs sw t b cr hk hh hb hm,
    fun hk hb hh => exec_pgmap_waits h hs sw t b cr hk hh hb⟩
  · rintro ⟨htag, hworld, hotype, haddr, hn⟩ h0
    have hr := pageRange_ok htag hworld hotype haddr hn
    have hle : capAddr (getC (ctx s).rd a.toNat) + (getS (ctx s).rd b.toNat).toNat ≤ capAddr (getC (ctx s).rd a.toNat) := by
      rw [h0]; exact Nat.le_refl _
    exact ⟨(exec_lpinv h hs sw hr).trans (by rw [if_pos hle]), exec_tlbi h hs sw hr (tlbiRange_empty sw hle)⟩
  · rintro ⟨htag, hworld, hotype, haddr, hn⟩ h0
    have hr := pageRange_ok htag hworld hotype haddr hn
    have hlt := Nat.lt_add_of_pos_right (n := capAddr (getC (ctx s).rd a.toNat)) h0
    exact ⟨(exec_lpinv h hs sw hr).trans (by rw [if_neg (Nat.not_le.mpr hlt)]),
      fun hu => exec_tlbi h hs sw hr (tlbiRange_frees sw hlt hu)⟩

end Sys2Proof.Proofs.PagingInstr
end

section
/-! The arithmetic of the scalar instructions as the spec's tables write it (R113 to R118): each function of the model on 64-bit
words as one formula in numbers. -/
namespace Sys2Proof.Proofs.ScalarWords
open Sys2Proof Sys2Proof.Machine Sys2Proof.Laws.Words

-- Sums, differences and products mod 2^64.

theorem add64_eq (a b : DWord) : a + b = BitVec.ofNat 64 (a.toNat + b.toNat) := by
  rw [BitVec.ofNat_add, BitVec.ofNat_toNat, BitVec.ofNat_toNat, BitVec.setWidth_eq, BitVec.setWidth_eq]

theorem sub64_eq (a b : DWord) : a - b = BitVec.ofInt 64 ((a.toNat : Int) - b.toNat) := by
  rw [Int.sub_eq_add_neg, BitVec.ofInt_add, BitVec.ofInt_neg, BitVec.ofInt_natCast, BitVec.ofInt_natCast,
    BitVec.ofNat_toNat, BitVec.ofNat_toNat, BitVec.setWidth_eq, BitVec.setWidth_eq, BitVec.sub_eq_add_neg]

theorem mul64_eq (a b : DWord) : a * b = BitVec.ofNat 64 (a.toNat * b.toNat) := by
  rw [BitVec.ofNat_mul, BitVec.ofNat_toNat, BitVec.ofNat_toNat, BitVec.setWidth_eq, BitVec.setWidth_eq]

-- Shifts by the whole of a 64-bit amount.

theorem shl64_eq (a b : DWord) : shl64 a b = if 64 ≤ b.toNat then 0 else BitVec.ofNat 64 (a.toNat * 2 ^ b.toNat) := by
  rw [shl64]
  by_cases h : b.toNat < 64
  · rw [if_pos h, if_neg (Nat.not_le.mpr h)]
    apply BitVec.eq_of_toNat_eq
    rw [BitVec.toNat_shiftLeft, Nat.shiftLeft_eq, BitVec.toNat_ofNat]
  · rw [if_neg h, if_pos (Nat.not_lt.mp h)]

theorem shr64_eq (a b : DWord) : shr64 a b = BitVec.ofNat 64 (a.toNat / 2 ^ b.toNat) := by
  rw [shr64]
  split
  · apply BitVec.eq_of_toNat_eq
    rw [BitVec.toNat_ushiftRight, Nat.shiftRight_eq_div_pow, BitVec.toNat_ofNat,
      Nat.mod_eq_of_lt (lt_of_le_of_lt (Nat.div_le_self ..) a.isLt)]
  · next h =>
    have hlt : a.toNat < 2 ^ b.toNat := lt_of_lt_of_le a.isLt (Nat.pow_le_pow_right (by decide) (Nat.not_lt.mp h))
    rw [Nat.div_eq_of_lt hlt]
    rfl

/-- Beyond the width an arithmetic shift leaves only the sign. -/
theorem sshiftRight_min (a : DWord) (n : Nat) : a.sshiftRight (min n 64) = a.sshiftRight n := by
  apply BitVec.eq_of_getLsbD_eq
  intro j hj
  rw [BitVec.getLsbD_sshiftRight, BitVec.getLsbD_sshiftRight]
  by_cases h : n ≤ 64
  · rw [Nat.min_eq_left h]
  · rw [if_neg (c := n + j < 64) (by omega), if_neg (by omega)]

theorem sra64_eq (a b : DWord) : sra64 a b = BitVec.ofInt 64 (a.toInt / ((2 ^ b.toNat : Nat) : Int)) := by
  rw [sra64, sshiftRight_min, ← Int.shiftRight_eq_div_pow]
  rfl

-- Comparisons.

/-- The number for which an operand stands: unsigned where X[0] = 1, else two's complement (R113). -/
def asInt (u : Bool) (x : DWord) : Int := if u then (x.toNat : Int) else x.toInt

theorem lt64_iff (u : Bool) (a b : DWord) : lt64 u a b = true ↔ asInt u a < asInt u b := by
  cases u
  · exact BitVec.slt_iff_toInt_lt
  · exact BitVec.ult_iff_lt.trans Int.ofNat_lt.symm

theorem not_lt64_iff (u : Bool) (a b : DWord) : (!lt64 u a b) = true ↔ asInt u b ≤ asInt u a := by
  rw [Bool.not_eq_true', ← Bool.not_eq_true, lt64_iff, not_lt]

theorem asInt_inj (u : Bool) (a b : DWord) : asInt u a = asInt u b ↔ a = b := by
  cases u
  · exact BitVec.toInt_inj
  · exact Int.ofNat_inj.trans BitVec.toNat_inj

theorem asInt_le_iff (u : Bool) (a b : DWord) :
    asInt u a ≤ asInt u b ↔ if u then a.toNat ≤ b.toNat else a.toInt ≤ b.toInt := by
  cases u
  · exact Iff.rfl
  · exact Int.ofNat_le

theorem min64_eq (u : Bool) (a b : DWord) :
    min64 u a b = if (if u then a.toNat ≤ b.toNat else a.toInt ≤ b.toInt) then a else b := by
  simp only [min64, lt64_iff, ← asInt_le_iff, ← not_le, ite_not]

theorem max64_eq (u : Bool) (a b : DWord) :
    max64 u a b = if (if u then b.toNat ≤ a.toNat else b.toInt ≤ a.toInt) then a else b := by
  simp only [max64, lt64_iff, ← asInt_le_iff, ← not_le, ite_not]

/-- The conditions of R114 on the numbers compared: EQ, NE, LT, LE, GT and, for the rest, GE. -/
def condHolds (cc : Nat) (x y : Int) : Prop :=
  match cc with
  | 0 => x = y
  | 1 => x ≠ y
  | 2 => x < y
  | 3 => x ≤ y
  | 4 => y < x
  | _ => y ≤ x

theorem cond64_iff (cc : Nat) (u : Bool) (a b : DWord) :
    cond64 cc u a b = true ↔ condHolds cc (asInt u a) (asInt u b) := by
  match cc with
  | 0 => exact beq_iff_eq.trans (asInt_inj u a b).symm
  | 1 => exact bne_iff_ne.trans (asInt_inj u a b).not.symm
  | 2 => exact lt64_iff u a b
  | 3 => exact not_lt64_iff u b a
  | 4 => exact lt64_iff u b a
  | _ + 5 => exact not_lt64_iff u a b

-- Bit fields, bit counts and immediates.

theorem bfx64_eq (x : Bool) (a b : DWord) :
    let len := min (b.toNat / 256 % 128) 64
    let f := a.toNat / 2 ^ (b.toNat % 64) % 2 ^ len
    bfx64 x a b = if x = true ∧ 0 < len ∧ 2 ^ (len - 1) ≤ f then BitVec.ofInt 64 ((f : Int) - (2 ^ len : Nat))
      else BitVec.ofNat 64 f := by
  have hpos : Machine.bits b.toNat 5 0 = b.toNat % 64 := congrArg (· % 64) (Nat.div_one b.toNat)
  have hlen : Machine.bits b.toNat 14 8 = b.toNat / 256 % 128 := rfl
  simp only [bfx64, hpos, hlen, Bool.and_eq_true, decide_eq_true_eq, and_assoc]

/-- The count of the low `n` bits is the number of places that hold a one. -/
theorem popc_eq_countP (v n : Nat) : popc v n = (List.range n).countP v.testBit := by
  induction n generalizing v with
  | zero => rfl
  | succ n ih =>
    have hlow : (if v.testBit 0 = true then 1 else 0) = v % 2 := by
      simp only [Nat.testBit_zero, decide_eq_true_eq]
      split <;> omega
    have hrest : v.testBit ∘ Nat.succ = (v / 2).testBit := funext fun i => Nat.testBit_succ v i
    rw [popc, ih, List.range_succ_eq_map, List.countP_cons, List.countP_map, hrest, hlow, Nat.add_comm]

theorem slui_eq (x : DWord) (i : BitVec 16) : x <<< 16 + i.setWidth 64 = BitVec.ofNat 64 (x.toNat * 2 ^ 16 + i.toNat) := by
  apply BitVec.eq_of_toNat_eq
  simp only [BitVec.toNat_add, BitVec.toNat_shiftLeft, Nat.shiftLeft_eq, BitVec.toNat_setWidth, BitVec.toNat_ofNat]
  rw [← Nat.add_mod]

-- MODE.

/-- The values that SETMS takes hold a reserved value in no field (R55, R100). -/
theorem modeBad_eq_false_iff (m : BitVec 32) : modeBad m = false ↔
    m.toNat / 2 ^ 21 = 0 ∧ m.toNat / 2 ^ 14 % 4 = 0 ∧ m.toNat % 16 < 9 ∧ m.toNat / 2 ^ 10 % 8 < 6 ∧
      etypeAssigned (m.toNat / 2 ^ 5 % 32) = true ∧ etypeAssigned (m.toNat / 2 ^ 16 % 32) = true := by
  have htop : Machine.bits m.toNat 31 21 = m.toNat / 2 ^ 21 := Nat.mod_eq_of_lt (by have := m.isLt; omega)
  have hety : modeEty m = m.toNat / 2 ^ 5 % 32 := rfl
  have hsty : modeSty m = m.toNat / 2 ^ 16 % 32 := rfl
  have hrnd : modeRound m = m.toNat / 2 ^ 10 % 8 := rfl
  have hgrd : modeGuard m = m.toNat % 16 := rfl
  have hres : Machine.bits m.toNat 15 14 = m.toNat / 2 ^ 14 % 4 := rfl
  simp only [modeBad, etypeAssigned, htop, hety, hsty, hrnd, hgrd, hres, Bool.or_eq_false_iff, bne_eq_false_iff_eq,
    Bool.not_eq_false', decide_eq_false_iff_not, not_le, and_assoc]

/-- MODE with its upper or its lower half replaced (R99). -/
theorem modeHalf_eq (h : Bool) (m : BitVec 32) (i : BitVec 16) :
    (if h then i ++ m.extractLsb' 0 16 else m.extractLsb' 16 16 ++ i) =
      BitVec.ofNat 32 (if h then i.toNat * 2 ^ 16 + m.toNat % 2 ^ 16 else m.toNat / 2 ^ 16 * 2 ^ 16 + i.toNat) := by
  have := m.isLt
  have := i.isLt
  apply BitVec.eq_of_toNat_eq
  cases h <;>
    simp only [Bool.false_eq_true, if_true, if_false, append_toNat, BitVec.extractLsb'_toNat, Nat.shiftRight_eq_div_pow,
      BitVec.toNat_ofNat] <;>
    omega

end Sys2Proof.Proofs.ScalarWords
end

section
/-! The scalar, predicate and MODE instructions, and calls and jumps (R99 to R101, R110 to R119): one equation for each shared
form, and with it and the arithmetic of the scalar words what each instruction writes. -/
namespace Sys2Proof.Proofs.ScalarInstr
open Sys2Proof Sys2Proof.Machine Sys2Proof.Safety Sys2Proof.Laws.Ops Sys2Proof.Proofs.Slots Sys2Proof.Proofs.ScalarWords

-- Scalar instructions.

/-- The B operand: the field where X[1] = 1, else s[B] (R113). -/
theorem opB_eq (c : Ctx) (b : BitVec 7) (i : Bool) :
    opB c b i = if i then BitVec.ofNat 64 b.toNat else getS c.rd b.toNat := by
  rw [opB, BitVec.ofNat_toNat]

/-- An instruction of the shared form writes its function of the operands into s[D]. -/
theorem scalar2_eq {s : State} {sw : Bool} {d a b : BitVec 7} {i : Bool} {f : DWord → DWord → DWord} {v : DWord}
    (h : f (opS (ctx s) a) (opB (ctx s) b i) = v) :
    scalar2 s sw d a b i f = .next (retire s sw (setS (ctx s).live d.toNat v)) :=
  h ▸ runLocal_ok rfl rfl

/-- An instruction that any source may execute writes the registers that its meaning gives. -/
theorem runLocal_any {s : State} {sw : Bool} {f : Ctx → RegFile} {r : RegFile} (h : f (ctx s) = r) :
    runLocal s sw .any (fun c => .ok (f c)) = .next (retire s sw r) :=
  h ▸ runLocal_ok rfl rfl

/-- Settles O1: the shared form, with each function as the formula of R113. -/
theorem scalarArithmetic : Obligations.ScalarArithmetic := by
  intro s sw i u fd fa fb
  simp only [← opB_eq, exec, execSadd, execSsub, execSmul, execSmulh, execSand, execSor, execSxor, execSshl, execSshr,
    execSsra, execSmin, execSmax]
  exact ⟨scalar2_eq (add64_eq ..), scalar2_eq (sub64_eq ..), scalar2_eq (mul64_eq ..), scalar2_eq rfl, scalar2_eq rfl,
    scalar2_eq rfl, scalar2_eq rfl, scalar2_eq (shl64_eq ..), scalar2_eq (shr64_eq ..), scalar2_eq (sra64_eq ..),
    scalar2_eq (min64_eq ..), scalar2_eq (max64_eq ..)⟩

/-- Settles O2: SBFX by the shared form, the others by the registers that they write. -/
theorem scalarFields : Obligations.ScalarFields := by
  intro s sw x fd fa fb imm
  simp only [exec, execSsel, execSbfx, execSpopc, execSpopcP, execSmovi, execSlui]
  have hsel : ∀ v a b : DWord, (if v ≠ 0 then a else b) = if v = 0 then b else a := fun v a b => ite_not ..
  exact ⟨runLocal_any (congrArg (setS _ _) (hsel ..)), scalar2_eq (bfx64_eq ..),
    runLocal_any (congrArg (fun n => setS _ _ (BitVec.ofNat 64 n)) (popc_eq_countP ..)),
    runLocal_any (congrArg (fun n => setS _ _ (BitVec.ofNat 64 n)) (popc_eq_countP ..)),
    runLocal_any rfl, runLocal_any (congrArg (setS _ _) (slui_eq ..))⟩

-- Predicates.

/-- A predicate instruction replaces the bits of MASK in p[D] (R98). -/
theorem predOp_eq {s : State} {sw : Bool} {d : BitVec 7} {f : Ctx → BitVec 32} {v : BitVec 32} (h : f (ctx s) = v) :
    predOp s sw d f = .next (retire s sw (withPred s d.toNat v)) :=
  h ▸ runLocal_ok rfl rfl

section scmp
variable {s : State} (sw : Bool) {cc : BitVec 4} (p : BitVec 3) {a b : BitVec 7} {i u : Bool}

/-- SCMP writes ones where its condition holds of the operands' numbers (R114). -/
theorem exec_scmp_holds (h : condHolds cc.toNat (asInt u (opS (ctx s) a)) (asInt u (opB (ctx s) b i))) :
    exec (.scmp sw cc p a b i u) s = .next (retire s sw (withPred s p.toNat 0xFFFFFFFF)) := by
  simp only [exec, execScmp]
  exact runLocal_any (congrArg (writeP _ _ _) (if_pos ((cond64_iff ..).mpr h)))

theorem exec_scmp_fails (h : ¬ condHolds cc.toNat (asInt u (opS (ctx s) a)) (asInt u (opB (ctx s) b i))) :
    exec (.scmp sw cc p a b i u) s = .next (retire s sw (withPred s p.toNat 0)) := by
  simp only [exec, execScmp]
  exact runLocal_any (congrArg (writeP _ _ _) (if_neg (mt (cond64_iff ..).mp h)))
end scmp

/-- Settles O3: SCMP by its condition, PMOV to S by the register that it writes, the others by the predicate form. -/
theorem predicateWrites : Obligations.PredicateWrites := by
  intro s sw i u cc p fd fa fb
  simp only [← opB_eq]
  refine ⟨exec_scmp_holds sw p, exec_scmp_fails sw p, ?_⟩
  simp only [exec, execPand, execPor, execPxor, execPnot, execPmov, execPmovFromS, execPmovToS, execPmovMask]
  exact ⟨predOp_eq rfl, predOp_eq rfl, predOp_eq rfl, predOp_eq rfl, predOp_eq rfl, predOp_eq (BitVec.ofNat_toNat ..).symm,
    runLocal_any (congrArg (setS _ _) (BitVec.ofNat_toNat ..).symm), predOp_eq rfl⟩

-- MODE.

section setms
variable {s : State} (sw : Bool) {a : BitVec 7}

/-- SETMS replaces the whole of MODE where the value is legal, else it traps (R100). -/
theorem exec_setms_legal (h : modeBad ((opS (ctx s) a).setWidth 32) = false) :
    exec (.setms sw a) s = .next (retire s sw { (ctx s).live with mode := (opS (ctx s) a).setWidth 32 }) := by
  simp only [exec, execSetms]
  exact runLocal_ok rfl (if_neg (Bool.eq_false_iff.mp h))

theorem exec_setms_reserved (h : modeBad ((opS (ctx s) a).setWidth 32) = true) :
    exec (.setms sw a) s = .next (trapped s { cause := 0x0A }) := by
  simp only [exec, execSetms]
  exact runLocal_error rfl (if_pos h)
end setms

/-- Settles O4: SETM by the halves of MODE, SETMS by its check, GETM by the register that it writes. -/
theorem modeWrites : Obligations.ModeWrites := by
  intro s sw h fd fa imm
  dsimp only
  have hlow : (getS (ctx s).rd fa.toNat).toNat % 2 ^ 32 = ((opS (ctx s) fa).setWidth 32).toNat :=
    (BitVec.toNat_setWidth ..).symm
  rw [hlow, ← modeBad_eq_false_iff, BitVec.ofNat_toNat, BitVec.setWidth_eq, Bool.not_eq_false, BitVec.ofNat_toNat]
  refine ⟨?_, exec_setms_legal sw, exec_setms_reserved sw, ?_⟩
  · simp only [exec, execSetm]
    exact runLocal_any (congrArg (fun m => { (ctx s).live with mode := m }) (modeHalf_eq ..))
  · simp only [exec, execGetm]
    exact runLocal_any rfl

-- Calls and jumps.

/-- A control transfer of a slot that nothing stops. -/
theorem runFlow_slot {s : State} (h : BySlot s) {f : Ctx → Except Trap (DWord × Wave)} {pc : DWord} {w : Wave}
    (hf : f (ctx s) = .ok (pc, w)) : runFlow s .wave f = .next (setWave s (ctx s).k (goTo (ctx s) pc w)) :=
  runState_ok (allowed_slot h _) (by rw [hf]; rfl)

theorem exec_call {s : State} (h : BySlot s) (sw : Bool) (j : BitVec 23) :
    exec (.call sw j) s = .next (setWave s (ctx s).k (goTo (ctx s) (target (ctx s).pc j) (putLive (ctx s).w (ctx s).src
      ((lanesOf (ctx s).mask).foldl (fun r i => setPair r 126 i ((ctx s).pc + 4).toNat) (ctx s).live)))) := by
  simp only [exec, execCall]
  exact runFlow_slot h rfl

/-- A mask with a lowest lane is not empty. -/
theorem lowLane_ne_zero {m : BitVec 32} {i : Nat} (h : lowLane m = some i) : m ≠ 0 := by
  rintro rfl
  cases (show lowLane 0 = none by decide).symm.trans h

/-- RET's check of the low bits passes an aligned address (R111). -/
theorem and_three_eq_zero {n : Nat} (h : n % 4 = 0) : BitVec.ofNat 64 n &&& 3 = 0 := by
  have hlow : n % 2 ^ 64 &&& 3 = n % 2 ^ 64 % 4 := Nat.and_two_pow_sub_one_eq_mod _ 2
  have hmod : n % 2 ^ 64 % 4 = 0 := by omega
  apply BitVec.eq_of_toNat_eq
  rw [BitVec.toNat_and, BitVec.toNat_ofNat]
  exact hlow.trans hmod

/-- RET goes to the pair of the lowest lane of MASK (R111). -/
theorem exec_ret {s : State} (h : BySlot s) (sw : Bool) {a : BitVec 7} {i : Nat} (hi : lowLane (ctx s).mask = some i)
    (heven : a.toNat % 2 = 0) (halign : getPair (ctx s).rd a.toNat i % 4 = 0) :
    exec (.ret sw a) s = .next (jumped s (BitVec.ofNat 64 (getPair (ctx s).rd a.toNat i))) := by
  have hodd : ¬ a.getLsbD 0 = true := by rw [BitVec.getLsbD, Nat.testBit_zero, decide_eq_true_eq]; omega
  have ht : retTarget s (ctx s) a = BitVec.ofNat 64 (getPair (ctx s).rd a.toNat i) := by simp only [retTarget, hi]
  simp only [exec, execRet]
  refine runState_ok (allowed_slot h _) ((if_neg hodd).trans ?_)
  simp only [ht, and_three_eq_zero halign, ne_eq, not_true_eq_false, if_false, lowLane_ne_zero hi]
  rfl

/-- A code capability of the wing, unsealed or a sentry, to an aligned address passes the checks of JMPC (R112). -/
theorem jumpCause_none {k : Cap} {world : Nat} (htag : k.tag = true) (hexec : capHas k pEXEC = true)
    (hworld : capWorld k = world) (htype : capOtype k = 0 ∨ capOtype k = 1) (haddr : capAddr k % 4 = 0) :
    jumpCause k world = none := by
  rcases htype with h | h <;> simp [jumpCause, htag, hexec, hworld, h, haddr]

/-- The wave at a jump that links: c[D] receives the sentry for the return (R112). -/
def linkedWave (c : Ctx) : Option Nat → Wave
  | some d => { c.w with regs := setC c.w.regs d ⟨true, (withOtype (withAddr (getC c.rd 31) (c.pc + 4).toNat) 1).bits⟩ }
  | none => c.w

theorem jumpVia_passes {s : State} (h : BySlot s) {a : BitVec 7} (link : Option Nat)
    (hk : jumpCause (getC (ctx s).rd a.toNat) (worldOf s (ctx s).k) = none) :
    jumpVia s a link = .next (setWave s (ctx s).k (goTo (ctx s) (BitVec.ofNat 64 (capAddr (getC (ctx s).rd a.toNat)))
      (setPcc (linkedWave (ctx s) link) (ctx s).src (withOtype (getC (ctx s).rd a.toNat) 0)))) := by
  refine runFlow_slot h ?_
  simp only [opC, hk]
  cases link <;> rfl

/-- Settles O9: the transfer of each, RET by its lowest lane and JMPC by its checks. -/
theorem callsAndJumps : Obligations.CallsAndJumps := by
  intro s sw j d a
  dsimp only
  intro h
  refine ⟨?_, fun i hi heven halign => exec_ret h sw hi heven halign, fun htag hexec hworld htype haddr => ?_⟩
  · rw [exec_call h, target_eq]
    rfl
  · have hk := jumpCause_none htag hexec hworld htype haddr
    simp only [exec, execJmpc, execJmpcLink]
    exact ⟨jumpVia_passes h none hk, jumpVia_passes h (some d.toNat) hk⟩

end Sys2Proof.Proofs.ScalarInstr
end

section
/-! Rounding once (R126, R127, R129): the pattern that a multiple of the spacing takes, the multiple that each mode chooses,
and with them what `roundMag` answers for an exact magnitude. -/
namespace Sys2Proof.Proofs.Rounding
open Sys2Proof Sys2Proof.Machine Sys2Proof.Safety

variable {t : Nat} {k : Rnd} {neg : Bool}

-- The pattern of a multiple of the spacing.

/-- The exponent of a magnitude m × 2^e. -/
def lgOf (m : Nat) (e : Int) : Int := Nat.log2 m + e

/-- The exponent of the spacing at magnitudes of the exponent `lg` (R126). -/
def unitExp (t : Nat) (lg : Int) : Int := max lg (1 - biasOf t) - fracBits t

/-- The FLAGS bits of a rounding that is not exact, at the exponent `lg` (R126). -/
def inexactFl (t : Nat) (lg : Int) : Nat := fINX + if lg < 1 - biasOf t then fUNF else 0

/-- The exponent and fraction fields of `n` units 2^ue, for n below 2^(fracBits + 1). -/
def magPat (t n : Nat) (ue : Int) : Nat :=
  let p := fracBits t + 1
  if n < 2 ^ (p - 1) then n else (ue + p - 1 + biasOf t).toNat * 2 ^ (p - 1) + (n - 2 ^ (p - 1))

/-- The fields of `n` units, where 2^(fracBits + 1) of them take the next exponent. -/
def roundedPat (t n : Nat) (ue : Int) : Nat :=
  let u := if 2 ^ (fracBits t + 1) ≤ n then (n / 2, ue + 1) else (n, ue)
  magPat t u.1 u.2

/-- The result with the fields `mag`, or what ovf gives beyond the range; `fl` are the flags of the rounding (R127). -/
def packed (t : Nat) (k : Rnd) (neg : Bool) (mag fl : Nat) : Res :=
  if maxPat t < mag then ⟨(ovf t k neg).pat, (ovf t k neg).fl ||| fl⟩
  else ⟨(if neg then 2 ^ (widthOf t - 1) else 0) + mag, fl⟩

/-- Flags of the rounding are added to those of the pattern. -/
theorem packed_flags (mag fl : Nat) :
    packed t k neg mag fl = ⟨(packed t k neg mag 0).pat, (packed t k neg mag 0).fl ||| fl⟩ := by
  unfold packed
  split <;> simp

/-- Rounding a magnitude whose last bit lies `d` bits below the spacing. -/
theorem roundMag_eq {m d : Nat} {e : Int} {sticky : Bool} (hm : m ≠ 0) (hd : unitExp t (lgOf m e) = e + d) :
    roundMag t k neg m e sticky = if m % 2 ^ d = 0 ∧ sticky = false then packed t k neg (roundedPat t (m / 2 ^ d) (e + d)) 0
      else packed t k neg (roundedPat t (roundMul k neg m d sticky) (e + d)) (inexactFl t (lgOf m e)) := by
  have hue : max ((Nat.log2 m : Int) + e) (1 - biasOf t) - (fracBits t + 1 : Nat) + 1 = e + d := by
    rw [← hd, unitExp, lgOf]; push_cast; ring
  have hdn : (e + d - e).toNat = d := by omega
  have hs : (e - (e + d)).toNat = 0 := by omega
  unfold roundMag
  simp only [hm, if_false, false_and, hue, hdn, hs, pow_zero, mul_one]
  by_cases hx : m % 2 ^ d = 0 ∧ sticky = false
  · have hb : (m % 2 ^ d == 0 && !sticky) = true := by simpa using hx
    simp only [hb, if_true, if_pos hx]
    rfl
  · have hb : (m % 2 ^ d == 0 && !sticky) = false := Bool.eq_false_iff.mpr fun hb => hx (by simpa using hb)
    simp only [hb, Bool.false_eq_true, if_false, if_neg hx]
    rfl

/-- The largest number of units takes the same fields as half as many of the next exponent. -/
theorem roundedPat_top (ue : Int) :
    roundedPat t (2 ^ (fracBits t + 1)) ue = roundedPat t (2 ^ (fracBits t + 1) / 2) (ue + 1) := by
  have h : ¬ 2 ^ (fracBits t + 1) ≤ 2 ^ (fracBits t + 1) / 2 := by
    have := Nat.two_pow_pos (fracBits t + 1); omega
  simp only [roundedPat, le_refl, if_true, if_neg h]

/-- Converting a number of units, at most 2^(fracBits + 1): the pattern with its fields. Below 2^fracBits they are
units of the subnormal spacing. -/
theorem cvtf_units {n : Nat} {ue : Int} (hmin : 1 - (biasOf t : Int) ≤ ue + fracBits t) (hmax : n ≤ 2 ^ (fracBits t + 1))
    (hsub : n < 2 ^ fracBits t → ue + fracBits t = 1 - biasOf t) :
    cvtf t k (.fin neg n ue) = packed t k neg (roundedPat t n ue) 0 := by
  simp only [cvtf]
  obtain rfl | hn := eq_or_ne n 0
  · simp [roundMag, packed, roundedPat, magPat]
  · obtain hlt | rfl := hmax.lt_or_eq
    · have hlg : unitExp t (lgOf n ue) = ue + (0 : Nat) := by
        have hup : Nat.log2 n < fracBits t + 1 := (Nat.log2_lt hn).mpr hlt
        have hlow : ue + fracBits t = 1 - biasOf t ∨ fracBits t ≤ Nat.log2 n :=
          (lt_or_ge n (2 ^ fracBits t)).imp hsub (Nat.le_log2 hn).mpr
        simp only [unitExp, lgOf]
        omega
      simp [roundMag_eq hn hlg, Nat.mod_one]
    · have hlg : unitExp t (lgOf (2 ^ (fracBits t + 1)) ue) = ue + (1 : Nat) := by
        simp only [unitExp, lgOf, Nat.log2_two_pow]
        omega
      rw [roundMag_eq hn hlg, if_pos ⟨by rw [pow_succ, pow_one, Nat.mul_mod_left], rfl⟩, roundedPat_top, pow_one]
      rfl

-- The multiple that the mode chooses.

/-- Of a magnitude of n + g units with 0 < g < 1, the mode chooses `m` (R126). -/
def ModeChooses (k : Rnd) (neg : Bool) (n m : Nat) (g : ℝ) : Prop :=
  (k.mode = 0 → (1 / 2 < g ∨ (g = 1 / 2 ∧ n % 2 = 1) → m = n + 1) ∧ (g < 1 / 2 ∨ (g = 1 / 2 ∧ n % 2 = 0) → m = n)) ∧
  (k.mode = 1 → m = n) ∧
  (k.mode = 2 → m = if neg then n else n + 1) ∧
  (k.mode = 3 → m = if neg then n + 1 else n) ∧
  (k.mode = 4 → (1 / 2 ≤ g → m = n + 1) ∧ (g < 1 / 2 → m = n)) ∧
  (5 ≤ k.mode → (m : Int) = (⌊((n : ℝ) + g) * 2 ^ 24⌋ + (k.r % 2 ^ 24 : Nat)) / 2 ^ 24)

section part
variable {f : ℝ}

/-- A remainder and a part below its last bit, as the part of a unit of `d` bits, against one half. -/
theorem part_compare_half {r d : Nat} (hd : d ≠ 0) (h0 : 0 ≤ f) (h1 : f < 1) :
    (1 / 2 < ((r : ℝ) + f) / 2 ^ d ↔ 2 ^ d < 2 * r ∨ (2 * r = 2 ^ d ∧ 0 < f)) ∧
    (((r : ℝ) + f) / 2 ^ d = 1 / 2 ↔ 2 * r = 2 ^ d ∧ f = 0) := by
  obtain ⟨j, rfl⟩ := Nat.exists_eq_succ_of_ne_zero hd
  have hpos : (0 : ℝ) < 2 ^ j := by positivity
  rw [show (2 : ℝ) ^ j.succ = 2 * 2 ^ j from pow_succ' 2 j, show 2 ^ j.succ = 2 * 2 ^ j from pow_succ' 2 j,
    lt_div_iff₀ (by positivity), div_eq_iff (by positivity)]
  have hcast : ((2 ^ j : Nat) : ℝ) = 2 ^ j := by push_cast; rfl
  obtain hlt | heq | hgt := lt_trichotomy r (2 ^ j)
  · have : (r : ℝ) + 1 ≤ 2 ^ j := by rw [← hcast]; exact_mod_cast hlt
    constructor <;> constructor <;> intro h
    · linarith
    · omega
    · linarith
    · omega
  · have : (r : ℝ) = 2 ^ j := by rw [← hcast, heq]
    constructor <;> constructor <;> intro h
    · exact .inr ⟨by omega, by linarith⟩
    · obtain h | ⟨-, h⟩ := h
      · omega
      · linarith
    · exact ⟨by omega, by linarith⟩
    · linarith [h.2]
  · have : (2 : ℝ) ^ j + 1 ≤ r := by rw [← hcast]; exact_mod_cast hgt
    constructor <;> constructor <;> intro h
    · exact .inl (by omega)
    · linarith
    · linarith
    · omega

/-- A part below the last bit does not reach the first 24 bits below the unit. -/
theorem floor_scaled {m d : Nat} (hd : 24 ≤ d) (h0 : 0 ≤ f) (h1 : f < 1) :
    ⌊((m : ℝ) + f) / 2 ^ d * 2 ^ 24⌋ = ((m * 2 ^ 24 / 2 ^ d : Nat) : Int) := by
  obtain ⟨j, rfl⟩ := Nat.exists_eq_add_of_le hd
  have hdiv : m * 2 ^ 24 / 2 ^ (24 + j) = m / 2 ^ j := by
    rw [pow_add, mul_comm m, Nat.mul_div_mul_left _ _ (by positivity)]
  have hscale : ((m : ℝ) + f) / 2 ^ (24 + j) * 2 ^ 24 = (m + f) / 2 ^ j := by rw [pow_add]; field_simp
  have hlow : (((m / 2 ^ j) * 2 ^ j : Nat) : ℝ) ≤ m := by exact_mod_cast Nat.div_mul_le_self m (2 ^ j)
  have hup : ((m + 1 : Nat) : ℝ) ≤ (((m / 2 ^ j + 1) * 2 ^ j : Nat) : ℝ) := by
    exact_mod_cast Nat.lt_mul_of_div_lt (Nat.lt_succ_self _) (by positivity)
  push_cast at hlow hup
  rw [hdiv, hscale, Int.floor_eq_iff, le_div_iff₀ (by positivity), div_lt_iff₀ (by positivity), Int.cast_natCast]
  constructor <;> linarith

/-- `sticky` tells whether there is a part below the last bit. -/
theorem sticky_eq_false_iff {sticky : Bool} (h0 : 0 ≤ f) (hs : sticky = true ↔ 0 < f) : sticky = false ↔ f = 0 := by
  rw [← Bool.not_eq_true, hs, not_lt]
  exact ⟨fun h => le_antisymm h h0, le_of_eq⟩

/-- A magnitude is a number of units where neither its low bits nor `sticky` are set. -/
theorem part_eq_zero_iff {r d : Nat} {sticky : Bool} (h0 : 0 ≤ f) (hs : sticky = true ↔ 0 < f) :
    ((r : ℝ) + f) / 2 ^ d = 0 ↔ r = 0 ∧ sticky = false := by
  rw [div_eq_zero_iff, or_iff_left (by positivity), add_eq_zero_iff_of_nonneg (by positivity) h0, Nat.cast_eq_zero,
    sticky_eq_false_iff h0 hs]

/-- The tests of `roundMul` against one half, on the exact part of a unit. -/
theorem half_tests {r d : Nat} {sticky : Bool} (hd : d ≠ 0) (h0 : 0 ≤ f) (h1 : f < 1) (hs : sticky = true ↔ 0 < f) :
    ((decide (2 * r > 2 ^ d) || (2 * r == 2 ^ d && sticky)) = true ↔ 1 / 2 < ((r : ℝ) + f) / 2 ^ d) ∧
    ((2 * r == 2 ^ d && !sticky) = true ↔ ((r : ℝ) + f) / 2 ^ d = 1 / 2) := by
  obtain ⟨hhalf, heq⟩ := part_compare_half (r := r) hd h0 h1
  rw [hhalf, heq, ← hs, ← sticky_eq_false_iff h0 hs]
  simp

/-- The exact magnitude in units: the whole units and the part of one. -/
theorem units_add_part (m d : Nat) (f : ℝ) :
    ((m / 2 ^ d : Nat) : ℝ) + (((m % 2 ^ d : Nat) : ℝ) + f) / 2 ^ d = ((m : ℝ) + f) / 2 ^ d := by
  have hm : (2 ^ d * (m / 2 ^ d : Nat) + (m % 2 ^ d : Nat) : ℝ) = m := by exact_mod_cast Nat.div_add_mod m (2 ^ d)
  rw [← hm]
  field_simp
  ring

/-- `roundMul` is the choice of the mode. -/
theorem roundMul_chooses {m d : Nat} {sticky : Bool} (hd : 24 ≤ d) (h0 : 0 ≤ f) (h1 : f < 1)
    (hs : sticky = true ↔ 0 < f) :
    ModeChooses k neg (m / 2 ^ d) (roundMul k neg m d sticky) (((m % 2 ^ d : Nat) + f) / 2 ^ d) := by
  obtain ⟨hgt, heq⟩ := half_tests (r := m % 2 ^ d) (by omega : d ≠ 0) h0 h1 hs
  have hsum := units_add_part m d f
  generalize (((m % 2 ^ d : Nat) : ℝ) + f) / 2 ^ d = g at *
  refine ⟨fun h => ?nearestEven, fun h => ?down, fun h => ?up, fun h => ?toNeg, fun h => ?nearestAway, fun h => ?stochastic⟩
  case nearestEven =>
    simp only [roundMul, h, Bool.or_eq_true, hgt, Bool.and_eq_true (_ == _ && _), heq, beq_iff_eq]
    refine ⟨fun hup => if_pos hup, fun hdown => if_neg ?_⟩
    rintro (hup | ⟨hup, hodd⟩) <;> obtain hlt | ⟨hlt, heven⟩ := hdown
    · linarith
    · linarith
    · linarith
    · omega
  case nearestAway =>
    simp only [roundMul, h, Bool.or_eq_true, hgt, heq]
    refine ⟨fun hup => if_pos (hup.lt_or_eq.imp_right Eq.symm), fun hdown => if_neg ?_⟩
    rintro (hup | hup) <;> linarith
  case stochastic =>
    obtain ⟨j, hj⟩ := Nat.exists_eq_add_of_le' h
    have hr : roundMul k neg m d sticky = (m * 2 ^ 24 / 2 ^ d + k.r % 2 ^ 24) / 2 ^ 24 := by
      simp only [roundMul, hj]
    rw [hr, hsum, floor_scaled hd h0 h1]
    push_cast
    rfl
  all_goals simp only [roundMul, h]
end part

/-- The choice is the whole units or one more. -/
theorem roundMul_mem (k : Rnd) (neg : Bool) (m d : Nat) (sticky : Bool) :
    roundMul k neg m d sticky = m / 2 ^ d ∨ roundMul k neg m d sticky = m / 2 ^ d + 1 := by
  have hlow : m / 2 ^ d * 2 ^ 24 ≤ m * 2 ^ 24 / 2 ^ d := by
    rw [mul_comm, mul_comm m]; exact Nat.mul_div_le_mul_div_assoc ..
  have hup : m * 2 ^ 24 / 2 ^ d < (m / 2 ^ d + 1) * 2 ^ 24 := by
    rw [Nat.div_lt_iff_lt_mul (by positivity), mul_right_comm]
    exact Nat.mul_lt_mul_of_pos_right (Nat.lt_mul_of_div_lt (Nat.lt_succ_self _) (by positivity)) (by positivity)
  unfold roundMul
  dsimp only
  split
  · exact .inl rfl
  · exact (ite_eq_or_eq ..)
  · exact (ite_eq_or_eq ..).symm
  · exact (ite_eq_or_eq ..).symm
  · exact (ite_eq_or_eq ..).symm
  · omega

-- One rounding.

/-- The fraction has at most 23 bits. -/
theorem fracBits_le (t : Nat) : fracBits t ≤ 23 := by
  unfold fracBits
  split <;> decide

/-- Rounding to units of the spacing at a magnitude, one up or none, gives a number that the type's fields hold. -/
theorem cvtf_units_of_lgOf {m d n : Nat} {e : Int} (hm : m ≠ 0) (hd : unitExp t (lgOf m e) = e + d)
    (hn : n = m / 2 ^ d ∨ n = m / 2 ^ d + 1) :
    cvtf t k (.fin neg n (e + d)) = packed t k neg (roundedPat t n (e + d)) 0 := by
  simp only [unitExp, lgOf] at hd
  refine cvtf_units (by omega) ?_ fun hlt => ?_
  · have hlog : Nat.log2 m + 1 ≤ fracBits t + 1 + d := by omega
    have hlt : m / 2 ^ d < 2 ^ (fracBits t + 1) := by
      rw [Nat.div_lt_iff_lt_mul (by positivity), ← pow_add]
      exact Nat.lt_log2_self.trans_le (Nat.pow_le_pow_right (by decide) hlog)
    omega
  · have hlog : Nat.log2 m < fracBits t + d := by
      rw [Nat.log2_lt hm, pow_add, ← Nat.div_lt_iff_lt_mul (by positivity)]
      omega
    omega

/-- The exponent of a magnitude bounds it, with any part below its last bit. -/
theorem zpow_lgOf_le {m : Nat} {e : Int} {f : ℝ} (hm : m ≠ 0) (h0 : 0 ≤ f) (h1 : f < 1) :
    (2 : ℝ) ^ lgOf m e ≤ (m + f) * 2 ^ e ∧ (m + f) * (2 : ℝ) ^ e < 2 ^ (lgOf m e + 1) := by
  have hlow : ((2 ^ Nat.log2 m : Nat) : ℝ) ≤ m := by exact_mod_cast Nat.log2_self_le hm
  have hup : ((m + 1 : Nat) : ℝ) ≤ (2 ^ (Nat.log2 m + 1) : Nat) := by exact_mod_cast Nat.lt_log2_self (n := m)
  push_cast at hlow hup
  have hsucc : lgOf m e + 1 = ((Nat.log2 m + 1 : Nat) : Int) + e := by rw [lgOf]; push_cast; ring
  rw [hsucc, lgOf, zpow_add₀ two_ne_zero, zpow_add₀ two_ne_zero, zpow_natCast, zpow_natCast]
  have hpos : (0 : ℝ) < 2 ^ e := by positivity
  exact ⟨mul_le_mul_of_nonneg_right (by linarith) hpos.le, mul_lt_mul_of_pos_right (by linarith) hpos⟩

/-- With enough bits in a magnitude, its spacing lies at or above 2^24 of its last bits. -/
theorem unitExp_of_le {m : Nat} (t : Nat) (e : Int) (hm : 2 ^ 47 ≤ m) :
    ∃ d : Nat, unitExp t (lgOf m e) = e + d ∧ 24 ≤ d := by
  have hlog : 47 ≤ Nat.log2 m := (Nat.le_log2 (by omega)).mpr hm
  have := fracBits_le t
  refine ⟨(unitExp t (lgOf m e) - e).toNat, ?_, ?_⟩ <;> simp only [unitExp, lgOf] <;> omega

/-- A magnitude with enough bits, and a part below its last bit that `sticky` reports, is rounded once. -/
theorem roundMag_roundedOnce {m : Nat} {e : Int} {sticky : Bool} {f : ℝ} (hm : 2 ^ 47 ≤ m) (h0 : 0 ≤ f) (h1 : f < 1)
    (hs : sticky = true ↔ 0 < f) :
    RoundedOnce t k neg ((m + f) * (2 : ℝ) ^ e) (roundMag t k neg m e sticky) := by
  have hne : m ≠ 0 := by omega
  obtain ⟨d, hd, hd24⟩ := unitExp_of_le t e hm
  have hpos : (0 : ℝ) < 2 ^ d := by positivity
  obtain ⟨hlow, hup⟩ := zpow_lgOf_le (e := e) hne h0 h1
  have hx : ((m : ℝ) + f) * 2 ^ e =
      ((m / 2 ^ d : Nat) + (((m % 2 ^ d : Nat) : ℝ) + f) / 2 ^ d) * 2 ^ unitExp t (lgOf m e) := by
    rw [hd, units_add_part, zpow_add₀ two_ne_zero, zpow_natCast]
    field_simp
  have hg0 : 0 ≤ (((m % 2 ^ d : Nat) : ℝ) + f) / 2 ^ d := by positivity
  have hg1 : (((m % 2 ^ d : Nat) : ℝ) + f) / 2 ^ d < 1 := by
    have hrem : ((m % 2 ^ d : Nat) : ℝ) + 1 ≤ 2 ^ d := by exact_mod_cast Nat.mod_lt m (Nat.two_pow_pos d)
    rw [div_lt_one hpos]
    linarith
  have hzero := part_eq_zero_iff (r := m % 2 ^ d) (d := d) h0 hs
  by_cases hex : m % 2 ^ d = 0 ∧ sticky = false
  · refine ⟨lgOf m e, m / 2 ^ d, m / 2 ^ d, _, hlow, hup, hx, hg0, hg1, fun _ => ⟨rfl, ?_⟩,
      fun h => absurd (hzero.mpr hex) h.ne'⟩
    rw [roundMag_eq hne hd, if_pos hex, ← cvtf_units_of_lgOf hne hd (.inl rfl), ← hd]
    rfl
  · refine ⟨lgOf m e, m / 2 ^ d, roundMul k neg m d sticky, _, hlow, hup, hx, hg0, hg1,
      fun h => absurd (hzero.mp h) hex, fun _ => ⟨?_, roundMul_chooses hd24 h0 h1 hs⟩⟩
    rw [roundMag_eq hne hd, if_neg hex, packed_flags, ← cvtf_units_of_lgOf hne hd (roundMul_mem ..), ← hd]
    rfl

end Sys2Proof.Proofs.Rounding
end

section
/-! Quotients and roots (R126, R151, R152): the integer square root of the model is the library's, and a quotient, a
reciprocal and a root of finite operands that are not zero are the exact real number, rounded once. -/
namespace Sys2Proof.Proofs.QuotientRoot
open Sys2Proof Sys2Proof.Machine Sys2Proof.Safety Sys2Proof.Proofs.Rounding

-- The integer square root.

/-- Newton's step from at or above the root stays there. -/
theorem sqrt_le_newton {n x : Nat} (h : Nat.sqrt n ≤ x) : Nat.sqrt n ≤ (x + n / x) / 2 := by
  obtain rfl | hx := Nat.eq_zero_or_pos x
  · omega
  · have hdiv : 2 * Nat.sqrt n - x ≤ n / x := by
      rw [Nat.le_div_iff_mul_le hx]
      refine le_trans ?_ (Nat.sqrt_le n)
      obtain ⟨j, rfl⟩ := Nat.exists_eq_add_of_le h
      obtain hj | hj := Nat.le_total (Nat.sqrt n) j
      · rw [show 2 * Nat.sqrt n - (Nat.sqrt n + j) = 0 by omega, Nat.zero_mul]
        exact Nat.zero_le _
      · obtain ⟨i, hi⟩ := Nat.exists_eq_add_of_le hj
        rw [hi, show 2 * (j + i) - (j + i + j) = i by omega]
        nlinarith
    omega

/-- A step from above the root halves the distance. -/
theorem newton_lt {n x j : Nat} (h : Nat.sqrt n < x) (hx : x < Nat.sqrt n + 2 ^ (j + 1)) :
    (x + n / x) / 2 < Nat.sqrt n + 2 ^ j := by
  have hdiv : n / x ≤ Nat.sqrt n := by
    rw [← Nat.lt_succ_iff, Nat.div_lt_iff_lt_mul (by omega)]
    exact (Nat.lt_succ_sqrt n).trans_le (Nat.mul_le_mul_left _ h)
  rw [pow_succ] at hx
  omega

/-- Newton's steps reach the root once they are as many as the bits of the distance. -/
theorem sqrtSteps_eq {n j x : Nat} (h : Nat.sqrt n ≤ x) (hx : x < Nat.sqrt n + 2 ^ j) :
    sqrtSteps n j x = Nat.sqrt n := by
  induction j generalizing x with
  | zero => exact (by omega : x = Nat.sqrt n)
  | succ j ih =>
    have hlow := sqrt_le_newton h
    simp only [sqrtSteps]
    split
    case isTrue hlt => exact ih hlow (newton_lt (by omega) hx)
    case isFalse hge =>
      obtain rfl | hx0 := Nat.eq_zero_or_pos x
      · omega
      · have hsq : x * x ≤ n := by
          rw [← Nat.le_div_iff_mul_le hx0]
          omega
        exact le_antisymm (Nat.le_sqrt.mpr hsq) h

/-- The model's integer square root. -/
theorem isqrt_eq (n : Nat) : isqrt n = Nat.sqrt n := by
  unfold isqrt
  split
  case isTrue h => rw [h, Nat.sqrt_zero]
  case isFalse h =>
    have hstart : Nat.sqrt n ≤ 2 ^ (Nat.log2 n / 2 + 1) := by
      refine (Nat.sqrt_lt.mpr (Nat.lt_log2_self.trans_le ?_)).le
      rw [← pow_add]
      exact Nat.pow_le_pow_right (by decide) (by omega)
    have hfuel : 2 ^ (Nat.log2 n / 2 + 1) < 2 ^ (Nat.log2 n + 8) := Nat.pow_lt_pow_right (by decide) (by omega)
    exact sqrtSteps_eq hstart (by omega)

-- Quotients.

variable {t : Nat} {k : Rnd}

/-- A quotient of magnitudes is the integer quotient and its fraction, in units of its last bit. -/
theorem fdiv_roundedOnce (a b : Bool) {m n : Nat} (e f : Int) (hm : m ≠ 0) (hn : n ≠ 0) :
    RoundedOnce t k (a != b) (((m : ℝ) * (2 : ℝ) ^ e) / ((n : ℝ) * (2 : ℝ) ^ f)) (fdiv t k (.fin a m e) (.fin b n f)) := by
  simp only [fdiv, hm, hn, if_false]
  generalize hsh : 96 + Nat.log2 n = sh
  have hbig : 2 ^ 47 ≤ m * 2 ^ sh / n := by
    rw [Nat.le_div_iff_mul_le (by omega)]
    calc 2 ^ 47 * n ≤ 2 ^ 47 * 2 ^ (Nat.log2 n + 1) := Nat.mul_le_mul_left _ Nat.lt_log2_self.le
      _ = 2 ^ (48 + Nat.log2 n) := by ring
      _ ≤ 2 ^ sh := Nat.pow_le_pow_right (by decide) (by omega)
      _ ≤ m * 2 ^ sh := Nat.le_mul_of_pos_left _ (by omega)
  have hpos : (0 : ℝ) < n := by exact_mod_cast Nat.pos_of_ne_zero hn
  have hfrac : ((m * 2 ^ sh % n : Nat) : ℝ) / n < 1 := by
    rw [div_lt_one hpos]
    exact_mod_cast Nat.mod_lt _ (by omega)
  have hsticky : (m * 2 ^ sh % n != 0) = true ↔ 0 < ((m * 2 ^ sh % n : Nat) : ℝ) / n := by
    rw [bne_iff_ne, div_pos_iff_of_pos_right hpos, Nat.cast_pos, Nat.pos_iff_ne_zero]
  have hx : (m : ℝ) * 2 ^ e / (n * 2 ^ f) =
      ((m * 2 ^ sh / n : Nat) + ((m * 2 ^ sh % n : Nat) : ℝ) / n) * (2 : ℝ) ^ (e - f - sh) := by
    have hdm : ((n : ℝ) * (m * 2 ^ sh / n : Nat) + (m * 2 ^ sh % n : Nat)) = m * 2 ^ sh := by
      exact_mod_cast Nat.div_add_mod (m * 2 ^ sh) n
    rw [zpow_sub₀ two_ne_zero, zpow_sub₀ two_ne_zero, zpow_natCast]
    field_simp
    linarith
  rw [hx]
  exact roundMag_roundedOnce hbig (by positivity) hfrac hsticky

/-- VRCP of a finite operand that is not zero (R152). -/
theorem frcp_roundedOnce (a : Bool) {m : Nat} (e : Int) (hm : m ≠ 0) :
    RoundedOnce t k a (1 / ((m : ℝ) * (2 : ℝ) ^ e)) (frcp t k (.fin a m e)) := by
  have h := fdiv_roundedOnce (t := t) (k := k) false a 0 e one_ne_zero hm
  simpa [frcp, hm] using h

-- Roots.

/-- `evenExp` keeps the magnitude, and its exponent is even. -/
theorem evenExp_spec (m : Nat) (e : Int) : ∃ j : Int, (evenExp m e).2 = 2 * j ∧ m ≤ (evenExp m e).1 ∧
    ((evenExp m e).1 : ℝ) * 2 ^ (2 * j) = m * (2 : ℝ) ^ e := by
  unfold evenExp
  split
  case isTrue h => exact ⟨e / 2, by dsimp only; omega, le_rfl, by rw [Int.mul_ediv_cancel_of_emod_eq_zero h]⟩
  case isFalse h =>
    have he : e = 2 * (e / 2) + 1 := by omega
    refine ⟨e / 2, by dsimp only; omega, by dsimp only; omega, ?_⟩
    conv_rhs => rw [he, zpow_add_one₀ two_ne_zero]
    push_cast
    ring

/-- The integer root and a fraction make up the root, and the fraction is there unless the number is a square. -/
theorem sqrt_fraction (n : Nat) : 0 ≤ √(n : ℝ) - Nat.sqrt n ∧ √(n : ℝ) - Nat.sqrt n < 1 ∧
    ((Nat.sqrt n * Nat.sqrt n != n) = true ↔ 0 < √(n : ℝ) - Nat.sqrt n) := by
  refine ⟨sub_nonneg.mpr Real.nat_sqrt_le_real_sqrt, by linarith [Real.real_sqrt_lt_nat_sqrt_succ (a := n)], ?_⟩
  rw [bne_iff_ne, ← (Nat.sqrt_le n).lt_iff_ne, sub_pos, Real.lt_sqrt (Nat.cast_nonneg _), ← Nat.cast_pow, Nat.cast_lt, sq]

/-- Scaling by an even power of two scales the root by its half. -/
theorem sqrt_mul_zpow (m : Nat) (j : Int) :
    √((m : ℝ) * 2 ^ (2 * j)) = √((m * 2 ^ 160 : Nat) : ℝ) * (2 : ℝ) ^ (j - 80) := by
  have hpos : (0 : ℝ) ≤ 2 ^ (j - 80) := by positivity
  have hsplit : (m : ℝ) * 2 ^ (2 * j) = ((m * 2 ^ 160 : Nat) : ℝ) * ((2 : ℝ) ^ (j - 80) * 2 ^ (j - 80)) := by
    rw [← zpow_add₀ two_ne_zero, show 2 * j = (160 : Nat) + (j - 80 + (j - 80)) by push_cast; ring, zpow_add₀ two_ne_zero,
      zpow_natCast]
    push_cast
    ring
  rw [hsplit, Real.sqrt_mul (Nat.cast_nonneg _), Real.sqrt_mul_self hpos]

/-- VSQRT of a positive finite operand (R152): the integer root and a fraction, in units of its last bit. -/
theorem fsqrt_roundedOnce {m : Nat} (e : Int) (hm : m ≠ 0) :
    RoundedOnce t k false (√((m : ℝ) * (2 : ℝ) ^ e)) (fsqrt t k (.fin false m e)) := by
  obtain ⟨j, he, hle, hval⟩ := evenExp_spec m e
  simp only [fsqrt, hm, if_false, Bool.false_eq_true, isqrt_eq, he]
  generalize (evenExp m e).1 = m' at hle hval
  have hbig : 2 ^ 47 ≤ Nat.sqrt (m' * 2 ^ 160) := by
    rw [Nat.le_sqrt]
    omega
  obtain ⟨h0, h1, hsticky⟩ := sqrt_fraction (m' * 2 ^ 160)
  have h := roundMag_roundedOnce (t := t) (k := k) (neg := false) (e := j - 80) hbig h0 h1 hsticky
  rwa [add_sub_cancel, ← sqrt_mul_zpow, hval, show j - 80 = 2 * j / 2 - 80 by omega] at h

end Sys2Proof.Proofs.QuotientRoot
end

section
/-! Vector arithmetic lane by lane (R122, R141 to R146, R151, R152): one equation for each shared form of the instructions,
the special operands of the quotients and roots, and with them what each instruction writes. -/
namespace Sys2Proof.Proofs.VectorArith
open Sys2Proof Sys2Proof.Machine Sys2Proof.Safety Sys2Proof.Laws.Ops Sys2Proof.Proofs.QuotientRoot

-- The shared forms.

section forms
variable {s : State} {sw : Bool} {acc immAcc : Nat → Bool} {i : Bool} {d a b : BitVec 7}

/-- The result of a vector instruction that writes `g` in the active lanes. -/
def written (s : State) (sw : Bool) (d : BitVec 7) (g : Nat → Res) : Out :=
  .next (retire s sw (writeLanes (ctx s) (ety s) d.toNat g))

/-- A vector instruction that passes its checks writes its function of each active lane. -/
theorem vecOp_eq {fs : List (BitVec 7)} {f : Ctx → Nat → Nat → Res} {g : Nat → Res} (h : VecOk s acc immAcc i fs)
    (hf : ∀ l, f (ctx s) (ety s) l = g l) : vecOp s sw acc immAcc i fs d f = written s sw d g := by
  obtain ⟨hslot, hok⟩ := h
  obtain rfl := funext hf
  exact runLocal_ok (allowed_slot hslot _) (if_neg (Bool.eq_false_iff.mp hok))

/-- Of two operands: the elements of A and of B, a register or the immediate. -/
theorem vec2_eq {f : Ctx → Nat → Nat → Nat → Nat → Res} {g : Nat → Res}
    (h : VecOk s acc immAcc i ([d, a] ++ if i then [] else [b]))
    (hf : ∀ l, f (ctx s) (ety s) l (laneGet (ctx s).rd (ety s) a.toNat l)
      (if i then b.toNat else laneGet (ctx s).rd (ety s) b.toNat l) = g l) :
    vec2 s sw acc immAcc d a b i f = written s sw d g := vecOp_eq h hf

/-- Of one operand. -/
theorem vec1_eq {f : Ctx → Nat → Nat → Nat → Res} {g : Nat → Res} (h : VecOk s acc tAny false [d, a])
    (hf : ∀ l, f (ctx s) (ety s) l (laneGet (ctx s).rd (ety s) a.toNat l) = g l) :
    vec1 s sw acc d a f = written s sw d g := vecOp_eq h hf
end forms

-- Integers and shares.

/-- The zero pattern is the number 0. -/
theorem intOf_zero (t : Nat) : intOf t 0 = 0 := by simp [intOf, sext]

/-- An immediate of VADD and VSUB under a share type counts only for PARTY 0 (R142). -/
theorem intOf_pubB (s : State) (c : Ctx) (t : Nat) (i : Bool) (y : Nat) : intOf t (pubB s c t i y) =
    if isShare t = true ∧ i = true ∧ (wingOf s c.k).party = true then 0 else intOf t y := by
  have hiff : (i && tS t && (wingOf s c.k).party) = true ↔ isShare t = true ∧ i = true ∧ (wingOf s c.k).party = true := by
    simp only [tS, Bool.and_eq_true]; tauto
  simp only [pubB, hiff, apply_ite (intOf t), intOf_zero]

/-- No N type is an I type. -/
theorem tI_eq_false_of_tN {t : Nat} (h : tN t = true) : tI t = false := by
  obtain rfl | rfl | rfl | rfl : t = 1 ∨ t = 3 ∨ t = 5 ∨ t = 7 := by simpa [tN, or_assoc] using h
  all_goals rfl

/-- Settles O10: each instruction by its shared form, with the branch of integer and share types. -/
theorem vectorInteger : Obligations.VectorInteger := by
  intro s sw i d a b
  dsimp only
  intro hF
  have hint : ∀ {x y : Res}, (if tF (ety s) = true then x else y) = y := if_neg (Bool.eq_false_iff.mp hF)
  simp only [exec, execVadd, execVsub, execVmul, execVmad, execVmulh, execVneg, execVabs, execVshl]
  refine ⟨fun h => ⟨vec2_eq h fun l => ?add, vec2_eq h fun l => ?sub⟩,
    fun h => ⟨vec2_eq h fun l => hint, vec2_eq h fun l => hint⟩,
    fun h => vec2_eq h fun l => rfl,
    fun h => vec1_eq h fun l => hint,
    fun h hI => vec1_eq h fun l => hint.trans (if_pos hI),
    fun h hN => vec1_eq h fun l => hint.trans (if_neg (Bool.eq_false_iff.mp (tI_eq_false_of_tN hN))),
    fun h => vec2_eq h fun l => rfl⟩
  case add => rw [hint, intOf_pubB]; rfl
  case sub => rw [hint, intOf_pubB]; rfl

-- Floating point.

/-- A floating-point type of a vector lane has infinities, is held in one register, and is accepted where F is. -/
theorem tF_facts {t : Nat} (h : tF t = true) : hasInf t = true ∧ isPair t = false ∧ tINF t = true ∧ tINSF t = true := by
  obtain rfl | rfl | rfl : t = 8 ∨ t = 9 ∨ t = 0xA := by simpa [tF, or_assoc] using h
  all_goals decide

section float
variable {s : State} (hs : BySlot s) (ht : tF (ety s) = true)
include hs ht

/-- A slot's instruction on registers of an accepted floating-point type passes its checks. -/
theorem vecOk_float {acc immAcc : Nat → Bool} {fs : List (BitVec 7)} (hacc : acc (ety s) = true) :
    VecOk s acc immAcc false fs := by
  obtain ⟨-, hpair, -⟩ := tF_facts ht
  have hodd : fs.any (oddPair (ety s)) = false := by simp [oddPair, hpair]
  refine ⟨hs, ?_⟩
  change (!acc (ety s) || (false && !immAcc (ety s)) || fs.any (oddPair (ety s))) = false
  rw [hacc, hodd]
  rfl

/-- A function of R152 on the lanes, with the rounding of each lane (R130). -/
theorem vecFn_eq (sw : Bool) (d a : BitVec 7) (f : Nat → Rnd → Val → Res) : vecFn s sw d a f = written s sw d fun l =>
    f (ety s) (rndOf (ctx s) l 0) (valueOf (ety s) (laneGet (ctx s).rd (ety s) a.toNat l)) :=
  vec1_eq (vecOk_float hs ht ht) fun _ => rfl

/-- VDIV under a floating-point type looks for no zero divisor. -/
theorem exec_vdiv_float (sw : Bool) (d a b : BitVec 7) : exec (.vdiv sw d a b false) s = written s sw d fun l =>
    fdiv (ety s) (rndOf (ctx s) l 0) (valueOf (ety s) (laneGet (ctx s).rd (ety s) a.toNat l))
      (valueOf (ety s) (laneGet (ctx s).rd (ety s) b.toNat l)) := by
  obtain ⟨-, -, hINF, -⟩ := tF_facts ht
  obtain ⟨-, hok⟩ := vecOk_float (immAcc := tIN) (fs := [d, a, b]) hs ht hINF
  have hty : tF (modeEty (ctx s).rd.mode) = true := ht
  simp only [exec, execVdiv]
  refine runLocal_ok (allowed_slot hs _) ((if_neg (Bool.eq_false_iff.mp hok)).trans ?_)
  simp [hty, elemB, ety]
end float

section special
variable {t : Nat} (k : Rnd) (hinf : hasInf t = true)

/-- The sign bit of a pattern. -/
def signBit (t : Nat) (n : Bool) : Nat := if n then 2 ^ (widthOf t - 1) else 0

/-- A zero keeps its sign, an infinity too (R129). -/
theorem cvtf_zero (n : Bool) : cvtf t k (.fin n 0 0) = ⟨signBit t n, 0⟩ := by
  simp [cvtf, roundMag, signBit]

include hinf

theorem cvtf_inf (n : Bool) : cvtf t k (.inf n) = ⟨signBit t n + infPat t, 0⟩ := if_pos hinf

/-- The special operands of a quotient (R151). -/
theorem fdiv_special (a b : Bool) (m : Nat) (e f : Int) :
    fdiv t k (.inf a) (.inf b) = ⟨nanPat t, fINV⟩ ∧ fdiv t k (.fin a 0 e) (.fin b 0 f) = ⟨nanPat t, fINV⟩ ∧
    fdiv t k (.inf a) (.fin b m e) = ⟨signBit t (a != b) + infPat t, 0⟩ ∧
    fdiv t k (.fin a m e) (.inf b) = ⟨signBit t (a != b), 0⟩ ∧
    (m ≠ 0 → fdiv t k (.fin a m e) (.fin b 0 f) = ⟨signBit t (a != b) + infPat t, fDIV⟩) := by
  refine ⟨rfl, by simp only [fdiv, if_true], ?_, ?_, fun hm => ?_⟩
  · simp only [fdiv, cvtf_inf k hinf]
  · simp only [fdiv, cvtf_zero]
  · simp only [fdiv, if_true, hm, if_false, cvtf_inf k hinf, Nat.zero_or]

/-- The special operands of a reciprocal, and the root of a zero (R152). -/
theorem frcp_fsqrt_special (a : Bool) (e : Int) : frcp t k (.inf a) = ⟨signBit t a, 0⟩ ∧
    frcp t k (.fin a 0 e) = ⟨signBit t a + infPat t, fDIV⟩ ∧ fsqrt t k (.fin a 0 e) = ⟨signBit t a, 0⟩ := by
  simp only [frcp, fsqrt, if_true, cvtf_zero, cvtf_inf k hinf, and_self]
end special

/-- The quotient with a NaN is the canonical NaN (R125). -/
theorem fdiv_nan (t : Nat) (k : Rnd) (v : Val) : fdiv t k .nan v = ⟨nanPat t, 0⟩ ∧ fdiv t k v .nan = ⟨nanPat t, 0⟩ :=
  ⟨rfl, by cases v <;> rfl⟩

/-- The root of a negative number is invalid (R152). -/
theorem fsqrt_negative {m : Nat} (t : Nat) (k : Rnd) (e : Int) (hm : m ≠ 0) :
    fsqrt t k (.fin true m e) = ⟨nanPat t, fINV⟩ := if_neg hm

/-- Settles O11: each instruction by its shared form; quotients and roots by their one rounding and special operands. -/
theorem vectorFloat : Obligations.VectorFloat := by
  intro s sw d a b
  dsimp only
  intro ht hs
  obtain ⟨hinf, -, hINF, hINSF⟩ := tF_facts ht
  have hflt : ∀ {x y : Res}, (if tF (ety s) = true then x else y) = x := if_pos ht
  have hok : ∀ {acc immAcc : Nat → Bool} {fs : List (BitVec 7)}, acc (ety s) = true → VecOk s acc immAcc false fs :=
    vecOk_float hs ht
  have hdiv := exec_vdiv_float hs ht sw d a b
  have hfn := vecFn_eq hs ht sw d a
  simp only [exec, execVadd, execVsub, execVmul, execVmad, execVrcp, execVrsq, execVex2, execVlg2, execVsqrt, execVabs,
    execVneg] at hdiv ⊢
  exact ⟨vec2_eq (hok hINSF) fun l => hflt, vec2_eq (hok hINSF) fun l => hflt, vec2_eq (hok hINF) fun l => hflt,
    vec2_eq (hok hINF) fun l => hflt, hdiv, hfn frcp, hfn frsq, hfn fexp2, hfn flog2, hfn fsqrt,
    fun _ _ => ⟨vec1_eq (hok hINF) fun l => hflt, vec1_eq (hok hINSF) fun l => hflt⟩,
    fun k => ⟨fun a b _ _ e f => fdiv_roundedOnce a b e f, fun a _ => frcp_roundedOnce a, fun _ => fsqrt_roundedOnce,
      fdiv_nan _ k, rfl, rfl, fdiv_special k hinf, frcp_fsqrt_special k hinf, fun _ => fsqrt_negative _ k, rfl,
      cvtf_inf k hinf false⟩⟩

end Sys2Proof.Proofs.VectorArith
end

section
/-! The outcomes of an instruction of a slot that checks its types first (R57, R141): past its checks it goes on with its meaning,
and where they fail it traps with 0x0A and the guard mask. -/
namespace Sys2Proof.Proofs.CheckedInstr
open Sys2Proof Sys2Proof.Machine Sys2Proof.Safety Sys2Proof.Laws.Ops Sys2Proof.Proofs.Slots

/-- The outcome where the type checks fail: 0x0A with the guard mask in TRAPLANES (R57). -/
def typeTrap (s : State) : Out := .next (trapped s { cause := 0x0A, lanes := some (guardOf (ctx s)) })

section checked
variable {s : State} {sw : Bool} {bad : Ctx → Bool} (hs : BySlot s)
include hs

/-- Past its checks an instruction writes the registers that its meaning gives. -/
theorem checked_ok {f : Ctx → Except Trap RegFile} {r : RegFile} (hb : bad (ctx s) = false) (h : f (ctx s) = .ok r) :
    runLocal s sw .lanes (fun c => if bad c then .error (guardTrap c 0x0A) else f c) = .next (retire s sw r) :=
  runLocal_ok (allowed_slot hs _) ((if_neg (Bool.eq_false_iff.mp hb)).trans h)

/-- Past its checks it takes the trap that its meaning raises. -/
theorem checked_error {f : Ctx → Except Trap RegFile} {e : Trap} (hb : bad (ctx s) = false) (h : f (ctx s) = .error e) :
    runLocal s sw .lanes (fun c => if bad c then .error (guardTrap c 0x0A) else f c) = .next (trapped s e) :=
  runLocal_error (allowed_slot hs _) ((if_neg (Bool.eq_false_iff.mp hb)).trans h)

theorem checked_bad {f : Ctx → Except Trap RegFile} (hb : bad (ctx s) = true) :
    runLocal s sw .lanes (fun c => if bad c then .error (guardTrap c 0x0A) else f c) = typeTrap s :=
  runLocal_error (allowed_slot hs _) (if_pos hb)

/-- An instruction without checks writes the registers that its meaning gives. -/
theorem unchecked_ok {a : Where} {f : Ctx → RegFile} {r : RegFile} (h : f (ctx s) = r) :
    runLocal s sw a (fun c => .ok (f c)) = .next (retire s sw r) :=
  h ▸ runLocal_ok (allowed_slot hs _) rfl
end checked

/-- Registers that each active lane's step writes depend on the steps alone. -/
theorem lanes_congr {c : Ctx} {f g : RegFile → Nat → RegFile} (h : ∀ r l, f r l = g r l) :
    (active c).foldl f c.live = (active c).foldl g c.live :=
  congrArg (fun f => (active c).foldl f c.live) (funext fun r => funext (h r))

end Sys2Proof.Proofs.CheckedInstr
end

section
/-! Bitwise vector instructions, shifts, minima, counts, integer division (R145 to R147, R150, R151), comparisons, selections and
moves (R147 to R149): each by its shared form or past its checks. -/
namespace Sys2Proof.Proofs.VectorBits
open Sys2Proof Sys2Proof.Machine Sys2Proof.Safety Sys2Proof.Laws.Ops Sys2Proof.Proofs.CheckedInstr Sys2Proof.Proofs.VectorArith
  Sys2Proof.Proofs.ScalarWords

/-- VPOPC counts as SPOPC does (R150). -/
theorem ones_eq_popc (v n : Nat) : execVpopc.ones v n = popc v n := by
  induction n generalizing v with
  | zero => rfl
  | succ n ih => rw [execVpopc.ones, popc, ih]

theorem countRes_eq (x n : Nat) : (⟨execVpopc.ones x n, 0⟩ : Res) = ⟨(List.range n).countP fun j => x.testBit j, 0⟩ :=
  congrArg (Res.mk · 0) ((ones_eq_popc x n).trans (popc_eq_countP x n))

-- VDIV.

/-- The active lanes whose divisor is zero. -/
def zeroLanes (s : State) (b : BitVec 7) (i : Bool) : List Nat :=
  (active (ctx s)).filter fun l => (if i then b.toNat else laneGet (ctx s).rd (ety s) b.toNat l) == 0

section vdiv
variable {s : State} (sw : Bool) {d a b : BitVec 7} {i : Bool}

/-- Under an integer type VDIV looks at every active lane. -/
theorem vdiv_zeroLanes (ht : tF (ety s) = false) :
    ((active (ctx s)).filter fun l => !tF (ety s) && elemB (ctx s) (ety s) b i l == 0) = zeroLanes s b i := by
  rw [ht]; rfl

variable (h : VecOk s tINF tIN i ([d, a] ++ if i then [] else [b])) (ht : tF (ety s) = false)
include h ht

/-- A zero divisor traps, its lanes in TRAPLANES (R151). -/
theorem exec_vdiv_zero (hz : zeroLanes s b i ≠ []) :
    exec (.vdiv sw d a b i) s = .next (trapped s { cause := 0x0B, lanes := some (maskOf (zeroLanes s b i)) }) := by
  have hany : (!(zeroLanes s b i).isEmpty) = true := by rw [List.isEmpty_eq_false_iff.mpr hz]; rfl
  rw [← vdiv_zeroLanes ht] at hany ⊢
  obtain ⟨hs, hok⟩ := h
  simp only [exec, execVdiv]
  exact checked_error hs hok (if_pos hany)

/-- Without one each lane gets its quotient, truncated toward zero (R151). -/
theorem exec_vdiv_int (hz : zeroLanes s b i = []) : exec (.vdiv sw d a b i) s = written s sw d fun l =>
    intres (ety s) (modeSat (ctx s).rd.mode) (Int.tdiv (intOf (ety s) (laneGet (ctx s).rd (ety s) a.toNat l))
      (intOf (ety s) (if i then b.toNat else laneGet (ctx s).rd (ety s) b.toNat l))) := by
  have hnone : ¬ (!(zeroLanes s b i).isEmpty) = true := by rw [hz]; exact Bool.false_ne_true
  rw [← vdiv_zeroLanes ht] at hnone
  obtain ⟨hs, hok⟩ := h
  simp only [exec, execVdiv]
  refine checked_ok hs hok ((if_neg hnone).trans ?_)
  exact congrArg (fun f => Except.ok (writeLanes (ctx s) (ety s) d.toNat f)) (funext fun l => if_neg (Bool.eq_false_iff.mp ht))
end vdiv

/-- Settles O12: each instruction by its shared form, VDIV by its zero divisors. -/
theorem vectorBitsAndDivide : Obligations.VectorBitsAndDivide := by
  intro s sw i d a b
  dsimp only
  simp only [exec, execVand, execVor, execVxor, execVmin, execVmax, execVnot, execVshr, execVsra, execVclz, execVpopc]
  exact ⟨fun h => ⟨vec2_eq h fun l => rfl, vec2_eq h fun l => rfl, vec2_eq h fun l => rfl, vec2_eq h fun l => rfl,
      vec2_eq h fun l => rfl, exec_vdiv_zero sw h, exec_vdiv_int sw h⟩,
    fun h => vec1_eq h fun l => rfl, fun h => vec2_eq h fun l => rfl, fun h => vec2_eq h fun l => rfl,
    fun h => ⟨vec1_eq h fun l => rfl, vec1_eq h fun l => countRes_eq _ _⟩⟩

/-- Settles O13: VMOV and VMOVS by the vector forms, the others by the registers that they write past their checks. -/
theorem vectorMoves : Obligations.VectorMoves := by
  intro s sw i g cc p d a b
  dsimp only
  simp only [exec, execVcmp, execVsel, execVmov, execVmovImm, execVmovs, execVmovsToS, execVlid]
  refine ⟨fun ⟨hs, hok⟩ => checked_ok hs hok rfl, fun ⟨hs, hok⟩ => checked_ok hs hok rfl, fun h => vec1_eq h fun l => rfl,
    fun h => vecOp_eq h fun l => rfl, fun h => vecOp_eq h fun l => rfl, fun ⟨hs, hok⟩ => checked_ok hs hok ?_,
    fun hs => unchecked_ok hs rfl⟩
  cases lowLane (guardOf (ctx s)) <;> rfl

end Sys2Proof.Proofs.VectorBits
end

section
/-! Conversions, packing, quantisation, codebook decoding and random bits (R153 to R160): the numbers that a packed word and a
decoded vector are built of, then one equation for each instruction past its checks. -/
namespace Sys2Proof.Proofs.Conversion
open Sys2Proof Sys2Proof.Machine Sys2Proof.Safety Sys2Proof.Laws.Ops Sys2Proof.Proofs.Slots Sys2Proof.Proofs.CheckedInstr

-- Elements of lists and sums over them.

theorem nth_map_range {α : Type} (d : α) (f : Nat → α) {n j : Nat} (h : j < n) : nth d ((List.range n).map f) j = f j := by
  simp [nth, h]

/-- The elements of two sources of `n` elements each. -/
theorem nth_append_range (f g : Nat → Nat) {n j : Nat} (h : j < 2 * n) :
    nth 0 ((List.range n).map f ++ (List.range n).map g) j = if j < n then f j else g (j - n) := by
  split
  · next hj => simp [nth, List.getElem?_append, hj]
  · next hj => simp [nth, List.getElem?_append, hj, show j - n < n by omega]

theorem foldl_add_eq_sum (f : Nat → Nat) (l : List Nat) : l.foldl (fun x j => x + f j) 0 = (l.map f).sum := by
  rw [List.sum_eq_foldl, List.foldl_map]

/-- A word and its flags gathered in one pass are the sum of the parts and the union of their flags. -/
theorem foldl_word_flags (f g : Nat → Nat) (l : List Nat) :
    l.foldl (fun (x : Nat × Nat) j => (x.1 + f j, x.2 ||| g j)) (0, 0) =
      ((l.map f).sum, l.foldl (fun x j => x ||| g j) 0) := by
  rw [← foldl_add_eq_sum]
  exact List.foldl_hom₂ l Prod.mk (fun x j => x + f j) (fun x j => x ||| g j) _ 0 0 fun _ _ _ => rfl

-- The affine pair.

/-- The zero point of an affine pair (R134). -/
theorem pairZp_eq {p : Nat} (h : p < 2 ^ 16) : pairZp p = sext 8 (p / 256) := by
  have hbits : Machine.bits p 15 8 = p / 256 := Nat.mod_eq_of_lt (by omega)
  rw [pairZp, hbits]

-- VCVT.

section vcvt
variable {s : State} (hs : BySlot s) (sw : Bool) {d a : BitVec 7}
include hs

theorem exec_vcvt_ok (hc : (cvtElem (sty s) (ety s) (rndOf (ctx s) 0 0) 0).isSome = true) (ha : oddPair (sty s) a = false)
    (hd : oddPair (ety s) d = false) : exec (.vcvt sw d a) s = .next (retire s sw (writeLanes (ctx s) (ety s) d.toNat fun l =>
      (cvtElem (sty s) (ety s) (rndOf (ctx s) l 0) (laneGet (ctx s).rd (sty s) a.toNat l)).getD ⟨0, 0⟩)) := by
  have hb : ((cvtElem (sty s) (ety s) (rndOf (ctx s) 0 0) 0).isNone || oddPair (sty s) a || oddPair (ety s) d) = false := by
    rw [ha, hd, ← Option.not_isSome, hc]; rfl
  simp only [exec, execVcvt]
  exact checked_ok hs hb rfl

theorem exec_vcvt_bad (h : (cvtElem (sty s) (ety s) (rndOf (ctx s) 0 0) 0).isSome = false ∨ oddPair (sty s) a = true ∨
    oddPair (ety s) d = true) : exec (.vcvt sw d a) s = typeTrap s := by
  have hb : ((cvtElem (sty s) (ety s) (rndOf (ctx s) 0 0) 0).isNone || oddPair (sty s) a || oddPair (ety s) d) = true := by
    rw [← Option.not_isSome, Bool.or_assoc]
    simpa using h
  simp only [exec, execVcvt]
  exact checked_bad hs hb
end vcvt

-- VPACK.

/-- The type pairs that VPACK accepts, with the half that it writes (R154). -/
def Packs (st et : Nat) (h : Bool) : Prop :=
  sameKind st et = true ∧ widthOf et < widthOf st ∧ widthOf st ≤ 32 ∧
    ((2 * widthOf et == widthOf st) = true ∨ 4 * widthOf et = widthOf st) ∧ ((2 * widthOf et == widthOf st) && h) = false

/-- The elements fill a register where the target is half as wide. -/
theorem fills_eq (we ws : Nat) : (64 * we == 32 * ws) = (2 * we == ws) := by
  rw [Bool.eq_iff_iff, beq_iff_eq, beq_iff_eq]; omega

theorem packs_iff (st et : Nat) (h : Bool) :
    (!sameKind st et || !(decide (widthOf et < widthOf st) && decide (widthOf st ≤ 32) &&
      (2 * widthOf et == widthOf st || 64 * widthOf et == 16 * widthOf st)) || (2 * widthOf et == widthOf st && h)) = false ↔
      Packs st et h := by
  have hquarter : 64 * widthOf et = 16 * widthOf st ↔ 4 * widthOf et = widthOf st := by omega
  simp only [Packs, Bool.or_eq_false_iff, Bool.not_eq_false', Bool.and_eq_true, Bool.or_eq_true, decide_eq_true_eq, beq_iff_eq,
    hquarter, and_assoc]

/-- The first element that VPACK writes. -/
def packBase (we ws : Nat) (h : Bool) : Nat := if 2 * we == ws then 0 else if h then 16 / we else 0

/-- What VPACK keeps of the register (R154). -/
def packKept (we ws : Nat) (h : Bool) (old : Nat) : Nat :=
  if 2 * we == ws then 0 else if h then old % 2 ^ 16 else old / 2 ^ 16 * 2 ^ 16

/-- Element `j` of the two sources, narrowed. -/
def narrowed (s : State) (a b : BitVec 7) (base l j : Nat) : Res :=
  let n := 32 / widthOf (sty s)
  let x := if j < n then packed (getV (ctx s).rd a.toNat l).toNat (widthOf (sty s)) j
    else packed (getV (ctx s).rd b.toNat l).toNat (widthOf (sty s)) (j - n)
  if tFQ (sty s) = true then cvtf (ety s) (rndOf (ctx s) l (base + j)) (valueOf (sty s) x)
  else intres (ety s) (modeSat (ctx s).rd.mode) (intOf (sty s) x)

section forms
variable {s : State} (hs : BySlot s) (sw : Bool) {d a b g : BitVec 7}
include hs

theorem exec_vpack_ok {h : Bool} (hp : Packs (sty s) (ety s) h) :
    let we := widthOf (ety s)
    let ws := widthOf (sty s)
    let n := 32 / ws
    let y := narrowed s a b (packBase we ws h)
    exec (.vpack sw d a b h) s = .next (retire s sw ((active (ctx s)).foldl (fun r l =>
      addFlags (setV r d.toNat l (BitVec.ofNat 32 (packKept we ws h (getV (ctx s).rd d.toNat l).toNat +
          ((List.range (2 * n)).map fun j => (y l j).pat * 2 ^ (we * (packBase we ws h + j))).sum)))
        ((List.range (2 * n)).foldl (fun f j => f ||| (y l j).fl) 0)) (ctx s).live)) := by
  simp only [exec, execVpack, fills_eq]
  refine checked_ok hs ((packs_iff ..).mpr hp) (congrArg Except.ok (lanes_congr fun r l => ?_))
  refine congrArg (fun p : Nat × Nat => addFlags (setV r d.toNat l (BitVec.ofNat 32 (packKept (widthOf (ety s))
    (widthOf (sty s)) h (getV (ctx s).rd d.toNat l).toNat + p.1))) p.2) ((?_ : _ = _).trans (foldl_word_flags ..))
  refine List.foldl_ext _ _ _ fun acc j hj => ?_
  rw [nth_append_range _ _ (List.mem_range.mp hj)]
  rfl

theorem exec_vpack_bad {h : Bool} (hp : ¬ Packs (sty s) (ety s) h) : exec (.vpack sw d a b h) s = typeTrap s := by
  simp only [exec, execVpack, fills_eq]
  exact checked_bad hs (by rwa [← packs_iff, Bool.not_eq_false] at hp)

-- VUNPK.

theorem exec_vunpk_ok (hw : widens (sty s) (ety s) = true) (hg : g.toNat < widthOf (ety s) / widthOf (sty s)) :
    exec (.vunpk sw d a g) s = .next (retire s sw ((active (ctx s)).foldl (fun r l => setV r d.toNat l (BitVec.ofNat 32
      ((List.range (32 / widthOf (ety s))).map fun j =>
        (let x := packed (getV (ctx s).rd a.toNat l).toNat (widthOf (sty s)) (g.toNat * (32 / widthOf (ety s)) + j)
         if tFQ (sty s) = true then (cvtf (ety s) { mode := 0, sat := false } (valueOf (sty s) x)).pat
         else wrap (widthOf (ety s)) (intOf (sty s) x)) * 2 ^ (widthOf (ety s) * j)).sum)) (ctx s).live)) := by
  have hb : (!widens (sty s) (ety s) || decide (widthOf (ety s) / widthOf (sty s) ≤ g.toNat)) = false := by
    rw [hw, decide_eq_false (Nat.not_le.mpr hg)]; rfl
  simp only [exec, execVunpk]
  exact checked_ok hs hb (congrArg Except.ok (lanes_congr fun r l =>
    congrArg (fun n => setV r d.toNat l (BitVec.ofNat 32 n)) (foldl_add_eq_sum ..)))

theorem exec_vunpk_bad (h : widens (sty s) (ety s) = false ∨ widthOf (ety s) / widthOf (sty s) ≤ g.toNat) :
    exec (.vunpk sw d a g) s = typeTrap s := by
  have hb : (!widens (sty s) (ety s) || decide (widthOf (ety s) / widthOf (sty s) ≤ g.toNat)) = true := by
    simpa using h
  simp only [exec, execVunpk]
  exact checked_bad hs hb

-- VQNT and VDQNT.

theorem exec_vqnt_ok (he : ety s = 0x14) (ht : tF (sty s) = true) : exec (.vqnt sw d a b) s =
    .next (retire s sw (writeLanes (ctx s) 0x14 d.toNat fun l => quant (rndOf (ctx s) l 0)
      ((getS (ctx s).rd b.toNat).toNat % 2 ^ 16) (valueOf (sty s) (laneGet (ctx s).rd (sty s) a.toNat l)))) := by
  have hb : (decide (ety s ≠ 0x14) || !tF (sty s)) = false := by simp [he, ht]
  simp only [exec, execVqnt]
  exact checked_ok hs hb rfl

theorem exec_vqnt_bad (h : ¬ (ety s = 0x14 ∧ tF (sty s) = true)) : exec (.vqnt sw d a b) s = typeTrap s := by
  have hb : (decide (ety s ≠ 0x14) || !tF (sty s)) = true := by
    simpa only [Bool.or_eq_true, decide_eq_true_eq, Bool.not_eq_true', ← Bool.not_eq_true, ← not_and_or] using h
  simp only [exec, execVqnt]
  exact checked_bad hs hb

theorem exec_vdqnt_ok (he : tF (ety s) = true) (ht : sty s = 0x14) {z : Bool} {m : Nat} {e : Int}
    (hk : k8Val ((getS (ctx s).rd b.toNat).toNat % 2 ^ 16 % 256) = .fin z m e) : exec (.vdqnt sw d a b) s =
    .next (retire s sw (writeLanes (ctx s) (ety s) d.toNat fun l => cvtf (ety s) (rndOf (ctx s) l 0)
      (ofScaled ((sext 8 ((getV (ctx s).rd a.toNat l).toNat % 256) -
        sext 8 ((getS (ctx s).rd b.toNat).toNat % 2 ^ 16 / 256)) * m) e false))) := by
  have hb : (!tF (ety s) || decide (sty s ≠ 0x14)) = false := by simp [he, ht]
  have hscale : k8Val (Machine.bits ((opS (ctx s) b).toNat % 65536) 7 0) = .fin z m e :=
    (congrArg (fun p => k8Val (p % 256)) (Nat.div_one _)).trans hk
  have hzero : pairZp ((opS (ctx s) b).toNat % 65536) = sext 8 ((opS (ctx s) b).toNat % 65536 / 256) :=
    pairZp_eq (Nat.mod_lt _ (by decide))
  simp only [exec, execVdqnt]
  refine checked_ok hs hb ?_
  simp only [hscale, hzero]
  rfl

theorem exec_vdqnt_bad (h : ¬ (tF (ety s) = true ∧ sty s = 0x14)) : exec (.vdqnt sw d a b) s = typeTrap s := by
  have hb : (!tF (ety s) || decide (sty s ≠ 0x14)) = true := by
    simpa only [Bool.or_eq_true, decide_eq_true_eq, Bool.not_eq_true', ← Bool.not_eq_true, ← not_and_or] using h
  simp only [exec, execVdqnt]
  exact checked_bad hs hb
end forms

-- VCBK.

/-- The types and the register of VCBK (R158). -/
def Decodes (st et d : Nat) : Prop := st = 0x15 ∧ tF et = true ∧ d % (if et = 8 then 8 else 4) = 0

/-- Weight `j` of the index of a lane, in ETYPE. -/
def weight (s : State) (a b : BitVec 7) (l j : Nat) : Res :=
  cvtf (ety s) (rndOf (ctx s) l j) (nth .nan (codeWeights (matOf s (ctx s).k).cabinet
    ((getV (ctx s).rd a.toNat l).toNat % 2 ^ 16) ((getS (ctx s).rd b.toNat).toNat % 2 ^ 8)) j)

/-- VCBK's check of its types and of its register. -/
def codeBad (st et d : Nat) : Bool := st ≠ 0x15 || !tF et || d % (if et = 8 then 8 else 4) ≠ 0

theorem codeBad_eq_false_iff (st et d : Nat) : codeBad st et d = false ↔ Decodes st et d := by
  simp only [codeBad, Decodes, Bool.or_eq_false_iff, Bool.not_eq_false', decide_eq_false_iff_not, not_not, ne_eq, and_assoc]

section vcbk
variable {s : State} (hs : BySlot s) (sw : Bool) {d a b : BitVec 7}
include hs

theorem exec_vcbk_bad (h : ¬ Decodes (sty s) (ety s) d.toNat) : exec (.vcbk sw d a b) s = typeTrap s := by
  rw [← codeBad_eq_false_iff, Bool.not_eq_false] at h
  simp only [exec, execVcbk]
  exact runState_error (allowed_slot hs _) (if_pos h)

theorem exec_vcbk_waits (h : Decodes (sty s) (ety s) d.toNat) (hm : mcabPending (ctx s).w = true) :
    exec (.vcbk sw d a b) s = .next (waitWith s (ctx s) .poll) := by
  rw [← codeBad_eq_false_iff, Bool.eq_false_iff] at h
  simp only [exec, execVcbk]
  exact runState_ok (allowed_slot hs _) ((if_neg h).trans (if_pos hm))

theorem exec_vcbk_ok (h : Decodes (sty s) (ety s) d.toNat) (hm : mcabPending (ctx s).w = false) :
    exec (.vcbk sw d a b) s = .next (retire s sw ((active (ctx s)).foldl (fun r l =>
      let f := (List.range 8).foldl (fun f j => f ||| (weight s a b l j).fl) 0
      if ety s = 8 then (List.range 8).foldl (fun r j => setV r (d.toNat + j) l (BitVec.ofNat 32 (weight s a b l j).pat))
        (addFlags r f)
      else (List.range 4).foldl (fun r j => setV r (d.toNat + j) l
        (BitVec.ofNat 32 ((weight s a b l (2 * j)).pat + (weight s a b l (2 * j + 1)).pat * 2 ^ 16))) (addFlags r f))
      (ctx s).live)) := by
  rw [← codeBad_eq_false_iff, Bool.eq_false_iff] at h
  have hnth : ∀ {l j : Nat}, j < 8 → nth ⟨0, 0⟩ ((List.range 8).map (weight s a b l)) j = weight s a b l j :=
    nth_map_range _ _
  simp only [exec, execVcbk]
  refine runState_ok (allowed_slot hs _) ((if_neg h).trans ((if_neg (Bool.eq_false_iff.mp hm)).trans ?_))
  refine congrArg (fun r => Except.ok (retire s sw r)) (lanes_congr fun r l => ?_)
  have hflags : ((List.range 8).map (weight s a b l)).foldl (fun f x => f ||| x.fl) 0 =
      (List.range 8).foldl (fun f j => f ||| (weight s a b l j).fl) 0 := List.foldl_map
  rw [← hflags]
  refine ite_congr rfl (fun _ => List.foldl_ext _ _ _ fun r j hj => ?_) fun _ => List.foldl_ext _ _ _ fun r j hj => ?_
  · have hj := List.mem_range.mp hj
    rw [← hnth hj]
    rfl
  · have hj := List.mem_range.mp hj
    rw [← hnth (j := 2 * j) (by omega), ← hnth (j := 2 * j + 1) (by omega)]
    rfl
end vcbk

/-- Settles O14: each instruction by its equation past its checks, or by its trap. -/
theorem conversions : Obligations.Conversions := by
  intro s sw i h d a b g
  dsimp only
  intro hs
  refine ⟨exec_vcvt_ok hs sw, exec_vcvt_bad hs sw, exec_vpack_ok hs sw, exec_vpack_bad hs sw, exec_vunpk_ok hs sw,
    exec_vunpk_bad hs sw, exec_vqnt_ok hs sw, exec_vqnt_bad hs sw, fun he ht z m e => exec_vdqnt_ok hs sw he ht,
    exec_vdqnt_bad hs sw, exec_vcbk_ok hs sw, exec_vcbk_waits hs sw, exec_vcbk_bad hs sw, ?_⟩
  simp only [exec, execVrng, execRseed]
  exact ⟨unchecked_ok hs rfl, unchecked_ok hs rfl⟩

end Sys2Proof.Proofs.Conversion
end

section
/-! Lane exchange, votes, scans, reductions and keys (R137, R162 to R166). -/
namespace Sys2Proof.Proofs.Exchange
open Sys2Proof Sys2Proof.Machine Sys2Proof.Safety Sys2Proof.Laws.Ops Sys2Proof.Proofs.CheckedInstr Sys2Proof.Proofs.VectorArith

-- Votes.

section votes
variable {s : State} (hs : BySlot s) (sw : Bool) (d a : BitVec 7)
include hs

/-- VANY: some active lane of p[A] is set (R163). -/
theorem exec_vany : exec (.vany sw d a) s = .next (retire s sw (setS (ctx s).live d.toNat
    (if (getP (ctx s).rd a.toNat &&& guardOf (ctx s) != 0) = true then 1 else 0))) := by
  simp only [exec, execVany, bne_iff_ne]
  exact unchecked_ok hs rfl

/-- VALL: every active lane of p[A] is set (R163). -/
theorem exec_vall : exec (.vall sw d a) s = .next (retire s sw (setS (ctx s).live d.toNat
    (if (getP (ctx s).rd a.toNat &&& guardOf (ctx s) == guardOf (ctx s)) = true then 1 else 0))) := by
  simp only [exec, execVall, beq_iff_eq]
  exact unchecked_ok hs rfl
end votes

-- Reductions.

theorem addFlags_zero (r : RegFile) : addFlags r 0 = r := by simp [addFlags]

/-- The result of a reduction of the elements `y :: ys` (R166). -/
def reduced (s : State) (x : Bool) (y : Nat) (ys : List Nat) : Res :=
  if x then ⟨if tF (ety s) && isNan (valueOf (ety s) (ys.foldl (minMax (ety s) true) y)) then nanPat (ety s)
    else ys.foldl (minMax (ety s) true) y, 0⟩
  else laneSum (ctx s) (ety s) 0 (y :: ys)

section vreds
variable {s : State} (sw : Bool) (d : BitVec 7) {a : BitVec 7} {x : Bool}
  (h : VecOk s (if x then tINF else tINSF) tAny false [a])
include h

/-- A reduction over no lane gives 0 (R166). -/
theorem exec_vreds_none (hl : active (ctx s) = []) :
    exec (.vreds sw d a x) s = .next (retire s sw (setS (ctx s).live d.toNat 0)) := by
  obtain ⟨hs, hok⟩ := h
  simp only [exec, execVreds]
  refine checked_ok hs hok ?_
  simp only [hl, List.map_nil]

theorem exec_vreds_some {y : Nat} {ys : List Nat} (hl : (active (ctx s)).map (laneGet (ctx s).rd (ety s) a.toNat) = y :: ys) :
    exec (.vreds sw d a x) s = .next (retire s sw (addFlags (setS (ctx s).live d.toNat
      (extend (ety s) (reduced s x y ys).pat)) (reduced s x y ys).fl)) := by
  obtain ⟨hs, hok⟩ := h
  simp only [exec, execVreds]
  refine checked_ok hs hok ?_
  rw [ety] at hl
  simp only [hl]
  rfl
end vreds

section vreds
variable {s : State} (sw : Bool) (d : BitVec 7) {a : BitVec 7}

/-- The sum of the active lanes is exact and rounded once (R166). -/
theorem exec_vreds_sum (h : VecOk s tINSF tAny false [a]) (hl : active (ctx s) ≠ []) :
    let r := laneSum (ctx s) (ety s) 0 ((active (ctx s)).map (laneGet (ctx s).rd (ety s) a.toNat))
    exec (.vreds sw d a false) s =
      .next (retire s sw (addFlags (setS (ctx s).live d.toNat (extend (ety s) r.pat)) r.fl)) := by
  obtain ⟨y, ys, hxs⟩ := List.exists_cons_of_ne_nil (mt List.map_eq_nil_iff.mp hl)
  rw [hxs]
  exact exec_vreds_some (x := false) sw d h hxs

/-- The largest element of the active lanes, a NaN in its canonical form (R166). -/
theorem exec_vreds_max (h : VecOk s tINF tAny false [a]) (y : Nat) (ys : List Nat)
    (hl : (active (ctx s)).map (laneGet (ctx s).rd (ety s) a.toNat) = y :: ys) :
    let m := ys.foldl (minMax (ety s) true) y
    exec (.vreds sw d a true) s = .next (retire s sw (setS (ctx s).live d.toNat
      (extend (ety s) (if tF (ety s) = true ∧ isNan (valueOf (ety s) m) = true then nanPat (ety s) else m)))) := by
  have hr := exec_vreds_some (x := true) sw d h hl
  simpa only [reduced, if_true, Bool.and_eq_true, addFlags_zero] using hr
end vreds

-- Keys.

/-- A form of VMXIX under a type that has keys (R137, R165). -/
theorem vmxix_eq {s : State} (hs : BySlot s) (sw : Bool) (d : BitVec 7) (ht : ety s = 2 ∨ ety s = 3 ∨ ety s = 9 ∨ ety s = 0xA)
    (f : Ctx → Nat → Nat → Nat) : vmxix s sw d f = .next (retire s sw ((active (ctx s)).foldl
      (fun r l => setV r d.toNat l (BitVec.ofNat 32 (f (ctx s) (ety s) l))) (ctx s).live)) := by
  have hkey : (!tKey (ety s)) = false := by obtain e | e | e | e := ht <;> rw [e] <;> rfl
  exact checked_ok hs hkey rfl

/-- Settles O15: exchange and VBALL past their checks, the votes, scans, reductions and keys by their equations. -/
theorem laneExchange : Obligations.LaneExchange := by
  refine ⟨fun s sw i x d a b => ?exchange, fun s sw d a b => ?keys⟩
  case exchange =>
    simp only [exec, execVshfl, execVbfly, execVball, execVscan]
    exact ⟨fun ⟨hs, hok⟩ => checked_ok hs hok rfl, fun ⟨hs, hok⟩ => checked_ok hs hok rfl,
      fun ⟨hs, hok⟩ => checked_ok hs hok rfl, fun hs => exec_vany hs sw d a, fun hs => exec_vall hs sw d a,
      fun h => vecOp_eq h fun l => rfl, exec_vreds_none (x := false) sw d, exec_vreds_sum sw d,
      exec_vreds_none (x := true) sw d, exec_vreds_max sw d⟩
  case keys =>
    intro c t out hs ht
    simp only [exec, execVmxix, execVmxixC, execVmxixD]
    exact ⟨vmxix_eq hs sw d ht _, vmxix_eq hs sw d ht _, vmxix_eq hs sw d ht _⟩

end Sys2Proof.Proofs.Exchange
end

section
/-! The fields of a capability (R167 to R169): what each reads after one of them has been replaced. -/
namespace Sys2Proof.Proofs.CapFields
open Sys2Proof Sys2Proof.Machine

theorem testBit_bits (v hi lo i : Nat) :
    (Machine.bits v hi lo).testBit i = (decide (i < hi + 1 - lo) && v.testBit (i + lo)) := by
  rw [Machine.bits, Nat.testBit_mod_two_pow, Nat.testBit_div_two_pow]

theorem bit_eq_testBit (v n : Nat) : Machine.bit v n = v.testBit n := by
  rw [Machine.bit, Nat.testBit_eq_decide_div_mod_eq]; rfl

/-- A permission is one bit of the capability (R168). -/
theorem capHas_eq (c : Cap) (n : Nat) : capHas c n = (decide (n < 16) && c.bits.toNat.testBit (n + 64)) := by
  rw [capHas, bit_eq_testBit, capPerms, testBit_bits]

section withField
variable (c : Cap) {hi lo : Nat} (v : Nat) (h : lo ≤ hi) (h127 : hi < 128)
include h h127

/-- The bits [hi:lo] are replaced and the others kept. -/
theorem testBit_withField (i : Nat) : (withField c hi lo v).bits.toNat.testBit i =
    if lo ≤ i ∧ i ≤ hi then v.testBit (i - lo) else c.bits.toNat.testBit i := by
  have hsplit : c.bits.toNat / 2 ^ (hi + 1) * 2 ^ (hi + 1) + v % 2 ^ (hi + 1 - lo) * 2 ^ lo + c.bits.toNat % 2 ^ lo =
      2 ^ lo * (2 ^ (hi + 1 - lo) * (c.bits.toNat / 2 ^ (hi + 1)) + v % 2 ^ (hi + 1 - lo)) + c.bits.toNat % 2 ^ lo := by
    rw [Nat.mul_add, ← Nat.mul_assoc, ← pow_add, Nat.add_sub_cancel' (by omega), Nat.mul_comm (2 ^ (hi + 1)),
      Nat.mul_comm (2 ^ lo)]
  have hlow := Nat.mod_lt c.bits.toNat (Nat.two_pow_pos lo)
  have hmid := Nat.mod_lt v (Nat.two_pow_pos (hi + 1 - lo))
  rw [withField, BitVec.toNat_ofNat, Nat.testBit_mod_two_pow, hsplit, Nat.testBit_two_pow_mul_add _ hlow,
    Nat.testBit_two_pow_mul_add _ hmid, Nat.testBit_mod_two_pow, Nat.testBit_mod_two_pow, Nat.testBit_div_two_pow]
  by_cases hlo : i < lo
  · have h128 : i < 128 := by omega
    simp [hlo, h128]
  by_cases hhi : hi < i
  · have hshift : i - lo - (hi + 1 - lo) + (hi + 1) = i := by omega
    have hwide : ¬ i - lo < hi + 1 - lo := by omega
    have hbits : 128 ≤ i → c.bits.toNat.testBit i = false := fun h =>
      Nat.testBit_lt_two_pow (lt_of_lt_of_le c.bits.isLt (Nat.pow_le_pow_right (by decide) h))
    by_cases h128 : i < 128
    · simp [hlo, hhi, hwide, h128, hshift]
    · simp [h128, hhi, hbits (Nat.le_of_not_lt h128)]
  · have hin : i - lo < hi + 1 - lo := by omega
    have h128 : i < 128 := by omega
    simp [hlo, hin, h128, Nat.le_of_not_lt hlo, Nat.le_of_not_lt hhi]

/-- A field that shares no bit with the replaced one is kept. -/
theorem bits_withField_other {a b : Nat} (hab : a < lo ∨ hi < b) :
    Machine.bits (withField c hi lo v).bits.toNat a b = Machine.bits c.bits.toNat a b := by
  refine Nat.eq_of_testBit_eq fun i => ?_
  rw [testBit_bits, testBit_bits, testBit_withField c v h h127]
  by_cases hi' : i < a + 1 - b
  · rw [if_neg (by omega)]
  · simp [hi']

/-- The replaced field. -/
theorem bits_withField_self (hv : v < 2 ^ (hi + 1 - lo)) : Machine.bits (withField c hi lo v).bits.toNat hi lo = v := by
  refine Nat.eq_of_testBit_eq fun i => ?_
  rw [testBit_bits, testBit_withField c v h h127]
  by_cases hi' : i < hi + 1 - lo
  · rw [if_pos (by omega), Nat.add_sub_cancel]; simp [hi']
  · have := Nat.testBit_lt_two_pow (lt_of_lt_of_le hv (Nat.pow_le_pow_right (by decide) (Nat.le_of_not_lt hi')))
    simp [hi', this]
end withField

/-- ADDR is the field [63:0] (R167). -/
theorem withAddr_eq (c : Cap) (a : Nat) : withAddr c a = withField c 63 0 a := by
  simp only [withAddr, withField, Nat.sub_zero, pow_zero, Nat.mul_one, Nat.mod_one, Nat.add_zero]

theorem capAddr_eq (c : Cap) : capAddr c = Machine.bits c.bits.toNat 63 0 := by
  simp only [capAddr, Machine.bits, Nat.sub_zero, pow_zero, Nat.div_one]

theorem bits_withAddr_other (c : Cap) (a : Nat) {hi lo : Nat} (h : 63 < lo) :
    Machine.bits (withAddr c a).bits.toNat hi lo = Machine.bits c.bits.toNat hi lo := by
  rw [withAddr_eq]
  exact bits_withField_other c a (Nat.zero_le _) (by omega) (.inr h)

theorem capAddr_withAddr (c : Cap) (a : Nat) : capAddr (withAddr c a) = a % 2 ^ 64 := by
  have h : capAddr (withAddr c a) = capAddr (withAddr c (a % 2 ^ 64)) := by simp only [withAddr, Nat.mod_mod]
  rw [h, withAddr_eq, capAddr_eq]
  exact bits_withField_self c _ (Nat.zero_le _) (by omega) (Nat.mod_lt _ (by decide))

end Sys2Proof.Proofs.CapFields
end

section
/-! The encoding of bounds (R170 to R172): the exponent that a request gets, the numbers that E, B and L stand for, and what of a
capability its bounds depend on. -/
namespace Sys2Proof.Proofs.CapBounds
open Sys2Proof Sys2Proof.Machine Sys2Proof.Safety Sys2Proof.Proofs.CapFields

-- The decoded bounds.

theorem capBase_congr {c k : Cap} (hE : capE c = capE k) (hB : capB c = capB k) (hA : capAddr c = capAddr k) :
    capBase c = capBase k := by
  simp only [capBase, hE, hB, hA]

theorem capTop_congr {c k : Cap} (hE : capE c = capE k) (hL : capL c = capL k) (hbase : capBase c = capBase k) :
    capTop c = capTop k := by
  simp only [capTop, hE, hL, hbase]

/-- The base is the greatest multiple of 2^E, with the residue B, that ADDR does not lie below (R170). -/
theorem capBase_units {c : Cap} (hE : capE c ≤ 42) : ∃ m : Int, capBase c = m * ((2 ^ capE c : Nat) : Int) ∧ m % 2 ^ 15 = capB c := by
  have hB : capB c < 2 ^ 15 := Nat.mod_lt _ (by decide)
  refine ⟨_, if_neg (by omega), ?_⟩
  generalize capAddr c / 2 ^ capE c = q
  omega

/-- A number with the residue B is the base, in units of 2^E, where ADDR lies in its window (R172). -/
theorem capBase_of_window {c : Cap} {m : Int} (hE : capE c ≤ 42) (hm : m % 2 ^ 15 = capB c)
    (hlo : m * ((2 ^ capE c : Nat) : Int) ≤ capAddr c)
    (hhi : (capAddr c : Int) < m * ((2 ^ capE c : Nat) : Int) + ((2 ^ (capE c + 15) : Nat) : Int)) :
    capBase c = m * ((2 ^ capE c : Nat) : Int) := by
  have hB : capB c < 2 ^ 15 := Nat.mod_lt _ (by decide)
  have hpos : (0 : Int) < ((2 ^ capE c : Nat) : Int) := Int.natCast_pos.mpr (Nat.two_pow_pos _)
  have hq : ((capAddr c / 2 ^ capE c : Nat) : Int) = (capAddr c : Int) / ((2 ^ capE c : Nat) : Int) := Int.natCast_ediv _ _
  have hge : m ≤ ((capAddr c / 2 ^ capE c : Nat) : Int) := hq ▸ (Int.le_ediv_iff_mul_le hpos).mpr hlo
  have hlt : ((capAddr c / 2 ^ capE c : Nat) : Int) < m + 2 ^ 15 := by
    rw [hq, Int.ediv_lt_iff_lt_mul hpos, Int.add_mul]
    rwa [pow_add, Nat.mul_comm, Nat.cast_mul, Nat.cast_pow 2 15] at hhi
  rw [capBase, if_neg (by omega)]
  refine congrArg (· * ((2 ^ capE c : Nat) : Int)) ?_
  generalize capAddr c / 2 ^ capE c = q at hge hlt
  omega

-- The encoding of a request.

/-- A request in units of 2^e. -/
def units (b t e : Nat) : Nat := (t + 2 ^ e - 1) / 2 ^ e - b / 2 ^ e

/-- The exponent is the first that fits (R171). -/
theorem encExp_some {b t e n r : Nat} (h : encExp b t e n = some r) :
    r < e + n ∧ units b t r ≤ 32767 ∧ ∀ e' < r, e ≤ e' → 32767 < units b t e' := by
  induction n generalizing e with
  | zero => cases h
  | succ n ih =>
    rw [encExp] at h
    split at h
    · next hfit =>
      obtain rfl := Option.some.inj h
      exact ⟨by omega, hfit, fun e' h1 h2 => by omega⟩
    · next hfit =>
      obtain ⟨hr, hu, hmin⟩ := ih h
      refine ⟨by omega, hu, fun e' h1 h2 => ?_⟩
      obtain rfl | hlt := Nat.eq_or_lt_of_le h2
      · exact Nat.lt_of_not_le hfit
      · exact hmin e' h1 hlt

theorem encExp_none {b t e n : Nat} (h : encExp b t e n = none) : ∀ e' < e + n, e ≤ e' → 32767 < units b t e' := by
  induction n generalizing e with
  | zero => exact fun e' h1 h2 => by omega
  | succ n ih =>
    rw [encExp] at h
    split at h
    · cases h
    · next hfit =>
      intro e' h1 h2
      obtain rfl | hlt := Nat.eq_or_lt_of_le h2
      · exact Nat.lt_of_not_le hfit
      · exact ih h e' (by omega) hlt

/-- A multiple of a unit just above a number. -/
theorem ceil_mul_bounds (t : Nat) {p : Nat} (hp : 0 < p) : t ≤ (t + p - 1) / p * p ∧ (t + p - 1) / p * p < t + p := by
  have hdiv := Nat.div_add_mod' (t + p - 1) p
  have hmod := Nat.mod_lt (t + p - 1) hp
  omega

/-- The exponent of a request, 42 where none fits. -/
def expOf (b t : Nat) : Nat := (encExp b t 0 43).getD 42

theorem expOf_fits {b t : Nat} (h : (encExp b t 0 43).isSome = true) : expOf b t ≤ 42 ∧ units b t (expOf b t) ≤ 32767 ∧
    ∀ e' < expOf b t, 32767 < units b t e' := by
  obtain ⟨e, he⟩ := Option.isSome_iff_exists.mp h
  obtain ⟨hlt, hu, hmin⟩ := encExp_some he
  have hexp : expOf b t = e := by rw [expOf, he]; rfl
  rw [hexp]
  exact ⟨by omega, hu, fun e' h => hmin e' h (Nat.zero_le _)⟩

/-- Every capability with the fields of a request that fits, its address in the window, has the bounds that they stand for. -/
theorem bounds_of_fields {b t : Nat} (hbt : b ≤ t) {k : Cap} (hE : capE k = expOf b t) (he : expOf b t ≤ 42)
    (hB : capB k = b / 2 ^ expOf b t % 2 ^ 15) (hL : capL k = units b t (expOf b t))
    (hlo : b / 2 ^ expOf b t * 2 ^ expOf b t ≤ capAddr k)
    (hhi : capAddr k < b / 2 ^ expOf b t * 2 ^ expOf b t + 2 ^ (expOf b t + 15)) :
    capBase k = (b / 2 ^ expOf b t * 2 ^ expOf b t : Nat) ∧
      capTop k = ((t + 2 ^ expOf b t - 1) / 2 ^ expOf b t * 2 ^ expOf b t : Nat) := by
  rw [← hE] at he hB hL hlo hhi ⊢
  have hpos := Nat.two_pow_pos (capE k)
  have hbase : capBase k = (b / 2 ^ capE k * 2 ^ capE k : Nat) := by
    rw [Nat.cast_mul]
    exact capBase_of_window he (by rw [hB]; rfl) (by exact_mod_cast hlo) (by exact_mod_cast hhi)
  have hle : b / 2 ^ capE k ≤ (t + 2 ^ capE k - 1) / 2 ^ capE k := Nat.div_le_div_right (by omega)
  refine ⟨hbase, ?_⟩
  rw [capTop, if_neg (by omega), hbase, hL, units, ← Nat.cast_add, ← Nat.add_mul, Nat.add_sub_cancel' hle]

/-- Settles O20: the bounds of any exponent, what the search for it gives, and `bounds_of_fields`. -/
theorem boundsEncoding : Obligations.BoundsEncoding := by
  intro b t hbt
  have hpos := Nat.two_pow_pos (expOf b t)
  obtain ⟨hceil, hceil'⟩ := ceil_mul_bounds t hpos
  have hfloor : b < b / 2 ^ expOf b t * 2 ^ expOf b t + 2 ^ expOf b t := Nat.lt_div_mul_add hpos
  refine ⟨rfl, rfl, Nat.div_mul_le_self .., hceil, hfloor, hceil', rfl, fun hfits => ?_, fun hfits => ?_⟩
  · obtain ⟨hmax, hu, hmin⟩ := expOf_fits hfits
    have hL : units b t (expOf b t) % 2 ^ 15 = units b t (expOf b t) := Nat.mod_eq_of_lt (by omega)
    refine ⟨hL, ?_, hmax, hmin, fun k hE hB hL' hlo hhi => ?_⟩
    · exact le_of_eq_of_le (by rw [← Nat.sub_mul]; exact Nat.mul_div_cancel _ hpos) hu
    · exact bounds_of_fields hbt hE hmax hB (hL'.trans hL) hlo hhi
  · have hnone : encExp b t 0 43 = none := Option.isNone_iff_eq_none.mp (Option.isSome_eq_false_iff.mp hfits)
    exact ⟨by rw [hnone]; rfl, fun e' h => encExp_none hnone e' (by omega) (Nat.zero_le _)⟩

end Sys2Proof.Proofs.CapBounds
end

section
/-! The capability instructions on registers (R188 to R194), each by its shared form, and what a derivation can give (R177). -/
namespace Sys2Proof.Proofs.CapRegs
open Sys2Proof Sys2Proof.Machine Sys2Proof.Safety Sys2Proof.Laws.Ops Sys2Proof.Proofs.Slots Sys2Proof.Proofs.CheckedInstr
  Sys2Proof.Proofs.Supervisor Sys2Proof.Proofs.CapFields Sys2Proof.Proofs.CapBounds

-- Reads (R188, R194).

theorem ctestBits_eq (k y : Cap) : ctestBits k y =
    (if k.tag = true then 2 ^ 0 else 0) + (if capOtype k = 0 then 2 ^ 1 else 0) +
      (if capBase y ≤ capBase k ∧ capTop k ≤ capTop y then 2 ^ 2 else 0) +
      (if capPerms k &&& capPerms y = capPerms k then 2 ^ 3 else 0) + (if capWorld k = capWorld y then 2 ^ 4 else 0) +
      (if capBase k ≤ capAddr k ∧ (capAddr k : Int) < capTop k then 2 ^ 5 else 0) := by
  simp only [ctestBits, beq_iff_eq, Bool.and_eq_true, decide_eq_true_eq]

/-- Settles O16: the reads by their shared form, the bits of CTEST one by one. -/
theorem capabilityReads : Obligations.CapabilityReads := by
  intro s sw d a b
  dsimp only
  intro hs
  simp only [exec, execCgeta, execCgetb, execCgetl, execCgetp, execCgett, execCtest, ctestBits_eq]
  exact ⟨unchecked_ok hs rfl, unchecked_ok hs rfl, unchecked_ok hs rfl, unchecked_ok hs rfl, unchecked_ok hs rfl,
    unchecked_ok hs rfl⟩

-- Derivations (R189 to R191).

section derive
variable {s : State} (hs : BySlot s) (sw : Bool) (d a : BitVec 7) (f : Ctx → Cap → Cap)
include hs

/-- A tagged sealed source traps with 0x04. -/
theorem capDerive_sealed (htag : (getC (ctx s).rd a.toNat).tag = true) (hseal : capOtype (getC (ctx s).rd a.toNat) ≠ 0) :
    capDerive s sw d a f = .next (trapped s { cause := 0x04 }) :=
  runLocal_error (allowed_slot hs _) (if_pos (by simp [opC, htag, hseal]))

theorem capDerive_ok (h : (getC (ctx s).rd a.toNat).tag = false ∨ capOtype (getC (ctx s).rd a.toNat) = 0) :
    capDerive s sw d a f = .next (retire s sw (setC (ctx s).live d.toNat (f (ctx s) (getC (ctx s).rd a.toNat)))) :=
  runLocal_ok (allowed_slot hs _) (if_neg (by obtain h | h := h <;> simp [opC, h]))
end derive

/-- Settles O17: each derivation by its shared form. -/
theorem capabilityDerivations : Obligations.CapabilityDerivations := by
  intro s sw x d a b imm
  dsimp only [encBounds]
  intro hs
  simp only [exec, execCseta, execCinc, execCsetb, execCprune]
  refine ⟨fun htag hseal => ?_, fun h => ?_⟩
  · exact ⟨capDerive_sealed hs sw d a _ htag hseal, capDerive_sealed hs sw d a _ htag hseal,
      capDerive_sealed hs sw d a _ htag hseal, capDerive_sealed hs sw d a _ htag hseal⟩
  · exact ⟨capDerive_ok hs sw d a _ h, capDerive_ok hs sw d a _ h, capDerive_ok hs sw d a _ h, capDerive_ok hs sw d a _ h⟩

-- Seals and moves (R192, R193).

theorem ite_some_eq_none_iff {α : Type} {p : Prop} [Decidable p] {e : α} {o : Option α} :
    (if p then some e else o) = none ↔ ¬ p ∧ o = none := by
  by_cases h : p <;> simp [h]

/-- CSEAL and CUNSL meet none of their causes (R192). -/
theorem sealCause_eq_none_iff {x k : Cap} {world perm : Nat} {bad : Bool} : sealCause x k world perm bad = none ↔
    (x.tag = true ∧ k.tag = true) ∧ (capBase k ≤ capAddr k ∧ (capAddr k : Int) < capTop k) ∧
      (capWorld k = world ∧ capHas k perm = true) ∧ bad = false := by
  simp only [sealCause, ite_some_eq_none_iff, and_true, not_or, Bool.or_eq_true, Bool.not_eq_true', decide_eq_true_eq,
    Bool.not_eq_false, ne_eq, not_not, not_lt, not_le, Bool.not_eq_true]

/-- CSEAL's conditions on types (R192). -/
theorem sealBad_eq_false_iff {x k : Cap} : sealBad x k = false ↔
    (capOtype k = 0 ∧ capOtype x = 0 ∧ capWorld x = capWorld k) ∧
      (capAddr k = 1 ∧ capHas x pEXEC = true ∨ 4 ≤ capAddr k ∧ capAddr k ≤ 15) := by
  have haddr : (capAddr k = 1 ∨ 4 ≤ capAddr k ∧ capAddr k ≤ 15) ∧ (capAddr k = 1 → capHas x pEXEC = true) ↔
      (capAddr k = 1 ∧ capHas x pEXEC = true ∨ 4 ≤ capAddr k ∧ capAddr k ≤ 15) := by
    by_cases h : capAddr k = 1 <;> simp [h]
  rw [← haddr]
  simp [sealBad, and_assoc, or_iff_not_imp_left]

/-- CUNSL's conditions on types (R192). -/
theorem unsealBad_eq_false_iff {x k : Cap} : unsealBad x k = false ↔
    capOtype k = 0 ∧ capWorld x = capWorld k ∧ 4 ≤ capOtype x ∧ capAddr k = capOtype x := by
  simp [unsealBad, and_assoc]

/-- What CSEAL gives (R192). -/
def sealed (x k : Cap) : Cap := { withOtype x (capAddr k) with tag := true }

/-- What CUNSL gives (R192). -/
def unsealed (x k : Cap) : Cap :=
  { withField (withOtype x 0) (64 + pGLOBAL) (64 + pGLOBAL) (if capHas x pGLOBAL && capHas k pGLOBAL then 1 else 0) with
    tag := true }

section sealing
variable {s : State} (hs : BySlot s) (sw : Bool) (d a b : BitVec 7)
include hs

theorem exec_cseal (h : sealCause (getC (ctx s).rd a.toNat) (getC (ctx s).rd b.toNat) (worldOf s (ctx s).k) pSEAL
      (sealBad (getC (ctx s).rd a.toNat) (getC (ctx s).rd b.toNat)) = none) : exec (.cseal sw d a b) s =
    .next (retire s sw (setC (ctx s).live d.toNat (sealed (getC (ctx s).rd a.toNat) (getC (ctx s).rd b.toNat)))) := by
  simp only [exec, execCseal]
  exact runLocal_ok (allowed_slot hs _) (by simp only [opC, h]; rfl)

theorem exec_cunsl (h : sealCause (getC (ctx s).rd a.toNat) (getC (ctx s).rd b.toNat) (worldOf s (ctx s).k) pUNSEAL
      (unsealBad (getC (ctx s).rd a.toNat) (getC (ctx s).rd b.toNat)) = none) : exec (.cunsl sw d a b) s =
    .next (retire s sw (setC (ctx s).live d.toNat (unsealed (getC (ctx s).rd a.toNat) (getC (ctx s).rd b.toNat)))) := by
  simp only [exec, execCunsl]
  exact runLocal_ok (allowed_slot hs _) (by simp only [opC, h]; rfl)
end sealing

section moves
variable {s : State} (hs : BySlot s) (sw : Bool) (d a : BitVec 7)
include hs

/-- CMOV from a lane takes the lowest active one (R193). -/
theorem exec_cmovFromVc : exec (.cmovFromVc sw d a) s = .next (retire s sw (match lowLane (guardOf (ctx s)) with
    | some i => setC (ctx s).live d.toNat (getVC (ctx s).rd a.toNat i)
    | none => (ctx s).live)) := by
  simp only [exec, execCmovFromVc]
  exact runLocal_ok (allowed_slot hs _) (by cases lowLane (guardOf (ctx s)) <;> rfl)

theorem exec_cmovS (hsys : hasSys (ctx s) = true) : exec (.cmovS sw d a) s = .next (setWave s (ctx s).k (advance (ctx s) sw
    (if d.toNat = 31 then setPcc (ctx s).w (ctx s).src (getC (ctx s).rd a.toNat)
      else putLive (ctx s).w (ctx s).src (setC (ctx s).live d.toNat (getC (ctx s).rd a.toNat))))) := by
  simp only [exec, execCmovS]
  exact runSys_ok hs hsys rfl
end moves

/-- Settles O18: CSEAL and CUNSL where none of their causes holds, each CMOV by its equation. -/
theorem sealAndMove : Obligations.SealAndMove := by
  intro s sw d a b
  dsimp only
  intro hs
  refine ⟨fun ⟨hx, hk, hlo, hhi, hw, hok, hww⟩ hp hox haddr => ?_, fun ⟨hx, hk, hlo, hhi, hw, hok, hww⟩ hp hox haddr => ?_,
    ?cmov, exec_cmovFromVc hs sw d a, ?toVc, ?vc, exec_cmovS hs sw d a, fun hsys => ?denied⟩
  · exact exec_cseal hs sw d a b (sealCause_eq_none_iff.mpr
      ⟨⟨hx, hk⟩, ⟨hlo, hhi⟩, ⟨hw, hp⟩, sealBad_eq_false_iff.mpr ⟨⟨hok, hox, hww⟩, haddr⟩⟩)
  · rw [exec_cunsl hs sw d a b (sealCause_eq_none_iff.mpr
      ⟨⟨hx, hk⟩, ⟨hlo, hhi⟩, ⟨hw, hp⟩, unsealBad_eq_false_iff.mpr ⟨hok, hww, hox, haddr⟩⟩)]
    simp only [unsealed, Bool.and_eq_true]
    rfl
  all_goals simp only [exec, execCmov, execCmovToVc, execCmovVc, execCmovS]
  case cmov | toVc | vc => exact unchecked_ok hs rfl
  case denied => exact runSys_denied hsys _

-- What a derivation can give (R177).

/-- R177, of one capability derived from another. -/
structure Derived (k r : Cap) : Prop where
  bounds : r.tag = true → k.tag = true ∧ capBase k ≤ capBase r ∧ capTop r ≤ capTop k
  perms : ∀ n, capHas r n = true → capHas k n = true
  scratch : capHas r pSCRATCH = capHas k pSCRATCH
  world : capWorld r = capWorld k

theorem Derived.refl (k : Cap) : Derived k k := ⟨fun h => ⟨h, le_rfl, le_rfl⟩, fun _ h => h, rfl, rfl⟩

/-- The bounds do not depend on a field above ADDR and below L (R167). -/
theorem withField_sameBounds (c : Cap) {hi lo : Nat} (v : Nat) (h : lo ≤ hi) (h64 : 64 ≤ lo) (h92 : hi < 92) :
    capBase (withField c hi lo v) = capBase c ∧ capTop (withField c hi lo v) = capTop c := by
  have hE : capE (withField c hi lo v) = capE c := bits_withField_other c v h (by omega) (.inr (by omega))
  have hbase : capBase (withField c hi lo v) = capBase c := by
    refine capBase_congr hE (bits_withField_other c v h (by omega) (.inr (by omega))) ?_
    rw [capAddr_eq, capAddr_eq]
    exact bits_withField_other c v h (by omega) (.inl (by omega))
  exact ⟨hbase, capTop_congr hE (bits_withField_other c v h (by omega) (.inr (by omega))) hbase⟩

theorem derived_withField {k : Cap} {hi lo v : Nat} (h : lo ≤ hi) (h64 : 64 ≤ lo) (h84 : hi < 84)
    (hperms : ∀ n, capHas (withField k hi lo v) n = true → capHas k n = true)
    (hscratch : capHas (withField k hi lo v) pSCRATCH = capHas k pSCRATCH) : Derived k (withField k hi lo v) := by
  obtain ⟨hbase, htop⟩ := withField_sameBounds k v h h64 (by omega)
  exact ⟨fun ht => ⟨ht, hbase.ge, htop.le⟩, hperms, hscratch, bits_withField_other k v h (by omega) (.inr (by omega))⟩

theorem capHas_withOtype (k : Cap) (v n : Nat) : capHas (withOtype k v) n = capHas k n :=
  congrArg (Machine.bit · n) (bits_withField_other k v (by decide) (by decide) (.inl (by decide)))

/-- Another OTYPE changes nothing that R177 speaks of. -/
theorem derived_withOtype (k : Cap) (v : Nat) : Derived k (withOtype k v) :=
  derived_withField (by decide) (by decide) (by decide) (fun n h => (capHas_withOtype k v n).symm.trans h)
    (capHas_withOtype k v _)

/-- Nor does a tag, where the source has one. -/
theorem Derived.tagged {k r : Cap} (h : Derived k r) (hk : k.tag = true) (hr : r.tag = k.tag) (tag : Bool) :
    Derived k { r with tag := tag } :=
  ⟨fun _ => h.bounds (hr.trans hk), h.perms, h.scratch, h.world⟩

theorem withField_tag (c : Cap) (hi lo v : Nat) : (withField c hi lo v).tag = c.tag := rfl

theorem derived_sealed {x : Cap} (hx : x.tag = true) (k : Cap) : Derived x (sealed x k) :=
  (derived_withOtype x _).tagged hx (withField_tag ..) true

theorem Derived.trans {k r q : Cap} (h : Derived k r) (g : Derived r q) : Derived k q where
  bounds hq := by
    obtain ⟨hr, hbase, htop⟩ := g.bounds hq
    obtain ⟨hk, hbase', htop'⟩ := h.bounds hr
    exact ⟨hk, hbase'.trans hbase, htop.trans htop'⟩
  perms n hn := h.perms n (g.perms n hn)
  scratch := g.scratch.trans h.scratch
  world := g.world.trans h.world

/-- One permission other than SCRATCH is kept or taken away. -/
theorem derived_onePerm {k : Cap} {p : Nat} {keep : Bool} (hp : p < 16) (hscr : p ≠ pSCRATCH)
    (hk : keep = true → capHas k p = true) : Derived k (withField k (64 + p) (64 + p) (if keep then 1 else 0)) := by
  have hperm : ∀ n, n ≠ p → capHas (withField k (64 + p) (64 + p) (if keep then 1 else 0)) n = capHas k n := by
    intro n hn
    rw [capHas_eq, capHas_eq, testBit_withField k _ le_rfl (by omega), if_neg (by omega)]
  refine derived_withField le_rfl (by omega) (by omega) (fun n h => ?_) (hperm _ hscr.symm)
  by_cases hn : n = p
  · subst hn
    rw [capHas_eq, testBit_withField k _ le_rfl (by omega), if_pos (by omega)] at h
    cases keep with
    | true => exact hk rfl
    | false => simp at h
  · rwa [hperm n hn] at h

theorem derived_unsealed {x : Cap} (hx : x.tag = true) (k : Cap) : Derived x (unsealed x k) := by
  have hy := derived_withOtype x 0
  refine (hy.trans (derived_onePerm (p := pGLOBAL) (by decide) (by decide) fun h => ?_)).tagged hx
    ((withField_tag ..).trans (withField_tag ..)) true
  obtain ⟨hg, -⟩ := Bool.and_eq_true_iff.mp h
  rwa [capHas_withOtype]

/-- CPRUNE leaves no new permission, and SCRATCH as before (R191). -/
theorem testBit_prunePerms (perms mask n : Nat) : (prunePerms perms mask).testBit n =
    (decide (n < 13) && (perms.testBit n && (decide (n = pSCRATCH) || !mask.testBit n))) := by
  by_cases hn : n < 16
  · have hkeep : (0xFEFF#16).getLsbD n = decide (n ≠ pSCRATCH) := by revert n; decide
    have hassigned : (0x1FFF#16).getLsbD n = decide (n < 13) := by revert n; decide
    rw [prunePerms, BitVec.testBit_toNat]
    simp only [BitVec.getLsbD_and, BitVec.getLsbD_not, BitVec.getLsbD_ofNat, hkeep, hassigned, hn, decide_true, Bool.true_and]
    rw [Bool.and_comm]
    by_cases h8 : n = pSCRATCH <;> simp [h8]
  · have hbig : (prunePerms perms mask).testBit n = false :=
      Nat.testBit_lt_two_pow (lt_of_lt_of_le (BitVec.isLt _) (Nat.pow_le_pow_right (by decide) (Nat.le_of_not_lt hn)))
    rw [hbig, decide_eq_false (by omega), Bool.false_and]

theorem derived_prune (k : Cap) (mask : Nat) : Derived k (withPerms k (prunePerms (capPerms k) mask)) := by
  have hperm : ∀ n, capHas (withPerms k (prunePerms (capPerms k) mask)) n =
      (decide (n < 13) && (capHas k n && (decide (n = pSCRATCH) || !mask.testBit n))) := by
    intro n
    have hv : prunePerms (capPerms k) mask < 2 ^ 16 := BitVec.isLt _
    rw [capHas, bit_eq_testBit, capHas, bit_eq_testBit, ← testBit_prunePerms]
    exact congrArg (Nat.testBit · n) (bits_withField_self k _ (by decide) (by decide) hv)
  refine derived_withField (hi := 79) (lo := 64) (by decide) (by decide) (by decide) (fun n h => ?_) ((hperm _).trans ?_)
  · replace h := (hperm n).symm.trans h
    rw [Bool.and_eq_true, Bool.and_eq_true] at h
    exact h.2.1
  · simp [pSCRATCH]

/-- An address in the window changes no bounds (R172). -/
theorem bounds_withAddr {k : Cap} {a : Nat} (h : representable k (a % 2 ^ 64) = true) :
    capBase (withAddr k a) = capBase k ∧ capTop (withAddr k a) = capTop k := by
  rw [representable, Bool.and_eq_true, decide_eq_true_eq, decide_eq_true_eq] at h
  obtain ⟨hlo, hhi⟩ := h
  have hE : capE (withAddr k a) = capE k := bits_withAddr_other k a (by decide)
  have hB : capB (withAddr k a) = capB k := bits_withAddr_other k a (by decide)
  have hbase : capBase (withAddr k a) = capBase k := by
    by_cases he : capE k ≤ 42
    · obtain ⟨m, hm, hres⟩ := capBase_units he
      rw [hm, ← hE] at hlo hhi ⊢
      refine capBase_of_window (hE.trans_le he) (hres.trans (congrArg Nat.cast hB.symm)) ?_ ?_
      · rwa [capAddr_withAddr]
      · rwa [capAddr_withAddr]
    · rw [capBase, capBase, hE, if_pos (by omega), if_pos (by omega)]
  exact ⟨hbase, capTop_congr hE (bits_withAddr_other k a (by decide)) hbase⟩

theorem derived_moveAddr (k : Cap) (a : Nat) : Derived k (moveAddr k a) := by
  have hperm : capPerms (moveAddr k a) = capPerms k := bits_withAddr_other k a (by decide)
  refine ⟨fun h => ?_, fun n h => ?_, ?_, bits_withAddr_other k a (by decide)⟩
  · obtain ⟨ht, hr⟩ := Bool.and_eq_true_iff.mp h
    obtain ⟨hbase, htop⟩ := bounds_withAddr hr
    exact ⟨ht, hbase.ge, htop.le⟩
  · rwa [capHas, hperm] at h
  · rw [capHas, hperm, capHas]

/-- The bits of a capability with other fields E, B and L (R167). -/
def withBounds (k : Cap) (e b l : Nat) : Cap := withField (withField (withField k 127 122 e) 121 107 b) 106 92 l

theorem withBounds_fields (k : Cap) {e b l : Nat} (he : e < 2 ^ 6) (hb : b < 2 ^ 15) (hl : l < 2 ^ 15) :
    capE (withBounds k e b l) = e ∧ capB (withBounds k e b l) = b ∧ capL (withBounds k e b l) = l := by
  refine ⟨?_, ?_, bits_withField_self _ _ (by decide) (by decide) hl⟩
  · exact (bits_withField_other _ _ (by decide) (by decide) (.inr (by decide))).trans
      ((bits_withField_other _ _ (by decide) (by decide) (.inr (by decide))).trans
        (bits_withField_self _ _ (by decide) (by decide) he))
  · exact (bits_withField_other _ _ (by decide) (by decide) (.inr (by decide))).trans
      (bits_withField_self _ _ (by decide) (by decide) hb)

theorem bits_withBounds_other (k : Cap) (e b l : Nat) {hi lo : Nat} (h : hi < 92) :
    Machine.bits (withBounds k e b l).bits.toNat hi lo = Machine.bits k.bits.toNat hi lo :=
  (bits_withField_other _ _ (by decide) (by decide) (.inl h)).trans
    ((bits_withField_other _ _ (by decide) (by decide) (.inl (by omega))).trans
      (bits_withField_other _ _ (by decide) (by decide) (.inl (by omega))))

/-- CSETB keeps the tag of a request that fits, with bounds inside the old ones (R190). -/
theorem setBounds_tagged {k : Cap} {len : Nat} {x : Bool} (h : (setBounds k len x).tag = true) :
    let t := capAddr k + len
    let e := expOf (capAddr k) t
    k.tag = true ∧ (encExp (capAddr k) t 0 43).isSome = true ∧ capBase k ≤ (capAddr k / 2 ^ e * 2 ^ e : Nat) ∧
      (((t + 2 ^ e - 1) / 2 ^ e * 2 ^ e : Nat) : Int) ≤ capTop k := by
  simp only [setBounds, encBounds, Bool.and_eq_true] at h
  obtain ⟨⟨⟨⟨ht, hlo⟩, hhi⟩, hfits⟩, -⟩ := h
  exact ⟨ht, hfits, of_decide_eq_true hlo, of_decide_eq_true hhi⟩

/-- The fields that CSETB writes for a request that fits (R171, R190). -/
theorem setBounds_fields (k : Cap) {len : Nat} (x : Bool) (hfits : (encExp (capAddr k) (capAddr k + len) 0 43).isSome = true) :
    let e := expOf (capAddr k) (capAddr k + len)
    capE (setBounds k len x) = e ∧ capB (setBounds k len x) = capAddr k / 2 ^ e % 2 ^ 15 ∧
      capL (setBounds k len x) = units (capAddr k) (capAddr k + len) e := by
  obtain ⟨he, hu, -⟩ := expOf_fits hfits
  have hE : expOf (capAddr k) (capAddr k + len) < 2 ^ 6 := by omega
  have hB : capAddr k / 2 ^ expOf (capAddr k) (capAddr k + len) % 2 ^ 15 < 2 ^ 15 := Nat.mod_lt _ (by decide)
  have hL : units (capAddr k) (capAddr k + len) (expOf (capAddr k) (capAddr k + len)) < 2 ^ 15 := by omega
  obtain ⟨hE', hB', hL'⟩ := withBounds_fields k hE hB (Nat.mod_lt _ (by decide))
  exact ⟨hE', hB', hL'.trans (Nat.mod_eq_of_lt hL)⟩

theorem bits_setBounds_other (k : Cap) (len : Nat) (x : Bool) {hi lo : Nat} (h : hi < 92) :
    Machine.bits (setBounds k len x).bits.toNat hi lo = Machine.bits k.bits.toNat hi lo := bits_withBounds_other k _ _ _ h

theorem derived_setBounds (k : Cap) (len : Nat) (x : Bool) : Derived k (setBounds k len x) := by
  have hperm : capPerms (setBounds k len x) = capPerms k := bits_setBounds_other k len x (by decide)
  have haddr : capAddr (setBounds k len x) = capAddr k := by
    rw [capAddr_eq, capAddr_eq, bits_setBounds_other k len x (by decide)]
  refine ⟨fun h => ?_, fun n h => ?_, ?_, bits_setBounds_other k len x (by decide)⟩
  · obtain ⟨ht, hfits, hlo, hhi⟩ := setBounds_tagged h
    obtain ⟨hE, hB, hL⟩ := setBounds_fields k x hfits
    have hwindow : ∀ e, capAddr k < capAddr k / 2 ^ e * 2 ^ e + 2 ^ (e + 15) := fun e =>
      lt_of_lt_of_le (Nat.lt_div_mul_add (Nat.two_pow_pos e))
        (Nat.add_le_add_left (Nat.pow_le_pow_right (by decide) (Nat.le_add_right ..)) _)
    obtain ⟨hbase, htop⟩ := bounds_of_fields (Nat.le_add_right (capAddr k) len) hE (expOf_fits hfits).1 hB hL
      (by rw [haddr]; exact Nat.div_mul_le_self ..) (by rw [haddr]; exact hwindow _)
    rw [hbase, htop]
    exact ⟨ht, hlo, hhi⟩
  · rwa [capHas, hperm] at h
  · rw [capHas, hperm, capHas]

-- The instructions.

/-- The outcome of a derivation of c[D] from `k`: a trap, or a capability that R177 allows. -/
def Derives (s : State) (sw : Bool) (d : BitVec 7) (k : Cap) (t : State) : Prop :=
  (∃ e, t = trapped s e) ∨ ∃ r, t = retire s sw (setC (ctx s).live d.toNat r) ∧ Derived k r

section derives
variable {s t : State} {sw : Bool} {d : BitVec 7} {k : Cap}

theorem runLocal_derives {a : Where} {f : Ctx → Except Trap RegFile} (h : runLocal s sw a f = .next t)
    (hf : ∀ r, f (ctx s) = .ok r → ∃ v, r = setC (ctx s).live d.toNat v ∧ Derived k v) : Derives s sw d k t := by
  obtain ⟨e, he⟩ | ⟨r, hr, ho⟩ := runLocal_cases s sw a f
  · rw [he] at h
    exact .inl ⟨e, (Host.Outcome.next.inj h).symm⟩
  · rw [ho] at h
    obtain ⟨v, rfl, hv⟩ := hf r hr
    exact .inr ⟨v, (Host.Outcome.next.inj h).symm, hv⟩

theorem capDerive_derives {a : BitVec 7} {f : Ctx → Cap → Cap} (h : capDerive s sw d a f = .next t)
    (hf : Derived (getC (ctx s).rd a.toNat) (f (ctx s) (getC (ctx s).rd a.toNat))) : Derives s sw d (getC (ctx s).rd a.toNat) t := by
  refine runLocal_derives h fun r hr => ?_
  dsimp only at hr
  split at hr
  · cases hr
  · exact ⟨_, (Except.ok.inj hr).symm, hf⟩
end derives

section sealing
variable {s t : State} {sw : Bool} {d a b : BitVec 7}

theorem cseal_derives (h : exec (.cseal sw d a b) s = .next t) : Derives s sw d (getC (ctx s).rd a.toNat) t := by
  simp only [exec, execCseal] at h
  refine runLocal_derives h fun r hr => ?_
  split at hr
  · cases hr
  · next hc =>
    obtain ⟨⟨hx, -⟩, -⟩ := sealCause_eq_none_iff.mp hc
    exact ⟨_, (Except.ok.inj hr).symm, derived_sealed hx _⟩

theorem cunsl_derives (h : exec (.cunsl sw d a b) s = .next t) : Derives s sw d (getC (ctx s).rd a.toNat) t := by
  simp only [exec, execCunsl] at h
  refine runLocal_derives h fun r hr => ?_
  split at hr
  · cases hr
  · next hc =>
    obtain ⟨⟨hx, -⟩, -⟩ := sealCause_eq_none_iff.mp hc
    exact ⟨_, (Except.ok.inj hr).symm, derived_unsealed hx _⟩
end sealing

/-- Settles O19: what each of the instructions leaves in c[D] is derived from c[A] in the sense of R177. -/
theorem derivationsAreMonotonic : Obligations.DerivationsAreMonotonic := by
  intro s t sw x d a b imm i hi _ h
  suffices hd : Derives s sw d (getC (ctx s).rd a.toNat) t by
    obtain he | ⟨r, ht, hbounds, hperms, hscratch, hworld⟩ := hd
    · exact .inl he
    · exact .inr ⟨r, ht, hbounds, hperms, hscratch, hworld⟩
  simp only [List.mem_cons, List.not_mem_nil, or_false] at hi
  obtain rfl | rfl | rfl | rfl | rfl | rfl | rfl := hi
  · simp only [exec, execCseta] at h
    exact capDerive_derives h (derived_moveAddr _ _)
  · simp only [exec, execCinc] at h
    exact capDerive_derives h (derived_moveAddr _ _)
  · simp only [exec, execCsetb] at h
    exact capDerive_derives h (derived_setBounds _ _ _)
  · simp only [exec, execCprune] at h
    exact capDerive_derives h (derived_prune _ _)
  · exact cseal_derives h
  · exact cunsl_derives h
  · simp only [exec, execCmov] at h
    exact runLocal_derives h fun r hr => ⟨_, (Except.ok.inj hr).symm, .refl _⟩

end Sys2Proof.Proofs.CapRegs
end

section
/-! The issue of a counted access whose checks pass (R97, R201): what `checkLanes` answers, and the state that the issue leaves. -/
namespace Sys2Proof.Proofs.CountedAccess
open Sys2Proof Sys2Proof.Machine Sys2Proof.Safety Sys2Proof.Laws.Tables Sys2Proof.Laws.State Sys2Proof.Laws.Ops

-- What translations note.

/-- A state that differs from another in cached translations alone: the TLBs, the last pages of wave `k`, and the move number. -/
structure CachesOnly (k : Nat) (s t : State) : Prop where
  self : ∃ ps, waveAt t k = { waveAt s k with lastPages := ps }
  others : ∀ j, j ≠ k → waveAt t j = waveAt s j
  rest : t.mem = s.mem ∧ t.tags = s.tags ∧ t.owners = s.owners ∧ t.units = s.units ∧ t.wings = s.wings

theorem CachesOnly.refl (k : Nat) (s : State) : CachesOnly k s s := ⟨⟨_, rfl⟩, fun _ _ => rfl, rfl, rfl, rfl, rfl, rfl⟩

theorem CachesOnly.trans {k : Nat} {s t u : State} (h : CachesOnly k s t) (g : CachesOnly k t u) : CachesOnly k s u := by
  obtain ⟨⟨ps, hs⟩, ho, h1, h2, h3, h4, h5⟩ := h
  obtain ⟨⟨qs, gs⟩, go, g1, g2, g3, g4, g5⟩ := g
  exact ⟨⟨qs, by rw [gs, hs]⟩, fun j hj => (go j hj).trans (ho j hj), g1.trans h1, g2.trans h2, g3.trans h3, g4.trans h4,
    g5.trans h5⟩

theorem cachesOnly_noteLane (s : State) (k lane va : Nat) (t : Tr) : CachesOnly k s (noteLane s k lane va t) := by
  unfold noteLane
  split
  · exact .refl k s
  · split
    · exact .refl k s
    · dsimp only
      split
      · exact ⟨⟨_, rfl⟩, fun _ _ => rfl, rfl, rfl, rfl, rfl, rfl⟩
      · exact ⟨⟨_, (waveAt_setWave ..).trans (if_pos rfl)⟩, fun j hj => (waveAt_setWave ..).trans (if_neg (Ne.symm hj)),
          rfl, rfl, rfl, rfl, rfl⟩

theorem CachesOnly.foldl {k : Nat} {β : Type} {f : State → β → State} (hf : ∀ s b, CachesOnly k s (f s b)) (l : List β)
    (s : State) : CachesOnly k s (l.foldl f s) := by
  induction l generalizing s with
  | nil => exact .refl k s
  | cons b l ih => exact (hf s b).trans (ih (f s b))

/-- The state in which the lanes of an access have translated (R229, R230). -/
def noted (s : State) (q : AccReq) (ls : List LaneReq) : State :=
  let s1 := if usedChoice s (ctx s) q ls then tick s else s
  if capHas q.cap pSCRATCH then s1
  else (ls.map fun l => (l, laneTr s (ctx s) q l)).foldl (fun s1 e => noteLane s1 (ctx s).k e.1.lane e.1.x.toNat e.2) s1

theorem cachesOnly_noted (s : State) (q : AccReq) (ls : List LaneReq) : CachesOnly (ctx s).k s (noted s q ls) := by
  have htick : CachesOnly (ctx s).k s (if usedChoice s (ctx s) q ls then tick s else s) := by
    split
    · exact ⟨⟨_, rfl⟩, fun _ _ => rfl, rfl, rfl, rfl, rfl, rfl⟩
    · exact .refl _ s
  dsimp only [noted]
  split
  · exact htick
  · exact htick.trans (.foldl (fun _ _ => cachesOnly_noteLane ..) _ _)

-- The checks.

section checks
variable {s : State} {path : Nat} {q : AccReq} {ls : List LaneReq} (h : AccessOk s path q ls)
include h

omit h in
/-- The place of a lane in memory is where its address translates. -/
theorem mem_places {i va pa ipa : Nat} (he : (i, Loc.mem va pa ipa) ∈ places s q ls) :
    capHas q.cap pSCRATCH = false ∧ ∃ l ∈ ls, va = l.x.toNat := by
  simp only [places, checkLanes.located, List.mem_filterMap, List.mem_map] at he
  obtain ⟨_, ⟨l, hl, rfl⟩, he⟩ := he
  dsimp only at he
  split at he
  · split at he
    · simp at he
    · next hs =>
      simp only [Option.some.injEq, Prod.mk.injEq, Loc.mem.injEq] at he
      exact ⟨Bool.not_eq_true _ |>.mp hs, l, hl, he.2.1.symm⟩
  · cases he

/-- No lane of an access that passes needs a build (R370). -/
theorem no_build {i va pa ipa : Nat} (he : (i, Loc.mem va pa ipa) ∈ places s q ls) (hw : ¬ (q.need = .write ∧ q.atom = false))
    (id : Nat) : tileAns (wingOf s (ctx s).k) (unitOf s (ctx s).k).build va (q.atom && q.rights.contains pST) true ≠ .park id := by
  obtain ⟨hs, l, hl, rfl⟩ := mem_places he
  obtain hb | hb | hb := h.built
  · rw [hs] at hb; cases hb
  · exact absurd hb hw
  · exact hb l hl id

omit h in
theorem ite_filterMap_eq_nil {α β : Type} {p : Prop} [Decidable p] {f : α → Option β} {l : List α}
    (hf : ¬ p → ∀ e ∈ l, f e = none) : (if p then [] else l.filterMap f) = [] := by
  split
  · rfl
  · next hp => exact List.filterMap_eq_nil_iff.mpr (hf hp)

/-- Checks that pass leave every lane with its place. -/
theorem checkLanes_ok : checkLanes s (ctx s) q ls = .ok (noted s q ls, some ⟨places s q ls, none⟩) := by
  have hbad : (ls.filterMap fun l => (laneCause s (ctx s) q l).map fun e => (l, e)) = [] :=
    List.filterMap_eq_nil_iff.mpr fun l hl => by rw [h.cause l hl]; rfl
  unfold checkLanes
  rw [hbad]
  simp only [lanesTrap, List.foldl_nil]
  split
  · next hhold => exact absurd hhold (h.live _ _ _)
  · next hmiss _ =>
    obtain ⟨l, hl, he⟩ := List.mem_map.mp (List.mem_filter.mp (hmiss.symm ▸ List.mem_cons_self)).1
    obtain ⟨pa, ipa, e, sh, hok⟩ := h.found l hl
    exact nomatch hok.symm.trans (congrArg Prod.snd he)
  · rw [ite_filterMap_eq_nil fun hw e he => ?_]
    · split
      · rfl
      · next hpark _ => cases hpark
      · rfl
    · obtain ⟨i, x⟩ := e
      cases x with
      | scr off => rfl
      | mem va pa ipa =>
        dsimp only
        split
        · next hpark => exact absurd hpark (no_build h he (by simpa using hw) _)
        · rfl
end checks

-- The issue.

/-- An access issued in a state that differs in cached translations alone (R97, R201). -/
theorem issueAcc_issued_noted {s u : State} (sw : Bool) {a : Access} (hu : CachesOnly (ctx s).k s u)
    (h : countOf (ctx s).w a.path < Config.counterMax) : Issued s (issueAcc u (ctx s) sw a) a := by
  obtain ⟨⟨ps, hself⟩, hothers, hrest⟩ := hu
  have hw : (ctx s).w = waveAt s (ctx s).k := rfl
  have hl : (ctx s).live = srcLive (waveAt s (ctx s).k) (ctx s).src := rfl
  have hcount : countOf (waveAt u (ctx s).k) = countOf (waveAt s (ctx s).k) := by rw [hself]; rfl
  rw [issueAcc_room sw (by rw [hcount]; exact h)]
  refine ⟨⟨u.fresh, (stamped u (ctx s) a).pages, ?_⟩, ?_, ?_, ?_, ?_, fun j hj => ?_, hrest⟩
  · simp [advance_accs, stamped, hself, hw]
  · simp [countOf, advance_accs, tget_tput, hself, hw]
  · simp [advance_pc]
  · cases hs : (ctx s).src <;> simp [advance, srcDix, hs, isSeq, putSeq, putSlot, seqOf, slotOf]
  · rw [hl]
    cases hs : (ctx s).src <;> simp [advance, srcLive, hs, isSeq, putSeq, putSlot, seqOf, hself]
  · rw [waveAt_setWave, if_neg (Ne.symm hj), hothers j hj]

/-- A memory instruction whose access passes its checks leaves that access outstanding. -/
theorem counted_issues {s : State} {sw : Bool} {a : Where} {path : Ctx → Nat} {acq rel : Bool}
    {prep : Ctx → Except Trap (AccReq × List LaneReq)} {kind : Ctx → List (Nat × Loc) → AccKind} {q : AccReq} {ls : List LaneReq}
    {x : Access} (ha : allowed a (ctx s).src = true) (hp : prep (ctx s) = .ok (q, ls))
    (hx : x = { acc s (path (ctx s)) (kind (ctx s) (places s q ls)) with
      acq := acq, rel := rel, mask := if q.scalar then some (ctx s).mask else none }) (h : AccessOk s x.path q ls) :
    ∃ t, counted s sw a path acq rel prep kind = .next t ∧ Issued s t x := by
  subst hx
  refine ⟨_, runState_ok ha ?_, issueAcc_issued_noted sw (cachesOnly_noted s q ls) h.room⟩
  simp only [unheld, h.free, hp, checkLanes_ok h, bind, Except.bind]
  rfl

end Sys2Proof.Proofs.CountedAccess
end

section
/-! The loads and stores of 8 bytes, of capabilities and of capabilities by lane (R195, R196, R212), each as a counted access, and
PREF (R214). -/
namespace Sys2Proof.Proofs.CapAccess
open Sys2Proof Sys2Proof.Machine Sys2Proof.Safety Sys2Proof.Laws.Ops Sys2Proof.Proofs.CountedAccess

/-- Settles O22: each instruction is a counted access, its one location as given. -/
theorem uniformLoadsAndStores : Obligations.UniformLoadsAndStores := by
  intro s sw t cr o i l
  dsimp only
  intro hs
  refine ⟨fun hl => ?lds, fun hl => ?sts, fun hl => ?cldc, fun hl => ?cstc⟩
  case lds => rw [Issues, exec, execLds]; exact counted_issues (allowed_slot hs _) rfl (by rw [hl]; rfl)
  case sts => rw [Issues, exec, execSts]; exact counted_issues (allowed_slot hs _) rfl (by rw [hl]; rfl)
  case cldc => rw [Issues, exec, execCldc]; exact counted_issues (allowed_slot hs _) rfl (by rw [hl]; rfl)
  case cstc => rw [Issues, exec, execCstc]; exact counted_issues (allowed_slot hs _) rfl (by rw [hl]; rfl)

/-- Settles O23: VCLD and VCST are counted accesses of the active lanes; PREF keeps the registers. -/
theorem vectorCapabilityAccess : Obligations.VectorCapabilityAccess := by
  intro s sw t cr o i
  dsimp only
  simp only [Issues, exec, execVcld, execVcst, execPref]
  refine ⟨fun hs => ⟨counted_issues (allowed_slot hs _) rfl rfl, counted_issues (allowed_slot hs _) rfl rfl⟩, fun hs => ?pref⟩
  have ha : allowed (.only .seqCopy) (ctx s).src = true := by
    obtain h | h := hs
    · exact allowed_slot h _
    · simp [allowed, ctx, ctxOf, h]
  exact runLocal_ok ha rfl

end Sys2Proof.Proofs.CapAccess
end

section
/-! The host's messages on memory, work and TOKENs (R419 to R421), under a live key of a management association: one equation for
each message past its checks. -/
namespace Sys2Proof.Proofs.HostWork
open Sys2Proof Sys2Proof.Machine Sys2Proof.Safety Sys2Proof.Laws.Tables Sys2Proof.Laws.State Sys2Proof.Laws.Ops
open Sys2Proof.Proofs.OneLane

-- Host memory (R420, R421).

/-- A host write that no access races with lands as it is. -/
theorem hostLands_noRace {s : State} (h : NoRace s plainAccess) (pa n : Nat) (f : State → State) : hostLands s pa n f = f s := by
  rw [hostLands, landing, races_noRace h]
  rfl

theorem hostBytes_plain {s : State} {w : Wing} (h : (worldAt s w.world).prot = false) (x pa ipa m : Nat) :
    hostBytes s w [(.mem x pa ipa, m)] = readMem s pa m := by
  simp [hostBytes, wireBytes, h]

section lands
variable {s : State} {w : Wing} {x : Nat} (hr : NoRace s plainAccess) (hb : leafBypass s w x = false) (pa ipa : Nat)
include hr hb

theorem hostPut_one (m : Nat) (data : List Byte) :
    hostPut s w none [(.mem x pa ipa, m)] data = writeMem s pa (data.take m) := by
  simp only [hostPut, hostLands_noRace hr, hb]
  rfl

theorem capwPut_one (k : Cap) : capwPut w [(.mem x pa ipa, 16)] 0 [k] s =
    setMemTag (writeMem s pa (capBytes (filterCap s k))) pa (filterCap s k).tag := by
  have hseg : segAt [(.mem x pa ipa, 16)] 0 = .mem x pa ipa := rfl
  simp only [capwPut, hseg, hostLands_noRace hr, writeCapVia, hb]
  rfl
end lands

section message
variable {s : State} {h : HostHdr} (hm : Manages s h)
include hm

section memory
variable {cap : BitVec 128} {off : Nat} {segs : List (Loc × Nat)}

theorem exec_hostRead {len : Nat} (hlen : 0 < len) (hmax : len ≤ 4096) (hreq : reqOf s h 0x03 = none)
    (hreach : hostReach s h (hostCap s cap) off len [pLD] false = .ok segs) :
    exec (.hostRead h cap off len) s = .next (reply s h 0x03 0 0 (hostBytes s (wingAt s h.wing.toNat) segs)) := by
  have hrange : ¬ (len = 0 ∨ 4096 < len) := by omega
  simp only [exec, execHostRead, takeMsg_manages hm, hreq, Option.map_none, Option.getD_none, List.length_nil, Nat.add_zero,
    Nat.sub_zero, if_neg hrange, hreach, List.nil_append]

theorem exec_hostWrite {data : List Byte} (hlen : data.length ≤ h.len.toNat)
    (hreach : hostReach s h (hostCap s cap) off data.length [pST] true ((worldAt s (wingAt s h.wing.toNat).world).prot &&
      migrating s h (capAddr ((hostCap s cap).getD {}) + off) data.length) = .ok segs) :
    exec (.hostWrite h cap off data) s = .next (hostPut s (wingAt s h.wing.toNat)
      (if (worldAt s (wingAt s h.wing.toNat).world).prot then (worldAt s (wingAt s h.wing.toNat).world).key else none) segs data) := by
  simp only [exec, execHostWrite, takeBytes_manages hm _ hlen, hreach]

theorem exec_capw {ims : List (BitVec 128)} {cs : List Cap} {k : Cap} (hk : hostCap s cap = some k) (hoff : off % 16 = 0)
    (haddr : (capAddr k + off) % 16 = 0) (hpos : 0 < ims.length) (hmax : ims.length ≤ 256) (hlen : 16 * ims.length ≤ h.len.toNat)
    (hreach : hostReach s h (hostCap s cap) off (16 * ims.length) [pST, pSTC] true = .ok segs)
    (himages : ((List.range ims.length).mapM fun i =>
      capwImage s (wingAt s h.wing.toNat) (nth 0 ims i) (capAddr k + off + 16 * i : Nat)) = some cs) :
    exec (.capw h cap off ims) s = answered (capwPut (wingAt s h.wing.toNat) segs 0 cs s) h 0x05 0 := by
  have hform : ¬ (off % 16 ≠ 0 ∨ ims.length = 0 ∨ 256 < ims.length ∨ h.len.toNat < 16 * ims.length) := by omega
  have hgranule : ¬ (capAddr k + off) % 16 ≠ 0 := by omega
  simp only [exec, execCapw, takeMsg_manages hm, if_neg hform, hreach]
  simp only [hk, Option.getD_some, if_neg hgranule, himages]
  rfl
end memory

-- Records and launches (R387, R390, R398).

theorem exec_hostEnq {cap : BitVec 128} {data : List Byte} {k : Cap} (hk : hostCap s cap = some k) (hot : capOtype k = 2)
    (hsize : data.length = nodeRecSize s k) (hhdr : nodeHdrOk data = true)
    (hopen : nodeNo k = sweepNode ∨ nodeOpen s (nodeNo k) = true) (hroom : binRoom s (nodeNo k) = true)
    (hlen : data.length ≤ h.len.toNat) (hfirst : enqBehind s (nodeNo k) = false) : exec (.hostEnq h cap data) s =
      .next (binPut s h.wing.toNat (nodeNo k) data (List.replicate (data.length / 16) false)) := by
  have hnode : (some k).filter (fun c => capOtype c == 2) = some k := by rw [Option.filter_some, hot]; rfl
  have hform : ¬ (decide (data.length ≠ nodeRecSize s k) || !nodeHdrOk data) = true := by simp [hsize, hhdr]
  have hgone : ¬ (decide (nodeNo k ≠ sweepNode) && !nodeOpen s (nodeNo k)) = true := by
    obtain h | h := hopen <;> simp [h]
  have hput : (binRoom s (nodeNo k) && !enqBehind s (nodeNo k)) = true := by simp [hroom, hfirst]
  simp only [exec, execHostEnq, takeBytes_manages hm _ hlen, hk, hnode, if_neg hform, if_neg hgone, if_pos hput]

section launch
variable {data : List Byte} {code args dn sv : Cap} (hw : wingLives s h.wing.toNat = true) (hlen : 128 ≤ h.len.toNat)
  (hdata : data.length = 128) (hcode : hostCap s (BitVec.ofNat 128 (fld data (16 * 1) 16)) = some code)
  (hargs : hostCap s (BitVec.ofNat 128 (fld data (16 * 2) 16)) = some args)
  (hdone : hostCap s (BitVec.ofNat 128 (fld data (16 * 3) 16)) = some dn)
  (hsupv : hostCapOr0 s (BitVec.ofNat 128 (fld data (16 * 4) 16)) = some sv)
include hw hlen hdata hcode hargs hdone hsupv

theorem exec_hostEnqa_ok {r : LaunchReq} {s' : State} {slot : Nat}
    (hr : parseLaunch s h.wing.toNat true data code args dn sv = .ok r) (he : enterLaunch s h.wing.toNat r = some (s', slot)) :
    exec (.hostEnqa h data none) s = answered s' h 0x02 (enqaWord 0 (levelId s' slot)).toNat := by
  have hlen' : data.length ≤ h.len.toNat := hdata ▸ hlen
  simp only [exec, execHostEnqa, takeBytes_manages hm _ hlen', hw, hdata, hcode, hargs, hdone, hsupv, hr, he, deliverBinding]
  rfl

theorem exec_hostEnqa_refused {e : Nat} {s' : State}
    (hr : parseLaunch s h.wing.toNat true data code args dn sv = .error e) (hreq : reqOf s h 0x02 = none)
    (he : refuseLaunch s h.wing.toNat dn e .none = .ok s') :
    exec (.hostEnqa h data none) s = answered s' h 0x02 (enqaWord e 0).toNat := by
  have hlen' : data.length ≤ h.len.toNat := hdata ▸ hlen
  simp only [exec, execHostEnqa, takeBytes_manages hm _ hlen', hw, hdata, hcode, hargs, hdone, hsupv, hr, hreq, Option.map_none,
    Option.getD_none, he]
  rfl
end launch

-- TOKENs and levels (R234, R235, R395, R399).

theorem exec_hostOpcodeUnassigned {op : BitVec 8} (hop : unassignedOp op.toNat = true) :
    exec (.hostOpcodeUnassigned h op) s = .next (reply s h op.toNat 0x06 0 []) := by
  simp only [exec, execHostOpcodeUnassigned, hop, takeMsg_manages hm, refuse, if_true]

theorem exec_stage2Answer (tok : BitVec 32) (retry : Bool) : exec (.stage2Answer h tok retry) s =
    answered (answerToken s tok.toNat (if retry then .retry else .fail)) h 0x21 0 := by
  simp only [exec, execStage2Answer, takeMsg_manages hm]
  rfl

section pool
variable (hw : wingLives s h.wing.toNat = true) (tok : BitVec 32)
include hw

theorem exec_poolRefill_refused :
    exec (.poolRefill h tok none) s = answered (answerToken s tok.toNat .refuse) h 0x22 0 := by
  simp only [exec, execPoolRefill, takeForWing_manages hm hw]
  rfl

theorem exec_poolRefill_one {f : BitVec 48} (hf : f.toNat % 65536 = 0)
    (hroom : (wingAt s h.wing.toNat).pool.length + (wingAt s h.wing.toNat).poolPending.length + 1 ≤ 2 ^ 20) :
    exec (.poolRefill h tok (some [f])) s = answered (answerToken (setWing s h.wing.toNat
      { wingAt s h.wing.toNat with pool := (wingAt s h.wing.toNat).pool ++ [f.toNat] }) tok.toNat .retry) h 0x22 0 := by
  have hpage : ¬ ([f].any fun f => decide (f.toNat % 65536 ≠ 0)) = true := by simp [hf]
  have hfull : ¬ 2 ^ 20 < (wingAt s h.wing.toNat).pool.length + (wingAt s h.wing.toNat).poolPending.length + [f].length :=
    Nat.not_lt.mpr hroom
  simp only [exec, execPoolRefill, takeForWing_manages hm hw, if_neg hpage, if_neg hfull]
  rfl
end pool

theorem exec_hostCancel (lid : BitVec 32) : exec (.hostCancel h lid) s =
    answered (((findLevel s lid.toNat).map (cancelLevel s)).getD s) h 0x24 0 := by
  simp only [exec, execHostCancel, takeMsg_manages hm]
  cases findLevel s lid.toNat <;> rfl

theorem exec_levelClose (lid : BitVec 32) : exec (.levelClose h lid) s =
    answered (((findLevel s lid.toNat).map (closeLevel s)).getD s) h 0x32 0 := by
  simp only [exec, execLevelClose, takeMsg_manages hm]
  cases findLevel s lid.toNat <;> rfl

-- Scrubs and sweeps (R184, R414).

theorem exec_hostScrub {base len : Nat} {phys : Bool} {owner : BitVec 4} {s' : State} {r : Receipt} (hbase : base % 65536 = 0)
    (hlen : len % 65536 = 0) (hmin : 65536 ≤ len) (hmax : len ≤ 2 ^ 39 - 65536) (hw : phys = true ∨ wingLives s h.wing.toNat = true)
    (hreq : reqOf s h 0x25 = none) (hgo : hostScrubGo (wingAt s h.wing.toNat) phys owner.toNat base (len / 65536) 0 (receiptOf 0) s =
      (s', .done r)) : exec (.hostScrub h phys base len owner) s = answered s' h 0x25 (receiptWord r).toNat := by
  have hform : ¬ (base % 65536 ≠ 0 ∨ len % 65536 ≠ 0 ∨ len < 65536 ∨ 2 ^ 39 - 65536 < len) := by omega
  have hlives : ¬ (!phys && !wingLives s h.wing.toNat) = true := by obtain h | h := hw <;> simp [h]
  have hzero : receiptOf (BitVec.ofNat 64 0) = receiptOf 0 := rfl
  simp only [exec, execHostScrub, takeMsg_manages hm, if_neg hform, if_neg hlives, hreq, Option.getD_none, Nat.sub_zero, hzero, hgo]
  rfl

theorem exec_hostRevocationSweep {world : BitVec 4} {data : List Byte} {n : Nat} (hsize : data.length = 64) (hlen : 64 ≤ h.len.toNat)
    (hw : sweepWing s h world.toNat = some n) (hroom : s.sweepQ.length < 16) : ∃ r t,
    exec (.hostRevocationSweep h world data) s = .next t ∧ t.sweepQ = s.sweepQ ++ [r] ∧ r.world = world.toNat ∧ r.wing = n ∧
      r.len = fld data 16 8 ∧ r.start = fld data 24 8 := by
  have hlen' : data.length ≤ h.len.toNat := hsize ▸ hlen
  simp only [exec, execHostRevocationSweep, takeBytes_manages hm _ hlen', if_neg (not_not_intro hsize), hw,
    if_neg (Nat.not_le.mpr hroom)]
  exact ⟨_, _, rfl, rfl, rfl, rfl, rfl, rfl⟩

-- Graphs, jobs and blocks of records (R356, R393, R419).

section create
variable {d : Cap} {s' : State} {slot : Nat} (hw : wingLives s h.wing.toNat = true)
  (hd : doneOk d (wingAt s h.wing.toNat).world = true)
include hw hd

theorem exec_graphCreate {done : BitVec 128} {nodes : List NodeSpec} {is : List LaunchInfo} {t : State} {ks : List Nat}
    (hc : hostCap s done = some d) (hne : nodes ≠ []) (hinfo : nodes.mapM (nodeInfo s h.wing.toNat) = .ok is)
    (hnew : newLevel s h.wing.toNat d 0 0 (.graph [] false) = some (s', slot))
    (hallot : allotNodes s' slot (nodes.zip is) = some (t, ks)) : ∃ u, exec (.graphCreate h done 0 nodes) s = .next u ∧
      (levelAt u slot).body = .graph ks false ∧
      HostOut.nodeCaps h.token (ks.map fun k => (nodeCap k (nodeAt u k).gen (wingAt s h.wing.toNat).world).bits) ∈ u.outbox := by
  have hsome : nodes.isEmpty = false := by simp [hne]
  simp only [exec, execGraphCreate, takeForWing_manages hm hw, hc, if_true, hinfo, hd, hsome, hnew, hallot]
  refine ⟨_, rfl, ?_, ?_⟩
  · exact congrArg Level.body (levelAt_setLevel t slot slot _ |>.trans (if_pos rfl))
  · exact List.mem_append_left _ (List.mem_append_right _ (List.mem_singleton.mpr rfl))

theorem exec_jobCreate {data : List Byte} {ps : List Cap} (hlen : data.length ≤ h.len.toNat) (hphases : fld data 0 2 ≠ 0)
    (hrest : fld data 2 14 = 0) (hsize : data.length = 32 + 16 * fld data 0 2)
    (hc : hostCap s (BitVec.ofNat 128 (fld data (16 * 1) 16)) = some d) (hcaps : jobCaps s data = some ps)
    (hplain : ∀ p ∈ ps, plainCap p (wingAt s h.wing.toNat).world [pLD] = true)
    (hnew : newLevel s h.wing.toNat d 0 0 (.job ps 0 0 false) = some (s', slot)) :
    exec (.jobCreate h data) s = answered s' h 0x15 (levelId s' slot) := by
  have hform : ¬ (fld data 0 2 = 0 ∨ fld data 2 14 ≠ 0 ∨ data.length ≠ 32 + 16 * fld data 0 2) := by omega
  have hcap : ¬ (!doneOk d (wingAt s h.wing.toNat).world ||
      ps.any fun p => !plainCap p (wingAt s h.wing.toNat).world [pLD]) = true := by simpa [hd] using hplain
  simp only [exec, execJobCreate, takeForWing_manages hm hw, if_neg (Nat.not_lt.mpr hlen), if_neg hform]
  simp only [Nat.mul_one] at hc
  simp only [hc, hcaps, if_neg hcap, hnew]
  rfl
end create

theorem exec_deal {data : List Byte} {k : Cap} {n : Nat} {r : State × Nat × Nat} (hk : k = ⟨true, BitVec.ofNat 128 (fld data 0 16)⟩)
    (hn : n = fld data 16 4) (hr : r = dealAll k data n 0 s) (hot : capOtype k = 3) (hused : (bindAt s (bindNo k)).used = true)
    (hrole : 2 ≤ bindRole k) (hkind : bindKind k < 6) (hrest : fld data 20 108 = 0)
    (hsize : 128 + n * recSize (bindKind k) ≤ data.length) (hlen : data.length ≤ h.len.toNat) (hstop : r.2.2 < 256) :
    exec (.deal h data) s = answered r.1 h 0x18 (dealWord r.2.1 r.2.2).toNat := by
  subst hk hn hr
  have hhdr : ¬ data.length < 128 := by omega
  have hbind : ¬ (capOtype ⟨true, BitVec.ofNat 128 (fld data 0 16)⟩ ≠ 3 ∨
      (!(bindAt s (bindNo ⟨true, BitVec.ofNat 128 (fld data 0 16)⟩)).used) = true ∨
      bindRole ⟨true, BitVec.ofNat 128 (fld data 0 16)⟩ < 2 ∨ 6 ≤ bindKind ⟨true, BitVec.ofNat 128 (fld data 0 16)⟩ ∨
      fld data 20 108 ≠ 0) := by
    rintro (hf | hf | hf | hf | hf)
    · exact hf hot
    · simp [hused] at hf
    · exact Nat.not_lt.mpr hrole hf
    · exact Nat.not_le.mpr hkind hf
    · exact hf hrest
  simp only [exec, execDeal, takeBytes_manages hm _ hlen, if_neg hhdr, if_neg hbind, if_neg (Nat.not_lt.mpr hsize),
    if_neg (Nat.not_le.mpr hstop)]
  rfl

-- The stage-1 map (R428).

section map
variable {va req frame : BitVec 64} {s' : State} {v : DWord} (hw : wingLives s h.wing.toNat = true) (hreq : reqOf s h 0x33 = none)
  (hmine : ((wingAt s h.wing.toNat).scans.find? fun z => z.host == some (h.assoc, h.token)) = none)
  (hregion : regionOk (wingAt s h.wing.toNat) (mapReq req) va.toNat = true) (hbusy : scanBusy s h.wing.toNat none = false)
  (hrun : mapRun (tendScans s h.wing.toNat) h.wing.toNat va.toNat (mapReq req) frame.toNat false [] = .status s' v)
include hw hreq hmine hregion hbusy hrun

/-- A map that asks at once for what the tables can do goes on with their answer. -/
theorem exec_stage1Map : exec (.stage1Map h va req frame) s =
    mapDoneWith (tendScans s h.wing.toNat) s' h h.wing.toNat va.toNat (mapReq req) none v := by
  simp only [exec, execStage1Map, takeForWing_manages hm hw, hreq, Option.getD_none, hmine, hregion, hbusy, Option.map_none, hrun]
  rfl

theorem exec_stage1Map_keeps (hv : v.toNat / 2 ^ 56 ≠ 0 ∨
    losesRights (tendScans s h.wing.toNat) (wingAt (tendScans s h.wing.toNat) h.wing.toNat) va.toNat (mapReq req) = false) :
    exec (.stage1Map h va req frame) s = answered s' h 0x33 v.toNat := by
  rw [exec_stage1Map hm hw hreq hmine hregion hbusy hrun, mapDoneWith]
  rw [if_pos (by simpa using hv)]
  rfl

theorem exec_stage1Map_loses {hi : Nat} (hhi : hi = va.toNat + 2 ^ sizeBits (mapReq req).size) (hv : v.toNat / 2 ^ 56 = 0)
    (hloses : losesRights (tendScans s h.wing.toNat) (wingAt (tendScans s h.wing.toNat) h.wing.toNat) va.toNat (mapReq req) = true)
    (huse : usesPages (invalidate s' h.wing.toNat va.toNat hi true) h.wing.toNat va.toNat hi = false) :
    exec (.stage1Map h va req frame) s = answered (freeAfterTlbi (invalidate s' h.wing.toNat va.toNat hi true) h.wing.toNat va.toNat hi)
      h 0x33 v.toNat := by
  subst hhi
  have hlast : ¬ (v.toNat / 2 ^ 56 ≠ 0 ∨ (!losesRights (tendScans s h.wing.toNat)
      (wingAt (tendScans s h.wing.toNat) h.wing.toNat) va.toNat (mapReq req)) = true) := by
    rintro (hf | hf)
    · exact hf hv
    · simp [hloses] at hf
  rw [exec_stage1Map hm hw hreq hmine hregion hbusy hrun, mapDoneWith]
  simp only [if_neg hlast, endScan, huse]
  rfl
end map

end message

/-- Settles O52: each message by the equation of its own. -/
theorem hostWorkMessages : Obligations.HostWorkMessages := by
  intro s h cap done off len data segs ims cs tok lid retry phys owner world va req frame s' v nodes
  dsimp only
  intro hm
  refine ⟨fun k hk hot hsize hhdr hopen hroom hlen hfirst => exec_hostEnq hm hk hot hsize hhdr hopen hroom hlen hfirst,
    fun code args dn sv r slot hw hlen hdata hcode hargs hdone hsupv => exec_hostEnqa_ok hm hw hlen hdata hcode hargs hdone hsupv,
    fun code args dn sv e hw hlen hdata hcode hargs hdone hsupv => exec_hostEnqa_refused hm hw hlen hdata hcode hargs hdone hsupv,
    exec_hostRead hm, exec_hostWrite hm,
    fun x pa ipa m k => ⟨fun hp => hostBytes_plain hp x pa ipa m,
      fun hr hb => ⟨hostPut_one hr hb pa ipa m data, capwPut_one hr hb pa ipa k⟩⟩,
    fun k => exec_capw hm, fun op => exec_hostOpcodeUnassigned hm, exec_stage2Answer hm tok retry,
    fun hw => exec_poolRefill_refused hm hw tok, fun f hw => exec_poolRefill_one hm hw tok,
    fun slot hl => ?_, fun hl => ?_, fun r' => exec_hostScrub hm, fun n => exec_hostRevocationSweep hm,
    fun d is slot t ks hw hc hd hne hinfo hnew hallot => exec_graphCreate hm hw hd hc hne hinfo hnew hallot,
    fun d ps slot hw hlen hphases hrest hsize hc hcaps hd => exec_jobCreate hm hw hd hlen hphases hrest hsize hc hcaps,
    exec_deal hm rfl rfl rfl,
    fun hw hreq hmine hregion hbusy hrun => ⟨exec_stage1Map_keeps hm hw hreq hmine hregion hbusy hrun,
      exec_stage1Map_loses hm hw hreq hmine hregion hbusy hrun rfl⟩⟩
  all_goals
    rw [exec_hostCancel hm, exec_levelClose hm, hl]
    exact ⟨rfl, rfl⟩

end Sys2Proof.Proofs.HostWork
end

section
/-! The checks that memory instructions share at issue, where they pass (R62, R178, R210, R213), and the address of an operand. -/
namespace Sys2Proof.Proofs.IssueRules
open Sys2Proof Sys2Proof.Machine Sys2Proof.Safety Sys2Proof.Laws.Ops

/-- The sequencer that may execute an instruction, and every slot, is allowed it (R210). -/
theorem allowed_slotOr {s : State} {q : Src} (h : SlotOr s q) : allowed (.only q) (ctx s).src = true := by
  obtain h | h := h
  · exact allowed_slot h _
  · simp [allowed, ctx, ctxOf, h]

/-- Without an acquire that holds it, an instruction that makes an access goes on (R213). -/
theorem unheld_free {s : State} {c : Ctx} (h : acqHeld c = false) (f : Except Trap State) : unheld s c f = f :=
  if_neg (by rw [h]; exact Bool.false_ne_true)

/-- A capability with tag, rights, WORLD and no seal meets no cause at the issue of an engine transfer. -/
theorem capProps_none {k : Cap} {rs : List Nat} {w : Nat}
    (h : k.tag = true ∧ (∀ p ∈ rs, capHas k p = true) ∧ capWorld k = w ∧ capOtype k = 0) : capProps k rs w = none := by
  obtain ⟨htag, hrs, hw, hseal⟩ := h
  have hall : hasAll k rs = true := List.all_eq_true.mpr hrs
  simp [capProps, htag, hall, hw, hseal]

/-- The address of an operand without a constant offset. -/
theorem addrS_zero (c : Ctx) (k : Cap) (o : BitVec 7) :
    addrS c k o 0 = (capAddr k : Int) + (getS c.rd o.toNat).toInt := Int.add_zero _

/-- An access that meets no cause of a capability and is aligned meets none (R62). -/
theorem minCause_none {x : Option Nat} {p : Prop} [Decidable p] (hx : x = none) (hp : ¬ p) :
    minCause x (if p then some 0x1A else none) = none := by
  rw [hx, if_neg hp]
  rfl

end Sys2Proof.Proofs.IssueRules
end

section
/-! The loads and stores of elements (R209, R211, R213), each as a counted access of the active lanes. -/
namespace Sys2Proof.Proofs.ElementAccess
open Sys2Proof Sys2Proof.Machine Sys2Proof.Safety Sys2Proof.Laws.Ops Sys2Proof.Proofs.CountedAccess

section sizes
variable {s : State} {n : Nat} {t : BitVec 7} (hn : elemSize (ety s) = some n) (ht : oddPair (ety s) t = false)
include hn

theorem sizeOf_eq : sizeOf_ (ctx s) = n := by
  rw [sizeOf_, show elemSize (modeEty (ctx s).rd.mode) = some n from hn]
  rfl

include ht

theorem needSize_ok : needSize (ctx s) t = .ok n := by
  rw [needSize, show elemSize (modeEty (ctx s).rd.mode) = some n from hn]
  exact if_neg (by rw [show oddPair (modeEty (ctx s).rd.mode) t = false from ht]; exact Bool.false_ne_true)

theorem prepV_ok (cr : BitVec 5) (store : Bool) (f : Cap → Nat → Nat → Int) :
    prepV (ctx s) t cr store f = .ok
      ({ cap := opC (ctx s) cr.toNat, n := n, rights := [if store then pST else pLD], align := n,
         need := if store then .write else .read }, laneReqs (ctx s) (f (opC (ctx s) cr.toNat) n)) := by
  rw [prepV, needSize_ok hn ht]
  rfl
end sizes

/-- Settles O21: each is a counted access whose lanes have the element size of ETYPE. -/
theorem vectorLoadsAndStores : Obligations.VectorLoadsAndStores := by
  intro s sw t cr o i e n
  dsimp only
  intro hs hn ht
  have hsize := sizeOf_eq hn
  refine ⟨?ld, ?ldu, ?ldac, ?st, ?stu, ?strl⟩
  case ld => rw [Issues, exec, execLd]; exact counted_issues (allowed_slot hs _) (prepV_ok hn ht ..) (by rw [hsize]; rfl)
  case ldu => rw [Issues, exec, execLdu]; exact counted_issues (allowed_slot hs _) (prepV_ok hn ht ..) (by rw [hsize]; rfl)
  case ldac => rw [Issues, exec, execLdac]; exact counted_issues (allowed_slot hs _) (prepV_ok hn ht ..) (by rw [hsize]; rfl)
  case st =>
    rw [Issues, exec, execSt]
    exact counted_issues (allowed_slot hs _) (prepV_ok hn ht ..) (by rw [storeKind, hsize]; rfl)
  case stu =>
    rw [Issues, exec, execStu]
    exact counted_issues (allowed_slot hs _) (prepV_ok hn ht ..) (by rw [storeKind, hsize]; rfl)
  case strl =>
    rw [Issues, exec, execStrl]
    exact counted_issues (allowed_slot hs _) (prepV_ok hn ht ..) (by rw [storeKind, hsize]; rfl)

end Sys2Proof.Proofs.ElementAccess
end

section
/-! The instructions on the counters of the paths (R203, R204, R220). -/
namespace Sys2Proof.Proofs.Counters
open Sys2Proof Sys2Proof.Machine Sys2Proof.Safety Sys2Proof.Laws.Ops

section waitc
variable {s : State} (sw : Bool) (d a b : BitVec 7) (i : Bool)

/-- The limit of a WAITC (R220): the B field, or an S register. -/
def waitLimit (c : Ctx) : Nat := if i then b.toNat else (getS c.rd a.toNat).toNat

theorem opB_limit : (opB (ctx s) (if i then b else a) i).toNat = waitLimit a b i (ctx s) := by
  cases i
  · rfl
  · exact BitVec.toNat_setWidth_of_le (b := b) (by decide)

theorem exec_waitc_waits (h : waitLimit a b i (ctx s) < countOf (ctx s).w d.toNat) :
    exec (.waitc sw d a b i) s = .next (waitWith s (ctx s) .poll) := by
  simp only [exec, execWaitc, opB_limit]
  exact if_pos h

theorem exec_waitc_passes (h : countOf (ctx s).w d.toNat ≤ waitLimit a b i (ctx s))
    (he : oldestErr (ctx s).w d.toNat = none) :
    exec (.waitc sw d a b i) s = .next (finish s (ctx s) sw) := by
  simp only [exec, execWaitc, opB_limit, if_neg (Nat.not_lt.mpr h), he]

theorem exec_waitc_raises (h : countOf (ctx s).w d.toNat ≤ waitLimit a b i (ctx s)) {r : ErrEntry}
    (he : oldestErr (ctx s).w d.toNat = some r) : exec (.waitc sw d a b i) s =
      .next (takeTrap (setWave s (ctx s).k { (ctx s).w with errs := dropErr d.toNat (ctx s).w.errs }) (ctx s).k (ctx s).src
        { cause := r.err.cause.toNat, addr := r.err.addr, lanes := some r.err.lanes, defer := true, pix := some r.err.pix }) := by
  simp only [exec, execWaitc, opB_limit, if_neg (Nat.not_lt.mpr h), he]
end waitc

/-- Settles O24: one equation for each case of WAITC. -/
theorem counterInstructions : Obligations.CounterInstructions := by
  intro s sw e i d a b
  refine ⟨fun h => exec_waitc_waits sw d a b i h, fun h he => exec_waitc_passes sw d a b i h he,
    fun r h he => exec_waitc_raises sw d a b i h he, ?_⟩
  simp only [exec, execRdcnt]
  exact runLocal_ok rfl rfl

end Sys2Proof.Proofs.Counters
end

section
/-! The engine transfers at issue (R215 to R219, R270). -/
namespace Sys2Proof.Proofs.EngineIssue
open Sys2Proof Sys2Proof.Machine Sys2Proof.Safety Sys2Proof.Laws.Ops Sys2Proof.Proofs.IssueRules

/-- An engine transfer that meets no cause is left outstanding. -/
theorem engineIssue_ok {s : State} {sw : Bool} {q : Src} {path : Nat} {kind : Ctx → Except Trap AccKind} {k : AccKind}
    (hq : SlotOr s q) (hfree : acqHeld (ctx s) = false) (hroom : countOf (ctx s).w path < Config.counterMax)
    (hk : kind (ctx s) = .ok k) :
    ∃ u, engineIssue s sw q path kind = .next u ∧
      Issued s u { acc s path k with engine := true, bound := if delivers k then (ctx s).w.delivery else none } := by
  refine ⟨_, runState_ok (allowed_slotOr hq) ?_, issueAcc_issued sw hroom⟩
  rw [unheld_free hfree, hk]
  rfl

/-- Settles O25: each is an engine transfer whose capabilities meet no cause. -/
theorem engineTransfersIssue : Obligations.EngineTransfersIssue := by
  intro s sw t cr o i
  dsimp only
  intro hfree
  refine ⟨fun hq hroom hz => ⟨fun hm => ?gath, fun hm => ?scat⟩,
    fun hq hroom => ⟨fun hd hf hm => ?tcpy, fun hm hd => ?bcpy, fun hc hx hn => ?publ⟩⟩
  case gath =>
    rw [exec, execGath, rowsIssue]
    refine engineIssue_ok hq hfree hroom ?_
    simp only [opC, if_true, capProps_none hm, capProps_none hz]
    rfl
  case scat =>
    rw [exec, execScat, rowsIssue]
    refine engineIssue_ok hq hfree hroom ?_
    simp only [opC, Bool.false_eq_true, if_false, capProps_none hm, capProps_none hz]
    rfl
  case tcpy =>
    rw [exec, execTcpy]
    refine engineIssue_ok hq hfree hroom ?_
    simp only [opC, capProps_none hd, capProps_none hf, capProps_none hm]
    rfl
  case bcpy =>
    rw [exec, execBcpy]
    refine engineIssue_ok hq hfree hroom ?_
    simp only [opC, capProps_none hm, capProps_none hd]
    rfl
  case publ =>
    rw [exec, execPubl]
    refine engineIssue_ok hq hfree hroom ?_
    rw [← addrS_zero (ctx s)] at hc hx ⊢
    have hcause := minCause_none hc (not_or.mpr ⟨not_not.mpr hx, not_not.mpr hn⟩)
    dsimp only [opC, opS]
    rw [hcause]

end Sys2Proof.Proofs.EngineIssue
end

section
/-! The loads and stores of matrix storage at issue (R293, R295, R301 to R303): their check, the translations of their pages, which
change cached translations alone (R252), and the access that each leaves. -/
namespace Sys2Proof.Proofs.MatrixTransfer
open Sys2Proof Sys2Proof.Machine Sys2Proof.Safety Sys2Proof.Laws.Tables Sys2Proof.Laws.State Sys2Proof.Laws.Ops
open Sys2Proof.Proofs.CountedAccess Sys2Proof.Proofs.IssueRules

-- Translations at issue.

@[simp] theorem noteLane_alcoves (s : State) (k lane va : Nat) (t : Tr) : (noteLane s k lane va t).alcoves = s.alcoves := by
  unfold noteLane
  split
  · rfl
  · split
    · rfl
    · dsimp only
      split <;> rfl

/-- The pages of a matrix transfer change cached translations alone, and leave the matrix units (R229, R252). -/
theorem bulkTrs_rest (c : Ctx) (x : Nat) (need : Need) (ps : List Nat) (s : State) :
    CachesOnly c.k s (bulkTrs s c x need ps).1 ∧ (bulkTrs s c x need ps).1.alcoves = s.alcoves := by
  induction ps generalizing s with
  | nil => exact ⟨.refl c.k s, rfl⟩
  | cons p ps ih =>
    dsimp only [bulkTrs]
    split
    · exact ⟨.refl c.k s, rfl⟩
    · obtain ⟨hc, ha⟩ := ih (noteLane s c.k 33 (max x (p * 65536)) (translateAs s c.k 33 (max x (p * 65536)) need c.hold))
      exact ⟨(cachesOnly_noteLane ..).trans hc, ha.trans (noteLane_alcoves ..)⟩

/-- A matrix transfer goes on with the translations of its pages. -/
theorem withPages_ok {s s' : State} {c : Ctx} {cap : Cap} {x n : Nat} {need : Need} {ts : Table PageTr}
    (h : bulkTrs s c x need (bulkPages cap x n) = (s', .ok ts)) (f : State → Table PageTr → Except Trap State) :
    withPages s c cap x n need f = f s' ts := by
  rw [withPages, h]

theorem matOf_congr {s t : State} (h : t.alcoves = s.alcoves) (k : Nat) : matOf t k = matOf s k := by simp only [matOf, alcAt, h]

section translated
variable {s s' : State} {c : Ctx} {x : Nat} {need : Need} {ps : List Nat} {ts : Table PageTr}
  (h : bulkTrs s c x need ps = (s', .ok ts))
include h

theorem cachesOnly_translated : CachesOnly c.k s s' := by
  have hr := (bulkTrs_rest c x need ps s).1
  rwa [h] at hr

theorem matOf_translated (j : Nat) : matOf s' j = matOf s j := by
  have hr := (bulkTrs_rest c x need ps s).2
  rw [h] at hr
  exact matOf_congr hr j
end translated

/-- The unit of a wave does not hang on cached translations. -/
theorem unitOf_cachesOnly {k : Nat} {s t : State} (h : CachesOnly k s t) : unitOf t k = unitOf s k := by
  obtain ⟨⟨ps, hs⟩, -, -, -, -, hu, -⟩ := h
  simp only [Machine.unitOf, unitAt, hs, hu]

theorem cachesOnly_setMat {k : Nat} {s t : State} (h : CachesOnly k s t) (j : Nat) (m : Matrix) : CachesOnly k s (setMat t j m) :=
  h.trans ⟨⟨_, rfl⟩, fun _ _ => rfl, rfl, rfl, rfl, rfl, rfl⟩

@[simp] theorem matOf_setMat (s : State) (k : Nat) (m : Matrix) : matOf (setMat s k m) k = m := by simp [matOf, setMat]

theorem issueAcc_alcoves (s : State) (c : Ctx) (sw : Bool) (a : Access) : (issueAcc s c sw a).alcoves = s.alcoves := by
  dsimp only [issueAcc]
  split <;> rfl

-- The check of a transfer.

/-- The capability grants the bytes of a transfer, which begins at a multiple of `al`. -/
def Fits (s : State) (cap : Cap) (x : Int) (n right al : Nat) : Prop :=
  capCause cap x n [right] (worldOf s (ctx s).k) (scrWin s (ctx s).k) = none ∧ x % (al : Int) = 0

theorem bulkCheck_ok {s : State} {cap : Cap} {x : Int} {n right al : Nat} (h : Fits s cap x n right al) :
    bulkCheck s (ctx s) cap x n right al = .ok ⟨⟩ := by
  have hcause := minCause_none h.1 (not_not.mpr h.2)
  dsimp only [bulkCheck]
  rw [hcause]

theorem accCheck_ok {s : State} {c : Ctx} (h : accOk (matOf s c.k) (unitOf s c.k).ctxid = true) (rowwise : Bool) :
    accCheck s c rowwise = .ok ⟨⟩ := if_pos h

/-- The access that a matrix transfer leaves, with the translations of its pages; its errors name no lanes (log 26). -/
def transferAcc (s : State) (path : Nat) (k : AccKind) (ts : Table PageTr) : Access :=
  { acc s path k with mask := some 0, trs := ts }

/-- The request of a line of a slot's image, and the lines of an image of `n` bytes (R295). -/
def lineReq (cap : Cap) : AccReq := { cap := cap, n := 128, rights := [pLD], align := 128, need := .read, scalar := true }
def imageLines (x : Int) (n : Nat) : List LaneReq :=
  (List.range (n / 128)).map fun j => { lane := 32 + j, x := x + (128 * j : Nat) }

-- The instructions, each past its checks: the access that it issues, and in what state.

section issue
variable {s s' : State} (hq : SlotOr s .seqMatrix) (hfree : acqHeld (ctx s) = false) (sw : Bool) (t : BitVec 7)
  (cr : BitVec 5) (o : BitVec 7) {cap : Cap} (hcap : opC (ctx s) cr.toNat = cap) {x : Int} {ts : Table PageTr}
include hq hfree hcap

theorem exec_mldo_issues {b : Bool} {n : Nat} (hn : (if b then 2176 else 2048) = n) (hx : addrS (ctx s) cap o 0 = x)
    (hclaim : claimedBy (matOf s (ctx s).k) (ctx s).k t.toNat = true)
    (hbusy : matBusy s (ctx s) { slots := [t.toNat] } = false)
    (hfits : Fits s cap x n pLD 1)
    (hok : AccessOk s (pathFor cap 0) (lineReq cap) (imageLines x n)) :
    exec (.mldo sw t cr o b) s = .next (issueAcc (noted s (lineReq cap) (imageLines x n)) (ctx s) sw
      (transferAcc s (pathFor cap 0) (.loadSlot t.toNat x.toNat
        ((places s (lineReq cap) (imageLines x n)).map fun e => (e.1 - 32, e.2))) [])) := by
  rw [exec, execMldo]
  refine runState_ok (allowed_slotOr hq) ?_
  have hchecks := checkLanes_ok hok
  dsimp only [lineReq, imageLines] at hchecks ⊢
  rw [hcap, hx, hn, hclaim, bulkCheck_ok hfits, unheld_free hfree, hchecks]
  simp only [bind, Except.bind, hbusy]
  rfl

theorem exec_tldp_issues {i : BitVec 4} (hx : addrS (ctx s) cap o (4 * i.toNat) = x)
    (hown : accOk (matOf s (ctx s).k) (unitOf s (ctx s).k).ctxid = true) (hbusy : matBusy s (ctx s) { tail := true } = false)
    (hfits : Fits s cap x (4 * t.toNat) pLD 4) (hroom : countOf (ctx s).w (pathFor cap 0) < Config.counterMax)
    (htrs : bulkTrs s (ctx s) x.toNat .read (bulkPages cap x.toNat (4 * t.toNat)) = (s', .ok ts)) :
    exec (.tldp sw t cr o i) s = .next (issueAcc (accTake s' (ctx s)) (ctx s) sw
      (transferAcc s (pathFor cap 0) (.loadTail t.toNat cap x.toNat) ts)) := by
  rw [exec, execTldp]
  refine runState_ok (allowed_slotOr hq) ?_
  dsimp only
  rw [accCheck_ok hown, hcap, hx, bulkCheck_ok hfits, unheld_free hfree, hbusy, decide_eq_false (Nat.not_le.mpr hroom)]
  exact withPages_ok htrs _

theorem exec_mcab_issues {i : BitVec 4} (hx : addrS (ctx s) cap o (2048 * i.toNat) = x) (hbusy : matBusy s (ctx s) {} = false)
    (hfits : Fits s cap x 2048 pLD 128)
    (htrs : bulkTrs s (ctx s) x.toNat .read (bulkPages cap x.toNat 2048) = (s', .ok ts)) :
    exec (.mcab sw cr o i) s = .next (issueAcc s' (ctx s) sw
      (transferAcc s (pathFor cap 0) (.loadCabinet cap x.toNat) ts)) := by
  rw [exec, execMcab]
  refine runState_ok (allowed_slotOr hq) ?_
  dsimp only
  rw [hcap, hx, bulkCheck_ok hfits, unheld_free hfree, hbusy]
  exact withPages_ok htrs _

variable {i : BitVec 4} (hx : addrS (ctx s) cap o (4096 * i.toNat) = x) (hbusy : matBusy s (ctx s) { tiles := [t.toNat] } = false)
include hx hbusy

theorem exec_accrs_issues (hfits : Fits s cap x 4096 pLD 128)
    (htrs : bulkTrs s (ctx s) x.toNat .read (bulkPages cap x.toNat 4096) = (s', .ok ts)) :
    exec (.accrs sw t cr o i) s = .next (issueAcc s' (ctx s) sw
      (transferAcc s (pathFor cap 0) (.loadTile t.toNat cap x.toNat) ts)) := by
  rw [exec, execAccrs]
  refine runState_ok (allowed_slotOr hq) ?_
  dsimp only
  rw [hcap, hx, bulkCheck_ok hfits, unheld_free hfree, hbusy]
  exact withPages_ok htrs _

theorem exec_accsv_issues (hfits : Fits s cap x 4096 pST 128)
    (hroom : countOf (ctx s).w (pathFor cap 1) < Config.counterMax)
    (htrs : bulkTrs s (ctx s) x.toNat .write (bulkPages cap x.toNat 4096) = (s', .ok ts)) :
    exec (.accsv sw t cr o i) s = .next
      (issueAcc (setMat s' (ctx s).k (setLive (matOf s (ctx s).k) t.toNat false)) (ctx s) sw
        (transferAcc s (pathFor cap 1) (.drain cap ((List.range 32).map fun r =>
          (r, 0#64, x.toNat + 128 * r, tileRow (matOf s (ctx s).k) t.toNat r))) ts)) := by
  rw [exec, execAccsv]
  refine runState_ok (allowed_slotOr hq) ?_
  dsimp only
  rw [hcap, hx, bulkCheck_ok hfits, unheld_free hfree, hbusy, decide_eq_false (Nat.not_le.mpr hroom), ← matOf_translated htrs]
  exact withPages_ok htrs _
end issue

/-- Settles O35: past its checks each transfer issues its access in a state that differs in cached translations alone, and in
the matrix unit where it takes the unit or clears a live bit. -/
theorem matrixTransfers : Obligations.MatrixTransfers := by
  intro s sw b t cr o i
  dsimp only
  intro hq hfree
  refine ⟨fun hclaim hbusy hfits hok => ?mldo, fun s' ts hown hbusy hfits hroom htrs => ?tldp,
    fun s' ts hbusy hfits hroom htrs => ?mcab, fun s' ts hbusy hfits hroom htrs => ?accrs,
    fun s' ts hbusy hfits hroom htrs => ?accsv⟩
  case mldo =>
    have hx := addrS_zero (ctx s) (getC (ctx s).rd cr.toNat) o
    exact ⟨_, exec_mldo_issues hq hfree sw t cr o rfl rfl hx hclaim hbusy ⟨hfits.1, Int.emod_one _⟩ hok,
      issueAcc_issued_noted sw (cachesOnly_noted ..) hok.room⟩
  case tldp =>
    have hc := cachesOnly_translated htrs
    refine ⟨_, exec_tldp_issues hq hfree sw t cr o rfl rfl hown hbusy hfits hroom htrs, ?_,
      issueAcc_issued_noted sw (cachesOnly_setMat hc ..) hroom⟩
    rw [matOf_congr (issueAcc_alcoves ..), accTake, matOf_setMat, unitOf_cachesOnly hc]
  case mcab =>
    exact ⟨_, exec_mcab_issues hq hfree sw cr o rfl rfl hbusy hfits htrs,
      issueAcc_issued_noted sw (cachesOnly_translated htrs) hroom⟩
  case accrs =>
    exact ⟨_, exec_accrs_issues hq hfree sw t cr o rfl rfl hbusy hfits htrs,
      issueAcc_issued_noted sw (cachesOnly_translated htrs) hroom⟩
  case accsv =>
    refine ⟨_, exec_accsv_issues hq hfree sw t cr o rfl rfl hbusy hfits hroom htrs, ?_,
      issueAcc_issued_noted sw (cachesOnly_setMat (cachesOnly_translated htrs) ..) hroom⟩
    rw [matOf_congr (issueAcc_alcoves ..), matOf_setMat]
    rfl

end Sys2Proof.Proofs.MatrixTransfer
end

section
/-! The share instructions that do not wait at the gate (R344, R350, R351, R356 to R358), in a wave that is no tether. -/
namespace Sys2Proof.Proofs.ShareLocal
open Sys2Proof Sys2Proof.Machine Sys2Proof.Safety Sys2Proof.Laws.Ops Sys2Proof.Proofs.IssueRules

/-- The share truncation of a wing's party (R344). -/
theorem truncShare_party (w : Wing) (n f x : Nat) : truncShare n (partyOf w) f x =
    if w.party then (2 ^ n - (2 ^ n - x) % 2 ^ n / 2 ^ f) % 2 ^ n else x / 2 ^ f := by
  cases h : w.party <;> simp [truncShare, partyOf, h]

section instructions
variable {s : State} (hs : BySlot s) (ht : (ctx s).w.tether = false) (sw : Bool)
include ht

/-- A share type, no tether, no divergence asked for, no odd V pair: the checks of R348 pass. -/
theorem shareBad_ok {fs : List (BitVec 7)} (h : isShare (ety s) = true ∧ ∀ r ∈ fs, oddPair (ety s) r = false) :
    shareBad (ctx s) false (tShare (modeEty (ctx s).rd.mode)) fs = false := by
  obtain ⟨hshare, hodd⟩ := h
  have hany : fs.any (oddPair (modeEty (ctx s).rd.mode)) = false :=
    List.any_eq_false.mpr fun r hr => by rw [show oddPair (modeEty (ctx s).rd.mode) r = false from hodd r hr]; exact Bool.false_ne_true
  have htype : tShare (modeEty (ctx s).rd.mode) = true := hshare
  simp [shareBad, ht, hany, htype]

include hs

theorem exec_shtrc {d a f : BitVec 7} (h : isShare (ety s) = true ∧ ∀ r ∈ [d, a], oddPair (ety s) r = false)
    (hf : f.toNat < widthOf (ety s)) : exec (.shtrc sw d a f) s =
      .next (retire s sw ((active (ctx s)).foldl (fun r l => laneSet r (ety s) d.toNat l
        (truncShare (widthOf (ety s)) (partyOf (wingOf s (ctx s).k)) f.toNat (laneGet (ctx s).rd (ety s) a.toNat l)))
        (ctx s).live)) := by
  rw [exec, execShtrc]
  refine runLocal_ok (allowed_slot hs _) ?_
  dsimp only
  rw [shareBad_ok ht h, show decide (widthOf (modeEty (ctx s).rd.mode) ≤ f.toNat) = false from decide_eq_false (Nat.not_le.mpr hf)]
  rfl

section binding
variable {a : BitVec 7} (hb : bindCause s (wingNoOf s (ctx s).k) (getC (ctx s).rd a.toNat) false = none)
include hb

theorem exec_shtrp {d b : BitVec 7} {r : CurRecord} (h : isShare (ety s) = true ∧ ∀ r ∈ [d], oddPair (ety s) r = false)
    (hr : (ctx s).w.current = some r) (hk : r.kind = ety s) : exec (.shtrp sw d a b) s =
      .next (retire s sw ((active (ctx s)).foldl (fun g l => laneSet g (ety s) d.toNat l
        (recElem r.bytes (16 + 32 * (widthOf (ety s) / 8) * b.toNat + widthOf (ety s) / 8 * l) (widthOf (ety s) / 8)))
        (ctx s).live)) := by
  have hkind : (r.kind != modeEty (ctx s).rd.mode) = false := bne_eq_false_iff_eq.mpr hk
  rw [exec, execShtrp]
  refine runState_ok (allowed_slot hs _) ?_
  dsimp only [opC]
  rw [shareBad_ok ht h, hr]
  simp only [hkind, hb]
  rfl

/-- SHSTA writes the channel word, or the word of pool k − 1 (R357). -/
theorem exec_shsta (d k : BitVec 7) : exec (.shsta sw d a k) s = .next (finishRegs s (ctx s) sw fun r => setS r d.toNat
    (if k.toNat = 0 then chanWord (chanAt (bindAt s (bindNo (getC (ctx s).rd a.toNat))) (chanOf s (ctx s).k)) (ctx s).w.pending.isSome
      else poolWord (poolAt (bindAt s (bindNo (getC (ctx s).rd a.toNat))) (bindRole (getC (ctx s).rd a.toNat)) (k.toNat - 1)))) := by
  rw [exec, execShsta]
  refine runState_ok (allowed_slot hs _) ?_
  dsimp only [opC]
  rw [ht, hb]
  rfl

/-- The pool that SHDSC names, and its head after it (R358): up to the id given, not past the tail, on 40 bits. -/
def discardPool (s : State) (q : Cap) (v : Nat) : Pool := poolAt (bindAt s (bindNo q)) (bindRole q) (v / 2 ^ 40 % 8)
def discardHead (s : State) (q : Cap) (v : Nat) : Nat :=
  ((discardPool s q v).head + min (v % idMod - (discardPool s q v).head) (poolOcc (discardPool s q v))) % idMod

theorem exec_shdsc {d f : BitVec 7} {q : Cap} {v : Nat} (hq : opC (ctx s) a.toNat = q) (hv : (opS (ctx s) d).toNat = v)
    (hk : v / 2 ^ 40 % 8 < 6) : exec (.shdsc sw f d a) s = .next (finishRegs (setBind s (bindNo q)
      (setPool (bindAt s (bindNo q)) (bindRole q) (v / 2 ^ 40 % 8) { discardPool s q v with head := discardHead s q v })) (ctx s) sw
      fun r => setS r f.toNat (BitVec.ofNat 64 (discardHead s q v))) := by
  have hkind : decide (6 ≤ Machine.bits v 42 40) = false := decide_eq_false (Nat.not_le.mpr hk)
  have hcause : bindCause s (wingNoOf s (ctx s).k) q false = none := hq ▸ hb
  rw [exec, execShdsc]
  refine runState_ok (allowed_slot hs _) ?_
  dsimp only
  rw [ht, hv, hq, hkind, hcause]
  rfl
end binding

theorem exec_shdeal {d o : BitVec 7} {cr : BitVec 5} {m : Cap} {y : Int} (hm : opC (ctx s) cr.toNat = m)
    (hy : addrS (ctx s) m o 0 = y)
    (hok : m.tag = true ∧ (∀ p ∈ [pLD, pLDC], capHas m p = true) ∧ capWorld m = worldOf s (ctx s).k ∧ capOtype m = 0)
    (hal : y % 128 = 0) (hfree : acqHeld (ctx s) = false) :
    exec (.shdeal sw d cr o) s = .next (issueAcc s (ctx s) sw { acc s 5 (.deal d.toNat (wrap 64 y) m) with engine := true }) := by
  have hcause := minCause_none (capProps_none hok) (not_not.mpr hal)
  rw [exec, execShdeal]
  refine runState_ok (allowed_slot hs _) ?_
  dsimp only
  rw [ht, hm, hy, unheld_free hfree, hcause]
  rfl
end instructions

/-- Settles O37: one equation for each instruction. -/
theorem shareLocalInstructions : Obligations.ShareLocalInstructions := by
  intro s sw d a b f k cr
  dsimp only
  intro hs ht
  refine ⟨fun hok hf => ?shtrc, fun hb => ⟨fun r hok hr hk => exec_shtrp hs ht sw hb hok hr hk, fun hk => ?shsta, fun hk => ?pool,
    fun hk => exec_shdsc hs ht sw hb rfl rfl hk⟩, fun htag hld hldc hw hseal hal hroom hfree => ?shdeal⟩
  case shtrc =>
    rw [exec_shtrc hs ht sw hok hf]
    simp only [truncShare_party]
  case shsta => rw [exec_shsta hs ht sw hb, hk]; rfl
  case pool =>
    have hne : ¬ k.toNat = 0 := fun h => hk (BitVec.eq_of_toNat_eq h)
    rw [exec_shsta hs ht sw hb, if_neg hne]
    rfl
  case shdeal =>
    have hok : ∀ p ∈ [pLD, pLDC], capHas (getC (ctx s).rd cr.toNat) p = true := by simp [hld, hldc]
    rw [← addrS_zero (ctx s)] at hal ⊢
    exact ⟨_, exec_shdeal hs ht sw rfl rfl ⟨htag, hok, hw, hseal⟩ hal hfree, issueAcc_issued sw hroom⟩

end Sys2Proof.Proofs.ShareLocal
end

section
/-! ENQ, ENQA, CANCL and COMPL (R397 to R399). -/
namespace Sys2Proof.Proofs.QueueInstr
open Sys2Proof Sys2Proof.Machine Sys2Proof.Safety Sys2Proof.Laws.Ops Sys2Proof.Proofs.IssueRules

/-- The tags of a record's granules as an ENQ reads them: those that a load through its capability would carry (R397). -/
def recordTags (s : State) (m : Cap) (segs : List (Loc × Nat)) (z : Nat) : List Bool :=
  (List.range (z / 16)).map fun j =>
    capHas m pLDC && (carryCap s (ctx s).k (readCapLoc s (ctx s).k (segAt segs (16 * j)))).tag

/-- The answer of the check of a launch record that ENQA has read (R385, R387). -/
def launchParsed (s : State) (segs : List (Loc × Nat)) : Except Nat LaunchReq :=
  parseLaunch s (wingNoOf s (ctx s).k) (hasSys (ctx s)) (readSegs s (ctx s).k segs) (segCap s (ctx s).k segs (16 * 1))
    (segCap s (ctx s).k segs (16 * 2)) (segCap s (ctx s).k segs (16 * 3)) (segCap s (ctx s).k segs (16 * 4))

/-- What ENQA answers to a record that it has read (R398): the launch taken, the wait while the task queue or the level counters
are full, or the launch's DONE told and the code of the check that fails. -/
def enqaAnswer (s : State) (sw : Bool) (t : BitVec 7) (segs : List (Loc × Nat)) : Except Trap State :=
  match launchParsed s segs with
  | .error code => match refuseLaunch s (wingNoOf s (ctx s).k) (segCap s (ctx s).k segs (16 * 3)) code (ctx s).hold with
    | .ok u => .ok (finishRegs u (ctx s) sw fun f => setS f t.toNat (enqaWord code 0))
    | .error (va, ipa, kind) => stopNow s (ctx s) (.s2 va ipa kind .write)
  | .ok r => match enterLaunch s (wingNoOf s (ctx s).k) r with
    | none => .ok (waitWith s (ctx s) .busy)
    | some (u, slot) => .ok (finishRegs u (ctx s) sw fun f => setS f t.toNat (enqaWord 0 (levelId u slot)))

section answers
variable {s : State} (sw : Bool) (t : BitVec 7) {segs : List (Loc × Nat)}

theorem enqaAnswer_accepted {r : LaunchReq} (hr : launchParsed s segs = .ok r) {u : State} {slot : Nat}
    (hin : enterLaunch s (wingNoOf s (ctx s).k) r = some (u, slot)) : enqaAnswer s sw t segs =
      .ok (finishRegs u (ctx s) sw fun f => setS f t.toNat (BitVec.ofNat 64 (levelId u slot % 2 ^ 32))) := by
  rw [enqaAnswer, hr]
  dsimp only
  rw [hin]
  simp only [enqaWord, Nat.zero_mul, Nat.zero_add]

theorem enqaAnswer_full {r : LaunchReq} (hr : launchParsed s segs = .ok r)
    (hin : enterLaunch s (wingNoOf s (ctx s).k) r = none) : enqaAnswer s sw t segs = .ok (waitWith s (ctx s) .busy) := by
  rw [enqaAnswer, hr]
  dsimp only
  rw [hin]

theorem enqaAnswer_refused {code : Nat} (hr : launchParsed s segs = .error code) {u : State}
    (hdone : refuseLaunch s (wingNoOf s (ctx s).k) (segCap s (ctx s).k segs (16 * 3)) code (ctx s).hold = .ok u) :
    enqaAnswer s sw t segs = .ok (finishRegs u (ctx s) sw fun f => setS f t.toNat (BitVec.ofNat 64 (code * 2 ^ 56))) := by
  rw [enqaAnswer, hr]
  dsimp only
  rw [hdone]
  simp only [enqaWord, Nat.zero_mod, Nat.add_zero]
end answers

section instructions
variable {s : State} (hs : BySlot s) (sw : Bool) (t o : BitVec 7) {cr : BitVec 5} {m : Cap} (hm : opC (ctx s) cr.toNat = m)
  {x : Int} {segs : List (Loc × Nat)}
include hs hm

theorem exec_enq_issues {i : BitVec 4} {node : Cap} {z : Nat} (hnode : opC (ctx s) t.toNat = node) (hz : nodeRecSize s node = z)
    (hx : addrS (ctx s) m o (16 * i.toNat) = x)
    (hfree : acqHeld (ctx s) = false) (hcause : nodeCause node (worldOf s (ctx s).k) = none)
    (hfits : capCause m x z [pLD] (worldOf s (ctx s).k) (scrWin s (ctx s).k) = none) (hal : x % (16 : Nat) = 0)
    (hsegs : segsVia s (ctx s).k (immAccess (ctx s)) m x.toNat z .read = .ok segs)
    (hheld : heldBack s (ctx s).k (ctx s).w.accs (segRanges segs) = false)
    (hhdr : nodeHdrOk (readSegs s (ctx s).k segs) = true) :
    exec (.enq sw t cr o i) s = .next (issueAcc s (ctx s) sw { acc s 1 (.enq (nodeNo node) (nodeLevel s node)
      (readSegs s (ctx s).k segs) (recordTags s m segs z)) with rel := true, mask := some (ctx s).mask }) := by
  have hmin : minCause (capCause m x z [pLD] (worldOf s (ctx s).k) (scrWin s (ctx s).k)) (misCause x 16) = none :=
    minCause_none hfits (not_not.mpr hal)
  rw [exec, execEnq]
  refine runState_ok (allowed_slot hs _) ?_
  dsimp only
  rw [hm, hnode, hx, hz, hcause, hmin]
  dsimp only [minCause]
  rw [unheld_free hfree, hsegs]
  dsimp only
  rw [hheld, hhdr]
  rfl
section enqa
variable (hx : addrS (ctx s) m o 0 = x) (hfree : acqHeld (ctx s) = false)
  (hfits : capCause m x 128 [pLD, pLDC, pENQ] (worldOf s (ctx s).k) (scrWin s (ctx s).k) = none ∧ x % (64 : Nat) = 0)
  (hsegs : segsVia s (ctx s).k (immAccess (ctx s)) m x.toNat 128 .read = .ok segs)
include hx hfree hfits hsegs

/-- An ENQA that reaches its record waits for the wave's earlier accesses, then answers (R398). -/
theorem exec_enqa_reads {u : State} (h : (if !releaseReady (ctx s).w.accs || heldBack s (ctx s).k (ctx s).w.accs (segRanges segs)
    then .ok (waitWith s (ctx s) .busy) else enqaAnswer s sw t segs) = .ok u) : exec (.enqa sw t cr o) s = .next u := by
  have hmin := minCause_none hfits.1 (not_not.mpr hfits.2)
  rw [exec, execEnqa]
  refine runState_ok (allowed_slot hs _) ?_
  dsimp only [misCause]
  rw [hm, hx, hmin]
  dsimp only
  rw [unheld_free hfree, hsegs]
  exact h

theorem exec_enqa_waits (hready : releaseReady (ctx s).w.accs = false) :
    exec (.enqa sw t cr o) s = .next (waitWith s (ctx s) .busy) :=
  exec_enqa_reads hs sw t o hm hx hfree hfits hsegs (by rw [hready]; rfl)

variable (hready : releaseReady (ctx s).w.accs = true) (hheld : heldBack s (ctx s).k (ctx s).w.accs (segRanges segs) = false)
include hready hheld

theorem exec_enqa_answers {u : State} (h : enqaAnswer s sw t segs = .ok u) : exec (.enqa sw t cr o) s = .next u :=
  exec_enqa_reads hs sw t o hm hx hfree hfits hsegs (by rw [hready, hheld]; exact h)
end enqa
end instructions

section levels
variable {s : State} (hs : BySlot s) (sw : Bool) (d a : BitVec 7) (f : State → Nat → State)
include hs

/-- An instruction on a level acts on the own live level that the id names, of the kind named (R399). -/
theorem levelOp_live {slot : Nat} (hl : ownLevel s (wingNoOf s (ctx s).k) d.toNat ((opS (ctx s) a).toNat % 2 ^ 32) = some slot) :
    levelOp s sw d a f = .next (finish (f s slot) (ctx s) sw) :=
  runState_ok (allowed_slot hs _) (by simp only [hl])

/-- For any other id it does nothing. -/
theorem levelOp_none (hl : ownLevel s (wingNoOf s (ctx s).k) d.toNat ((opS (ctx s) a).toNat % 2 ^ 32) = none) :
    levelOp s sw d a f = .next (finish s (ctx s) sw) :=
  runState_ok (allowed_slot hs _) (by simp only [hl])
end levels

/-- Settles O41: one equation for each outcome. -/
theorem queueInstructions : Obligations.QueueInstructions := by
  intro s sw t a o cr i segs
  dsimp only
  intro hs
  refine ⟨fun hfree hcause hfits hsegs hheld hhdr hroom => ?enq, fun hfree hfits hsegs => ?enqa, fun slot hl => ?live,
    fun hl => ?gone⟩
  case enq =>
    exact ⟨_, exec_enq_issues hs sw t o rfl rfl rfl rfl hfree hcause hfits.1 hfits.2 hsegs hheld hhdr, issueAcc_issued sw hroom⟩
  case enqa =>
    rw [← addrS_zero (ctx s)] at hfits hsegs
    refine ⟨exec_enqa_waits hs sw t o rfl rfl hfree hfits hsegs, fun hready hheld => ?_⟩
    have hanswers {u} := exec_enqa_answers hs sw t o rfl rfl hfree hfits hsegs hready hheld (u := u)
    exact ⟨fun r s' slot hr hin => hanswers (enqaAnswer_accepted sw t hr hin),
      fun r hr hin => hanswers (enqaAnswer_full sw t hr hin), fun e s' hr hdone => hanswers (enqaAnswer_refused sw t hr hdone)⟩
  case live =>
    rw [exec, execCancl, exec, execCompl]
    exact ⟨levelOp_live hs sw t a _ hl, levelOp_live hs sw t a _ hl⟩
  case gone =>
    rw [exec, execCancl, exec, execCompl]
    exact ⟨levelOp_none hs sw t a _ hl, levelOp_none hs sw t a _ hl⟩

end Sys2Proof.Proofs.QueueInstr
end

section
/-! The cache instructions and the recipe instructions (R377 to R379) where their capability passes. -/
namespace Sys2Proof.Proofs.RecipeInstr
open Sys2Proof Sys2Proof.Machine Sys2Proof.Safety Sys2Proof.Laws.Ops Sys2Proof.Proofs.IssueRules

/-- A capability that is no scratch one grants the bytes, which begin at a multiple of `al` (R376, R379). -/
def PlainFits (s : State) (cap : Cap) (x : Int) (n : Nat) (rights : List Nat) (al : Nat) : Prop :=
  capCause cap x n rights (worldOf s (ctx s).k) (scrWin s (ctx s).k) = none ∧ capHas cap pSCRATCH = false ∧ x % (al : Int) = 0

theorem plainCheck_ok {s : State} {cap : Cap} {x : Int} {n : Nat} {rights : List Nat} {al : Nat}
    (h : PlainFits s cap x n rights al) : plainCheck s (ctx s) cap x n rights al = .ok ⟨⟩ := by
  obtain ⟨hcap, hscr, hal⟩ := h
  have hnone : minCause (capCause cap x n rights (worldOf s (ctx s).k) (scrWin s (ctx s).k))
      (if capHas cap pSCRATCH then some 0x03 else none) = none := by rw [hcap, hscr]; rfl
  have hcause := minCause_none hnone (not_not.mpr hal)
  dsimp only [plainCheck, misCause]
  rw [hcause]

-- CFLSH and CINV.

section caches
variable {s : State} (sw : Bool) {t o : BitVec 7} {cr : BitVec 5} {cap : Cap} {x : Int} {n : Nat} (hcap : opC (ctx s) cr.toNat = cap)
  (hx : addrS (ctx s) cap o 0 = x) (hn : (opS (ctx s) t).toNat = n) (hfree : acqHeld (ctx s) = false)
include hcap hx hn hfree

theorem flushIssue_ok {rights : List Nat} {al : Nat} (hfits : PlainFits s cap x n rights al) (hal : n % al = 0)
    (kind : Nat → Nat → AccKind) : flushIssue sw rights al kind t cr o s (ctx s) =
      .ok (issueAcc s (ctx s) sw { acc s 1 (kind x.toNat n) with mask := some (ctx s).mask }) := by
  dsimp only [flushIssue]
  rw [hcap, hx, hn, plainCheck_ok hfits, unheld_free hfree, if_neg (not_not.mpr hal)]
  rfl
end caches

-- RCPDEF.

/-- A definition writes the id of the record that it enters, in a state with its backing copy, or the number of a result that
applies (R378, R379). -/
theorem defineRecipe_ok {s : State} {g : Nat} {b : RecipeBlock}
    (h : recipeFaults s g (parseRecipe s g b).1 (parseRecipe s g b).2 = []) (build : Bool) :
    defineRecipe s g b build =
      (let id := tfree 0 (wingAt s g).recipes
       let backed := backState (backBlock (setRecipe s g id (parseRecipe s g b).2) g id b) g id
       (if build then startNeed backed g id else backed, recipeStatus 0 id)) := by
  dsimp only [defineRecipe]
  rw [h]
  rfl

theorem defineRecipe_fault {s : State} {g : Nat} {b : RecipeBlock}
    (h : recipeFaults s g (parseRecipe s g b).1 (parseRecipe s g b).2 ≠ []) (build : Bool) :
    ∃ e ∈ recipeFaults s g (parseRecipe s g b).1 (parseRecipe s g b).2, defineRecipe s g b build = (tick s, recipeStatus e 0) := by
  have hlt := Nat.mod_lt (Config.freePick s.fresh) (List.length_pos_iff.mpr h)
  refine ⟨_, List.getElem_mem hlt, ?_⟩
  dsimp only [defineRecipe]
  rw [if_neg (by simpa using h), nth, List.getElem?_eq_getElem hlt]
  rfl

section instructions
variable {s : State} (hs : BySlot s) (sw : Bool) (t a o : BitVec 7) {cr : BitVec 5}
include hs

/-- The block that RCPDEF reads (R364). -/
def blockOf (s : State) (segs : List (Loc × Nat)) : RecipeBlock :=
  { bytes := readSegs s (ctx s).k segs, caps := (List.range 7).map fun i => segCap s (ctx s).k segs (16 * i) }

theorem exec_rcpdef {cap : Cap} {x : Int} {segs : List (Loc × Nat)} (hcap : opC (ctx s) cr.toNat = cap)
    (hx : addrS (ctx s) cap o 0 = x) (hfree : acqHeld (ctx s) = false) (hfits : PlainFits s cap x 192 [pLD, pLDC] 64)
    (hsegs : segsVia s (ctx s).k (immAccess (ctx s)) cap x.toNat 192 .read = .ok segs)
    (hheld : heldBack s (ctx s).k (ctx s).w.accs (segRanges segs) = false) {build : Bool} {u : State} {word : DWord}
    (hdef : defineRecipe s (wingNoOf s (ctx s).k) (blockOf s segs) build = (u, word)) :
    exec (.rcpdef sw t cr o build) s = .next (finishRegs u (ctx s) sw fun f => setS f t.toNat word) := by
  rw [exec, execRcpdef]
  refine runState_ok (allowed_slot hs _) ?_
  dsimp only [blockOf] at hdef ⊢
  rw [hcap, hx, plainCheck_ok hfits, unheld_free hfree, hsegs]
  dsimp only
  rw [hheld, hdef]
  rfl

-- Acting on a record.

section record
variable {q : Cap} (hq : opC (ctx s) a.toNat = q) (hfits : PlainFits s q (capAddr q) 1 [pRECIPE] 1) (v : DWord)
  (f : State → Nat → Nat → Recipe → State × DWord)
include hq hfits

theorem recipeOp_found {id : Nat} (hid : findTile (wingAt s (wingNoOf s (ctx s).k)) (capAddr q) = some id) {u : State} {word : DWord}
    (hf : f s (wingNoOf s (ctx s).k) id (recipeAt (wingAt s (wingNoOf s (ctx s).k)) id) = (u, word)) : recipeOp s sw t a v f =
      .next (finishRegs u (ctx s) sw fun r => setS r t.toNat word) := by
  refine runState_ok (allowed_slot hs _) ?_
  dsimp only
  rw [hq, plainCheck_ok hfits, hid]
  dsimp only
  rw [hf]
  rfl

theorem recipeOp_none (hid : findTile (wingAt s (wingNoOf s (ctx s).k)) (capAddr q) = none) : recipeOp s sw t a v f =
      .next (finishRegs s (ctx s) sw fun r => setS r t.toNat v) := by
  refine runState_ok (allowed_slot hs _) ?_
  dsimp only
  rw [hq, plainCheck_ok hfits, hid]
  rfl
end record
end instructions

/-- A record is idle where it is not pinned, not held and not building (R379). -/
theorem recipeBusy_eq_false {r : Recipe} : recipeBusy r = false ↔ r.pins = 0 ∧ r.held = 0 ∧ r.st ≠ .building := by
  simp [recipeBusy, and_assoc]

theorem recipeBusy_eq_true {r : Recipe} : recipeBusy r = true ↔ ¬ (r.pins = 0 ∧ r.held = 0 ∧ r.st ≠ .building) := by
  rw [← recipeBusy_eq_false, Bool.not_eq_false]

theorem ite_recipeIdle {r : Recipe} (h : r.pins = 0 ∧ r.held = 0 ∧ r.st ≠ .building) {α : Type} (x y : α) :
    (if recipeBusy r then x else y) = y := if_neg (by rw [recipeBusy_eq_false.mpr h]; exact Bool.false_ne_true)

/-- Settles O40: RCPDEF by what it defines, the others by what each does with the record that it finds. -/
theorem recipeInstructions : Obligations.RecipeInstructions := by
  intro s sw bl t a o cr segs id
  dsimp only
  intro hs
  refine ⟨fun hfree hfits hsegs hheld => ?define, fun hfits hid => ?found, fun hfits hid => ?none, fun hfree hroom => ?caches⟩
  case define =>
    rw [← addrS_zero (ctx s)] at hfits hsegs
    have hdef {build u word} := exec_rcpdef hs sw t o rfl rfl hfree hfits hsegs hheld (build := build) (u := u) (word := word)
    refine ⟨fun hok => ⟨hdef (defineRecipe_ok hok false), hdef (defineRecipe_ok hok true)⟩, fun hbad => ?_⟩
    obtain ⟨e, he, hw⟩ := defineRecipe_fault hbad bl
    exact ⟨e, he, hdef hw⟩
  case found =>
    have hfound {v f u word} := recipeOp_found hs sw t a rfl hfits v f hid (u := u) (word := word)
    refine ⟨fun h => ?pin, fun h => ?unpin, fun h => ?unpinned, fun hidle h => ?drop, fun hidle h => ?absent, fun h => ?busy,
      fun hidle h => ?remove, fun hidle h => ?named, fun h => ?busyR, ?query⟩
    all_goals rw [exec]
    case pin => exact hfound (if_neg (Nat.not_le.mpr h))
    case unpin => exact hfound (if_neg (Nat.ne_of_gt h))
    case unpinned => exact hfound (if_pos h)
    case drop => exact hfound ((ite_recipeIdle hidle ..).trans (by rw [if_pos h]; rfl))
    case absent => exact hfound ((ite_recipeIdle hidle ..).trans (by rw [h]; rfl))
    case busy => exact hfound (if_pos (recipeBusy_eq_true.mpr h))
    case remove => exact hfound ((ite_recipeIdle hidle ..).trans (by rw [h]; rfl))
    case named => exact hfound ((ite_recipeIdle hidle ..).trans (by rw [h]; rfl))
    case busyR => exact hfound (if_pos (recipeBusy_eq_true.mpr h))
    case query => exact hfound rfl
  case none =>
    have hnone := recipeOp_none hs sw t a rfl hfits (hid := hid)
    refine ⟨fun i hi => ?_, by rw [exec, execRcpqry]; exact hnone ..⟩
    simp only [List.mem_cons, List.not_mem_nil, or_false] at hi
    obtain rfl | rfl | rfl | rfl := hi
    · rw [exec, execRcppin]; exact hnone ..
    · rw [exec, execRcpunp]; exact hnone ..
    · rw [exec, execRcpdrp]; exact hnone ..
    · rw [exec, execRcpdrpR]; exact hnone ..
  case caches =>
    rw [← addrS_zero (ctx s)]
    refine ⟨fun hfits => ⟨_, ?flush, issueAcc_issued sw hroom⟩,
      fun hsys hfits hal => ⟨_, ?discard, issueAcc_issued sw hroom⟩⟩
    case flush =>
      rw [exec, execCflsh]
      exact runState_ok (allowed_slot hs _) (flushIssue_ok sw rfl rfl rfl hfree hfits (Nat.mod_one _) _)
    case discard =>
      rw [exec, execCinv, runSys_sys hsys]
      exact runState_ok (allowed_slot hs _) (flushIssue_ok sw rfl rfl rfl hfree hfits hal _)

end Sys2Proof.Proofs.RecipeInstr
end

section
/-! MDRN, row by row, and MSTAT (R300, R304): one equation for an issue of a drain whose access can take the row, and what the state
after it holds. -/
namespace Sys2Proof.Proofs.Drain
open Sys2Proof Sys2Proof.Machine Sys2Proof.Safety Sys2Proof.Laws.Tables Sys2Proof.Laws.State Sys2Proof.Laws.Ops
open Sys2Proof.Proofs.CountedAccess Sys2Proof.Proofs.IssueRules Sys2Proof.Proofs.MatrixTransfer

-- A row at an issue: what it reads of PIX, what it stores, what it leaves of the tile.

/-- The rows that the drain has done, and its overflow count (R300). -/
def rowsDone (c : Ctx) : Nat := Machine.bits c.pix.toNat 15 0
def overflows (c : Ctx) : Nat := Machine.bits c.pix.toNat 31 16
/-- The issue is the drain's last. -/
def isLast (c : Ctx) : Bool := decide ((rowsOf c).length ≤ rowsDone c + 1)

theorem rowsDone_eq (c : Ctx) : rowsDone c = c.pix.toNat % 2 ^ 16 := by
  rw [rowsDone, Machine.bits, pow_zero, Nat.div_one]

/-- The elements of the next row as the Tail gives them, with the overflow count after it; none where every row is done. -/
def rowOut (c : Ctx) (m : Matrix) (n a x : Nat) : List (Nat × List Byte) × Nat :=
  match (rowsOf c)[rowsDone c]? with
  | some i => drainRow c m n (tailWidth (tailProgram m)) x (tbytes m.slots (a * 2176) 2048) i (overflows c)
  | none => ([], overflows c)

/-- The runs of bytes of an issue: its row's, and with the last row the overflow word. -/
def rowRuns (c : Ctx) (m : Matrix) (n a x : Nat) : List (Nat × DWord × Nat × List Byte) :=
  (rowOut c m n a x).1.map (fun e => (((rowsOf c)[rowsDone c]?).getD 0, c.pix, e.1, e.2)) ++
    (if isLast c then [(32, BitVec.ofNat 64 ((rowOut c m n a x).2 * 2 ^ 16 + (rowsOf c).length),
      x + 1024 * tailWidth (tailProgram m), natLe 4 (rowOut c m n a x).2)] else [])

/-- The matrix unit after an issue: the row zeroed where Z is set, the live bit cleared at the end where F is set. -/
def rowMatrix (c : Ctx) (m : Matrix) (n : Nat) (z f : Bool) : Matrix :=
  let zeroed := match (rowsOf c)[rowsDone c]? with
    | some i => if z then tileMap m n [i] (fun _ _ _ => 0) else m
    | none => m
  if isLast c && f then setLive zeroed n false else zeroed

-- The drain's access.

/-- The first runs of a drain are in a new access, which its path counts. -/
theorem growDrain_new {w : Wave} {c : Ctx} {path : Nat} (h : growingOf w c = none) (hroom : countOf w path < Config.counterMax)
    (cap : Cap) (runs : List (Nat × DWord × Nat × List Byte)) (more : Bool) (a : Access) :
    ∃ v, growDrain w c path cap runs more a = some v ∧ v.accs = w.accs ++ [{ a with kind := .drain cap runs, grows := more }] ∧
      countOf v path = countOf w path + 1 ∧ ∀ x, srcPc v x = srcPc w x := by
  rw [growDrain, h]
  refine ⟨_, if_neg (Nat.not_le.mpr hroom), rfl, (tget_tput ..).trans (if_pos rfl), fun x => ?_⟩
  cases x <;> rfl

/-- The access of a drain that grows has the runs after those that it had. -/
theorem growDrain_grows {w : Wave} {c : Ctx} {j : Nat} {q : Access} {k : Cap} {rs : List (Nat × DWord × Nat × List Byte)}
    (h : growingOf w c = some j) (hj : w.accs[j]? = some q) (hq : q.kind = .drain k rs) (path : Nat)
    (cap : Cap) (runs : List (Nat × DWord × Nat × List Byte)) (more : Bool) (a : Access) :
    ∃ v, growDrain w c path cap runs more a = some v ∧
      v.accs[j]? = some { q with kind := .drain k (rs ++ runs), grows := more, performed := false } ∧ v.counts = w.counts ∧
      ∀ x, srcPc v x = srcPc w x := by
  rw [growDrain, h]
  refine ⟨_, rfl, ?_, rfl, fun x => ?_⟩
  · rw [List.getElem?_mapIdx, hj, Option.map_some, if_pos rfl, hq]
  · cases x <;> rfl

-- The state after an issue.

/-- The state in which the access of the drain stands as `w` has it and the matrix unit as `m`: the source goes on, or has made a
step and goes on at its next issue. -/
def rowState (u : State) (c : Ctx) (sw : Bool) (m : Matrix) (w : Wave) (ovf : Nat) : State :=
  let v := setWave (setMat (accTake u c) c.k m) c.k w
  if isLast c then finish v c sw else stepOn v c .part (BitVec.ofNat 64 (ovf * 2 ^ 16 + rowsDone c + 1))

theorem waveAt_stepOn_rest (s : State) (c : Ctx) (h : Hold) (v : DWord) :
    (waveAt (stepOn s c h v) c.k).accs = (waveAt s c.k).accs ∧ (waveAt (stepOn s c h v) c.k).counts = (waveAt s c.k).counts ∧
      srcPc (waveAt (stepOn s c h v) c.k) c.src = srcPc (waveAt s c.k) c.src ∧
      srcPix (waveAt (stepOn s c h v) c.k) c.src = v := by
  dsimp only [stepOn]
  rw [waveAt_setWave, if_pos rfl]
  generalize waveAt s c.k = w
  cases c.src <;> exact ⟨rfl, rfl, rfl, rfl⟩

section rowState
variable {u : State} {c : Ctx} (sw : Bool) (m : Matrix) (w : Wave) (ovf : Nat)

theorem matOf_rowState : matOf (rowState u c sw m w ovf) c.k = m := by
  have hrest : (rowState u c sw m w ovf).alcoves = (setMat (accTake u c) c.k m).alcoves := by
    dsimp only [rowState]
    split <;> rfl
  rw [matOf_congr hrest, matOf_setMat]

theorem waveAt_rowState_last (h : isLast c = true) : waveAt (rowState u c sw m w ovf) c.k = advance c sw w := by
  rw [rowState, if_pos h, finish_self, waveAt_setWave, if_pos rfl]

theorem waveAt_rowState_more (h : isLast c = false) :
    (waveAt (rowState u c sw m w ovf) c.k).accs = w.accs ∧ (waveAt (rowState u c sw m w ovf) c.k).counts = w.counts ∧
      srcPc (waveAt (rowState u c sw m w ovf) c.k) c.src = srcPc w c.src ∧
      srcPix (waveAt (rowState u c sw m w ovf) c.k) c.src = BitVec.ofNat 64 (ovf * 2 ^ 16 + rowsDone c + 1) := by
  rw [rowState, if_neg (by rw [h]; exact Bool.false_ne_true)]
  have hstep := waveAt_stepOn_rest (setWave (setMat (accTake u c) c.k m) c.k w) c .part
    (BitVec.ofNat 64 (ovf * 2 ^ 16 + rowsDone c + 1))
  rwa [waveAt_setWave, if_pos rfl] at hstep

/-- The access list and the counters are as given, whichever way the source goes on. -/
theorem accs_rowState : (waveAt (rowState u c sw m w ovf) c.k).accs = w.accs ∧
    (waveAt (rowState u c sw m w ovf) c.k).counts = w.counts := by
  cases h : isLast c with
  | true =>
    rw [waveAt_rowState_last sw m w ovf h]
    exact ⟨(advance_accs ..).1, (advance_accs ..).2.1⟩
  | false => exact ⟨(waveAt_rowState_more sw m w ovf h).1, (waveAt_rowState_more sw m w ovf h).2.1⟩
end rowState

/-- What an issue of a drain leaves: the accesses and counters as given, the matrix unit, and where the source stands. -/
theorem rowState_leaves {u : State} {c : Ctx} (sw : Bool) (m : Matrix) {w : Wave} (ovf : Nat) (hw : srcPc w c.src = c.pc) :
    matOf (rowState u c sw m w ovf) c.k = m ∧
    (isLast c = true → srcPc (waveAt (rowState u c sw m w ovf) c.k) c.src = c.pc + 4) ∧
    (isLast c = false → srcPc (waveAt (rowState u c sw m w ovf) c.k) c.src = c.pc ∧
      srcPix (waveAt (rowState u c sw m w ovf) c.k) c.src = BitVec.ofNat 64 (ovf * 2 ^ 16 + rowsDone c + 1)) := by
  refine ⟨matOf_rowState .., fun h => ?_, fun h => ?_⟩
  · rw [waveAt_rowState_last sw m w ovf h, advance_pc]
  · obtain ⟨-, -, hpc, hpix⟩ := waveAt_rowState_more sw m w ovf h (u := u)
    exact ⟨hpc.trans hw, hpix⟩

/-- A drain with more rows done than there are only moves on. -/
theorem drainStep_done {s0 u : State} {c : Ctx} (sw : Bool) (n a : Nat) (z f : Bool) (cap : Cap) (ts : Table PageTr)
    (h : (rowsOf c).length < rowsDone c) : drainStep s0 u c sw n a z f cap ts = finish (accTake u c) c sw := if_pos h

/-- A drain whose access can take the row, and which has met no error, makes its step. -/
theorem drainStep_row {s0 u : State} {c : Ctx} (sw : Bool) {n a : Nat} (z f : Bool) {cap : Cap} {ts : Table PageTr} {w : Wave}
    (hd : rowsDone c ≤ (rowsOf c).length) (hfail : drainFailed (waveAt u c.k) c = false)
    (hgrow : growDrain (waveAt u c.k) c (pathFor cap 1) cap (rowRuns c (matOf u c.k) n a (capAddr cap)) (!isLast c)
      (stamped (accTake u c) c { bulkAcc c (pathFor cap 1) (.drain cap []) with trs := ts }) = some w) :
    drainStep s0 u c sw n a z f cap ts = rowState u c sw
      (rowMatrix c { matOf u c.k with accown := (unitOf u c.k).ctxid } n z f) w (rowOut c (matOf u c.k) n a (capAddr cap)).2 := by
  have hwave : waveAt (accTake u c) c.k = waveAt u c.k := rfl
  have hmore : ¬ (rowsOf c).length < Machine.bits c.pix.toNat 15 0 := Nat.not_lt.mpr hd
  calc drainStep s0 u c sw n a z f cap ts
    _ = (match growDrain (waveAt u c.k) c (pathFor cap 1) cap (rowRuns c (matOf u c.k) n a (capAddr cap)) (!isLast c)
          (stamped (accTake u c) c { bulkAcc c (pathFor cap 1) (.drain cap []) with trs := ts }) with
        | none => matWait s0 c
        | some w => rowState u c sw (rowMatrix c (matOf (accTake u c) c.k) n z f) w (rowOut c (matOf u c.k) n a (capAddr cap)).2) := by
      dsimp only [drainStep]
      rw [if_neg hmore, hwave, hfail]
      rfl
    _ = _ := by rw [hgrow, accTake, matOf_setMat]

-- MDRN.

/-- The checks of an MDRN pass: the accumulator is the unit's, a sideband slot that the Tail uses is claimed, the capability fits, and
the unit is free (R281, R282, R300). -/
structure DrainOk (s : State) (n : BitVec 3) (a : BitVec 4) (cap : Cap) : Prop where
  owned : accOk (matOf s (ctx s).k) (unitOf s (ctx s).k).ctxid = true
  claimed : tailUsesSide (tailProgram (matOf s (ctx s).k)) = true → claimedBy (matOf s (ctx s).k) (ctx s).k a.toNat = true
  fits : Fits s cap (capAddr cap) (1024 * tailWidth (tailProgram (matOf s (ctx s).k)) + 4) pST 4
  free : matBusy s (ctx s)
    { tail := true, tiles := [n.toNat], slots := if tailUsesSide (tailProgram (matOf s (ctx s).k)) then [a.toNat] else [] } = false
  tailFree : matBusy s (ctx s) { tail := true } = false

theorem allowed_rows {s : State} (h : SlotOr s .seqMatrix) : allowed (.rows true) (ctx s).src = true := by
  obtain h | h := h
  · exact allowed_slot h _
  · simp [allowed, ctx, ctxOf, h]

/-- The sideband slot that the Tail uses, if it uses one, is claimed. -/
theorem DrainOk.claim {s : State} {n : BitVec 3} {a : BitVec 4} {cap : Cap} (h : DrainOk s n a cap) :
    (tailUsesSide (tailProgram (matOf s (ctx s).k)) && !claimedBy (matOf s (ctx s).k) (ctx s).k a.toNat) = false := by
  cases hside : tailUsesSide (tailProgram (matOf s (ctx s).k)) with
  | false => rfl
  | true => rw [h.claimed hside]; rfl

section exec
variable {s : State} (hq : SlotOr s .seqMatrix) (sw : Bool) {n : BitVec 3} {a : BitVec 4} (r : BitVec 7) (z f : Bool) {cap : Cap}
  (hcap : opC (ctx s) r.toNat = cap) (hok : DrainOk s n a cap)
include hq hcap hok

/-- A drain whose access grows already, or whose rows are all done, begins no access. -/
theorem exec_mdrn_on (hheld : ((growingOf (ctx s).w (ctx s)).isNone && acqHeld (ctx s)) = false)
    (hon : (growingOf (ctx s).w (ctx s)).isSome = true ∨ (rowsOf (ctx s)).length < rowsDone (ctx s)) :
    exec (.mdrn sw n a r z f) s = .next (drainStep s s (ctx s) sw n.toNat a.toNat z f cap []) := by
  have hcond : ((growingOf (ctx s).w (ctx s)).isSome ||
      decide ((rowsOf (ctx s)).length < Machine.bits (ctx s).pix.toNat 15 0)) = true := by
    rw [Bool.or_eq_true, decide_eq_true_iff]
    exact hon
  rw [exec, execMdrn]
  refine runState_ok (allowed_rows hq) ?_
  dsimp only
  rw [accCheck_ok hok.owned, hcap, hok.tailFree, hok.claim, bulkCheck_ok hok.fits, hok.free, hheld, hcond]
  rfl

/-- A new drain goes on with the translations of its pages (R252). -/
theorem exec_mdrn_begins (hheld : acqHeld (ctx s) = false) (hgrow : growingOf (ctx s).w (ctx s) = none)
    (hd : rowsDone (ctx s) ≤ (rowsOf (ctx s)).length) {s' : State} {ts : Table PageTr}
    (htrs : bulkTrs s (ctx s) (capAddr cap) .write
      (bulkPages cap (capAddr cap) (1024 * tailWidth (tailProgram (matOf s (ctx s).k)) + 4)) = (s', .ok ts)) :
    exec (.mdrn sw n a r z f) s = .next (drainStep s s' (ctx s) sw n.toNat a.toNat z f cap ts) := by
  have hmore : decide ((rowsOf (ctx s)).length < Machine.bits (ctx s).pix.toNat 15 0) = false :=
    decide_eq_false (Nat.not_lt.mpr hd)
  rw [exec, execMdrn]
  refine runState_ok (allowed_rows hq) ?_
  dsimp only
  rw [accCheck_ok hok.owned, hcap, hok.tailFree, hok.claim, bulkCheck_ok hok.fits, hok.free, hheld, hgrow, hmore]
  exact withPages_ok htrs _
end exec

-- MSTAT.

/-- The word that MSTAT writes (R304). -/
def statusWord (s : State) : Nat :=
  let m := matOf s (ctx s).k
  let slots := fun (p : Nat × Nat → Bool) => (m.claims.filter p).foldl (fun n e => n + 2 ^ e.1) 0
  slots (fun _ => true) * 2 ^ 32 + slots (fun e => e.2 == (ctx s).k) * 2 ^ 16 +
    (if m.accown = (unitOf s (ctx s).k).ctxid then 512 else 0) + (if m.tp then 256 else 0) + m.live.toNat

theorem exec_mstat {s : State} (hq : SlotOr s .seqMatrix) (sw : Bool) (d : BitVec 7)
    (hloads : ∀ x ∈ (ctx s).w.accs, x.performed = true ∨ matrixLoad x.kind = false) (hbusy : matBusy s (ctx s) {} = false) :
    exec (.mstat sw d) s = .next (finishRegs s (ctx s) sw fun g => setS g d.toNat (BitVec.ofNat 64 (statusWord s))) := by
  have hany : ((ctx s).w.accs.any fun a => !a.performed && matrixLoad a.kind) = false := by
    refine List.any_eq_false.mpr fun x hx => ?_
    obtain h | h := hloads x hx <;> simp [h]
  rw [exec, execMstat]
  refine runState_ok (allowed_slotOr hq) ?_
  dsimp only
  rw [hany, hbusy]
  rfl

/-- Settles O36: MDRN by the state that an issue leaves, in each of its cases; MSTAT by its word. -/
theorem drainAndStatus : Obligations.DrainAndStatus := by
  intro s sw z f n a r d
  dsimp only
  intro hq
  refine ⟨fun howned hclaimed hcause hal hbusy htail => ?_, fun hloads hbusy => exec_mstat hq sw d hloads hbusy⟩
  have hok : DrainOk s n a (getC (ctx s).rd r.toNat) := ⟨howned, hclaimed, ⟨hcause, by exact_mod_cast hal⟩, hbusy, htail⟩
  rw [← rowsDone_eq]
  refine ⟨fun hfree hmany => ?done, fun hfree hd hfail hgrow hroom s' ts htrs => ?begins,
    fun j q k rs hd hfail hgrow hj hk => ?grows⟩
  case done =>
    rw [exec_mdrn_on hq sw r z f rfl hok (by rw [hfree, Bool.and_false]) (.inr hmany), drainStep_done _ _ _ _ _ _ _ hmany]
    rfl
  case begins =>
    obtain ⟨⟨ps, hself⟩, -⟩ := cachesOnly_translated htrs
    have hw : waveAt s' (ctx s).k = { (ctx s).w with lastPages := ps } := hself
    obtain ⟨v, hv, haccs, hcount, hpc⟩ := growDrain_new (w := waveAt s' (ctx s).k) (c := ctx s)
      (path := pathFor (getC (ctx s).rd r.toNat) 1) (by rw [hw]; exact hgrow) (by rw [hw]; exact hroom) _ _ _ _
    refine ⟨_, (exec_mdrn_begins hq sw r z f rfl hok hfree hgrow hd htrs).trans
      (congrArg _ (drainStep_row sw z f hd (by rw [hw]; exact hfail) hv)), ?_⟩
    have hold : (waveAt s' (ctx s).k).accs = (ctx s).w.accs := by rw [hw]
    rw [(accs_rowState ..).1, haccs, hold, matOf_translated htrs, unitOf_cachesOnly (cachesOnly_translated htrs)]
    refine ⟨⟨_, _, rfl⟩, ?_, rowState_leaves sw _ _ ((hpc _).trans ?_)⟩
    · rw [countOf, (accs_rowState ..).2]
      rw [hw] at hcount
      exact hcount
    · rw [hw]
      rfl
  case grows =>
    obtain ⟨v, hv, haccs, hcounts, hpc⟩ := growDrain_grows hgrow hj hk (pathFor (getC (ctx s).rd r.toNat) 1) _ _ _ _
    refine ⟨_, (exec_mdrn_on hq sw r z f rfl hok (by rw [hgrow]; rfl) (.inl (by rw [hgrow]; rfl))).trans
      (congrArg _ (drainStep_row sw z f hd hfail hv)), ?_⟩
    rw [(accs_rowState ..).1, (accs_rowState ..).2]
    exact ⟨haccs, hcounts, rowState_leaves sw _ _ (hpc _)⟩

end Sys2Proof.Proofs.Drain
end

section
/-! The refusals of a map request (R237): the first of the checks that fails, and the state as it was. -/
namespace Sys2Proof.Proofs.MapRefusal
open Sys2Proof Sys2Proof.Machine

/-- What R237 calls invalid of a request by its fields and its frame alone, reserved bits and codes aside. -/
def Misasks (r : MapReq) (arg : Nat) : Prop :=
  (r.op = 0 ∧ r.size ≠ 0) ∨ (r.op = 1 ∧ (arg % 2 ^ sizeBits r.size ≠ 0 ∨ 2 ^ 48 ≤ arg)) ∨
    (r.op = 2 ∧ (arg % (2 * 2 ^ sizeBits r.size) ≠ 0 ∨ 2 ^ 48 ≤ arg ∨ r.w = true))

/-- The leaf that the tables lead to crosses the request's POLICY to or from 4. -/
def FlipsLeaf (s : State) (w : Wing) (va : Nat) (r : MapReq) : Prop :=
  ∃ a e, descend s w va (sizeLevel r.size) 5 0 w.s1root = .at_ a e ∧ s1LeafOk e = true ∧ ¬(r.policy = 4 ↔ leafPolicy e = 4)

section request
variable {s : State} {wing va arg : Nat} {r : MapReq} {scanned : Bool} {got : List Nat}

/-- The model's check of a PROTECT says what R237 says of it. -/
theorem policyFlip_iff {w : Wing} : policyFlip s w va r = true ↔ r.op = 3 ∧ FlipsLeaf s w va r := by
  unfold policyFlip FlipsLeaf
  cases descend s w va (sizeLevel r.size) 5 0 w.s1root <;> simp

-- The checks that need no table, in their order.

theorem mapPre_eq [Decidable (r.bad = true ∨ Misasks r arg)] : mapPre r va arg =
    if r.bad = true ∨ Misasks r arg then some 5 else if va % 2 ^ sizeBits r.size ≠ 0 then some 8
    else if r.w && r.x then some 2 else if r.x && (r.op = 2 || r.policy = 4) then some 3 else none := by
  refine if_congr ?_ rfl rfl
  obtain h | h | h : r.op = 1 ∨ r.op = 2 ∨ (r.op ≠ 1 ∧ r.op ≠ 2) := by omega
  · simp [Misasks, h]
  · simp [Misasks, h, or_assoc]
  · simp [Misasks, h]

theorem mapPre_invalid (h : r.bad = true ∨ Misasks r arg) : mapPre r va arg = some 5 := by
  classical exact mapPre_eq.trans (if_pos h)

section valid
variable (hvalid : ¬(r.bad = true ∨ Misasks r arg))
include hvalid

theorem mapPre_misaligned (hva : va % 2 ^ sizeBits r.size ≠ 0) : mapPre r va arg = some 8 := by
  classical rw [mapPre_eq, if_neg hvalid, if_pos hva]

variable (hva : va % 2 ^ sizeBits r.size = 0)
include hva

theorem mapPre_writeExecute (hw : r.w = true) (hx : r.x = true) : mapPre r va arg = some 2 := by
  classical rw [mapPre_eq, if_neg hvalid, if_neg (not_not.mpr hva), hw, hx]; rfl

theorem mapPre_shadowedExecute (hw : r.w = false) (hx : r.x = true) (hp : r.op = 2 ∨ r.policy = 4) :
    mapPre r va arg = some 3 := by
  classical
  rw [mapPre_eq, if_neg hvalid, if_neg (not_not.mpr hva), hw, hx]
  obtain h | h := hp <;> simp [h]
end valid

-- The whole request.

theorem mapRun_flips (hbad : r.bad = false) (hop : r.op = 3) (hf : FlipsLeaf s (wingAt s wing) va r) :
    mapRun s wing va r arg scanned got = .status s (mapStatus 5 0 0) :=
  if_pos (by rw [hbad, policyFlip_iff.mpr ⟨hop, hf⟩]; rfl)

/-- A check that fails without the tables answers, unless PROTECT's check of the leaf answers before it. -/
theorem mapRun_refused (hf : r.bad = true ∨ policyFlip s (wingAt s wing) va r = false) {code : Nat}
    (hpre : mapPre r va arg = some code) : mapRun s wing va r arg scanned got = .status s (mapStatus code 0 0) := by
  have hskip : (!r.bad && policyFlip s (wingAt s wing) va r) = false := by
    obtain h | h := hf <;> simp [h]
  rw [mapRun, hskip, hpre]
  rfl

/-- A request that is invalid in itself has RESULT 0x05: the leaf's check, where it answers first, gives the same. -/
theorem mapRun_invalid (h : r.bad = true ∨ Misasks r arg) :
    mapRun s wing va r arg scanned got = .status s (mapStatus 5 0 0) := by
  cases hbad : r.bad with
  | true => exact mapRun_refused (.inl hbad) (mapPre_invalid h)
  | false => cases hf : policyFlip s (wingAt s wing) va r with
    | true =>
      obtain ⟨hop, hleaf⟩ := policyFlip_iff.mp hf
      exact mapRun_flips hbad hop hleaf
    | false => exact mapRun_refused (.inr hf) (mapPre_invalid h)
end request

/-- Settles O48: the checks in the order of R237, each by the code that it answers. -/
theorem mapRequestsRefused : Obligations.MapRequestsRefused := by
  intro s wing va arg w scanned got
  dsimp only
  refine ⟨fun hbad => mapRun_invalid (.inl hbad), fun hbad hinvalid => ?invalid, fun hbad hvalid => ?valid⟩
  case invalid =>
    obtain h | h | h | ⟨hop, hflips⟩ := hinvalid
    · exact mapRun_invalid (.inr (.inl h))
    · exact mapRun_invalid (.inr (.inr (.inl h)))
    · exact mapRun_invalid (.inr (.inr (.inr h)))
    · exact mapRun_flips hbad hop hflips
  case valid =>
    have hfields : ¬((mapReq w).bad = true ∨ Misasks (mapReq w) arg) := by
      rintro (h | h | h | h)
      · exact Bool.false_ne_true (hbad.symm.trans h)
      · exact hvalid (.inl h)
      · exact hvalid (.inr (.inl h))
      · exact hvalid (.inr (.inr (.inl h)))
    have hleaf : policyFlip s (wingAt s wing) va (mapReq w) = false :=
      Bool.eq_false_iff.mpr fun h => hvalid (.inr (.inr (.inr (policyFlip_iff.mp h))))
    exact ⟨fun hva => mapRun_refused (.inr hleaf) (mapPre_misaligned hfields hva),
      fun hva hw hx => mapRun_refused (.inr hleaf) (mapPre_writeExecute hfields hva hw hx),
      fun hva hw hx hp => mapRun_refused (.inr hleaf) (mapPre_shadowedExecute hfields hva hw hx hp)⟩

end Sys2Proof.Proofs.MapRefusal
end

section
/-! The numbers of bytes in memory, and the read-modify-write of several lanes at one location (R2, R258, R260). -/
namespace Sys2Proof.Proofs.AtomicSum
open Sys2Proof Sys2Proof.Machine

/-- The low bytes of a number stand for it mod 256^n (R2). -/
theorem leNat_natLe (n v : Nat) : leNat (natLe n v) = v % 256 ^ n := by
  induction n generalizing v with
  | zero => exact (Nat.mod_one v).symm
  | succ n ih => rw [natLe, leNat, ih, BitVec.toNat_ofNat, Nat.pow_succ' (m := 256)]; exact Nat.mod_mul.symm

/-- Lanes that add to a value one after the other, each mod 2^width, add the sum of their operands to it. -/
theorem foldl_atomF_add {ty w : Nat} (hw : widthOf ty = w) (g : List (Nat × Nat)) (m : Nat) :
    g.foldl (fun m e => atomF .add ty m e.2) (m % 2 ^ w) = (m + (g.map (·.2)).sum) % 2 ^ w := by
  induction g generalizing m with
  | nil => rfl
  | cons e g ih =>
    have hadd : atomF .add ty (m % 2 ^ w) e.2 = (m + e.2) % 2 ^ w := by rw [atomF, hw, Nat.mod_add_mod]
    rw [List.foldl_cons, hadd, ih, List.map_cons, List.sum_cons, Nat.add_assoc]

/-- What a group leaves at its location: the operands of its lanes applied in turn to the value that was there. -/
theorem rmwGroup_state (k : Nat) (op : AtomOp) (ty n t : Nat) (s : State) (l : Loc) (g : List (Nat × Nat)) :
    (rmwGroup k op ty n t s l g).1 =
      writeLoc s k l (natLe n (g.foldl (fun m e => atomF op ty m e.2) (leNat (readLoc s k l n)))) :=
  congrArg (fun m => writeLoc s k l (natLe n m)) (List.foldl_hom Prod.fst fun _ _ => rfl).symm

/-- The lowest lane of a group lands the value that was there. -/
theorem rmwGroup_lands (k : Nat) (op : AtomOp) (ty n t : Nat) (s : State) (l : Loc) (lane v : Nat) (g : List (Nat × Nat)) :
    ∃ rest, (rmwGroup k op ty n t s l ((lane, v) :: g)).2 = landV t n lane (leNat (readLoc s k l n)) ++ rest := by
  refine List.foldlRecOn
    (motive := fun r : Nat × List LandCell => ∃ rest, r.2 = landV t n lane (leNat (readLoc s k l n)) ++ rest) g _
    ⟨[], (List.append_nil _).symm⟩ fun r hr e _ => ?_
  obtain ⟨rest, hrest⟩ := hr
  exact ⟨rest ++ landV t n e.1 r.1, by rw [hrest, List.append_assoc]⟩

/-- Settles O30: the first lane makes the sum a number mod 2^width, and the others add to it. -/
theorem atomicAddCombines : Obligations.AtomicAddCombines := by
  intro s k ty n t l lane v g hw _
  refine ⟨?_, rmwGroup_lands ..⟩
  have hfirst : atomF .add ty (leNat (readLoc s k l n)) v = (leNat (readLoc s k l n) + v) % 2 ^ (8 * n) := by rw [atomF, hw]
  rw [rmwGroup_state, List.foldl_cons, hfirst, foldl_atomF_add hw]

end Sys2Proof.Proofs.AtomicSum
end

section
/-! The atomics at issue (R257 to R264), each as a counted access of the active lanes. -/
namespace Sys2Proof.Proofs.AtomicIssue
open Sys2Proof Sys2Proof.Machine Sys2Proof.Safety Sys2Proof.Laws.Ops Sys2Proof.Proofs.CountedAccess
open Sys2Proof.Proofs.ElementAccess Sys2Proof.Proofs.AtomicSum

/-- The address of an operand of a lane without a constant offset. -/
theorem addrV_zero (c : Ctx) (k : Cap) (o : BitVec 7) (lane : Nat) :
    addrV c k o lane 0 = (capAddr k : Int) + (getV c.rd o.toNat lane).toInt := Int.add_zero _

/-- What the mark `whole` of a request says (R259) is of no account where its checks pass. -/
theorem accessOk_of_notWhole {s : State} {path : Nat} {q : AccReq} {ls : List LaneReq}
    (h : AccessOk s path { q with whole := false } ls) : AccessOk s path q ls :=
  ⟨h.free, h.live, h.cause, h.found, h.built, h.room⟩

/-- The request of AXADD and AXRD: a cell of 64 bytes in each lane, not in scratch (R263, R264). -/
def prepCell (c : Ctx) (cr : BitVec 5) (o : BitVec 7) (rights : List Nat) (rd : Bool) : AccReq × List LaneReq :=
  ({ (prepA c cr o 64 rights rd).1 with scr := some false }, (prepA c cr o 64 rights rd).2)

/-- The operand of a lane: the low bytes of its register, or its V pair. -/
def laneOperand (r : RegFile) (n t lane : Nat) : Nat :=
  if n = 8 then getPair r t lane else (getV r t lane).toNat % 2 ^ (8 * n)

theorem leNat_elemBytes (r : RegFile) (n t lane : Nat) : leNat (elemBytes r n t lane) = laneOperand r n t lane := by
  rw [elemBytes, leNat_natLe, laneOperand, show 256 ^ n = 2 ^ (8 * n) from (Nat.pow_mul 2 8 n).symm]
  split
  · next hn =>
    subst hn
    have hlo := (getV r t lane).isLt
    have hhi := (getV r (t + 1) lane).isLt
    exact Nat.mod_eq_of_lt (by rw [getPair]; omega)
  · rfl

section issue
variable {s : State} (hs : BySlot s) (sw qb : Bool) (t : BitVec 7) (cr : BitVec 5) (o : BitVec 7) (e : BitVec 3)
include hs

/-- An atomic that its prelude lets pass is a counted access of the active lanes. -/
theorem atomic_issues {i : Instr} {path : Ctx → Nat} {prep : Ctx → Except Trap (AccReq × List LaneReq)}
    {kind : Ctx → List (Nat × Loc) → AccKind} {p : AccReq × List LaneReq} {x : Access}
    (hi : exec i s = counted s sw .lanes path qb qb prep kind) (hp : prep (ctx s) = .ok p) (hq : p.1.scalar = false)
    (hx : x = { acc s (path (ctx s)) (kind (ctx s) (places s p.1 p.2)) with acq := qb, rel := qb }) :
    Issues s i { p.1 with whole := false } p.2 x := by
  intro h
  rw [hi]
  exact counted_issues (allowed_slot hs _) hp (by rw [hq, hx]; rfl) (accessOk_of_notWhole h)

section elements
variable {n : Nat} (hn : elemSize (ety s) = some n) (ht : oddPair (ety s) t = false)
include hn ht

/-- An atomic on elements that takes ETYPE (R260). -/
theorem atomIssue_issues {i : Instr} {op : AtomOp} {types : Nat → Bool} (hi : exec i s = atomIssue s sw op types t cr o qb)
    (htype : types (ety s) = true) :
    let p := prepA (ctx s) cr o n [pLD, pST] false
    Issues s i { p.1 with whole := false } p.2
      { acc s (pathFor (opC (ctx s) cr.toNat) 0) (.atomic op (ety s) n t.toNat
          ((places s p.1 p.2).map fun e => (e.1, e.2, laneOperand (ctx s).rd n t.toNat e.1))) with acq := qb, rel := qb } := by
  refine atomic_issues hs sw qb hi ?_ rfl (by simp only [sizeOf_eq hn, leNat_elemBytes]; rfl)
  simp only [needSize_ok hn ht, show types (modeEty (ctx s).rd.mode) = true from htype]
  rfl

/-- ACAS, whose T field has the form of R261. -/
theorem acas_issues (hform : t.toNat % (if n = 8 then 4 else 2) = 0) :
    let p := prepA (ctx s) cr o n [pLD, pST] false
    Issues s (.acas sw t cr o e qb) { p.1 with whole := false } p.2
      { acc s (pathFor (opC (ctx s) cr.toNat) 0) (.cas n t.toNat ((places s p.1 p.2).map fun e =>
          (e.1, e.2, laneOperand (ctx s).rd n t.toNat e.1,
            laneOperand (ctx s).rd n (if n = 8 then t.toNat + 2 else t.toNat + 1) e.1))) with acq := qb, rel := qb } := by
  refine atomic_issues hs sw qb (by rw [exec, execAcas]) ?_ rfl ?_
  · simp only [needSize_ok hn ht, show casForm n t = true from beq_iff_eq.mpr hform, bind, Except.bind]
    rfl
  · simp only [sizeOf_eq hn, leNat_elemBytes]
end elements

/-- An atomic on places of one size, whatever ETYPE, where ETYPE is one that it takes (R262 to R264). -/
theorem typed_issues {i : Instr} {path : Ctx → Nat} {types : Nat → Bool} (f : Ctx → AccReq × List LaneReq)
    {kind : Ctx → List (Nat × Loc) → AccKind} {x : Access} (hi : exec i s = counted s sw .lanes path qb qb
      (fun c => do trapIf (!types (modeEty c.rd.mode)) (guardTrap c 0x0A); .ok (f c)) kind)
    (htype : types (ety s) = true) (hq : (f (ctx s)).1.scalar = false)
    (hx : x = { acc s (path (ctx s)) (kind (ctx s) (places s (f (ctx s)).1 (f (ctx s)).2)) with acq := qb, rel := qb }) :
    Issues s i { (f (ctx s)).1 with whole := false } (f (ctx s)).2 x := by
  refine atomic_issues hs sw qb hi ?_ hq hx
  simp only [show types (modeEty (ctx s).rd.mode) = true from htype]
  rfl
end issue

/-- Settles O27: each is a counted access of the active lanes, past the checks of its type. -/
theorem atomicsIssue : Obligations.AtomicsIssue := by
  intro s sw qb t cr o e n
  dsimp only
  simp only [← addrV_zero (ctx s)]
  intro hs
  refine ⟨fun hn ht => ?elements, fun hn hkey => ?key, fun hn hcell => ⟨?add, ?read⟩⟩
  case elements =>
    have issues := @atomIssue_issues s hs sw qb t cr o n hn ht
    exact ⟨issues rfl, fun h => ⟨issues rfl h, issues rfl h⟩, fun h => ⟨issues rfl h, issues rfl h, issues rfl h⟩,
      issues rfl rfl, acas_issues hs sw qb t cr o e hn ht⟩
  all_goals subst hn
  case key =>
    exact typed_issues hs sw qb (prepA · cr o 4 [pLD, pST] false) (by rw [exec, execAmxix]) hkey rfl rfl
  case add => exact typed_issues hs sw qb (prepCell · cr o [pST] false) (by rw [exec, execAxadd]; rfl) hcell rfl rfl
  case read => exact typed_issues hs sw qb (prepCell · cr o [pLD] true) (by rw [exec, execAxrd]; rfl) hcell rfl rfl

end Sys2Proof.Proofs.AtomicIssue
end

section
/-! Barrier words and the barrier operations at issue (R268 to R270, R316). -/
namespace Sys2Proof.Proofs.BarrierInstr
open Sys2Proof Sys2Proof.Machine Sys2Proof.Safety Sys2Proof.Laws.Tables Sys2Proof.Laws.State Sys2Proof.Laws.Ops
open Sys2Proof.Proofs.CountedAccess Sys2Proof.Proofs.IssueRules Sys2Proof.Proofs.Slots

-- The word.

/-- The number that a barrier word of fields in their ranges stands for. -/
theorem toNat_barWord {b : BarWord} (harr : b.arr < 1024) (htgt : b.tgt < 1024) : (barWord b).toNat =
    (BitVec.ofInt 32 b.bytes).toNat * 2 ^ 32 + (if b.phase then 2 ^ 20 else 0) + b.arr * 1024 + b.tgt := by
  have hbytes := (BitVec.ofInt 32 b.bytes).isLt
  rw [barWord, BitVec.toNat_ofNat, Nat.mod_eq_of_lt harr, Nat.mod_eq_of_lt htgt,
    show wrap 32 b.bytes = (BitVec.ofInt 32 b.bytes).toNat from (BitVec.toNat_ofInt ..).symm]
  apply Nat.mod_eq_of_lt
  split <;> omega

/-- Fields in their ranges read back from the word that they make (R268). -/
theorem barOf_barWord {b : BarWord} (harr : b.arr < 1024) (htgt : b.tgt < 1024) (hlo : -(2 ^ 31) ≤ b.bytes)
    (hhi : b.bytes < 2 ^ 31) : barOf (barWord b) = b := by
  have hword := toNat_barWord harr htgt
  have hbytes := (BitVec.ofInt 32 b.bytes).isLt
  have hint : (barWord b).extractLsb' 32 32 = BitVec.ofInt 32 b.bytes := by
    apply BitVec.eq_of_toNat_eq
    rw [BitVec.extractLsb'_toNat, Nat.shiftRight_eq_div_pow, hword]
    split <;> omega
  have hphase : (barWord b).getLsbD 20 = b.phase := by
    rw [BitVec.getLsbD, Nat.testBit_eq_decide_div_mod_eq, hword]
    cases b.phase <;> simp <;> omega
  have harr' : Machine.bits (barWord b).toNat 19 10 = b.arr := by
    rw [Machine.bits, hword]
    split <;> omega
  have htgt' : Machine.bits (barWord b).toNat 9 0 = b.tgt := by
    rw [Machine.bits, hword]
    split <;> omega
  rw [barOf, hint, hphase, harr', htgt', BitVec.toInt_ofInt_eq_self (by decide) hlo hhi]

section word
variable {b : BarWord} (harr : b.arr < 1024) (htgt : b.tgt < 1024) (hlo : -(2 ^ 31) ≤ b.bytes) (hhi : b.bytes < 2 ^ 31)
include harr htgt hlo hhi

/-- An arrival of `n` (R269). -/
theorem barStep_arrive {n : Nat} (hn : n < 2 ^ 64) : barStep .arrive (barWord b) (BitVec.ofNat 64 n) =
    if 1023 < n ∨ b.tgt < b.arr + n then none else some (barWord (barCheck { b with arr := b.arr + n })) := by
  rw [barStep, barOf_barWord harr htgt hlo hhi, BitVec.toNat_ofNat, Nat.mod_eq_of_lt hn]

/-- The fields after the completion check. -/
theorem barOf_barCheck : barOf (barWord (barCheck b)) =
    if b.arr = b.tgt ∧ b.bytes = 0 then { b with phase := !b.phase, arr := 0 } else b := by
  unfold barCheck
  split
  · exact barOf_barWord (Nat.zero_lt_succ 1023) htgt hlo hhi
  · exact barOf_barWord harr htgt hlo hhi
end word

-- The checks and the issue of an access in the scratch window.

/-- An access with a place in the scratch window is through a capability of it (R179). -/
theorem scratch_of_places {s : State} {q : AccReq} {ls : List LaneReq} {i off : Nat} (h : (i, Loc.scr off) ∈ places s q ls) :
    capHas q.cap pSCRATCH = true := by
  simp only [places, checkLanes.located, List.mem_filterMap, List.mem_map] at h
  obtain ⟨_, ⟨l, -, rfl⟩, he⟩ := h
  split at he
  · by_contra hs
    simp [hs] at he
  · cases he

/-- An access in the scratch window notes no translation. -/
theorem noted_scratch {s : State} {q : AccReq} {ls : List LaneReq} (h : capHas q.cap pSCRATCH = true) : noted s q ls = s := by
  simp [noted, usedChoice, h]

-- The delivery binding.

/-- The delivery binding is no part of what the issue of an access says. -/
theorem issued_setDelivery {s u : State} {a : Access} (hu : Issued s u a) (x : Option Nat) :
    Issued s (setWave u (ctx s).k { waveAt u (ctx s).k with delivery := x }) a := by
  obtain ⟨haccs, hcount, hpc, hdix, hregs, hothers, hmem⟩ := hu
  have hself : waveAt (setWave u (ctx s).k { waveAt u (ctx s).k with delivery := x }) (ctx s).k =
    { waveAt u (ctx s).k with delivery := x } := (waveAt_setWave ..).trans (if_pos rfl)
  refine ⟨?_, ?_, ?_, ?_, ?_, fun j hj => ?_, hmem⟩
  · rw [hself]; exact haccs
  · rw [hself]; exact hcount
  · rw [hself]; exact hpc
  · rw [hself]; exact hdix
  · rw [hself]; exact hregs
  · rw [waveAt_setWave, if_neg (Ne.symm hj)]; exact hothers j hj

/-- An issue keeps the delivery binding. -/
theorem issueAcc_delivery {s : State} (sw : Bool) {a : Access} (hroom : countOf (ctx s).w a.path < Config.counterMax) :
    (waveAt (issueAcc s (ctx s) sw a) (ctx s).k).delivery = (ctx s).w.delivery := by
  have hw : (ctx s).w = waveAt s (ctx s).k := rfl
  rw [issueAcc_room sw (hw ▸ hroom), waveAt_setWave, if_pos rfl, advance]
  split
  · rw [putSeq_delivery]; rfl
  · rw [putSlot_delivery]; rfl

-- BARI, BARA and BARX.

section issue
variable {s : State} (hs : BySlot s) (sw : Bool) (t : BitVec 7) (cr : BitVec 5) (o : BitVec 7) {off : Nat}
  (hl : places s (prepBar (ctx s) cr o).1 (prepBar (ctx s) cr o).2 = [(0, .scr off)])
  (h : AccessOk s 2 (prepBar (ctx s) cr o).1 (prepBar (ctx s) cr o).2)

/-- The access that a barrier operation leaves outstanding. -/
def barAccess (s : State) (op : BarOp) (rel : Bool) (t : BitVec 7) (off : Nat) : Access :=
  { acc s 2 (.bar op t.toNat off (getS (ctx s).rd t.toNat)) with rel := rel, mask := some (ctx s).mask }

include hl h in
/-- The checks of a barrier operation that pass leave the state as it is, with the place of the word. -/
theorem checkLanes_bar : checkLanes s (ctx s) (prepBar (ctx s) cr o).1 (prepBar (ctx s) cr o).2 =
    .ok (s, some ⟨[(0, .scr off)], none⟩) := by
  rw [checkLanes_ok h, noted_scratch (scratch_of_places (hl ▸ List.mem_singleton_self _)), hl]

include hs hl h

/-- A barrier operation whose checks pass issues its access. -/
theorem barIssue_eq (op : BarOp) (rel : Bool) :
    barIssue s sw op rel t cr o = .next (issueAcc s (ctx s) sw (barAccess s op rel t off)) := by
  rw [barIssue, counted]
  refine runState_ok (allowed_slot hs _) ?_
  simp only [unheld_free h.free, bind, Except.bind, checkLanes_bar cr o hl h]
  rfl

theorem barIssue_issued (op : BarOp) (rel : Bool) :
    ∃ u, barIssue s sw op rel t cr o = .next u ∧ Issued s u (barAccess s op rel t off) :=
  ⟨_, barIssue_eq hs sw t cr o hl h op rel, issueAcc_issued sw h.room⟩

/-- BARI issues its access; with BIND the word is the wave's delivery binding (R270). -/
theorem exec_bari : ∃ u, exec (.bari sw t cr o) s = .next u ∧ Issued s u (barAccess s .init false t off) ∧
    (waveAt u (ctx s).k).delivery = if (getS (ctx s).rd t.toNat).getLsbD 16
      then some (addrS (ctx s) (getC (ctx s).rd cr.toNat) o 0).toNat else (ctx s).w.delivery := by
  have hissue := barIssue_eq hs sw t cr o hl h .init false
  have hu := issueAcc_issued sw (a := barAccess s .init false t off) h.room
  obtain ⟨no, pages, haccs⟩ := hu.accs
  have hnew : (ctx s).w.accs.length <
      (waveAt (issueAcc s (ctx s) sw (barAccess s .init false t off)) (ctx s).k).accs.length := by
    rw [haccs, List.length_append]
    exact Nat.lt_succ_self _
  rw [exec, execBari, hissue]
  cases hbind : (getS (ctx s).rd t.toNat).getLsbD 16 with
  | true =>
    refine ⟨_, if_pos ?_, issued_setDelivery hu _, ?_⟩
    · rw [opS, hbind, decide_eq_true hnew]; rfl
    · rw [waveAt_setWave, if_pos rfl]; rfl
  | false => exact ⟨_, if_neg (by rw [opS, hbind]; exact Bool.false_ne_true), hu, issueAcc_delivery sw h.room⟩

-- BARW.

omit hl h in
/-- A BARW that has been woken goes on. -/
theorem exec_barw_woken (hseen : (ctx s).hold = .barSeen) : exec (.barw sw t cr o) s = .next (finish s (ctx s) sw) := by
  rw [exec, execBarw]
  exact runState_ok (allowed_slot hs _) (if_pos hseen)

/-- The outcome of a BARW that reads its word. -/
def barwOutcome (s : State) (sw : Bool) (t : BitVec 7) (off : Nat) : Except Trap State :=
  let ph := (getS (ctx s).rd t.toNat).getLsbD 20
  if barCame s (ctx s).k off ph s.fresh then .ok (finish s (ctx s) sw)
  else if barReads s (ctx s).k off s.fresh && scrPoisoned s (ctx s).k off 8 then
    .error { cause := 0x15, addr := BitVec.ofNat 64 off }
  else .ok (waitWith s (ctx s) (.bar off ph s.fresh))

omit hs in
theorem exec_barw (hseen : (ctx s).hold ≠ .barSeen) :
    exec (.barw sw t cr o) s = runState s .wave fun _ => barwOutcome s sw t off := by
  have hchecked := checkLanes_bar cr o hl h
  simp only [exec, execBarw, runState, if_neg hseen, unheld_free h.free, bind, Except.bind, hchecked]
  rfl

section reads
variable (hseen : (ctx s).hold ≠ .barSeen) (hfree : heldBack s (ctx s).k
  ((ctx s).w.accs.filter fun a => decide (a.no < s.fresh)) [(true, off, 8)] = false)
include hseen hfree

omit hs hl h hseen in
theorem barReads_eq : barReads s (ctx s).k off s.fresh = true := by
  rw [barReads, show waveAt s (ctx s).k = (ctx s).w from rfl, hfree]
  rfl

theorem exec_barw_poisoned (hbad : scrPoisoned s (ctx s).k off 8 = true) : exec (.barw sw t cr o) s =
    .next (trapped s { cause := 0x15, addr := BitVec.ofNat 64 off }) := by
  rw [exec_barw sw t cr o hl h hseen]
  refine runState_error (allowed_slot hs _) ((if_neg ?_).trans (if_pos ?_))
  · rw [barCame, hbad, Bool.not_true, Bool.and_false]
    exact Bool.false_ne_true
  · rw [barReads_eq hfree, hbad]
    rfl

variable (hgood : scrPoisoned s (ctx s).k off 8 = false)
include hgood

omit hs hl h hseen in
/-- What a BARW that reads a sound word waits for is another phase. -/
theorem barCame_eq (ph : Bool) : barCame s (ctx s).k off ph s.fresh = (phaseAt s (ctx s).k off != ph) := by
  rw [barCame, barReads_eq hfree, hgood, Bool.not_false, Bool.and_true, Bool.and_true]

theorem exec_barw_goes (hne : phaseAt s (ctx s).k off ≠ (getS (ctx s).rd t.toNat).getLsbD 20) :
    exec (.barw sw t cr o) s = .next (finish s (ctx s) sw) := by
  rw [exec_barw sw t cr o hl h hseen]
  refine runState_ok (allowed_slot hs _) (if_pos ?_)
  rw [barCame_eq hfree hgood]
  exact bne_iff_ne.mpr hne

theorem exec_barw_waits (heq : phaseAt s (ctx s).k off = (getS (ctx s).rd t.toNat).getLsbD 20) :
    exec (.barw sw t cr o) s =
      .next (waitWith s (ctx s) (.bar off ((getS (ctx s).rd t.toNat).getLsbD 20) s.fresh)) := by
  rw [exec_barw sw t cr o hl h hseen]
  refine runState_ok (allowed_slot hs _) ((if_neg ?_).trans (if_neg ?_))
  · rw [barCame_eq hfree hgood, heq, bne_self_eq_false]
    exact Bool.false_ne_true
  · rw [hgood, Bool.and_false]
    exact Bool.false_ne_true
end reads
end issue

/-- Settles O29: each operation by its equation, and an arrival by the fields that it leaves. -/
theorem barriers : Obligations.Barriers := by
  refine ⟨fun s sw t cr o off => ?instr, fun b n harr htgt hlo hhi hn => ?arrive⟩
  case instr =>
    dsimp only
    rw [← addrS_zero (ctx s)]
    intro hs hl
    exact ⟨fun h => ⟨exec_bari hs sw t cr o hl h, barIssue_issued hs sw t cr o hl h .arrive true,
        barIssue_issued hs sw t cr o hl h .expect true⟩,
      fun h hfree hseen hbad => exec_barw_poisoned hs sw t cr o hl h hseen hfree hbad,
      fun h hfree hseen hgood => ⟨exec_barw_goes hs sw t cr o hl h hseen hfree hgood,
        exec_barw_waits hs sw t cr o hl h hseen hfree hgood⟩,
      exec_barw_woken hs sw t cr o⟩
  case arrive =>
    rw [barStep_arrive harr htgt hlo hhi hn]
    refine ⟨⟨fun hnone => ?_, fun hbad => if_pos hbad⟩, fun hmax hroom => ⟨_, if_neg (by omega), ?_⟩⟩
    · by_contra hgood
      cases (if_neg hgood).symm.trans hnone
    · exact barOf_barCheck (Nat.lt_of_le_of_lt hroom htgt) htgt hlo hhi

end Sys2Proof.Proofs.BarrierInstr
end

section
/-! Deque operations under an acquire that holds the issue of accesses (R213, R267). -/
namespace Sys2Proof.Proofs.DequeHeld
open Sys2Proof Sys2Proof.Machine Sys2Proof.Safety Sys2Proof.Laws.Ops

/-- A deque operation waits while an acquire of its wave has not its value, before any check of its own (R213). -/
theorem dequeIssue_held {s : State} (hs : BySlot s) (h : acqHeld (ctx s) = true) (sw : Bool) (op : DequeOp) (t : BitVec 7)
    (cr : BitVec 5) (o : BitVec 7) (q : Bool) : dequeIssue s sw op t cr o q = .next (waitWith s (ctx s) .poll) := by
  rw [dequeIssue, counted]
  exact runState_ok (allowed_slot hs _) (if_pos h)

/-- A wave whose slot has an LDAC outstanding, and s2 a value with bit 63 set. -/
def heldPush : State :=
  { State.reset with
    cur := ⟨0, .slotA⟩
    waves := [(0, {
      used := true
      regs := { s := [(2, 0x8000000000000000)] }
      counts := [(0, 1)]
      accs := [{ path := 0, kind := .loadV 3 4 [(0, .mem 0x40000 0x40000 0x40000)], pc := 0, src := .slotA, acq := true }] })] }

/-- The DQPSH of `heldPush` waits. -/
theorem exec_dqpsh_heldPush : exec (.dqpsh false 2 1 6 0 false) heldPush = .next (waitWith heldPush (ctx heldPush) .poll) := by
  rw [exec, execDqpsh]
  exact dequeIssue_held (s := heldPush) rfl (by decide) ..

/-- Refutes O28: the clause on a value with bit 63 leaves out that no acquire holds the push. In `heldPush` an earlier LDAC has
not its value yet, so that the DQPSH waits (R213), where the clause says that its wave is in a handler for 0x0A. -/
theorem not_deques : ¬ Obligations.Deques := by
  rintro ⟨hissue, -⟩
  obtain ⟨htrap, -⟩ := hissue heldPush false false 2 1 6 0 (.scr 0) rfl
  have heq : waitWith heldPush (ctx heldPush) .poll = trapped heldPush { cause := 0x0A } :=
    Host.Outcome.next.inj (exec_dqpsh_heldPush.symm.trans (htrap (by decide)))
  have hwaits : (waveAt (waitWith heldPush (ctx heldPush) .poll) 0).frame.isSome = false := by decide
  have htraps : (waveAt (trapped heldPush { cause := 0x0A }) 0).frame.isSome = true := by decide
  rw [heq, htraps] at hwaits
  cases hwaits

end Sys2Proof.Proofs.DequeHeld
end

section
/-! No step makes a dirty-log ring hold more than its size (R413, log 10): the rings are read through memory and the wings alone,
and a move after which one would hold too much is not made. -/
namespace Sys2Proof.Proofs.DirtyLog
open Sys2Proof Sys2Proof.Machine Sys2Proof.Laws.Ops

-- What the rings are read through.

theorem tableEntry_congr {s t : State} (h : t.mem = s.mem) : tableEntry t = tableEntry s := by
  funext a
  simp only [tableEntry, readNat, readMem, h]

theorem s2WalkFrom_congr {s t : State} (h : t.mem = s.mem) (ipa n level table : Nat) :
    s2WalkFrom t ipa n level table = s2WalkFrom s ipa n level table := by
  induction n generalizing level table with
  | zero => rfl
  | succ n ih =>
    rw [s2WalkFrom, s2WalkFrom, tableEntry_congr h]
    simp only [ih]

theorem s2Pa_congr {s t : State} (h : t.mem = s.mem) (w : Wing) (ipa : Nat) (rd wr : Bool) :
    s2Pa t w ipa rd wr = s2Pa s w ipa rd wr := by
  simp only [s2Pa, s2Walk, s2WalkFrom_congr h]

theorem logIndex_congr {s t : State} (h : t.mem = s.mem) (w : Wing) (l : DirtyLog) (off : Nat) :
    logIndex t w l off = logIndex s w l off := by
  simp only [logIndex, s2Pa_congr h, readNat, readMem, h]

/-- States with the same memory and the same wings have the same rings. -/
theorem logOverflow_congr {s t : State} (hm : t.mem = s.mem) (hw : t.wings = s.wings) : logOverflow t = logOverflow s := by
  simp only [logOverflow, hw, logIndex_congr hm]

-- The moves.

/-- A move leaves no ring too full where none was: the state after it is looked at, and else the move is not made. -/
theorem logOverflow_afterMove {b : State} (h : logOverflow b = false) (a : State) : logOverflow (afterMove b a) = false := by
  obtain hb | ⟨-, ha, heq⟩ := afterMove_cases b a
  · rw [hb]
    exact (logOverflow_congr rfl rfl).trans h
  · rw [heq, ha]

theorem logOverflow_issueStep {k : Nat} {src : Src} {s t : State} (h : logOverflow s = false)
    (ht : issueStep k src s = .next t) : logOverflow t = false := by
  obtain ⟨_, _, rfl⟩ | ⟨_, _, _, rfl⟩ | ⟨_, _, _, _, _, _, _, rfl⟩ := issueStep_next ht <;> exact logOverflow_afterMove h _

/-- Leaving the handler changes a wave alone. -/
theorem logOverflow_outOfHandler (s : State) (k : Nat) : logOverflow (outOfHandler s k) = logOverflow s := by
  dsimp only [outOfHandler]
  split
  · exact logOverflow_congr rfl rfl
  · rfl

/-- So does coming back into it. -/
theorem logOverflow_intoHandler (s : State) (k : Nat) (src : Src) (old : Wave) :
    logOverflow (intoHandler s k src old) = logOverflow s := by
  dsimp only [intoHandler]
  split
  · exact logOverflow_congr rfl rfl
  · rfl

theorem logOverflow_settleWith {k : Nat} {src : Src} {s t : State} (h : logOverflow s = false)
    (ht : settleWith issueStep k src s = .next t) : logOverflow t = false := by
  unfold settleWith at ht
  split at ht
  case h_1 u hu =>
    obtain rfl := Host.Outcome.next.inj ht
    split
    · exact logOverflow_afterMove h s
    · rw [logOverflow_intoHandler]
      exact logOverflow_issueStep ((logOverflow_outOfHandler s k).trans h) hu
  case h_2 hne => exact absurd ht (hne t)

/-- Settles O58: every move but one that is not enabled ends with `afterMove`. -/
theorem dirtyLogNeverOverflows : Obligations.DirtyLogNeverOverflows := by
  intro s t h hstep
  have hs : logOverflow { s with script := s.script.tail } = false := (logOverflow_congr rfl rfl).trans h
  obtain rfl | ⟨m, -, rfl | ⟨k, src, -, ht⟩ | ⟨k, src, -, ht⟩ | ⟨i, u, -, -, rfl⟩ | rfl⟩ := step_next hstep
  · exact h
  · exact hs
  · exact logOverflow_issueStep hs ht
  · exact logOverflow_settleWith hs ht
  · exact logOverflow_afterMove hs u
  · exact logOverflow_afterMove hs _

end Sys2Proof.Proofs.DirtyLog
end

section
/-! Taking a trap (R305, R306, R309 to R311, R313, R324): what handler entry leaves in the wave that traps, what the halt leaves in
the unit and in its other waves, and the double fault. -/
namespace Sys2Proof.Proofs.TakenTrap
open Sys2Proof Sys2Proof.Machine Sys2Proof.Safety Sys2Proof.Laws.Tables Sys2Proof.Laws.State Sys2Proof.Laws.Ops
open Sys2Proof.Proofs.Slots Sys2Proof.Proofs.Supervisor

-- The wave that traps.

/-- What a trap's frame and its handler's start are made of: the two slots' places, masks and states, the divergence count, JR and
the registers, the supervisor bank, and of the source its DIX and its mask. -/
def entryState (x : Src) (w : Wave) :=
  ((w.a.pc, w.b.pc, w.a.mask, w.b.mask, w.a.st, w.b.st), (w.divd, w.jr, w.regs, w.bank),
    (w.trapVec, w.live, srcDix w x, (slotOf w x).mask))

/-- The trap registers (R309). -/
def trapRegs (w : Wave) : BitVec 32 × DWord × DWord × BitVec 32 × DWord :=
  (w.trapCause, w.trapPc, w.trapAddr, w.trapLanes, w.trapPix)

/-- The wave as it stands when the handler is entered: its trap registers set, its waits left and its runs cut (R306, R310). -/
def atEntry (w : Wave) (src : Src) (t : Trap) : Wave :=
  let v := setTrapRegs w src t
  cutRuns (haltHolds (if t.cause = 0x16 then v else putHold v src .none))

theorem atEntry_entryState (w : Wave) (src : Src) (t : Trap) : entryState src (atEntry w src t) = entryState src w := by
  dsimp only [atEntry]
  split <;> cases src <;> rfl

theorem atEntry_trapRegs (w : Wave) (src : Src) (t : Trap) : trapRegs (atEntry w src t) = trapRegs (setTrapRegs w src t) := by
  dsimp only [atEntry]
  split <;> cases src <;> rfl

/-- The frame keeps what the wave's slots were, with the divergence count, JR and MODE (R310). -/
theorem enterHandler_frame (w : Wave) (src : Src) (t : Trap) : ∃ fr, (enterHandler w src t).frame = some fr ∧
    fr.a.pc = w.a.pc ∧ fr.b.pc = w.b.pc ∧ fr.a.mask = w.a.mask ∧ fr.b.mask = w.b.mask ∧ fr.a.st = w.a.st ∧
    fr.b.st = w.b.st ∧ fr.divd = w.divd ∧ fr.jr = w.jr ∧ fr.mode = w.regs.mode := by
  have h := atEntry_entryState w src t
  simp only [entryState, Prod.mk.injEq] at h
  obtain ⟨⟨hpa, hpb, hma, hmb, hsa, hsb⟩, ⟨hdivd, hjr, hregs, -⟩, -⟩ := h
  exact ⟨_, rfl, hpa, hpb, hma, hmb, hsa, hsb, hdivd, hjr, congrArg RegFile.mode hregs⟩

/-- The supervisor bank is exchanged, and MODE is 0 (R310). -/
theorem enterHandler_bank (w : Wave) (src : Src) (t : Trap) : (enterHandler w src t).bank = bankOf w.regs ∧
    (enterHandler w src t).regs = putBank { w.regs with mode := 0 } w.bank := by
  have h := atEntry_entryState w src t
  simp only [entryState, Prod.mk.injEq] at h
  obtain ⟨-, ⟨-, -, hregs, hbank⟩, -⟩ := h
  refine ⟨congrArg bankOf hregs, ?_⟩
  show putBank { (atEntry w src t).regs with mode := 0 } (atEntry w src t).bank = _
  rw [hregs, hbank]

/-- Slot A starts at TRAPVEC, with DIX + 2^44 and the trap's lanes (R310 step 5). -/
theorem enterHandler_start (w : Wave) (src : Src) (t : Trap) :
    let v := enterHandler w src t
    let lanes := t.lanes.getD (srcMask w src)
    v.a.pc = w.trapVec ∧ v.a.st = .ready ∧ v.a.dix = BitVec.ofNat 48 ((srcDix w src).toNat + 2 ^ 44) ∧
      v.a.mask = (if lanes = 0 then (if isSeq src then w.live else (slotOf w src).mask) else lanes) := by
  have h := atEntry_entryState w src t
  simp only [entryState, Prod.mk.injEq] at h
  obtain ⟨-, -, hvec, hlive, hdix, hmask⟩ := h
  have hlanes : (atEntry w src t).trapLanes = t.lanes.getD (srcMask w src) := by
    have hr := atEntry_trapRegs w src t
    simp only [trapRegs, Prod.mk.injEq] at hr
    exact hr.2.2.2.1
  refine ⟨hvec, rfl, congrArg (fun d : BitVec 48 => BitVec.ofNat 48 (d.toNat + 2 ^ 44)) hdix, ?_⟩
  show handlerMask (atEntry w src t) src (atEntry w src t).trapLanes = _
  rw [handlerMask, hlanes, hlive, hmask, ite_not]

-- The unit and its other waves.

/-- The wave that traps, outside a handler, is left in its handler (R310). -/
theorem waveAt_takeTrap {s : State} {k : Nat} (h : (waveAt s k).frame = none) (src : Src) (t : Trap) :
    waveAt (takeTrap s k src t) k = enterHandler (waveAt s k) src t := by
  obtain ⟨hw, -⟩ := trapTrigger_rest s (wingNoOf s k) t
  have hwave : ∀ j, waveAt (trapTrigger s (wingNoOf s k) t) j = waveAt s j := fun j => by simp only [waveAt, hw]
  have hhalt : ∀ u, waveAt (haltUnit (trapTrigger s (wingNoOf s k) t) u k) k = waveAt s k :=
    fun u => (waveAt_haltUnit_except ..).trans (hwave k)
  simp only [takeTrap, hwave, h, Option.isSome_none, Bool.false_eq_true, if_false, waveAt_setWave, if_true]
  exact congrArg (enterHandler · src t) (hhalt _)

/-- Its unit is halted and keeps the first cause (R306). -/
theorem unitAt_takeTrap {s : State} {k : Nat} (h : (waveAt s k).frame = none) (src : Src) (t : Trap) :
    let u := unitAt s (waveAt s k).unit
    unitAt (takeTrap s k src t) (waveAt s k).unit =
      { u with halted := true, firstCause := if u.firstCause = 0 then BitVec.ofNat 8 t.cause else u.firstCause } := by
  obtain ⟨hw, hu, -⟩ := trapTrigger_rest s (wingNoOf s k) t
  have hwave : waveAt (trapTrigger s (wingNoOf s k) t) k = waveAt s k := by simp only [waveAt, hw]
  have hunit : ∀ n, unitAt (trapTrigger s (wingNoOf s k) t) n = unitAt s n := fun n => by simp only [unitAt, hu]
  simp only [takeTrap, hwave, h, Option.isSome_none, Bool.false_eq_true, if_false]
  refine (unitAt_setUnit _ _ _ _).trans ?_
  simp only [if_true, unitAt_haltUnit, hunit]

/-- A wave that the halt reaches: outside a handler, and in its skid where it has been reached already (R306). -/
def Skids (w : Wave) : Prop := w.frame = none ∧ w.stop = .skidding 0

theorem skids_haltWave_of_running {w : Wave} {except k : Nat} (hk : k ≠ except) (hf : w.frame = none)
    (hs : w.stop = .running) : Skids (haltWave except k w) := by
  simp only [haltWave, hk, hf, Option.isSome_none, decide_false, Bool.or_self, Bool.false_eq_true, if_false, mapSeqs, hs]
  exact ⟨rfl, rfl⟩

theorem skids_haltWave {w : Wave} {except k : Nat} (h : Skids w) : Skids (haltWave except k w) := by
  obtain ⟨hf, hs⟩ := h
  unfold haltWave
  split
  · exact ⟨hf, hs⟩
  · simp only [mapSeqs, hs]
    exact ⟨hf, rfl⟩

/-- A running wave outside a handler that the list names skids after the broadcast. -/
theorem skids_mapWaves {j except : Nat} (hj : j ≠ except) (ks : List Nat) {s : State} (hmem : j ∈ ks)
    (hf : (waveAt s j).frame = none) (hs : (waveAt s j).stop = .running) :
    Skids (waveAt (mapWaves s (haltWave except) ks) j) := by
  induction ks generalizing s with
  | nil => cases hmem
  | cons k ks ih =>
    by_cases hk : k = j
    · refine waveAt_mapWaves_invariant (P := Skids) (fun _ => skids_haltWave) ks _ ?_
      rw [waveAt_setWave, if_pos hk, hk]
      exact skids_haltWave_of_running hj hf hs
    · have hsame : waveAt (setWave s k (haltWave except k (waveAt s k))) j = waveAt s j := by rw [waveAt_setWave, if_neg hk]
      exact ih ((List.mem_cons.mp hmem).resolve_left (Ne.symm hk)) (hsame ▸ hf) (hsame ▸ hs)

theorem skids_haltUnit {s : State} {u j except : Nat} (hj : j ≠ except) (hmem : j ∈ (unitAt s u).waves)
    (hf : (waveAt s j).frame = none) (hs : (waveAt s j).stop = .running) : Skids (waveAt (haltUnit s u except) j) :=
  skids_mapWaves hj _ hmem hf hs

/-- The other running waves of the unit begin their skid (R306). -/
theorem skids_takeTrap {s : State} {k j : Nat} (h : (waveAt s k).frame = none) (src : Src) (t : Trap)
    (hmem : j ∈ (unitAt s (waveAt s k).unit).waves) (hj : j ≠ k) (hf : (waveAt s j).frame = none)
    (hs : (waveAt s j).stop = .running) : Skids (waveAt (takeTrap s k src t) j) := by
  obtain ⟨hw, hu, -⟩ := trapTrigger_rest s (wingNoOf s k) t
  have hwave : ∀ i, waveAt (trapTrigger s (wingNoOf s k) t) i = waveAt s i := fun i => by simp only [waveAt, hw]
  have hunit : ∀ n, unitAt (trapTrigger s (wingNoOf s k) t) n = unitAt s n := fun n => by simp only [unitAt, hu]
  simp only [takeTrap, hwave, h, Option.isSome_none, Bool.false_eq_true, if_false, waveAt_setWave, if_neg (Ne.symm hj)]
  exact skids_haltUnit hj (by rwa [hunit]) (by rwa [hwave]) (by rwa [hwave])

/-- In a handler a trap is a double fault: the unit ends, and no wave changes (R313). -/
theorem takeTrap_doubleFault {s : State} {k : Nat} (h : (waveAt s k).frame ≠ none) (src : Src) (t : Trap) :
    (unitAt (takeTrap s k src t) (waveAt s k).unit).ending = some (endReason (unitAt s (waveAt s k).unit).ending .failed) ∧
      (takeTrap s k src t).waves = s.waves := by
  obtain ⟨hw, hu, -⟩ := trapTrigger_rest s (wingNoOf s k) t
  have hwave : waveAt (trapTrigger s (wingNoOf s k) t) k = waveAt s k := by simp only [waveAt, hw]
  have hunit : ∀ n, unitAt (trapTrigger s (wingNoOf s k) t) n = unitAt s n := fun n => by simp only [unitAt, hu]
  simp only [takeTrap, hwave, Option.isSome_iff_ne_none.mpr h, if_true, endUnit, unitAt_setUnit, hunit]
  exact ⟨trivial, hw⟩

theorem endReason_failed (e : Option UnitEnd) :
    endReason e .failed = if e = some .relaunch then .failed else e.getD .failed := by
  cases e with
  | none => rfl
  | some e => cases e <;> rfl

/-- TRAP (R324). -/
theorem exec_trap {s : State} (h : BySlot s) (sw : Bool) (imm : BitVec 16) :
    exec (.trap sw imm) s = .next (trapped s { cause := 0x14, addr := imm.setWidth 64, next := true }) := by
  rw [exec, execTrap]
  exact runState_error (allowed_slot h _) rfl

/-- Settles O43: the wave that traps by the parts of `enterHandler`, its unit and the other waves by the halt. -/
theorem takingATrap : Obligations.TakingATrap := by
  intro s sw imm tr
  dsimp only
  refine ⟨fun h => exec_trap h sw imm, fun hframe => ?_, fun hframe => ?_⟩
  · have hw : waveAt (trapped s tr) (ctx s).k = enterHandler (ctx s).w (ctx s).src tr := waveAt_takeTrap hframe _ _
    have hu := unitAt_takeTrap hframe (ctx s).src tr
    obtain ⟨hmem, htags, -, hwings⟩ := takeTrap_rest s (ctx s).k (ctx s).src tr
    have hr := atEntry_trapRegs (ctx s).w (ctx s).src tr
    simp only [trapRegs, Prod.mk.injEq] at hr
    obtain ⟨hcause, hpc, haddr, hlanes, hpix⟩ := hr
    obtain ⟨hbank, hregs⟩ := enterHandler_bank (ctx s).w (ctx s).src tr
    obtain ⟨hvec, hst, hdix, hmask⟩ := enterHandler_start (ctx s).w (ctx s).src tr
    rw [hw]
    exact ⟨hcause, hpc, haddr, hlanes, hpix, enterHandler_frame _ _ _, hbank, hregs, hvec, hst, hdix, hmask, rfl, rfl, rfl,
      rfl, congrArg Machine.Unit.halted hu, congrArg Machine.Unit.firstCause hu,
      fun j hj hk hf hs => (skids_takeTrap hframe _ _ hj hk hf hs).2, hmem, htags, hwings⟩
  · obtain ⟨hend, hwaves⟩ := takeTrap_doubleFault hframe (ctx s).src tr
    exact ⟨hend.trans (congrArg some (endReason_failed _)), hwaves, (takeTrap_rest s _ _ _).1⟩

end Sys2Proof.Proofs.TakenTrap
end

section
/-! Claims of matrix slots (R274, R275, R294) and the moves of tiles (R280, R282, R297 to R299): one equation for each instruction
where it goes on, waits or traps. -/
namespace Sys2Proof.Proofs.MatrixUnit
open Sys2Proof Sys2Proof.Machine Sys2Proof.Safety Sys2Proof.Laws.Ops Sys2Proof.Proofs.Slots Sys2Proof.Proofs.IssueRules
open Sys2Proof.Proofs.MatrixTransfer

-- Claims.

/-- The slots of a mask are those of its bits below 16. -/
theorem mem_maskSlots {v : BitVec 16} {o : Nat} : o ∈ maskSlots v ↔ o < 16 ∧ v.getLsbD o = true := by
  simp [maskSlots]

/-- No slot of a mask is another wave's (R294). -/
def FreeFor (m : Matrix) (k : Nat) (v : BitVec 16) : Prop :=
  ∀ o, v.getLsbD o = true → o < 16 → ∀ j, tlook m.claims o = some j → j = k

theorem canClaim_iff {m : Matrix} {k : Nat} {v : BitVec 16} : canClaim m k v = true ↔ FreeFor m k v := by
  simp only [canClaim, List.all_eq_true, mem_maskSlots, FreeFor]
  refine ⟨fun h o hv hlt j hj => ?_, fun h o ⟨hlt, hv⟩ => ?_⟩
  · have hslot := h o ⟨hlt, hv⟩
    simp only [hj, beq_iff_eq] at hslot
    exact hslot
  · cases hj : tlook m.claims o with
    | none => rfl
    | some j => exact beq_iff_eq.mpr (h o hv hlt j hj)

theorem canClaim_eq_false {m : Matrix} {k : Nat} {v : BitVec 16} (h : ¬ FreeFor m k v) : canClaim m k v = false :=
  Bool.eq_false_iff.mpr (mt canClaim_iff.mp h)

section claims
variable {s : State} (hq : SlotOr s .seqMatrix) (sw : Bool) (r : BitVec 7)
include hq

/-- MCLM of free slots, while no claim waits, takes them at once. -/
theorem exec_mclm_takes (hfree : FreeFor (matOf s (ctx s).k) (ctx s).k (claimMask (ctx s) r))
    (hwait : (matOf s (ctx s).k).waiting = []) :
    exec (.mclm sw r) s = .next (finish (setMat s (ctx s).k
      (claimAll (matOf s (ctx s).k) (ctx s).k (claimMask (ctx s) r))) (ctx s) sw) := by
  rw [exec, execMclm]
  refine runState_ok (allowed_slotOr hq) (if_pos ?_)
  rw [canClaim_iff.mpr hfree, hwait]
  exact Bool.or_true _

theorem exec_mclmT_takes (n : BitVec 3) (hfree : FreeFor (matOf s (ctx s).k) (ctx s).k (claimMask (ctx s) r)) :
    exec (.mclmT sw n r) s = .next (finishRegs (setMat s (ctx s).k
      (claimAll (matOf s (ctx s).k) (ctx s).k (claimMask (ctx s) r))) (ctx s) sw
      fun g => writeP (ctx s) g n.toNat 0xFFFFFFFF) := by
  rw [exec, execMclmT]
  refine runState_ok (allowed_slotOr hq) ?_
  dsimp only
  rw [canClaim_iff.mpr hfree]
  rfl

theorem exec_mclmT_fails (n : BitVec 3) (hfree : ¬ FreeFor (matOf s (ctx s).k) (ctx s).k (claimMask (ctx s) r)) :
    exec (.mclmT sw n r) s = .next (finishRegs (setMat s (ctx s).k (matOf s (ctx s).k)) (ctx s) sw
      fun g => writeP (ctx s) g n.toNat 0) := by
  rw [exec, execMclmT]
  refine runState_ok (allowed_slotOr hq) ?_
  dsimp only
  rw [canClaim_eq_false hfree]
  rfl

theorem exec_mrls_releases (h : matBusy s (ctx s) { slots := maskSlots (claimMask (ctx s) r) } = false) :
    exec (.mrls sw r) s = .next (finish (setMat s (ctx s).k
      (releaseSlots (matOf s (ctx s).k) (ctx s).k (claimMask (ctx s) r))) (ctx s) sw) := by
  rw [exec, execMrls]
  exact runState_ok (allowed_slotOr hq) (if_neg (ne_true_of_eq_false h))

theorem exec_mrls_waits (h : matBusy s (ctx s) { slots := maskSlots (claimMask (ctx s) r) } = true) :
    exec (.mrls sw r) s = .next (waitWith s (ctx s) .poll) := by
  rw [exec, execMrls]
  exact runState_ok (allowed_slotOr hq) (if_pos h)
end claims

/-- Settles O32: each claim by whether its slots are free. -/
theorem slotClaims : Obligations.SlotClaims := by
  intro s sw n r
  dsimp only
  intro hq
  exact ⟨exec_mclm_takes hq sw r, exec_mclmT_takes hq sw r n, exec_mclmT_fails hq sw r n, exec_mrls_releases hq sw r,
    exec_mrls_waits hq sw r⟩

-- Accumulator instructions.

/-- A slot, and the matrix sequencer where a row-wise instruction is its too, is allowed the instruction (R280, R293). -/
theorem allowed_rows {s : State} (h : SlotOr s .seqMatrix) : allowed (.rows true) (ctx s).src = true := by
  obtain h | h := h
  · exact allowed_slot h _
  · simp [allowed, ctx, ctxOf, h]

/-- The matrix unit of the executing wave, taken by its unit (R282). -/
def ownedMat (s : State) : Matrix := { matOf s (ctx s).k with accown := (unitOf s (ctx s).k).ctxid }

theorem matOf_accTake (s : State) : matOf (accTake s (ctx s)) (ctx s).k = ownedMat s := matOf_setMat ..

section accInstr
variable {s : State} {a : Where} {rowwise : Bool} {u : MatUse} {f : Ctx → State → Except Trap State}
  (ha : allowed a (ctx s).src = true)
include ha

/-- An instruction without a type or slots of its own takes the accumulators and has its effect, where acccheck passes and the
unit is free. -/
theorem accInstr_goesOn {t : State} (hown : accOk (matOf s (ctx s).k) (unitOf s (ctx s).k).ctxid = true)
    (hbusy : matBusy s (ctx s) u = false) (hf : f (ctx s) (accTake s (ctx s)) = .ok t) :
    accInstr s a rowwise (fun _ => false) (fun _ => []) (fun _ => u) f = .next t := by
  rw [accInstr]
  refine runState_ok ha ?_
  rw [accCheck_ok hown, hbusy]
  exact hf

/-- Where acccheck fails the instruction traps with 0x0D, the unit's context in TRAPADDR (R282). -/
theorem accInstr_denied (hown : accOk (matOf s (ctx s).k) (unitOf s (ctx s).k).ctxid = false) :
    accInstr s a rowwise (fun _ => false) (fun _ => []) (fun _ => u) f =
      .next (trapped s { (if rowwise then matTrap (ctx s) 0x0D else { cause := 0x0D }) with
        addr := BitVec.ofNat 64 (unitOf s (ctx s).k).ctxid.toNat }) := by
  have hcheck : accCheck s (ctx s) rowwise = .error { (if rowwise then matTrap (ctx s) 0x0D else { cause := 0x0D }) with
      addr := (unitOf s (ctx s).k).ctxid.setWidth 64 } := if_neg (ne_true_of_eq_false hown)
  rw [accInstr, BitVec.ofNat_toNat]
  refine runState_error ha ?_
  rw [hcheck]
  rfl

/-- An effect on the matrix unit alone. -/
theorem accInstr_matEffect {sw : Bool} {g : Ctx → Matrix → Matrix}
    (hown : accOk (matOf s (ctx s).k) (unitOf s (ctx s).k).ctxid = true) (hbusy : matBusy s (ctx s) u = false) :
    accInstr s a rowwise (fun _ => false) (fun _ => []) (fun _ => u) (matEffect sw g) =
      .next (finish (setMat (accTake s (ctx s)) (ctx s).k (g (ctx s) (ownedMat s))) (ctx s) sw) :=
  accInstr_goesOn ha hown hbusy (by rw [matEffect, matOf_accTake])
end accInstr

/-- A tile that rows have been written to is live; without a row nothing changes (R297 to R299). -/
theorem rows_setLive (rows : List Nat) (m x : Matrix) (n : Nat) :
    (if rows.isEmpty then m else setLive x n true) = if rows = [] then m else { x with live := x.live ||| (1#8 <<< n) } := by
  cases rows <;> rfl

/-- MRDA of a slot reads the words of the unit that it has taken (R298). -/
theorem exec_mrda {s : State} (hs : BySlot s) (sw : Bool) (n : BitVec 3) (r : BitVec 7) (q : BitVec 2)
    (hown : accOk (matOf s (ctx s).k) (unitOf s (ctx s).k).ctxid = true)
    (hbusy : matBusy s (ctx s) { tiles := [n.toNat] } = false) :
    exec (.mrda sw n r q) s = .next (finishRegs (accTake s (ctx s)) (ctx s) sw fun g =>
      (rowsOf (ctx s)).foldl (fun g i => (List.range 8).foldl (fun g x => setV g (r.toNat + x) i
        (BitVec.ofNat 32 (tileGet (ownedMat s) n.toNat i (8 * q.toNat + x)))) g) g) := by
  rw [exec, execMrda]
  refine accInstr_goesOn (allowed_slot hs _) hown hbusy ?_
  dsimp only
  rw [matOf_accTake]

/-- Another unit owns the accumulators, with a tile live or a Tail program standing: acccheck fails (R282). -/
theorem accOk_eq_false {m : Matrix} {x : BitVec 32} (hx : m.accown ≠ x) (h0 : m.accown ≠ 0)
    (hlive : m.live ≠ 0 ∨ m.tp = true) : accOk m x = false := by
  rw [accOk, beq_false_of_ne hx, beq_false_of_ne h0]
  obtain hl | ht := hlive
  · rw [beq_false_of_ne hl]; rfl
  · rw [ht]; exact Bool.and_false _

/-- In a slot the rows of a matrix trap are the guard mask (R57). -/
theorem matTrap_slot {s : State} (h : BySlot s) (cause : Nat) :
    matTrap (ctx s) cause = { cause := cause, lanes := some (guardOf (ctx s)) } := by
  have hseq : isSeq (ctx s).src = false := h
  simp only [matTrap, rowMask, hseq, Bool.false_eq_true, if_false]

/-- Settles O33: each move by its effect on the unit that it has taken, each trap by its acccheck. -/
theorem tileMoves : Obligations.TileMoves := by
  refine ⟨fun s sw n r q => ?moves, fun s sw n r q => ?traps⟩
  case moves =>
    dsimp only
    intro hown
    refine ⟨fun hq hbusy => ⟨?_, accInstr_matEffect (allowed_slotOr hq) hown hbusy⟩,
      fun hq hbusy => accInstr_matEffect (allowed_slotOr hq) hown hbusy,
      fun hs hbusy => ⟨exec_mrda hs sw n r q hown hbusy, ?_, ?_⟩⟩
    · exact (accInstr_matEffect (allowed_rows hq) hown hbusy).trans (by rw [rows_setLive]; rfl)
    · exact (accInstr_matEffect (allowed_slot hs _) hown hbusy).trans (by rw [rows_setLive]; rfl)
    · exact (accInstr_matEffect (allowed_slot hs _) hown hbusy).trans (by rw [rows_setLive]; rfl)
  case traps =>
    dsimp only
    intro hx h0 hlive hs
    have hown := accOk_eq_false hx h0 hlive
    have hrow : ∀ {a u f}, accInstr s a true (fun _ => false) (fun _ => []) (fun _ => u) f = .next (trapped s
        { cause := 0x0D, addr := BitVec.ofNat 64 (unitOf s (ctx s).k).ctxid.toNat, lanes := some (guardOf (ctx s)) }) :=
      fun {a u f} => (accInstr_denied (allowed_slot hs a) hown).trans (by rw [if_pos rfl, matTrap_slot hs])
    exact ⟨hrow, accInstr_denied (rowwise := false) (allowed_slot hs _) hown,
      accInstr_denied (rowwise := false) (allowed_slot hs _) hown, by rw [exec, execMrda]; exact hrow, hrow, hrow⟩

end Sys2Proof.Proofs.MatrixUnit
end

section
/-! The exchanges at issue (R336, R348 to R350, R352 to R355): past its checks an exchange brings its operation to the gate of the
wave's channel, or updates its tile, or goes on; and the three instructions of a split open. -/
namespace Sys2Proof.Proofs.ExchangeIssue
open Sys2Proof Sys2Proof.Machine Sys2Proof.Safety Sys2Proof.Laws.Tables Sys2Proof.Laws.State Sys2Proof.Laws.Ops
open Sys2Proof.Proofs.MatrixTransfer

/-- A share type, no tether, no divergence, no odd V pair: the checks of R348 pass. -/
theorem shareBad_exchange {s : State} (ht : (ctx s).w.tether = false) (hd : (ctx s).w.divd = 0) {ok : Bool} (hok : ok = true)
    {fs : List (BitVec 7)} (hf : ∀ r ∈ fs, oddPair (ety s) r = false) : shareBad (ctx s) true ok fs = false := by
  have hany : fs.any (oddPair (modeEty (ctx s).rd.mode)) = false :=
    List.any_eq_false.mpr fun r hr => ne_true_of_eq_false (hf r hr)
  simp [shareBad, ht, hd, hok, hany]

/-- The channel of a wave hangs on its unit's number, width and its place in the unit (R336). -/
theorem chanOf_setWave {s u : State} {k : Nat} {w : Wave} (hunits : u.units = s.units) (hunit : w.unit = (waveAt s k).unit)
    (hid : w.waveId = (waveAt s k).waveId) : chanOf (setWave u k w) k = chanOf s k := by
  simp only [chanOf, Machine.unitOf, unitAt, waveAt_setWave, if_true, setWave_units, hunits, hunit, hid]

-- Exchanges that park their slot.

theorem gateStart_mma (t : Nat) (pix : DWord) : gateStart (.mma t) pix = min 2 (pix.toNat % 2 ^ 16) := by
  simp [gateStart, Machine.bits]

theorem gateStart_cmp (pix : DWord) : gateStart .cmp pix =
    min 14 (2 * (pix.toNat % 256) + if pix.toNat / 256 % 256 = 0 then 0 else 1) := by
  have hlow : Machine.bits pix.toNat 7 0 = pix.toNat % 256 := by simp [Machine.bits]
  have hhigh : Machine.bits pix.toNat 15 8 = pix.toNat / 256 % 256 := rfl
  rw [gateStart, hlow, hhigh]

/-- The operation is a matrix product. -/
def isMma : GateKind → Bool
  | .mma _ => true
  | _ => false

/-- The opened values that the wave holds for its matrix product; free ones where it holds none (log 5). -/
def heldShares (s u : State) : List Nat :=
  match (ctx s).w.shares with
  | some ⟨true, _, vs⟩ => vs
  | _ => cmpVals.freeWords u 1024

/-- What an exchange leaves past its checks, in the state `u` in which it has taken the accumulators where it needs them: its slot
goes on, its tile is updated, or its operation is at the gate. -/
def exchangeState (s u : State) (sw : Bool) (k : Cap) (done : Bool) (kind : GateKind) (ety d : Nat) (x y : List Nat) : State :=
  if done then finish u (ctx s) sw
  else match kind, decide (gateStart kind (ctx s).pix = 1) with
  | .mma t, true => finish (tick (setMat u (ctx s).k (mmaLand (matOf u (ctx s).k) t (heldShares s u)))) (ctx s) sw
  | _, _ => gateArrive (atGate s u (acc s 5 (.gate (isMma kind)))) (bindNo k) (chanOf s (ctx s).k) (bindRole k)
      { wave := (ctx s).k, src := (ctx s).src, kind := kind, ety := ety, d := d, x := x, y := y, grant := capHas k pREVEAL,
        pc := (ctx s).pc, sw := sw, start := gateStart kind (ctx s).pix }

/-- An exchange that is not part-way through a matrix product arrives at the gate. -/
theorem exchangeState_arrives {s : State} {kind : GateKind} {n : Nat} (hn : gateStart kind (ctx s).pix = n)
    (hmma : isMma kind = false ∨ n ≠ 1) (u : State) (sw : Bool) (k : Cap) (ety d : Nat) (x y : List Nat) :
    exchangeState s u sw k false kind ety d x y =
      gateArrive (atGate s u (acc s 5 (.gate (isMma kind)))) (bindNo k) (chanOf s (ctx s).k) (bindRole k)
        { wave := (ctx s).k, src := (ctx s).src, kind := kind, ety := ety, d := d, x := x, y := y, grant := capHas k pREVEAL,
          pc := (ctx s).pc, sw := sw, start := n } := by
  subst hn
  cases kind with
  | mma t =>
    unfold exchangeState
    rw [decide_eq_false (hmma.resolve_left Bool.noConfusion)]
    rfl
  | _ => rfl

section exchangeOp
variable {s : State} (hs : BySlot s) (hhold : ∀ e x, (ctx s).hold ≠ .gateTrap e x) (sw : Bool) {ok : Nat → Bool}
  {fs : List (BitVec 7)} {pre : Ctx → Except Trap Bool} {done : Ctx → Bool} {kind : GateKind} {ety : Nat → Nat}
  {b : BitVec 7} {d : Nat} {x y : Ctx → List Nat} {take : Ctx → State → State}
  (hbind : bindCause s (wingNoOf s (ctx s).k) (getC (ctx s).rd b.toNat) false = none)
  (hroom : countOf (ctx s).w 5 < Config.counterMax)
include hs hhold hbind hroom

theorem exchangeOp_eq (hbad : shareBad (ctx s) true (ok (modeEty (ctx s).rd.mode)) fs = false) (hpre : pre (ctx s) = .ok false)
    (hwaves : (take (ctx s) s).waves = s.waves) (hunits : (take (ctx s) s).units = s.units) :
    exchangeOp s sw ok fs b.toNat pre done kind ety d x y take =
      .next (exchangeState s (take (ctx s) s) sw (getC (ctx s).rd b.toNat) (done (ctx s)) kind
        (ety (modeEty (ctx s).rd.mode)) d (x (ctx s)) (y (ctx s))) := by
  have hfull : decide (Config.counterMax ≤ countOf (ctx s).w 5) = false := decide_eq_false (Nat.not_le.mpr hroom)
  have hwave : waveAt (take (ctx s) s) (ctx s).k = (ctx s).w := by rw [waveAt, hwaves]; rfl
  have hchan : ∀ a, chanOf (setWave (take (ctx s) s) (ctx s).k { (ctx s).w with
      counts := tput (ctx s).w.counts 5 (countOf (ctx s).w 5 + 1), accs := (ctx s).w.accs ++ [a] }) (ctx s).k =
        chanOf s (ctx s).k := fun a => chanOf_setWave hunits rfl rfl
  unfold exchangeOp exchangeState
  refine runState_ok (allowed_slot hs _) ?_
  split
  next e x heq => exact absurd heq (hhold e x)
  rw [hbad, hpre]
  simp only [trapIf, bind, Except.bind, opC, hbind, hfull, Bool.false_eq_true, if_false, Bool.or_self, hwave, hchan]
  cases hdone : done (ctx s) with
  | true => rfl
  | false =>
    cases kind with
    | mma t => cases hstart : decide (gateStart (.mma t) (ctx s).pix = 1) <;> rfl
    | _ => rfl

variable (ht : (ctx s).w.tether = false) (hd : (ctx s).w.divd = 0)
include ht hd

/-- An exchange of vector registers, of a type that it takes, without a check of its own: it reaches the gate with the progress
that its PIX gives. -/
theorem exchangeOp_arrives {n : Nat} (hok : ok (Safety.ety s) = true) (hodd : ∀ r ∈ fs, oddPair (Safety.ety s) r = false)
    (hdone : done (ctx s) = false) (hn : gateStart kind (ctx s).pix = n) (hmma : isMma kind = false) :
    exchangeOp s sw ok fs b.toNat (fun _ => .ok false) done kind ety d x y (fun _ s => s) =
      .next (gateArrive (atGate s s (acc s 5 (.gate false))) (bindNo (getC (ctx s).rd b.toNat)) (chanOf s (ctx s).k)
        (bindRole (getC (ctx s).rd b.toNat))
        { wave := (ctx s).k, src := (ctx s).src, kind := kind, ety := ety (Safety.ety s), d := d, x := x (ctx s), y := y (ctx s),
          grant := capHas (getC (ctx s).rd b.toNat) pREVEAL, pc := (ctx s).pc, sw := sw, start := n }) := by
  rw [exchangeOp_eq hs hhold sw hbind hroom (shareBad_exchange ht hd hok hodd) rfl rfl rfl, hdone,
    exchangeState_arrives hn (.inl hmma), hmma]
  rfl

/-- SHCMP with all its rounds done goes on. -/
theorem exec_shcmp_done {d a : BitVec 7} (hety : Safety.ety s = 0x10) (hpix : 7 ≤ (ctx s).pix.toNat % 256) :
    exec (.shcmp sw d a b) s = .next (finish s (ctx s) sw) := by
  rw [exec, execShcmp]
  have hok : (Safety.ety s == 0x10) = true := beq_iff_eq.mpr hety
  refine (exchangeOp_eq hs hhold sw hbind hroom (shareBad_exchange ht hd hok (List.forall_mem_nil _)) rfl rfl rfl).trans ?_
  have hdone : decide (7 ≤ Machine.bits (ctx s).pix.toNat 7 0) = true := decide_eq_true (by simpa [Machine.bits] using hpix)
  rw [hdone]
  rfl

section shmma
variable {n : BitVec 3} {sa sb : BitVec 4} (hety : Safety.ety s = 0x10) (hsty : sty s = 0x10)
  (hown : accOk (matOf s (ctx s).k) (unitOf s (ctx s).k).ctxid = true)
  (hca : claimedBy (matOf s (ctx s).k) (ctx s).k sa.toNat = true) (hcb : claimedBy (matOf s (ctx s).k) (ctx s).k sb.toNat = true)
  (hbusy : matBusy s (ctx s) { slots := [sa.toNat, sb.toNat], tiles := [n.toNat] } = false)
include hety hsty hown hca hcb hbusy

/-- The words of a slot as the elements of a matrix of shares. -/
def slotShares (s : State) (o : BitVec 4) : List Nat :=
  (List.range 512).map fun i => slotElem (matOf s (ctx s).k) o.toNat 4 (4 * i)

theorem exec_shmma : exec (.shmma sw n sa sb b) s =
    .next (exchangeState s (accTake s (ctx s)) sw (getC (ctx s).rd b.toNat) (decide (2 ≤ (ctx s).pix.toNat % 2 ^ 16))
      (.mma n.toNat) 0x10 0 (slotShares s sa) (slotShares s sb)) := by
  have hok : (Safety.ety s == 0x10) = true := beq_iff_eq.mpr hety
  have hsty' : (modeSty (ctx s).rd.mode != 0x10) = false := bne_eq_false_iff_eq.mpr hsty
  have hmid : matMidway s (alcOf (ctx s).k) (ctx s).k (ctx s).src = false := by
    rw [matBusy] at hbusy
    exact (Bool.or_eq_false_iff.mp hbusy).2
  have hpix : Machine.bits (ctx s).pix.toNat 15 0 = (ctx s).pix.toNat % 2 ^ 16 := by simp [Machine.bits]
  rw [exec, execShmma]
  refine (exchangeOp_eq hs hhold sw hbind hroom (shareBad_exchange ht hd hok (List.forall_mem_nil _)) ?_ rfl rfl).trans ?_
  · rw [hsty', accCheck_ok hown, hca, hcb, hbusy, hmid]
    rfl
  · rw [hpix]
    rfl

theorem exec_shmma_arrives (hpix : (ctx s).pix.toNat % 2 ^ 16 = 0) : exec (.shmma sw n sa sb b) s =
    .next (gateArrive (atGate s (accTake s (ctx s)) (acc s 5 (.gate true))) (bindNo (getC (ctx s).rd b.toNat))
      (chanOf s (ctx s).k) (bindRole (getC (ctx s).rd b.toNat))
      { wave := (ctx s).k, src := (ctx s).src, kind := .mma n.toNat, ety := 0x10, d := 0, x := slotShares s sa,
        y := slotShares s sb, grant := capHas (getC (ctx s).rd b.toNat) pREVEAL, pc := (ctx s).pc, sw := sw }) := by
  have hstart : gateStart (.mma n.toNat) (ctx s).pix = 0 := by rw [gateStart_mma, hpix]; rfl
  rw [exec_shmma hs hhold sw hbind hroom ht hd hety hsty hown hca hcb hbusy, hpix]
  exact congrArg _ (exchangeState_arrives hstart (.inr Nat.zero_ne_one) ..)

theorem exec_shmma_updates {id : Nat} {vs : List Nat} (hpix : (ctx s).pix.toNat % 2 ^ 16 = 1)
    (hshares : (ctx s).w.shares = some ⟨true, id, vs⟩) : exec (.shmma sw n sa sb b) s =
    .next (finish (tick (setMat (accTake s (ctx s)) (ctx s).k (mmaLand (matOf (accTake s (ctx s)) (ctx s).k) n.toNat vs)))
      (ctx s) sw) := by
  have hstart : gateStart (.mma n.toNat) (ctx s).pix = 1 := by rw [gateStart_mma, hpix]; rfl
  rw [exec_shmma hs hhold sw hbind hroom ht hd hety hsty hown hca hcb hbusy, hpix]
  unfold exchangeState heldShares
  rw [hstart, hshares]
  rfl

theorem exec_shmma_done (hpix : 2 ≤ (ctx s).pix.toNat % 2 ^ 16) :
    exec (.shmma sw n sa sb b) s = .next (finish (accTake s (ctx s)) (ctx s) sw) := by
  rw [exec_shmma hs hhold sw hbind hroom ht hd hety hsty hown hca hcb hbusy, decide_eq_true hpix]
  rfl
end shmma
end exchangeOp

-- Split opens.

section splitOpen
variable {s : State} (hs : BySlot s) (sw : Bool) {a b : BitVec 7}
  (hbind : bindCause s (wingNoOf s (ctx s).k) (getC (ctx s).rd b.toNat) false = none) (ht : (ctx s).w.tether = false)
include hs hbind ht

section shopn
variable (hd : (ctx s).w.divd = 0) (hshare : isShare (ety s) = true) (hodd : ∀ r ∈ [a], oddPair (ety s) r = false)
include hd hshare hodd

/-- The wave of a SHOPN with role 0: one more access on SHX, and the open pending (R350). -/
def openWave (s : State) (a b : BitVec 7) : Wave :=
  { (ctx s).w with
    counts := tput (ctx s).w.counts 5 (countOf (ctx s).w 5 + 1), accs := (ctx s).w.accs ++ [acc s 5 (.gate false)]
    pending := some { binding := bindNo (getC (ctx s).rd b.toNat), kind := ety s,
                      x := (List.range 32).map (laneGet (ctx s).rd (ety s) a.toNat), pc := (ctx s).pc } }

theorem exec_shopn_opens (hroom : countOf (ctx s).w 5 < Config.counterMax) (hp : (ctx s).w.pending = none) :
    exec (.shopn sw a b false) s = .next (finish (setWave s (ctx s).k (openWave s a b)) (ctx s) sw) := by
  have hbad : shareBad (ctx s) true (tShare (modeEty (ctx s).rd.mode)) [a] = false := shareBad_exchange ht hd hshare hodd
  rw [exec, execShopn]
  refine runState_ok (allowed_slot hs _) ?_
  dsimp only [opC]
  rw [hbad, hp, hbind]
  exact if_neg (Nat.not_le.mpr hroom)

theorem exec_shopn_completes {p : PendingOpen} (hp : (ctx s).w.pending = some p) (hst : p.stage = .waitY)
    (hk : p.kind = ety s) : exec (.shopn sw a b true) s = .next (gateArrive
      (finish (setWave s (ctx s).k { (ctx s).w with pending := some { p with
        y := (List.range 32).map (laneGet (ctx s).rd (ety s) a.toNat), stage := .atGate } }) (ctx s) sw)
      p.binding (chanOf s (ctx s).k) (bindRole (getC (ctx s).rd b.toNat))
      { wave := (ctx s).k, src := (ctx s).src, kind := .open2, ety := ety s, d := 0, x := p.x,
        y := (List.range 32).map (laneGet (ctx s).rd (ety s) a.toNat), grant := false, pc := p.pc, sw := sw }) := by
  have hkind : (p.kind == modeEty (ctx s).rd.mode) = true := beq_iff_eq.mpr hk
  have hchan : ∀ q, chanOf (setWave s (ctx s).k { (ctx s).w with pending := some q }) (ctx s).k = chanOf s (ctx s).k :=
    fun q => chanOf_setWave rfl rfl rfl
  have hbad : shareBad (ctx s) true (tShare (modeEty (ctx s).rd.mode)) [a] = false := shareBad_exchange ht hd hshare hodd
  rw [exec, execShopn]
  refine runState_ok (allowed_slot hs _) ?_
  dsimp only [opC]
  rw [hbad, hp, hbind]
  simp only [hst, hkind, hchan]
  rfl
end shopn

/-- The wave of a SHRCV before it goes on: the opened value in its register, and the record current where both values have been
taken (R350). -/
def receiveWave (s : State) (d : BitVec 7) (p : PendingOpen) (dv ev : List Nat) (second : Bool) : Wave :=
  let p := if second then { p with gotE := true } else { p with gotD := true }
  let vs := if second then ev else dv
  let w := { (ctx s).w with regs := keepWindow (ctx s).w (landLanes (ety s) d.toNat vs (ctx s).w.regs (lanesOf (ctx s).w.live)) }
  if p.gotD && p.gotE then { w with pending := none, current := some { kind := ety s, bytes := p.recBytes } }
  else { w with pending := some p }

theorem exec_shrcv {d : BitVec 7} {p : PendingOpen} {dv ev : List Nat} (second : Bool)
    (hok : isShare (ety s) = true ∧ ∀ r ∈ [d], oddPair (ety s) r = false) (hp : (ctx s).w.pending = some p)
    (hk : p.kind = ety s) (hst : p.stage = .opened dv ev) :
    exec (.shrcv sw d b second) s =
      .next (setWave s (ctx s).k (advance (ctx s) sw (receiveWave s d p dv ev second))) := by
  have hkind : (p.kind != modeEty (ctx s).rd.mode) = false := bne_eq_false_iff_eq.mpr hk
  have hbad : shareBad (ctx s) false (tShare (modeEty (ctx s).rd.mode)) [d] = false := ShareLocal.shareBad_ok ht hok
  obtain ⟨binding, kind, x, y, pc, stage, gotD, gotE, recBytes⟩ := p
  obtain rfl : stage = .opened dv ev := hst
  rw [exec, execShrcv]
  refine runState_ok (allowed_slot hs _) ?_
  dsimp only [opC]
  rw [hbad, hp]
  simp only [hkind, hbind]
  rfl
end splitOpen

/-- The state that a SHOPN with role 0 leaves has its access issued and its open pending. -/
theorem opened_issued (s : State) (sw : Bool) (a b : BitVec 7) :
    let u := finish (setWave s (ctx s).k (openWave s a b)) (ctx s) sw
    Issued s u (acc s 5 (.gate false)) ∧ (waveAt u (ctx s).k).pending = (openWave s a b).pending := by
  have hwave : waveAt (finish (setWave s (ctx s).k (openWave s a b)) (ctx s) sw) (ctx s).k =
      advance (ctx s) sw (openWave s a b) := by simp [finish]
  obtain ⟨haccs, hcounts, -⟩ := advance_accs (ctx s) sw (openWave s a b)
  dsimp only
  refine ⟨⟨⟨0, [], ?_⟩, ?_, ?_, ?_, ?_, fun j hj => ?_, ⟨rfl, rfl, rfl, rfl, rfl⟩⟩, ?_⟩
  · rw [hwave, haccs]; rfl
  · rw [hwave, countOf, hcounts]
    exact (tget_tput ..).trans (if_pos rfl)
  · rw [hwave, advance_pc]
  · rw [hwave]
    cases hs : (ctx s).src <;> simp [advance, srcDix, hs, isSeq, putSeq, putSlot, seqOf, slotOf]
  · rw [hwave]
    have hlive : (ctx s).live = srcLive (ctx s).w (ctx s).src := rfl
    rw [hlive]
    cases hs : (ctx s).src <;> simp [advance, srcLive, hs, isSeq, putSeq, putSlot, seqOf, openWave]
  · simp [finish, Ne.symm hj]
  · rw [hwave]
    cases hs : (ctx s).src <;> simp [advance, hs, isSeq, putSeq, putSlot]

/-- A wave that has received an opened value, past its instruction. -/
theorem received (s : State) (sw : Bool) (d : BitVec 7) (p : PendingOpen) (dv ev : List Nat) (second : Bool) :
    let w := waveAt (setWave s (ctx s).k (advance (ctx s) sw (receiveWave s d p dv ev second))) (ctx s).k
    srcPc w (ctx s).src = (ctx s).pc + 4 ∧
    w.regs = keepWindow (ctx s).w
      (landLanes (ety s) d.toNat (if second then ev else dv) (ctx s).w.regs (lanesOf (ctx s).w.live)) ∧
    ((if second then p.gotD else p.gotE) = true →
      w.pending = none ∧ w.current = some { kind := ety s, bytes := p.recBytes }) := by
  dsimp only
  rw [waveAt_setWave, if_pos rfl]
  refine ⟨advance_pc .., ?_, fun hgot => ?_⟩
  · simp only [advance_regs, receiveWave, apply_ite Wave.regs, ite_self]
  · have hboth : receiveWave s d p dv ev second = { (ctx s).w with
        regs := keepWindow (ctx s).w (landLanes (ety s) d.toNat (if second then ev else dv) (ctx s).w.regs (lanesOf (ctx s).w.live))
        pending := none, current := some { kind := ety s, bytes := p.recBytes } } := by
      cases second <;> simp_all [receiveWave]
    rw [hboth]
    cases hs : (ctx s).src <;> simp [advance, hs, isSeq, putSeq, putSlot]

/-- Settles O38: each exchange by its arrival at the gate, and the split open by its three instructions. -/
theorem exchangesArrive : Obligations.ExchangesArrive := by
  intro s sw d a b n sa sb
  dsimp only
  intro hs ht hhold hbind hroom
  refine ⟨fun hd => ⟨fun ⟨hshare, hodd⟩ => ?mul, ?btr, fun hety hpix => ?cmp, fun hety hpix => ?cmpDone, fun ⟨hshare, hodd⟩ => ?reveal,
    fun ⟨hshare, hodd⟩ => ?revealR, fun hety hsty hown hca hcb hbusy => ⟨fun hpix => ?mma, fun id vs hpix hshares => ?mmaHeld,
      fun hpix => ?mmaDone⟩, fun ⟨hshare, hodd⟩ hp => ?opens, fun p ⟨hshare, hodd⟩ hp hst hk => ?completes⟩,
    fun p dv ev second hok hp hk hst => ?receives⟩
  case mul =>
    rw [exec, execShmul]
    exact exchangeOp_arrives hs hhold sw hbind hroom ht hd hshare hodd rfl rfl rfl
  case btr =>
    rw [exec, execShbtr]
    exact exchangeOp_arrives hs hhold sw hbind hroom ht hd rfl (List.forall_mem_nil _) rfl rfl rfl
  case cmp =>
    have hgo : decide (7 ≤ Machine.bits (ctx s).pix.toNat 7 0) = false := decide_eq_false (by simpa [Machine.bits] using hpix)
    rw [exec, execShcmp]
    exact exchangeOp_arrives hs hhold sw hbind hroom ht hd (beq_iff_eq.mpr hety) (List.forall_mem_nil _) hgo
      (gateStart_cmp _) rfl
  case cmpDone => exact exec_shcmp_done hs hhold sw hbind hroom ht hd hety hpix
  case reveal =>
    rw [exec, execShrvl]
    exact exchangeOp_arrives hs hhold sw hbind hroom ht hd hshare hodd rfl rfl rfl
  case revealR =>
    rw [exec, execShrvlR]
    exact exchangeOp_arrives hs hhold sw hbind hroom ht hd hshare hodd rfl rfl rfl
  case mma => exact exec_shmma_arrives hs hhold sw hbind hroom ht hd hety hsty hown hca hcb hbusy hpix
  case mmaHeld => exact exec_shmma_updates hs hhold sw hbind hroom ht hd hety hsty hown hca hcb hbusy hpix hshares
  case mmaDone => exact exec_shmma_done hs hhold sw hbind hroom ht hd hety hsty hown hca hcb hbusy hpix
  case opens =>
    obtain ⟨hissued, hpending⟩ := opened_issued s sw a b
    exact ⟨_, exec_shopn_opens hs sw hbind ht hd hshare hodd hroom hp, hissued, hpending⟩
  case completes => exact exec_shopn_completes hs sw hbind ht hd hshare hodd hp hst hk
  case receives => exact ⟨_, exec_shrcv hs sw hbind ht second hok hp hk hst, received ..⟩

end Sys2Proof.Proofs.ExchangeIssue
end

section
/-! The Turnstile's channels (R336, R339, R343, R354, R355): how operations pair, what the completion of a paired exchange does to
each party, and the algebra of triples (R338, R344). -/
namespace Sys2Proof.Proofs.ExchangeCompletion
open Sys2Proof Sys2Proof.Machine Sys2Proof.Safety Sys2Proof.Laws.Tables Sys2Proof.Laws.State
open Sys2Proof.Proofs.DirtyLog Sys2Proof.Proofs.MatrixTransfer Sys2Proof.Proofs.Conversion Sys2Proof.Proofs.Slots

-- Channels, pools and pairing.

@[simp] theorem chanAt_setChan (s : State) (b ch : Nat) (x : Channel) : chanAt (bindAt (setChan s b ch x) b) ch = x := by
  simp [chanAt, setChan, tget_tput]

@[simp] theorem bindAt_setChan_suspended (s : State) (b ch : Nat) (x : Channel) :
    (bindAt (setChan s b ch x) b).suspended = (bindAt s b).suspended := by
  simp [setChan]

@[simp] theorem poolAt_setChan (s : State) (b ch : Nat) (x : Channel) (p kind : Nat) :
    poolAt (bindAt (setChan s b ch x) b) p kind = poolAt (bindAt s b) p kind := by
  simp [poolAt, setChan]

theorem poolAt_setPool (bd : Binding) (p kind : Nat) (x : Pool) (q : Nat) :
    poolAt (setPool bd p kind x) q kind = if p = q then x else poolAt bd q kind := by
  simp only [poolAt, setPool, tget_tput]
  congr 1
  simp only [eq_iff_iff]
  omega

/-- Where one party has nothing that waits, no operation pairs. -/
theorem gateMatch_unmatched {s : State} {b ch : Nat}
    (h : (chanAt (bindAt s b) ch).wait0 = [] ∨ (chanAt (bindAt s b) ch).wait1 = []) (n : Nat) : gateMatch s b ch n = s := by
  cases n with
  | zero => rfl
  | succ n =>
    rw [gateMatch]
    split
    next _ _ _ _ _ h0 h1 => simp [h0, h1] at h
    next => rfl

/-- A channel in which an operation has joined the list of a party. -/
def joined (x : Channel) (p : Nat) (o : GateOp) : Channel :=
  if p = 0 then { x with cnt0 := x.cnt0 + 1, wait0 := x.wait0 ++ [o] } else { x with cnt1 := x.cnt1 + 1, wait1 := x.wait1 ++ [o] }

/-- An operation that no void answers joins its party's list, and the channel pairs what it can. -/
theorem gateArrive_joins {s : State} {b ch : Nat} (h0 : (chanAt (bindAt s b) ch).void0 = 0) (h1 : (chanAt (bindAt s b) ch).void1 = 0)
    (p : Nat) (o : GateOp) :
    let y := joined (chanAt (bindAt s b) ch) p { o with late := (bindAt s b).suspended }
    gateArrive s b ch p o = gateMatch (setChan s b ch y) b ch (y.wait0.length + y.wait1.length) := by
  by_cases hp : p = 0 <;> simp [gateArrive, joined, hp, h0, h1]

/-- Two reveals of one type, each receiver granted, are paired. -/
theorem gatePair_reveals {o q : GateOp} {ro rq : Bool} (ho : o.dead = false) (hq : q.dead = false) (hko : o.kind = .reveal ro)
    (hkq : q.kind = .reveal rq) (hety : o.ety = q.ety) (hrecv : ro = true ∨ rq = true) (hgo : ro = true → o.grant = true)
    (hgq : rq = true → q.grant = true) (s : State) (b ch : Nat) : gatePair s b ch o q =
      setChan s b ch { chanAt (bindAt s b) ch with paired := (chanAt (bindAt s b) ch).paired ++ [{ op0 := o, op1 := q }] } := by
  have hgrant : ¬ ((!ro && !rq) || (ro && !o.grant) || (rq && !q.grant)) = true := by
    cases ro <;> cases rq <;> simp_all
  simp only [gatePair, ho, hq, gateSame, hko, hkq, hety, gateRec, if_neg hgrant]
  simp

/-- An operation that finds the same reveal of the peer is paired with it (R336, R347). -/
theorem gateArrive_paired {s : State} {b ch : Nat} {o q : GateOp} {ro rq : Bool} (hon : (bindAt s b).suspended = false)
    (h0 : (chanAt (bindAt s b) ch).void0 = 0) (h1 : (chanAt (bindAt s b) ch).void1 = 0)
    (hw0 : (chanAt (bindAt s b) ch).wait0 = []) (hw1 : (chanAt (bindAt s b) ch).wait1 = [q])
    (ho : o.dead = false) (hq : q.dead = false) (hko : o.kind = .reveal ro)
    (hkq : q.kind = .reveal rq) (hety : o.ety = q.ety) (hrecv : ro = true ∨ rq = true) (hgo : ro = true → o.grant = true)
    (hgq : rq = true → q.grant = true) : (chanAt (bindAt (gateArrive s b ch 0 o) b) ch).paired =
      (chanAt (bindAt s b) ch).paired ++ [{ op0 := { o with late := false }, op1 := q }] := by
  rw [gateArrive_joins h0 h1]
  simp only [joined, hw0, hw1, hon, List.nil_append, if_true]
  rw [List.length_singleton, List.length_singleton, gateMatch]
  simp only [chanAt_setChan, bindAt_setChan_suspended, hon]
  rw [gatePair_reveals (o := { o with late := false }) ho hq hko hkq hety hrecv hgo hgq, gateMatch_unmatched (by simp)]
  simp

-- What completion does to one party's wave.

/-- The parts of a wave that the end of an access leaves. -/
def gateView (w : Wave) := (w.regs, w.a, w.b, w.frame, w.tethSlot, w.live, w.unit, w.pending)

theorem gateView_completeRun (w : Wave) (path n : Nat) : gateView (completeRun w path n) = gateView w := by
  induction n generalizing w with
  | zero => rfl
  | succ n ih =>
    have hc : gateView (completeAcc w path) = gateView w := by
      rw [completeAcc]
      split <;> rfl
    rw [completeRun]
    split
    · rw [ih, hc]
    · rfl

/-- One party's result changes its wave and the matrix unit of its alcove, and nothing else. -/
structure GateKept (k : Nat) (s t : State) : Prop where
  bindings : t.bindings = s.bindings
  units : t.units = s.units
  wings : t.wings = s.wings
  home : ∀ a, (alcAt t a).wing = (alcAt s a).wing
  waves : ∀ j, j ≠ k → waveAt t j = waveAt s j
  mats : ∀ j, alcOf j ≠ alcOf k → matOf t j = matOf s j

theorem GateKept.trans {k : Nat} {s t u : State} (h : GateKept k s t) (h' : GateKept k t u) : GateKept k s u where
  bindings := h'.bindings.trans h.bindings
  units := h'.units.trans h.units
  wings := h'.wings.trans h.wings
  home a := (h'.home a).trans (h.home a)
  waves j hj := (h'.waves j hj).trans (h.waves j hj)
  mats j hj := (h'.mats j hj).trans (h.mats j hj)

theorem gateKept_refl (k : Nat) (s : State) : GateKept k s s := ⟨rfl, rfl, rfl, fun _ => rfl, fun _ _ => rfl, fun _ _ => rfl⟩

theorem gateKept_setWave (k : Nat) (s : State) (w : Wave) : GateKept k s (setWave s k w) where
  bindings := rfl
  units := rfl
  wings := rfl
  home _ := rfl
  waves j hj := by rw [waveAt_setWave, if_neg (Ne.symm hj)]
  mats _ _ := rfl

theorem gateKept_setMat (k : Nat) (s : State) (m : Matrix) : GateKept k s (setMat s k m) where
  bindings := rfl
  units := rfl
  wings := rfl
  home a := by
    rw [setMat, alcAt_setAlc]
    split
    next h => rw [← h]
    next => rfl
  waves _ _ := rfl
  mats j hj := by rw [matOf, setMat, alcAt_setAlc, if_neg (Ne.symm hj)]; rfl

/-- The operation's wave stands in its alcove. -/
def Here (s : State) (o : GateOp) : Prop :=
  o.img = none ∧ ∀ w, (alcAt s (alcOf o.wave)).wing = some w → (wingAt s w).run ≠ .swapped

theorem onOp_here {s : State} {o : GateOp} (h : Here s o) (f : State → State) : onOp s o f = f s := by
  obtain ⟨himg, hrun⟩ := h
  simp only [onOp, himg, onWave]
  split
  next w hw => simp [onContext, hrun w hw]
  next => rfl

/-- The operation's wave waits at its instruction, in a slot, outside a handler and without a tether. -/
def AtInstr (s : State) (o : GateOp) : Prop :=
  (waveAt s o.wave).frame = none ∧ (waveAt s o.wave).tethSlot = none ∧ isSeq o.src = false ∧
    (slotOf (waveAt s o.wave) o.src).pc = o.pc

/-- The slot has gone past its instruction, and a result has landed in the registers. -/
def Lands (s t : State) (o : GateOp) (f : RegFile → List Nat → RegFile) : Prop :=
  srcPc (waveAt t o.wave) o.src = o.pc + 4 ∧
    (waveAt t o.wave).regs = f (waveAt s o.wave).regs (lanesOf (waveAt s o.wave).live)

theorem srcPc_putSlot {x : Src} (h : isSeq x = false) (w : Wave) (y : Slot) : srcPc (putSlot w x y) x = y.pc := by
  rw [srcPc, if_neg (Bool.not_eq_true _ ▸ h), slotOf_putSlot_self]

theorem gateKept_endGateCount (s : State) (o : GateOp) (pc : DWord) : GateKept o.wave s (endGateCount s o pc) := gateKept_setWave ..

theorem gateView_endGateCount (s : State) (o : GateOp) (pc : DWord) :
    gateView (waveAt (endGateCount s o pc) o.wave) = gateView (waveAt s o.wave) := by
  rw [endGateCount, waveAt_setWave, if_pos rfl]
  exact gateView_completeRun ..

theorem gateLand_lands {s : State} {o : GateOp} (h : AtInstr s o) (f : RegFile → List Nat → RegFile) :
    GateKept o.wave s (gateLand s o f) ∧ Lands s (gateLand s o f) o f ∧
      matOf (gateLand s o f) o.wave = matOf s o.wave := by
  obtain ⟨hframe, hteth, hseq, hpc⟩ := h
  have hview := gateView_endGateCount s o o.pc
  simp only [gateView, Prod.mk.injEq] at hview
  obtain ⟨hregs, ha, hb, hf, ht, hlive, -, -⟩ := hview
  rw [hframe] at hf
  rw [hteth] at ht
  simp only [gateLand, gateInFrame, hf, Option.isSome_none, Bool.false_and, Bool.false_eq_true, if_false]
  refine ⟨(gateKept_endGateCount s o o.pc).trans (gateKept_setWave ..), ⟨?_, ?_⟩, rfl⟩
  · rw [waveAt_setWave, if_pos rfl, srcPc_putSlot hseq]
    refine congrArg (· + 4) ((congrArg Slot.pc (slotOf_congr (v := waveAt s o.wave) ?_ ?_ o.src)).trans hpc)
    · exact ha
    · exact hb
  · rw [waveAt_setWave, if_pos rfl, putSlot_regs, hregs, hlive]
    simp [keepWindow, ht]

-- One party's end of a completed exchange.

/-- The party's operation and its record bytes. -/
def partyOp (e : Exchange) (p : Nat) : GateOp := if p = 0 then e.op0 else e.op1
def partyRec (e : Exchange) (p : Nat) : List Byte := if p = 0 then e.rec0 else e.rec1

@[simp] theorem partyOp_zero (e : Exchange) : partyOp e 0 = e.op0 := rfl
@[simp] theorem partyOp_one (e : Exchange) : partyOp e 1 = e.op1 := rfl

/-- Element `k` of a lane of a vector record, of `z` bytes (R338). -/
def laneElem (r : List Byte) (z k l : Nat) : Nat := recElem r (16 + 32 * z * k + z * l) z

/-- The opened values of a lane: of the first operand and of the second (R343). -/
def laneD (e : Exchange) (n l : Nat) : Nat :=
  opened n (nth 0 e.op0.x l) (laneElem e.rec0 (n / 8) 0 l) (nth 0 e.op1.x l) (laneElem e.rec1 (n / 8) 0 l)
def laneE (e : Exchange) (n l : Nat) : Nat :=
  opened n (nth 0 e.op0.y l) (laneElem e.rec0 (n / 8) 1 l) (nth 0 e.op1.y l) (laneElem e.rec1 (n / 8) 1 l)

/-- The opened words of a lane of a BIT record (R346). -/
def laneEps (e : Exchange) (l : Nat) : Nat := nth 0 e.op0.x l ^^^ laneElem e.rec0 4 0 l ^^^ nth 0 e.op1.x l ^^^ laneElem e.rec1 4 0 l
def laneRho (e : Exchange) (l : Nat) : Nat := nth 0 e.op0.y l ^^^ laneElem e.rec0 4 1 l ^^^ nth 0 e.op1.y l ^^^ laneElem e.rec1 4 1 l

theorem openLanes_x (e : Exchange) (n : Nat) :
    openLanes n (n / 8) 16 e.op0.x e.op1.x e.rec0 e.rec1 = (List.range 32).map (laneD e n) :=
  List.map_congr_left fun l _ => by simp only [laneD, laneElem, Nat.mul_zero, Nat.add_zero]

theorem openLanes_y (e : Exchange) (n : Nat) :
    openLanes n (n / 8) (16 + 32 * (n / 8)) e.op0.y e.op1.y e.rec0 e.rec1 = (List.range 32).map (laneE e n) :=
  List.map_congr_left fun l _ => by simp only [laneE, laneElem, Nat.mul_one]

theorem mulLanes_eq (n p : Nat) (r : List Byte) (d e : Nat → Nat) :
    mulLanes n p r ((List.range 32).map d) ((List.range 32).map e) = (List.range 32).map fun l =>
      mulShare n p (laneElem r (n / 8) 0 l) (laneElem r (n / 8) 1 l) (laneElem r (n / 8) 2 l) (d l) (e l) := by
  refine List.map_congr_left fun l hl => ?_
  have hlane := List.mem_range.mp hl
  have htwo : 16 + 64 * (n / 8) = 16 + 32 * (n / 8) * 2 := by omega
  simp only [nth_map_range 0 _ hlane, laneElem, htwo, Nat.mul_zero, Nat.add_zero, Nat.mul_one]

/-- What the completion of an exchange leaves for a party (R339, R343, R346, R350, R352 to R355). -/
def Outcome (s t : State) (e : Exchange) (p : Nat) : Prop :=
  let o := partyOp e p
  let r := partyRec e p
  let n := widthOf o.ety
  match o.kind with
  | .open2 => ∀ pd, (waveAt s o.wave).pending = some pd → (waveAt t o.wave).pending =
      some { pd with stage := .opened ((List.range 32).map (laneD e n)) ((List.range 32).map (laneE e n)), recBytes := r }
  | .mul => Lands s t o (landLanes o.ety o.d ((List.range 32).map fun l =>
      mulShare n p (laneElem r (n / 8) 0 l) (laneElem r (n / 8) 1 l) (laneElem r (n / 8) 2 l) (laneD e n l) (laneE e n l)))
  | .btr => Lands s t o (landLanes 1 o.d ((List.range 32).map fun l =>
      andShare p (laneElem r 4 0 l) (laneElem r 4 1 l) (laneElem r 4 2 l) (laneEps e l) (laneRho e l)))
  | .cmp => Lands s t o (landLanes 0x10 o.d (cmpLanes e p))
  | .reveal recv => Lands s t o (if recv then
      landLanes o.ety o.d ((List.range 32).map fun l => (nth 0 e.op0.x l + nth 0 e.op1.x l) % 2 ^ n) else fun r _ => r)
  | .mma m => Lands s t o (fun r _ => r) ∧
      matOf t o.wave = mmaLand { matOf s o.wave with accown := (unitOf s o.wave).ctxid } m (mmaLanes e p)

/-- A party's operation that can complete: its wave stands where it waits, the exchange starts at its first step, and a matrix product
passes acccheck. -/
def Completes (s : State) (o : GateOp) : Prop :=
  Here s o ∧ (o.kind ≠ .open2 → AtInstr s o) ∧
    ∀ m, o.kind = .mma m → accOk (matOf s o.wave) (unitOf s o.wave).ctxid = true

/-- Taking the shares of a product into its wave leaves the wave at its instruction. -/
theorem lands_of_shares {s t : State} {o : GateOp} {x : Option ShareCtx} {f : RegFile → List Nat → RegFile}
    (h : Lands (setWave s o.wave { waveAt s o.wave with shares := x }) t o f) : Lands s t o f := by
  simpa [Lands] using h

theorem atInstr_shares {s : State} {o : GateOp} (h : AtInstr s o) (x : Option ShareCtx) :
    AtInstr (setWave s o.wave { waveAt s o.wave with shares := x }) o := by
  obtain ⟨hframe, hteth, hseq, hpc⟩ := h
  simp only [AtInstr, waveAt_setWave, if_true]
  exact ⟨hframe, hteth, hseq, (congrArg Slot.pc (slotOf_congr rfl rfl o.src)).trans hpc⟩

theorem unitOf_shares (s : State) (k : Nat) (x : Option ShareCtx) :
    Machine.unitOf (setWave s k { waveAt s k with shares := x }) k = Machine.unitOf s k := by
  simp only [Machine.unitOf, waveAt_setWave, if_true]
  rfl

theorem mmaFinish_lands {s : State} {o : GateOp} (h : AtInstr s o) (hacc : accOk (matOf s o.wave) (unitOf s o.wave).ctxid = true)
    (m : Nat) (vals : List Nat) : GateKept o.wave s (mmaFinish s o m vals) ∧ Lands s (mmaFinish s o m vals) o (fun r _ => r) ∧
      matOf (mmaFinish s o m vals) o.wave = mmaLand { matOf s o.wave with accown := (unitOf s o.wave).ctxid } m vals := by
  have hset := gateKept_setMat o.wave s (mmaLand { matOf s o.wave with accown := (unitOf s o.wave).ctxid } m vals)
  simp only [mmaFinish, hacc, if_true]
  obtain ⟨hkept, hlands, hmat⟩ := gateLand_lands (s := setMat s o.wave _) h fun r _ => r
  exact ⟨hset.trans hkept, hlands, hmat.trans (matOf_setMat ..)⟩

theorem gateResult_outcome {s : State} {e : Exchange} {p : Nat} (h : Completes s (partyOp e p))
    (hs : (partyOp e p).kind = .cmp → e.op0.start = 0 ∧ e.op1.start = 0) :
    GateKept (partyOp e p).wave s (gateResult s e p) ∧ Outcome s (gateResult s e p) e p := by
  obtain ⟨hhere, hat, hacc⟩ := h
  have hop : (if p = 0 then e.op0 else e.op1) = partyOp e p := rfl
  have hrec : (if p = 0 then e.rec0 else e.rec1) = partyRec e p := rfl
  simp only [gateResult, hop, hrec, onOp_here hhere, Outcome, openLanes_x, openLanes_y, mulLanes_eq]
  have land (f : RegFile → List Nat → RegFile) (hk : (partyOp e p).kind ≠ .open2) := by
    obtain ⟨hkept, hlands, -⟩ := gateLand_lands (hat hk) f
    exact And.intro hkept hlands
  cases hk : (partyOp e p).kind with
  | open2 =>
    dsimp only [gateResult.waitPending]
    cases hp : (waveAt s (partyOp e p).wave).pending with
    | none => exact ⟨gateKept_refl .., nofun⟩
    | some q =>
      refine ⟨(gateKept_endGateCount ..).trans (gateKept_setWave ..), fun pd hpd => ?_⟩
      obtain rfl := Option.some.inj hpd
      rw [waveAt_setWave, if_pos rfl]
  | mul => exact land _ (by simp [hk])
  | btr => exact land _ (by simp [hk])
  | cmp =>
    obtain ⟨h0, h1⟩ := hs hk
    simp only [cmpVals, h0, h1]
    exact land _ (by simp [hk])
  | reveal recv => exact land _ (by simp [hk])
  | mma m =>
    have hinstr := hat (by simp [hk])
    obtain ⟨hkept, hlands, hmat⟩ := mmaFinish_lands
      (atInstr_shares hinstr (some ⟨true, e.id.getD 0, mmaLanes e p⟩)) (by rw [unitOf_shares]; exact hacc m hk) m (mmaLanes e p)
    rw [unitOf_shares] at hmat
    exact ⟨(gateKept_setWave ..).trans hkept, lands_of_shares hlands, hmat⟩

-- Both parties' ends.

/-- A state seen from an operation's wave: the wave, its unit and, for a matrix product, its matrix unit. -/
structure SameFor (o : GateOp) (s t : State) : Prop where
  wave : waveAt t o.wave = waveAt s o.wave
  units : t.units = s.units
  wings : t.wings = s.wings
  home : ∀ a, (alcAt t a).wing = (alcAt s a).wing
  mat : ∀ m, o.kind = .mma m → matOf t o.wave = matOf s o.wave

theorem GateKept.sameFor {k : Nat} {s t : State} (h : GateKept k s t) {o : GateOp} (hk : o.wave ≠ k)
    (hm : ∀ m, o.kind = .mma m → alcOf o.wave ≠ alcOf k) : SameFor o s t where
  wave := h.waves _ hk
  units := h.units
  wings := h.wings
  home := h.home
  mat m hmma := h.mats _ (hm m hmma)

section same
variable {o : GateOp} {s t u : State}

theorem SameFor.unitOf (h : SameFor o s t) : Machine.unitOf t o.wave = Machine.unitOf s o.wave := by
  simp only [Machine.unitOf, unitAt, h.wave, h.units]

theorem SameFor.completes (h : SameFor o s t) (hc : Completes s o) : Completes t o := by
  obtain ⟨⟨himg, hrun⟩, hat, hacc⟩ := hc
  refine ⟨⟨himg, fun w hw => ?_⟩, fun hk => ?_, fun m hm => ?_⟩
  · rw [h.home] at hw
    simpa only [wingAt, h.wings] using hrun w hw
  · simpa only [AtInstr, h.wave] using hat hk
  · rw [h.mat m hm, h.unitOf]
    exact hacc m hm

theorem Lands.sameBefore {f : RegFile → List Nat → RegFile} (h : SameFor o s t) (hl : Lands t u o f) : Lands s u o f := by
  simpa only [Lands, h.wave] using hl

theorem Lands.sameAfter {f : RegFile → List Nat → RegFile} (h : SameFor o t u) (hl : Lands s t o f) : Lands s u o f := by
  simpa only [Lands, h.wave] using hl
end same

section outcome
variable {e : Exchange} {p : Nat} {s t u : State}

theorem Outcome.sameBefore (h : SameFor (partyOp e p) s t) (ho : Outcome t u e p) : Outcome s u e p := by
  simp only [Outcome] at ho ⊢
  cases hk : (partyOp e p).kind with
  | open2 =>
    simp only [hk] at ho
    simpa only [h.wave] using ho
  | mma m =>
    simp only [hk] at ho
    obtain ⟨hl, hm⟩ := ho
    rw [h.mat m hk, h.unitOf] at hm
    exact ⟨hl.sameBefore h, hm⟩
  | mul | btr | cmp | reveal =>
    simp only [hk] at ho
    exact ho.sameBefore h

theorem Outcome.sameAfter (h : SameFor (partyOp e p) t u) (ho : Outcome s t e p) : Outcome s u e p := by
  simp only [Outcome] at ho ⊢
  cases hk : (partyOp e p).kind with
  | open2 =>
    simp only [hk] at ho
    simpa only [h.wave] using ho
  | mma m =>
    simp only [hk] at ho
    obtain ⟨hl, hm⟩ := ho
    rw [← h.mat m hk] at hm
    exact ⟨hl.sameAfter h, hm⟩
  | mul | btr | cmp | reveal =>
    simp only [hk] at ho
    exact ho.sameAfter h
end outcome

/-- The two waves of an exchange, and the matrix units of a product, are not the same. -/
def Apart (o q : GateOp) : Prop :=
  o.wave ≠ q.wave ∧ ∀ m, o.kind = .mma m ∨ q.kind = .mma m → alcOf o.wave ≠ alcOf q.wave

/-- A state that differs from another in bindings and in the source of free choices alone. -/
def GateOnly (s t : State) : Prop := ∃ bs n, t = { s with bindings := bs, fresh := n }

theorem GateOnly.sameFor {s t : State} (h : GateOnly s t) (o : GateOp) : SameFor o s t := by
  obtain ⟨bs, n, rfl⟩ := h
  exact ⟨rfl, rfl, rfl, fun _ => rfl, fun _ _ => rfl⟩

theorem gateResults_outcome {s : State} {e : Exchange} (hapart : Apart e.op0 e.op1) (h0 : Completes s e.op0) (h1 : Completes s e.op1)
    (hs : e.op0.kind = .cmp ∨ e.op1.kind = .cmp → e.op0.start = 0 ∧ e.op1.start = 0) :
    let t := gateResult (gateResult s e 0) e 1
    t.bindings = s.bindings ∧ Outcome s t e 0 ∧ Outcome s t e 1 := by
  obtain ⟨hwave, halc⟩ := hapart
  obtain ⟨hkept0, hout0⟩ := gateResult_outcome (p := 0) h0 fun h => hs (.inl h)
  have hmid : SameFor e.op1 s (gateResult s e 0) := hkept0.sameFor (Ne.symm hwave) fun m hm => (halc m (.inr hm)).symm
  obtain ⟨hkept1, hout1⟩ := gateResult_outcome (p := 1) (hmid.completes h1) fun h => hs (.inr h)
  exact ⟨hkept1.bindings.trans hkept0.bindings,
    hout0.sameAfter (hkept1.sameFor hwave fun m hm => halc m (.inl hm)), hout1.sameBefore hmid⟩

-- The record of an exchange.

theorem readRecord_gateOnly {s t : State} (h : GateOnly s t) (w : Wing) (x : Pool) (kind id : Nat) :
    readRecord t w x kind id = readRecord s w x kind id := by
  obtain ⟨bs, n, rfl⟩ := h
  have hs2 (ipa : Nat) : s2Pa { s with bindings := bs, fresh := n } w ipa true false = s2Pa s w ipa true false :=
    s2Pa_congr (s := s) (by rfl) w ipa true false
  have hbyte : poolByte { s with bindings := bs, fresh := n } w = poolByte s w := by
    funext ipa
    simp only [poolByte, hs2]
    rfl
  simp only [readRecord, hbyte]

/-- What an exchange takes: its record, and its operations as they are; where it is taken now, both pools advance (R339). -/
structure Taken (s u : State) (b ch kind id : Nat) (e e' : Exchange) (r0 r1 : List Byte) : Prop where
  only : GateOnly s u
  ops : e'.op0 = e.op0 ∧ e'.op1 = e.op1
  recs : e'.rec0 = r0 ∧ e'.rec1 = r1
  paired : (chanAt (bindAt u b) ch).paired = (chanAt (bindAt s b) ch).paired
  spent : e.id = none → (poolAt (bindAt u b) 0 kind).head = nextId id ∧ (poolAt (bindAt u b) 1 kind).head = nextId id ∧
    (chanAt (bindAt u b) ch).lastId = id

/-- An exchange that needs no record, or holds one, goes on as it is. -/
theorem exchangeTake_held {s : State} {e : Exchange} (h : gateRec e.op0 = none ∨ e.id.isSome = true) (b ch : Nat) :
    exchangeTake s b ch e = .ok (s, e) := by
  rw [exchangeTake]
  split
  next hrec hid => simp_all
  next => rfl

/-- The state with both pools of a kind past a record. -/
def poolsPast (s : State) (b kind id : Nat) : State :=
  setBind s b (setPool (setPool (bindAt s b) 0 kind { poolAt (bindAt s b) 0 kind with head := nextId id }) 1 kind
    { poolAt (bindAt s b) 1 kind with head := nextId id })

theorem heads_poolsPast (s : State) (b kind id : Nat) : (poolAt (bindAt (poolsPast s b kind id) b) 0 kind).head = nextId id ∧
    (poolAt (bindAt (poolsPast s b kind id) b) 1 kind).head = nextId id := by
  simp [poolsPast, poolAt_setPool]

theorem chanAt_poolsPast (s : State) (b kind id ch : Nat) : chanAt (bindAt (poolsPast s b kind id) b) ch = chanAt (bindAt s b) ch := by
  simp [poolsPast, chanAt, setPool]

/-- The record at the HEAD of both pools is taken. -/
theorem exchangeTake_head {s : State} {b ch kind id : Nat} {e : Exchange} {r0 r1 : List Byte} (hkind : gateRec e.op0 = some kind)
    (hs : e.op0.start = 0) (hid : e.id = none) (h0 : (poolAt (bindAt s b) 0 kind).head = id) (h1 : (poolAt (bindAt s b) 1 kind).head = id)
    (ho0 : poolOcc (poolAt (bindAt s b) 0 kind) ≠ 0) (ho1 : poolOcc (poolAt (bindAt s b) 1 kind) ≠ 0)
    (hr0 : readRecord s (wingAt s (bindAt s b).wing0) (poolAt (bindAt s b) 0 kind) kind id = some r0)
    (hr1 : readRecord s (wingAt s (bindAt s b).wing1) (poolAt (bindAt s b) 1 kind) kind id = some r1) :
    ∃ u e', exchangeTake s b ch e = .ok (u, e') ∧ Taken s u b ch kind id e e' r0 r1 := by
  have hfault : poolFault (bindAt s b) kind = none := by simp [poolFault, h0, h1, ho0, ho1]
  have hneeds : (if e.op0.start ≠ 0 && e.op1.start ≠ 0 then none else gateRec e.op0) = some kind := by simp [hs, hkind]
  have htake : takeRecord s b kind = some (poolsPast s b kind id, id, r0, r1) := by
    simp only [takeRecord, h0, h1, hr0, hr1]
    rfl
  refine ⟨_, _, by simp only [exchangeTake, hneeds, hid, hfault, htake]; rfl, ?_⟩
  exact { only := ⟨_, s.fresh, rfl⟩, ops := ⟨rfl, rfl⟩, recs := ⟨rfl, rfl⟩,
          paired := by rw [chanAt_setChan, chanAt_poolsPast],
          spent := fun _ => by simp [heads_poolsPast] }

-- The completion.

/-- The only paired exchange of a channel completes (R339, R343). -/
theorem exec_gateExchangeComplete {s : State} {b ch : Nat} {e : Exchange} (h : (chanAt (bindAt s b) ch).paired = [e])
    (hfree : mmaWaits s e = false) :
    exec (.gateExchangeComplete b ch) s = .next (gateComplete (unpair (tick s) b ch e) b ch e) := by
  simp only [exec, execGateExchangeComplete, h, List.length_singleton, Nat.mod_one, List.getElem?_cons_zero, hfree]
  rfl

/-- The state in which the only exchange of a channel is on its way out. -/
structure Leaving (s u : State) (b ch : Nat) : Prop where
  only : GateOnly s u
  paired : (chanAt (bindAt u b) ch).paired = []
  pools : ∀ p kind, poolAt (bindAt u b) p kind = poolAt (bindAt s b) p kind
  wing0 : (bindAt u b).wing0 = (bindAt s b).wing0
  wing1 : (bindAt u b).wing1 = (bindAt s b).wing1

theorem leaving_unpair {s : State} {b ch : Nat} {e : Exchange} (h : (chanAt (bindAt s b) ch).paired = [e]) :
    Leaving s (unpair (tick s) b ch e) b ch where
  only := ⟨_, _, rfl⟩
  paired := by
    rw [unpair, chanAt_setChan]
    show (chanAt (bindAt s b) ch).paired.filter (· != e) = []
    simp [h]
  pools p kind := by
    rw [unpair, poolAt_setChan]
    rfl
  wing0 := by
    simp only [unpair, setChan, bindAt_setBind, if_true]
    rfl
  wing1 := by
    simp only [unpair, setChan, bindAt_setBind, if_true]
    rfl

theorem GateOnly.trans {s t u : State} (h : GateOnly s t) (h' : GateOnly t u) : GateOnly s u := by
  obtain ⟨_, _, rfl⟩ := h
  obtain ⟨_, _, rfl⟩ := h'
  exact ⟨_, _, rfl⟩

/-- A completed exchange gives each party its outcome, and what its record left of the channel and the pools stays. -/
theorem gateComplete_outcome {s u v : State} {b ch : Nat} {e e' : Exchange} (hu : GateOnly s u)
    (htake : exchangeTake u b ch e = .ok (v, e')) (hv : GateOnly u v) (hops : e'.op0 = e.op0 ∧ e'.op1 = e.op1)
    (hapart : Apart e.op0 e.op1) (h0 : Completes s e.op0) (h1 : Completes s e.op1)
    (hs : e.op0.kind = .cmp ∨ e.op1.kind = .cmp → e.op0.start = 0 ∧ e.op1.start = 0) :
    (gateComplete u b ch e).bindings = v.bindings ∧ Outcome s (gateComplete u b ch e) e' 0 ∧
      Outcome s (gateComplete u b ch e) e' 1 := by
  obtain ⟨hop0, hop1⟩ := hops
  rw [← hop0, ← hop1] at hapart hs
  rw [← hop0] at h0
  rw [← hop1] at h1
  have htick : GateOnly s (tick v) := (hu.trans hv).trans ⟨_, _, rfl⟩
  obtain ⟨hbind, hout0, hout1⟩ := gateResults_outcome hapart ((htick.sameFor _).completes h0) ((htick.sameFor _).completes h1) hs
  simp only [gateComplete, htake]
  exact ⟨hbind, hout0.sameBefore (htick.sameFor _), hout1.sameBefore (htick.sameFor _)⟩

theorem bindAt_congr {s t : State} (h : t.bindings = s.bindings) (b : Nat) : bindAt t b = bindAt s b := by simp only [bindAt, h]

/-- Where no other source has a matrix instruction part-way in the alcoves of a product's waves, it does not wait (R329). -/
theorem mmaWaits_eq_false {s : State} {e : Exchange}
    (h0 : ∀ m, e.op0.kind = .mma m → matMidway s (alcOf e.op0.wave) e.op0.wave e.op0.src = false)
    (h1 : ∀ m, e.op1.kind = .mma m → matMidway s (alcOf e.op1.wave) e.op1.wave e.op1.src = false) : mmaWaits s e = false := by
  simp only [mmaWaits, Bool.or_eq_false_iff]
  constructor
  · split
    next m hm => simp [h0 m hm]
    next => rfl
  · split
    next m hm => simp [h1 m hm]
    next => rfl

/-- Two matrix products are of waves in different alcoves where one of them is. -/
theorem apart_of_same {o q : GateOp} (hsame : gateSame o q = true) (hne : o.wave ≠ q.wave)
    (h : ∀ m, o.kind = .mma m → alcOf o.wave ≠ alcOf q.wave) : Apart o q := by
  refine ⟨hne, fun m hm => ?_⟩
  obtain hm | hm := hm
  · exact h m hm
  · cases ho : o.kind with
    | mma n => exact h n ho
    | _ => simp [gateSame, ho, hm] at hsame

theorem completes_reveal {s : State} {o : GateOp} {r : Bool} (hk : o.kind = .reveal r) (hhere : Here s o) (hat : AtInstr s o) :
    Completes s o := ⟨hhere, fun _ => hat, by simp [hk]⟩

/-- What a reveal leaves for a party. -/
theorem Outcome.reveal {s t : State} {e : Exchange} {p : Nat} {r : Bool} (h : Outcome s t e p) (hk : (partyOp e p).kind = .reveal r) :
    srcPc (waveAt t (partyOp e p).wave) (partyOp e p).src = (partyOp e p).pc + 4 ∧
      (waveAt t (partyOp e p).wave).regs = if r then landLanes (partyOp e p).ety (partyOp e p).d ((List.range 32).map fun l =>
        (nth 0 e.op0.x l + nth 0 e.op1.x l) % 2 ^ widthOf (partyOp e p).ety) (waveAt s (partyOp e p).wave).regs
          (lanesOf (waveAt s (partyOp e p).wave).live)
        else (waveAt s (partyOp e p).wave).regs := by
  simp only [Outcome, hk] at h
  obtain ⟨hpc, hregs⟩ := h
  refine ⟨hpc, hregs.trans ?_⟩
  cases r <;> rfl

/-- The record that an exchange has, or takes at HEAD. -/
theorem exchangeTake_taken {s u : State} {b ch kind id : Nat} {e : Exchange} {r0 r1 : List Byte} (hl : Leaving s u b ch)
    (hkind : gateRec e.op0 = some kind) (hs : e.op0.start = 0)
    (h : (e.id = none ∧ (poolAt (bindAt s b) 0 kind).head = id ∧ (poolAt (bindAt s b) 1 kind).head = id ∧
        poolOcc (poolAt (bindAt s b) 0 kind) ≠ 0 ∧ poolOcc (poolAt (bindAt s b) 1 kind) ≠ 0 ∧
        readRecord s (wingAt s (bindAt s b).wing0) (poolAt (bindAt s b) 0 kind) kind id = some r0 ∧
        readRecord s (wingAt s (bindAt s b).wing1) (poolAt (bindAt s b) 1 kind) kind id = some r1) ∨
      (e.id = some id ∧ e.rec0 = r0 ∧ e.rec1 = r1)) :
    ∃ v e', exchangeTake u b ch e = .ok (v, e') ∧ Taken u v b ch kind id e e' r0 r1 := by
  obtain ⟨hid, h0, h1, ho0, ho1, hr0, hr1⟩ | ⟨hid, hr0, hr1⟩ := h
  · have hwings (n : Nat) : wingAt u n = wingAt s n := by
      obtain ⟨_, _, hu⟩ := hl.only
      rw [hu]
      rfl
    exact exchangeTake_head hkind hs hid (by rw [hl.pools, h0]) (by rw [hl.pools, h1]) (by rwa [hl.pools]) (by rwa [hl.pools])
      (by rw [readRecord_gateOnly hl.only, hl.wing0, hl.pools, hwings, hr0])
      (by rw [readRecord_gateOnly hl.only, hl.wing1, hl.pools, hwings, hr1])
  · exact ⟨u, e, exchangeTake_held (.inr (by simp [hid])) b ch,
      { only := ⟨_, _, rfl⟩, ops := ⟨rfl, rfl⟩, recs := ⟨hr0, hr1⟩, paired := rfl, spent := by simp [hid] }⟩

-- The algebra of triples.

/-- An opened value is the difference of the value and the triple's. -/
theorem cast_opened {n a0 a1 : Nat} (ha0 : a0 < 2 ^ n) (ha1 : a1 < 2 ^ n) (x0 x1 : Nat) :
    (opened n x0 a0 x1 a1 : ZMod (2 ^ n)) = x0 + x1 - (a0 + a1) := by
  have hle : a0 + a1 ≤ x0 + x1 + 2 ^ n * 2 := by omega
  rw [opened, ZMod.natCast_mod, Nat.sub_sub, Nat.cast_sub hle]
  push_cast
  rw [show (2 : ZMod (2 ^ n)) ^ n = ((2 ^ n : ℕ) : ZMod (2 ^ n)) by push_cast; rfl, ZMod.natCast_self]
  ring

theorem cast_mulShare (n p a b c d e : Nat) : (mulShare n p a b c d e : ZMod (2 ^ n)) =
    c + d * b + e * a + (if p = 0 then (d * e : ZMod (2 ^ n)) else 0) := by
  rw [mulShare, ZMod.natCast_mod]
  push_cast
  rfl

/-- With a triple whose c is the product of its a and b, the shares of a product add up to the product (R338, R344). -/
theorem mulShares_add {n x0 x1 y0 y1 a0 a1 b0 b1 c0 c1 : Nat} (hc : (c0 + c1) % 2 ^ n = (a0 + a1) * (b0 + b1) % 2 ^ n)
    (ha0 : a0 < 2 ^ n) (ha1 : a1 < 2 ^ n) (hb0 : b0 < 2 ^ n) (hb1 : b1 < 2 ^ n) :
    (mulShare n 0 a0 b0 c0 (opened n x0 a0 x1 a1) (opened n y0 b0 y1 b1) +
      mulShare n 1 a1 b1 c1 (opened n x0 a0 x1 a1) (opened n y0 b0 y1 b1)) % 2 ^ n = (x0 + x1) * (y0 + y1) % 2 ^ n := by
  have htriple : (c0 + c1 : ZMod (2 ^ n)) = (a0 + a1) * (b0 + b1) := by
    exact_mod_cast (ZMod.natCast_eq_natCast_iff' _ _ _).mpr hc
  refine (ZMod.natCast_eq_natCast_iff' _ _ _).mp ?_
  push_cast [cast_mulShare, cast_opened ha0 ha1, cast_opened hb0 hb1]
  linear_combination htriple

/-- Settles O39: pairing, what the completion of each kind of exchange leaves, and the algebra of triples. -/
theorem exchangesComplete : Obligations.ExchangesComplete := by
  refine ⟨fun s b ch p o q ro rq => ⟨fun hp h0 h1 hpeer => ?_, ?_, fun hpair hko hkq hety hne hops => ?_⟩,
    fun s b ch kind id e r0 r1 hpair hsame hrec hne hops htake => ?_,
    fun n x0 x1 y0 y1 a0 a1 b0 b1 c0 c1 hc _ _ _ _ ha0 ha1 hb0 hb1 => mulShares_add hc ha0 ha1 hb0 hb1⟩
  · rw [gateArrive_joins h0 h1]
    by_cases hp : p = 0
    · simp only [hp, if_true] at hpeer
      rw [gateMatch_unmatched (.inr (by simp [joined, hp, hpeer]))]
      simp [joined, hp]
    · simp only [hp, if_false] at hpeer
      rw [gateMatch_unmatched (.inl (by simp [joined, hp, hpeer]))]
      simp [joined, hp]
  · exact fun hon h0 h1 hw0 hw1 => gateArrive_paired hon h0 h1 hw0 hw1
  · obtain ⟨ho0, ho1⟩ : Completes s o ∧ Completes s q := by
      obtain ⟨⟨hi0, hf0, ht0, hq0, hp0, hr0⟩, ⟨hi1, hf1, ht1, hq1, hp1, hr1⟩⟩ := And.intro (hops o (by simp)) (hops q (by simp))
      exact ⟨completes_reveal hko ⟨hi0, hr0⟩ ⟨hf0, ht0, hq0, hp0⟩, completes_reveal hkq ⟨hi1, hr1⟩ ⟨hf1, ht1, hq1, hp1⟩⟩
    have hl := leaving_unpair hpair
    obtain ⟨hbind, hout0, hout1⟩ := gateComplete_outcome (e := { op0 := o, op1 := q }) hl.only
      (exchangeTake_held (.inl (by simp [gateRec, hko])) b ch) ⟨_, _, rfl⟩ ⟨rfl, rfl⟩
      ⟨hne, by simp [hko, hkq]⟩ ho0 ho1 (by simp [hko, hkq])
    refine ⟨_, exec_gateExchangeComplete hpair (mmaWaits_eq_false (by simp [hko]) (by simp [hkq])), ?_, ?_⟩
    · rw [bindAt_congr hbind, hl.paired]
    · simp only [List.forall_mem_cons]
      refine ⟨hout0.reveal hko, ?_, by simp⟩
      rw [hety]
      exact hout1.reveal hkq
  · obtain ⟨⟨hi0, hs0, hat0, hm0, hr0⟩, ⟨hi1, hs1, hat1, hm1, hr1⟩⟩ := And.intro (hops e.op0 (by simp)) (hops e.op1 (by simp))
    have hl := leaving_unpair hpair
    obtain ⟨v, e', hgot, htaken⟩ := exchangeTake_taken hl hrec hs0 htake
    obtain ⟨hbind, hout0, hout1⟩ := gateComplete_outcome hl.only hgot htaken.only htaken.ops
      (apart_of_same hsame hne fun m hm => (hm0 m hm).2.2) ⟨⟨hi0, hr0⟩, hat0, fun m hm => (hm0 m hm).2.1⟩
      ⟨⟨hi1, hr1⟩, hat1, fun m hm => (hm1 m hm).2.1⟩ fun _ => ⟨hs0, hs1⟩
    refine ⟨_, exec_gateExchangeComplete hpair (mmaWaits_eq_false (fun m hm => (hm0 m hm).1) fun m hm => (hm1 m hm).1), ?_, ?_, ?_⟩
    · rw [bindAt_congr hbind, htaken.paired, hl.paired]
    · rw [bindAt_congr hbind]
      exact htaken.spent
    · obtain ⟨op0, op1, id', rec0, rec1, prog⟩ := e'
      obtain ⟨rfl, rfl⟩ := htaken.ops
      obtain ⟨rfl, rfl⟩ := htaken.recs
      simp only [List.forall_mem_cons]
      refine ⟨?_, ?_, by simp⟩
      · cases hk : e.op0.kind with
        | reveal => trivial
        | mma m =>
          simp only [Outcome, partyOp_zero, hk] at hout0
          obtain ⟨⟨hpc, -⟩, hmat⟩ := hout0
          exact ⟨hpc, hmat⟩
        | open2 | mul | btr | cmp =>
          simp only [Outcome, partyOp_zero, hk] at hout0
          exact hout0
      · cases hk : e.op1.kind with
        | reveal => trivial
        | mma m =>
          simp only [Outcome, partyOp_one, hk] at hout1
          obtain ⟨⟨hpc, -⟩, hmat⟩ := hout1
          exact ⟨hpc, hmat⟩
        | open2 | mul | btr | cmp =>
          simp only [Outcome, partyOp_one, hk] at hout1
          exact hout1

end Sys2Proof.Proofs.ExchangeCompletion
end

section
/-! The host's messages that manage wings, bindings, associations, clock, power and captures (R404 to R406, R412, R417, R422, R424,
R426), under a live key of a management association: one equation for each message past its checks. -/
namespace Sys2Proof.Proofs.HostManage
open Sys2Proof Sys2Proof.Machine Sys2Proof.Safety Sys2Proof.Laws.Tables Sys2Proof.Laws.State Sys2Proof.Laws.Ops

-- Associations, and what an answer leaves of them.

@[simp] theorem assocAt_setAssoc (s : State) (n : Nat) (a : Assoc) (m : Nat) :
    assocAt (setAssoc s n a) m = if n = m then a else assocAt s m := tget_tput ..

/-- What a completion leaves of an association: only the one that it answers has lost the request. -/
theorem assocAt_reply {op : Nat} (hop : posted op = false) (s : State) (h : HostHdr) (status val : Nat) (bytes : List Byte) (n : Nat) :
    assocAt (reply s h op status val bytes) n =
      if h.assoc = n then dropReq (assocAt s h.assoc) h.token else assocAt s n := by
  simp only [reply, hop, Bool.false_eq_true, if_false, assocAt_setAssoc]
  rfl

theorem completion_mem_reply {op : Nat} (hop : posted op = false) (s : State) (h : HostHdr) (status val : Nat) (bytes : List Byte) :
    HostOut.completion (replyHdr h op status bytes) val bytes ∈ (reply s h op status val bytes).outbox := by
  simp only [reply, hop, Bool.false_eq_true, if_false]
  exact List.mem_append_right _ (List.mem_singleton.mpr rfl)

/-- The key in force, the first, is what an association keeps when a request is taken off. -/
theorem gens_head_dropReq (a : Assoc) (token : BitVec 32) : (dropReq a token).gens.head? = a.gens.head? := by
  cases h : a.gens <;> simp [dropReq, h]

theorem gens_head_dropKeys (a : Assoc) : (execKeyRoll.dropKeys a).gens.head? = a.gens.head? := by
  cases h : a.gens <;> simp [execKeyRoll.dropKeys, h]

theorem eraseDups_of_nodup {α : Type} [BEq α] [LawfulBEq α] : {l : List α} → l.Nodup → l.eraseDups = l
  | [], _ => rfl
  | a :: l, h => by
    obtain ⟨ha, hl⟩ := List.nodup_cons.mp h
    have hrest : l.filter (fun b => !b == a) = l := List.filter_eq_self.mpr fun b hb => by
      have hne : b ≠ a := fun e => ha (e ▸ hb)
      simpa using hne
    rw [List.eraseDups_cons, hrest, eraseDups_of_nodup hl]

section message
variable {s : State} {h : HostHdr} (hm : Manages s h)
include hm

-- Wings and worlds.

theorem exec_wingCreate {block : List Byte} {s' : State} {n : Nat} (hlen : block.length ≤ h.len.toNat)
    (hnew : createWing s block = .ok (s', n)) : exec (.wingCreate h block) s = answered s' h 0x10 n := by
  simp only [exec, execWingCreate, takeBytes_manages hm _ hlen, hnew]
  rfl

theorem exec_quota {world : BitVec 4} {qs : QuotaSpec} (hlive : (liveWorlds s).contains world.toNat = true) (hq : qs.l2q ≤ 15)
    (hp : (worldAt s world.toNat).prot = true ∨ qs.l2p = 0) (hmsp : qs.msp.length = 16) (hok : quotaStatus s world.toNat qs = 0) :
    exec (.quota h world qs) s = answered (setWorld
      (if losesWays (worldAt s world.toNat).q qs then leaveWays s world.toNat qs else s) world.toNat
      (newQuota (worldAt s world.toNat) qs)) h 0x12 0 := by
  have hform : ¬ (decide (15 < qs.l2q) || (!(worldAt s world.toNat).prot && decide (qs.l2p ≠ 0)) ||
      decide (qs.msp.length ≠ 16)) = true := by
    obtain h | h := hp <;> simp [hq, hmsp, h]
  simp only [exec, execQuota, takeMsg_manages hm, hlive, Bool.not_true, Bool.false_eq_true, if_false, if_neg hform, hok, if_true]
  rfl

section wing
variable (hw : wingLives s h.wing.toNat = true)
include hw

theorem exec_wingDestroy (hreq : reqOf s h 0x11 = none) : exec (.wingDestroy h) s =
    if (wingAt (destroyWing s h.wing.toNat) h.wing.toNat).run = .ending then .next (await (destroyWing s h.wing.toNat) h 0x11 0 .none)
    else answered (destroyWing s h.wing.toNat) h 0x11 0 := by
  simp only [exec, execWingDestroy, takeMsg_manages hm, hreq, hw, Option.isSome_none, Bool.not_true, Bool.false_eq_true, if_false,
    beq_iff_eq, Safety.answered]
  exact apply_ite ..

theorem exec_wingReset : exec (.wingReset h) s = answered (resetWing s h.wing.toNat 3) h 0x23 0 := by
  simp only [exec, execWingReset, takeForWing_manages hm hw]
  rfl

theorem exec_stage2TableWrite {ipa : BitVec 48} {level table : Nat} {entry : BitVec 64} (h1 : 1 ≤ level) (h4 : level ≤ 4)
    (htable : s2TableFrom s ipa.toNat level 4 1 (s2Root (wingAt s h.wing.toNat)) = some table)
    (hdram : entryInDram (entryAt table level ipa.toNat) = true) (hlock : writeLocked s (entryAt table level ipa.toNat) = false)
    (hkeeps : s2Breaks s (writeMem s (entryAt table level ipa.toNat) (natLe 8 entry.toNat)) = false) :
    exec (.stage2TableWrite h ipa level entry) s =
      answered (writeMem s (entryAt table level ipa.toNat) (natLe 8 entry.toNat)) h 0x13 0 := by
  have hlevel : ¬ (level = 0 ∨ 4 < level) := by omega
  simp only [exec, execStage2TableWrite, takeForWing_manages hm hw, if_neg hlevel, htable, hdram, hlock, hkeeps, Bool.not_true,
    Bool.false_eq_true, if_false]
  rfl

-- Pre-emption, restore and images.

theorem exec_preEmptWing (hrun : (wingAt s h.wing.toNat).run = .running)
    (hshadow : ∀ j ∈ (wingAt s h.wing.toNat).alcs, (alcAt s j).shadow = none) :
    exec (.preEmptWing h) s = .next (await (stopWing s h.wing.toNat) h 0x1B 0 .none) := by
  have hfree : ¬ ((wingAt s h.wing.toNat).alcs.any fun a => (alcAt s a).shadow.isSome) = true := by
    simpa using hshadow
  simp only [exec, execPreEmptWing, takeForWing_manages hm hw, if_neg (not_not_intro hrun), if_neg hfree]

theorem exec_restoreWing {image : Nat} {intact : Bool} (hok : (restoreWing s h.wing.toNat image intact).2 = 0)
    (hroom : restoreRoom s h.wing.toNat image = true) :
    exec (.restoreWing h image intact) s = answered (restoreWing s h.wing.toNat image intact).1 h 0x1C 0 := by
  simp only [exec, execRestoreWing, takeForWing_manages hm hw, hok, hroom]
  rfl

theorem exec_saveOut (hrun : (wingAt s h.wing.toNat).run = .swapped) (hin : inShadow s h.wing.toNat = true)
    (hsweep : sweeping s (wingAt s h.wing.toNat).world = false) :
    exec (.saveOut h) s = .next (reply (saveOut s h.wing.toNat).1 h 0x1D 0 (saveOut s h.wing.toNat).2
      (((saveOut s h.wing.toNat).1.images.getLast?.map imageBytes).getD [])) := by
  simp only [exec, execSaveOut, takeForWing_manages hm hw, hrun, hin, hsweep]
  rfl

-- Units.

theorem exec_unitPreEmpt {ctx : BitVec 32} {u k : Nat} {src : Src} (hu : unitByCtx s h.wing.toNat ctx = some u)
    (hrun : (wingAt s h.wing.toNat).run = .running) (hheld : (unitAt s u).held = none) (hending : (unitAt s u).ending = none)
    (hboot : (unitAt s u).boot = none) (hout : anyHandler s (unitAt s u).waves = false)
    (htarget : preEmptTarget s (unitAt s u) = some (k, src)) :
    exec (.unitPreEmpt h ctx) s = answered (takeTrap s k src { cause := 0x16 }) h 0x1E 0 := by
  have hbusy : ¬ ((wingAt s h.wing.toNat).run ≠ .running ∨ (unitAt s u).held.isSome = true ∨ (unitAt s u).ending.isSome = true ∨
      (unitAt s u).boot.isSome = true ∨ anyHandler s (unitAt s u).waves = true) := by
    simp [hrun, hheld, hending, hboot, hout]
  simp only [exec, execUnitPreEmpt, takeForWing_manages hm hw, hu, if_neg hbusy, htarget]
  rfl

/-- A command on a unit that HALT holds. -/
theorem heldUnit_held {ctx : BitVec 32} {u k : Nat} {x : Machine.Unit} {src : Src}
    (hu : (s.units.find? fun e => e.2.used && e.2.wing == h.wing.toNat && e.2.ctxid == ctx) = some (u, x))
    (hheld : x.held = some (k, src)) (op : Nat) (f : State → Nat → Nat → State) :
    heldUnit s h op ctx f = answered (onContext s h.wing.toNat fun s => f s u k) h op 0 := by
  simp only [heldUnit, takeForWing_manages hm hw, hu, hheld]
  rfl

-- Dirty logs and captures.

theorem exec_logEnable {ring idx bitmap : BitVec 48} {n : Nat} (hn : ∃ j, j < 11 ∧ n = 2 ^ (10 + j)) (hring : ring.toNat % 8 = 0)
    (hidx : idx.toNat % 8 = 0) : exec (.logEnable h ring idx bitmap n) s = answered (setWing s h.wing.toNat
      { wingAt s h.wing.toNat with log := some ⟨ring.toNat, idx.toNat, bitmap.toNat, n⟩ }) h 0x27 0 := by
  have hsize : ((List.range 11).any fun i => n == 2 ^ (10 + i)) = true := by simpa using hn
  have hform : ¬ (!((List.range 11).any fun i => n == 2 ^ (10 + i)) || decide (ring.toNat % 8 ≠ 0) ||
      decide (idx.toNat % 8 ≠ 0)) = true := by simp [hsize, hring, hidx]
  simp only [exec, execLogEnable, takeForWing_manages hm hw, if_neg hform]
  rfl

theorem exec_harvest {l : DirtyLog} {b n : Nat} (hlog : (wingAt s h.wing.toNat).log = some l) (hrange : b + n ≤ 2 ^ 32) :
    exec (.harvest h b n) s =
      answered ((List.range n).foldl (fun t i => clearBit t (wingAt s h.wing.toNat) l (b + i)) s) h 0x28 0 := by
  simp only [exec, execHarvest, takeForWing_manages hm hw, hlog, if_neg (Nat.not_lt.mpr hrange)]
  rfl

theorem exec_logDisable : exec (.logDisable h) s =
    answered (setWing s h.wing.toNat { wingAt s h.wing.toNat with log := none }) h 0x29 0 := by
  simp only [exec, execLogDisable, takeForWing_manages hm hw]
  rfl

theorem exec_snapshotArm (arm : ArmSpec) : exec (.snapshotArm h arm) s =
    answered (setWing s h.wing.toNat { wingAt s h.wing.toNat with armed := arm }) h 0x2D 0 := by
  simp only [exec, execSnapshotArm, takeForWing_manages hm hw]
  rfl
end wing

theorem exec_snapshotTrigger : exec (.snapshotTrigger h) s = answered (capTrigger s []) h 0x2E 0 := by
  simp only [exec, execSnapshotTrigger, takeMsg_manages hm]
  rfl

theorem exec_snapshotReadout {c : Capture} (hc : s.capHeld = some c) : exec (.snapshotReadout h) s =
    answered (emit { s with capHeld := none } (.capture h.token c)) h 0x2F c.seqNo.toNat := by
  simp only [exec, execSnapshotReadout, takeMsg_manages hm, hc]
  rfl

-- Bindings.

section binding
variable {b : Nat} (hb : (bindAt s b).used = true)
include hb

/-- A command on a live binding goes on. -/
theorem takeForBind_manages (op : Nat) (f : State → Out) : takeForBind s h op b f = f s := by
  rw [takeForBind, takeMsg_manages hm, if_pos hb]

theorem exec_unbind : exec (.unbind h b) s = answered (gateUnbind s b) h 0x17 0 := by
  simp only [exec, execUnbind, takeForBind_manages hm hb]
  rfl

theorem exec_resumeBinding : exec (.resumeBinding h b) s =
    answered (gateRelease (setBind s b { bindAt s b with suspended := false }) b) h 0x1A 0 := by
  simp only [exec, execResumeBinding, takeForBind_manages hm hb]
  rfl

/-- Suspending a binding leaves its operations as they are, so it is as quiet as it was. -/
theorem exec_suspendBinding (hquiet : bindQuiet s b = true) : exec (.suspendBinding h b) s =
    answered (setBind s b { bindAt s b with suspended := true }) h 0x19 0 := by
  have hstays : bindQuiet (setBind s b { bindAt s b with suspended := true }) b = true := by
    rw [← hquiet]
    simp [bindQuiet]
  simp only [exec, execSuspendBinding, takeForBind_manages hm hb, hstays, if_true]
  rfl
end binding

theorem exec_bind {spec : BindSpec} {m : Nat} (hpools : spec.pools.all poolSpecOk = true)
    (hkeys : (spec.pools.map fun p => (p.party, p.kind)).Nodup) (h0 : (wingAt s spec.wing0).used = true)
    (h1 : (wingAt s spec.wing1).used = true) (hworld : (wingAt s spec.wing0).world ≠ (wingAt s spec.wing1).world)
    (hp0 : (wingAt s spec.wing0).party = false) (hp1 : (wingAt s spec.wing1).party = true)
    (hfree : ((List.range 256).find? fun m => !(bindAt s m).used) = some m) :
    exec (.bind h spec) s = answered (setBind s m (bindingOf spec)) h 0x16 m := by
  have hform : ¬ (!spec.pools.all poolSpecOk || decide ((spec.pools.map fun p => (p.party, p.kind)).eraseDups.length ≠
      (spec.pools.map fun p => (p.party, p.kind)).length)) = true := by simp [hpools, eraseDups_of_nodup hkeys]
  have hwings : ¬ (!(wingAt s spec.wing0).used || !(wingAt s spec.wing1).used ||
      decide ((wingAt s spec.wing0).world = (wingAt s spec.wing1).world) || (wingAt s spec.wing0).party ||
      !(wingAt s spec.wing1).party) = true := by simp [h0, h1, hworld, hp0, hp1]
  simp only [exec, execBind, takeMsg_manages hm, if_neg hform, if_neg hwings, hfree]
  rfl

-- Clock and power.

theorem exec_clockRaise (hone : (liveWorlds s).length = 1) : exec (.clockRaise h 1100) s =
    answered { s with clockChange := if s.fast && s.clockChange.isNone then none else some true } h 0x2A 0 := by
  simp only [exec, execClockRaise, takeMsg_manages hm, if_neg (not_not_intro hone)]
  rfl

theorem exec_powerCap {n : Nat} (hlo : 1500 ≤ n) (hhi : n ≤ 4200) :
    exec (.powerCap h n) s = answered { s with powerCap := n } h 0x2C 0 := by
  have hrange : ¬ (n < 1500 ∨ 4200 < n) := by omega
  simp only [exec, execPowerCap, takeMsg_manages hm, if_neg hrange]
  rfl

-- Associations and keys.

theorem exec_keyRoll {n : Nat} (hused : (assocAt s n).used = true) (hgens : (assocAt s n).gens.length < 2) : ∃ t,
    exec (.keyRoll h n) s = .next t ∧ (assocAt t n).gens.head? = some ((assocAt s n).gens.headD 0 + 1) ∧
      HostOut.completion (replyHdr h 0x2B 0 []) 0 [] ∈ t.outbox := by
  have hroom : ¬ 2 ≤ (assocAt s n).gens.length := Nat.not_le.mpr hgens
  simp only [exec, execKeyRoll, takeMsg_manages hm, hused, Bool.not_true, Bool.false_eq_true, if_false, if_neg hroom]
  refine ⟨_, rfl, ?_, completion_mem_reply rfl ..⟩
  rw [assocAt_setAssoc, if_pos rfl, gens_head_dropKeys, assocAt_reply rfl]
  split
  next hn => rw [gens_head_dropReq, assocAt_setAssoc, if_pos hn.symm]; rfl
  next => rw [assocAt_setAssoc, if_pos rfl]; rfl

theorem exec_hostAssociationCreate {peer timeoutMs : Nat} (hlo : 1 ≤ timeoutMs) (hhi : timeoutMs ≤ 10000) : ∃ m t,
    exec (.hostAssociationCreate h peer timeoutMs) s = .next t ∧ HostOut.completion (replyHdr h 0x30 0 []) m [] ∈ t.outbox ∧
      (m ≠ h.assoc → assocAt t m = { used := true, peer := peer, gens := [0], timeoutMs := timeoutMs }) := by
  have hrange : ¬ (timeoutMs < 1 ∨ 10000 < timeoutMs) := by omega
  simp only [exec, execHostAssociationCreate, takeMsg_manages hm, if_neg hrange]
  refine ⟨_, _, rfl, completion_mem_reply rfl .., fun hne => ?_⟩
  rw [assocAt_reply rfl, if_neg (Ne.symm hne), assocAt_setAssoc, if_pos rfl]

/-- An association that is removed is not the one that asks, which manages. -/
theorem exec_hostAssociationRemove {n : Nat} (hused : (assocAt s n).used = true) (hhost : (assocAt s n).manage = false) : ∃ t,
    exec (.hostAssociationRemove h n) s = .next t ∧ (assocAt t n).used = false ∧
      HostOut.completion (replyHdr h 0x31 0 []) 0 [] ∈ t.outbox := by
  have hne : n ≠ h.assoc := by
    rintro rfl
    obtain ⟨-, -, -, hmanage, -⟩ := hm
    simp [hhost] at hmanage
  simp only [exec, execHostAssociationRemove, takeMsg_manages hm, hused, hhost]
  refine ⟨_, rfl, ?_, completion_mem_reply rfl ..⟩
  rw [assocAt_reply rfl, if_neg (Ne.symm hne)]
  exact congrArg Assoc.used ((tget_tput ..).trans (if_pos rfl))

end message

/-- Settles O53: each message by the equation of its own. -/
theorem hostManagementMessages : Obligations.HostManagementMessages := by
  intro s h block world qs ipa level b image n entry spec ctx intact arm s'
  dsimp only
  intro hm
  refine ⟨exec_wingCreate hm, fun hlive hq hp hmsp hok => exec_quota hm hlive hq hp hmsp hok,
    fun hw => ⟨fun hreq => ⟨fun hrun => ?_, fun hrun => ?_⟩, exec_wingReset hm hw,
      fun table h1 h4 htable hdram hlock hkeeps => exec_stage2TableWrite hm hw h1 h4 htable hdram hlock hkeeps,
      exec_preEmptWing hm hw, exec_restoreWing hm hw, exec_saveOut hm hw, fun u k src => exec_unitPreEmpt hm hw,
      fun u x k src hu hheld => ⟨heldUnit_held hm hw hu hheld 0x1F _, heldUnit_held hm hw hu hheld 0x20 _⟩,
      fun ring idx bitmap => exec_logEnable hm hw, fun l => exec_harvest hm hw, exec_logDisable hm hw, exec_snapshotArm hm hw arm⟩,
    fun hb => ⟨exec_unbind hm hb, exec_resumeBinding hm hb, exec_suspendBinding hm hb⟩, fun m => exec_bind hm,
    exec_clockRaise hm, exec_powerCap hm, exec_snapshotTrigger hm, fun c => exec_snapshotReadout hm, exec_keyRoll hm,
    exec_hostAssociationCreate hm, exec_hostAssociationRemove hm⟩
  · rw [exec_wingDestroy hm hw hreq, if_neg hrun]
  · rw [exec_wingDestroy hm hw hreq, if_pos hrun]

end Sys2Proof.Proofs.HostManage
end

section
/-! What leaves memory as it is: of every operation on the state that writes no byte, that it keeps the table of memory. The lemmas
follow the model's files; each is a rule for `simp`, so that a chain of such operations needs no more than their names. -/
namespace Sys2Proof.Proofs.MemoryKept
open Sys2Proof Sys2Proof.Machine Sys2Proof.Laws.Tables Sys2Proof.Laws.Mem Sys2Proof.Laws.State Sys2Proof.Laws.Ops

/-- A step of a fold leaves memory as it is. A predicate of its own, so that `simp` proves it as a condition of `foldl_mem`. -/
def KeepsMem {β : Type} (f : State → β → State) : Prop := ∀ s b, (f s b).mem = s.mem

@[simp] theorem keepsMem_iff {β : Type} (f : State → β → State) : KeepsMem f ↔ ∀ s b, (f s b).mem = s.mem := by rw [KeepsMem]

@[simp] theorem foldl_mem {β : Type} {f : State → β → State} (hf : KeepsMem f) (l : List β) (s : State) :
    (l.foldl f s).mem = s.mem := by
  induction l generalizing s with
  | nil => rfl
  | cons b l ih => rw [List.foldl_cons, ih, hf]

/-- Memory after a choice. -/
@[simp] theorem mem_ite (c : Prop) [Decidable c] (s t : State) : (if c then s else t).mem = if c then s.mem else t.mem := apply_ite ..

-- The waves, units and traps.

@[simp] theorem mapWaves_mem (s : State) (f : Nat → Wave → Wave) (ks : List Nat) : (mapWaves s f ks).mem = s.mem := (mapWaves_rest ..).1
@[simp] theorem dropClaims_mem (s : State) (ks : List Nat) : (dropClaims s ks).mem = s.mem := rfl
@[simp] theorem haltUnit_mem (s : State) (u : Nat) (except : Nat) : (haltUnit s u except).mem = s.mem := by simp [haltUnit]
@[simp] theorem endUnit_mem (s : State) (u : Nat) (e : UnitEnd) (cause : Nat) : (endUnit s u e cause).mem = s.mem := rfl

@[simp] theorem capTrigger_mem (s : State) (snaps : List (Nat × DWord × BitVec 16)) : (capTrigger s snaps).mem = s.mem := by
  dsimp only [capTrigger]
  (repeat' split) <;> simp

@[simp] theorem uncorrTrigger_mem (s : State) (wing : Nat) : (uncorrTrigger s wing).mem = s.mem := by
  dsimp only [uncorrTrigger]
  split <;> simp

@[simp] theorem uncorrFound_mem (s : State) (wing cause : Nat) : (uncorrFound s wing cause).mem = s.mem := by
  dsimp only [uncorrFound]
  split <;> simp

@[simp] theorem trapTrigger_mem (s : State) (wing : Nat) (t : Trap) : (trapTrigger s wing t).mem = s.mem := by
  dsimp only [trapTrigger]
  split <;> simp

@[simp] theorem takeTrap_mem (s : State) (k : Nat) (src : Src) (t : Trap) : (takeTrap s k src t).mem = s.mem := by
  dsimp only [takeTrap]
  split <;> simp

@[simp] theorem resumeUnit_mem (s : State) (u : Nat) : (resumeUnit s u).mem = s.mem := by
  dsimp only [resumeUnit]
  split <;> simp

@[simp] theorem waitWith_mem (s : State) (c : Ctx) (h : Hold) : (waitWith s c h).mem = s.mem := rfl
@[simp] theorem stepOn_mem (s : State) (c : Ctx) (h : Hold) (v : DWord) : (stepOn s c h v).mem = s.mem := rfl
@[simp] theorem finish_mem (s : State) (c : Ctx) (sw : Bool) : (finish s c sw).mem = s.mem := rfl

@[simp] theorem finishRegs_mem (s : State) (c : Ctx) (sw : Bool) (f : RegFile → RegFile) :
    (finishRegs s c sw f).mem = s.mem := rfl

@[simp] theorem setMat_mem (s : State) (k : Nat) (m : Matrix) : (setMat s k m).mem = s.mem := rfl

@[simp] theorem releaseAll_mem (s : State) (k : Nat) : (releaseAll s k).mem = s.mem := by
  dsimp only [releaseAll]
  split <;> simp

@[simp] theorem putCtx_mem (s : State) (alc : Nat) (c : AlcContext) : (putCtx s alc c).mem = s.mem := rfl
@[simp] theorem shadowOut_mem (s : State) (wing : Nat) : (shadowOut s wing).mem = s.mem := by simp [shadowOut]

@[simp] theorem shadowIn_mem (s : State) (wing : Nat) : (shadowIn s wing).mem = s.mem := by
  refine foldl_mem (fun t a => ?_) ..
  (repeat' split) <;> simp

theorem onContext_mem (s : State) {f : State → State} (hf : ∀ t, (f t).mem = t.mem) (wing : Nat) : (onContext s wing f).mem = s.mem := by
  rw [onContext]
  split <;> simp [hf]

theorem onWave_mem (s : State) {f : State → State} (hf : ∀ t, (f t).mem = t.mem) (k : Nat) : (onWave s k f).mem = s.mem := by
  rw [onWave]
  split
  · exact onContext_mem s hf _
  · exact hf s

theorem onSaved_mem (s : State) {f : State → State} (hf : ∀ t, (f t).mem = t.mem) (no : Nat) : (onSaved s no f).mem = s.mem := by
  rw [onSaved]
  split <;> simp [hf]

@[simp] theorem mapEveryWave_mem (s : State) (f : Wave → Wave) : (mapEveryWave s f).mem = s.mem := rfl

-- Memory's tables, locks and faults.

@[simp] theorem addLock_mem (s : State) (f : Nat) : (addLock s f).mem = s.mem := rfl
@[simp] theorem dropLock_mem (s : State) (f : Nat) : (dropLock s f).mem = s.mem := rfl
@[simp] theorem forgetStrong_mem (s : State) (line : Nat) : (forgetStrong s line).mem = s.mem := rfl

@[simp] theorem noteLane_mem (s : State) (k lane va : Nat) (t : Tr) : (noteLane s k lane va t).mem = s.mem := by
  dsimp only [noteLane]
  (repeat' split) <;> simp

@[simp] theorem mapShadows_mem (s : State) (wing : Nat) (f : Wave → Wave) : (mapShadows s wing f).mem = s.mem := rfl

@[simp] theorem invalidate_mem (s : State) (wing lo hi : Nat) (tlbs : Bool) : (invalidate s wing lo hi tlbs).mem = s.mem := by
  dsimp only [invalidate]
  split <;> simp

@[simp] theorem sendFault_mem (s : State) (wing : Nat) (t : TokenWait) (b : Bool × Bool × Bool) :
    (sendFault s wing t b).mem = s.mem := rfl

@[simp] theorem sendS2_mem (s : State) (k : Nat) (src : Src) (acc : Option Nat) (va ipa kind : Nat) (n : Need) (lanes : BitVec 32) (rd : Bool) :
    (sendS2 s k src acc va ipa kind n lanes rd).mem = s.mem := rfl

-- Levels and recipes.

theorem newLevel_mem {s : State} {wing parent size : Nat} {done : Cap} {body : LevelBody} {r : State × Nat}
    (e : newLevel s wing done parent size body = some r) : r.1.mem = s.mem := by
  obtain ⟨slot, -, rfl⟩ := Option.map_eq_some_iff.mp e
  dsimp only
  split <;> simp

theorem enterLaunch_mem {s : State} {wing : Nat} {q : LaunchReq} {r : State × Nat} (e : enterLaunch s wing q = some r) :
    r.1.mem = s.mem := by
  rw [enterLaunch] at e
  split at e
  · cases e
  · exact newLevel_mem e

@[simp] theorem dropLevel_mem (s : State) (slot : Nat) : (dropLevel s slot).mem = s.mem := by
  dsimp only [dropLevel]
  (repeat' split) <;> simp

@[simp] theorem levelMiss_mem (s : State) (slot va ipa kind : Nat) (wr : Bool) :
    (levelMiss s slot va ipa kind wr).mem = s.mem := rfl

@[simp] theorem uncorrDev_mem (s : State) (w : Wing) (cause : Nat) : (uncorrDev s w cause).mem = s.mem := by
  dsimp only [uncorrDev]
  split <;> simp

@[simp] theorem endSaved_mem (s : State) (slot : Nat) (e : UnitEnd) : (endSaved s slot e).mem = s.mem := rfl
@[simp] theorem stopLevel_mem (s : State) (slot : Nat) (reset : Bool) : (stopLevel s slot reset).mem = s.mem := by simp [stopLevel]

@[simp] theorem stopTree_mem (s : State) (reset : Bool) (n slot : Nat) : (stopTree s reset n slot).mem = s.mem := by
  induction n generalizing s slot with
  | zero => rfl
  | succ n ih => simp [stopTree, foldl_mem, ih]

@[simp] theorem cancelLevel_mem (s : State) (slot : Nat) : (cancelLevel s slot).mem = s.mem := by simp [cancelLevel]

@[simp] theorem closeLevel_mem (s : State) (slot : Nat) : (closeLevel s slot).mem = s.mem := by
  dsimp only [closeLevel]
  (repeat' split) <;> simp

@[simp] theorem startPhase_mem (s : State) (job : Nat) : (startPhase s job).mem = s.mem := by
  dsimp only [startPhase]
  split
  next =>
    split
    next => rfl
    next => simp
    next =>
      split
      next => rfl
      next e => split <;> exact newLevel_mem e
  next => rfl

@[simp] theorem setRecipe_mem (s : State) (wing id : Nat) (r : Recipe) : (setRecipe s wing id r).mem = s.mem := rfl
@[simp] theorem holdSources_mem (s : State) (wing id : Nat) (add : Bool) : (holdSources s wing id add).mem = s.mem := by simp [holdSources]
@[simp] theorem mapWingHolds_mem (s : State) (wing : Nat) (f : Hold → Hold) : (mapWingHolds s wing f).mem = s.mem := rfl

@[simp] theorem buildFailed_mem (s : State) (wing n id : Nat) : (buildFailed s wing n id).mem = s.mem := by
  induction n generalizing s id with
  | zero => rfl
  | succ n ih => simp [buildFailed, ih]

@[simp] theorem noteFail_mem (s : State) (wing : Nat) (build : Option Nat) (cause va : Nat) :
    (noteFail s wing build cause va).mem = s.mem := by
  dsimp only [noteFail]
  (repeat' split) <;> simp

-- Accesses at issue, and the ends of waves.

@[simp] theorem bulkTrs_mem (s : State) (c : Ctx) (x : Nat) (need : Need) (ps : List Nat) : (bulkTrs s c x need ps).1.mem = s.mem := by
  induction ps generalizing s with
  | nil => rfl
  | cons p ps ih =>
    dsimp only [bulkTrs]
    split <;> simp [ih]

@[simp] theorem issueAcc_mem (s : State) (c : Ctx) (sw : Bool) (a : Access) : (issueAcc s c sw a).mem = s.mem := by
  dsimp only [issueAcc]
  split <;> simp

@[simp] theorem endTether_mem (s : State) (t : Nat) : (endTether s t).mem = s.mem := by
  dsimp only [endTether]
  split <;> simp

@[simp] theorem afterEnd_mem (s : State) (k : Nat) : (afterEnd s k).mem = s.mem := by
  dsimp only [afterEnd]
  (repeat' split) <;> simp

@[simp] theorem wakeBars_mem (s : State) : (wakeBars s).mem = s.mem := by simp [wakeBars]
@[simp] theorem matWait_mem (s : State) (c : Ctx) : (matWait s c).mem = s.mem := rfl
@[simp] theorem accTake_mem (s : State) (c : Ctx) : (accTake s c).mem = s.mem := rfl

@[simp] theorem drainStep_mem (s : State) (s0 : State) (c : Ctx) (sw : Bool) (n a : Nat) (z f : Bool) (cap : Cap) (ts : Table PageTr)
    (h0 : s0.mem = s.mem) : (drainStep s0 s c sw n a z f cap ts).mem = s.mem := by
  unfold drainStep
  extract_lets
  split
  extract_lets
  split
  · rfl
  · split
    · rfl
    · split
      · exact h0
      · extract_lets
        split <;> rfl

-- The Turnstile.

@[simp] theorem setChan_mem (s : State) (b ch : Nat) (x : Channel) : (setChan s b ch x).mem = s.mem := rfl
theorem onOp_mem (s : State) {f : State → State} (hf : ∀ t, (f t).mem = t.mem) (o : GateOp) : (onOp s o f).mem = s.mem := by
  rw [onOp]
  split
  · exact onSaved_mem s hf _
  · exact onWave_mem s hf _

@[simp] theorem endGateCount_mem (s : State) (o : GateOp) (pc : DWord) : (endGateCount s o pc).mem = s.mem := rfl

@[simp] theorem gateTrap_mem (s : State) (o : GateOp) (cause reason id : Nat) : (gateTrap s o cause reason id).mem = s.mem := by
  refine onOp_mem s (fun t => ?_) o
  dsimp only
  split
  · simp
  · rfl
  · split <;> simp

@[simp] theorem gateEnd_mem (s : State) (b ch : Nat) (o : GateOp) (cause reason id : Nat) :
    (gateEnd s b ch o cause reason id).mem = s.mem := by
  dsimp only [gateEnd]
  split <;> simp

@[simp] theorem gateLand_mem (s : State) (o : GateOp) (f : RegFile → List Nat → RegFile) : (gateLand s o f).mem = s.mem := by
  dsimp only [gateLand]
  split <;> simp

theorem takeRecord_mem {s : State} {b kind : Nat} {r : State × Nat × List Byte × List Byte} (e : takeRecord s b kind = some r) :
    r.1.mem = s.mem := by
  dsimp only [takeRecord] at e
  split at e
  next =>
    cases e
    rfl
  next => cases e

theorem exchangeTake_mem {s : State} {b ch : Nat} {x : Exchange} {r : State × Exchange} (e : exchangeTake s b ch x = .ok r) :
    r.1.mem = s.mem := by
  rw [exchangeTake] at e
  split at e
  next =>
    split at e
    next => cases e
    next =>
      split at e
      next => cases e
      next htake =>
        cases e
        exact takeRecord_mem htake
  next =>
    cases e
    rfl

@[simp] theorem endBoth_mem (s : State) (b ch : Nat) (e : Exchange) (cause reason : Nat) :
    (endBoth s b ch e cause reason).mem = s.mem := by simp [endBoth]

@[simp] theorem gatePair_mem (s : State) (b ch : Nat) (o0 o1 : GateOp) : (gatePair s b ch o0 o1).mem = s.mem := by
  dsimp only [gatePair]
  split
  next => simp
  next =>
    split
    next => simp
    next =>
      split
      next => split <;> simp
      next =>
        split
        next => simp
        next =>
          split
          next => simp
          next e =>
            split at e
            · simpa using exchangeTake_mem e
            · cases e
              rfl

@[simp] theorem gateMatch_mem (s : State) (b ch n : Nat) : (gateMatch s b ch n).mem = s.mem := by
  induction n generalizing s with
  | zero => rfl
  | succ n ih =>
    dsimp only [gateMatch]
    split <;> simp [ih]

@[simp] theorem gateArrive_mem (s : State) (b ch p : Nat) (o : GateOp) : (gateArrive s b ch p o).mem = s.mem := by
  dsimp only [gateArrive]
  split <;> simp

@[simp] theorem mmaFinish_mem (s : State) (o : GateOp) (t : Nat) (vals : List Nat) : (mmaFinish s o t vals).mem = s.mem := by
  dsimp only [mmaFinish]
  split <;> simp

@[simp] theorem gateResult_mem (s : State) (e : Exchange) (p : Nat) : (gateResult s e p).mem = s.mem := by
  refine onOp_mem s (fun t => ?_) _
  (repeat' split) <;> simp

@[simp] theorem gateComplete_mem (s : State) (b ch : Nat) (e : Exchange) : (gateComplete s b ch e).mem = s.mem := by
  rw [gateComplete]
  split
  next => simp
  next htake => simpa using exchangeTake_mem htake

@[simp] theorem noteStep_mem (s : State) (e : Exchange) (p : Nat) : (noteStep s e p).mem = s.mem := by
  rw [noteStep, onOp_mem]
  exact fun _ => rfl

@[simp] theorem gateStep_mem (s : State) (b ch : Nat) : (gateStep s b ch).mem = s.mem := by
  rw [gateStep]
  split
  next => rfl
  next =>
    split
    next => rfl
    next =>
      split
      next => simp
      next htake => simpa using exchangeTake_mem htake

@[simp] theorem gateAbort_mem (s : State) (b ch : Nat) (e : Exchange) (reason : Nat) : (gateAbort s b ch e reason).mem = s.mem := by
  dsimp only [gateAbort]
  split
  next htake =>
    split at htake
    · simpa using exchangeTake_mem htake
    · cases htake
      simp
  next => simp

@[simp] theorem unpair_mem (s : State) (b ch : Nat) (e : Exchange) : (unpair s b ch e).mem = s.mem := rfl
@[simp] theorem abortDead_mem (s : State) (b ch : Nat) : (abortDead s b ch).mem = s.mem := by simp [abortDead]
@[simp] theorem gateUnitEnded_mem (s : State) (ks : List Nat) : (gateUnitEnded s ks).mem = s.mem := by simp [gateUnitEnded]

@[simp] theorem gateWingReset_mem (s : State) (wing : Nat) (ks : List Nat) : (gateWingReset s wing ks).mem = s.mem := by
  rw [gateWingReset, foldl_mem, gateUnitEnded_mem]
  intro t e
  simp

@[simp] theorem gateUnbind_mem (s : State) (b : Nat) : (gateUnbind s b).mem = s.mem := by simp [gateUnbind]

-- Accesses as they perform.

@[simp] theorem noteStrong_mem (s : State) (pa n : Nat) : (noteStrong s pa n).mem = s.mem := rfl
@[simp] theorem setAcc_mem (s : State) (k i : Nat) (f : Access → Access) : (setAcc s k i f).mem = s.mem := rfl
@[simp] theorem settle_mem (s : State) (k path : Nat) : (settle s k path).mem = s.mem := rfl

@[simp] theorem noteFails_mem (s : State) (k : Nat) (bad : List (Nat × Nat × Nat)) :
    (noteFails s k bad).mem = s.mem := by simp [noteFails]

@[simp] theorem races_mem (s : State) (k : Nat) (a : Access) (rs : List (Bool × Nat × Nat)) : (races s k a rs).2.mem = s.mem := by
  dsimp only [races]
  split <;> simp

@[simp] theorem landCells_mem (s : State) (k i : Nat) (cs : List LandCell) : (landCells s k i cs).mem = s.mem := by
  dsimp only [landCells]
  split <;> simp

@[simp] theorem noteLanes_mem (s : State) (k : Nat) (a : Access) (n : Nat) (ls : List (Nat × Loc)) : (noteLanes s k a n ls).mem = s.mem := by
  rw [noteLanes]
  split
  · refine foldl_mem (fun t e => ?_) ..
    (repeat' split) <;> simp
  · rfl

@[simp] theorem goOn_mem (s : State) (k i : Nat) (kind : AccKind) (left : Bool) (e : Option AccErr) :
    (goOn s k i kind left e).mem = s.mem := by
  dsimp only [goOn]
  (repeat' split) <;> simp

@[simp] theorem axrdGroup_mem (s : State) (k i ety t : Nat) (mode : BitVec 32) (seed : DWord) (dix : BitVec 48) (l : Loc) (g : List (Nat × PUnit)) :
    (axrdGroup k i ety t mode seed dix s l g).1.mem = s.mem := rfl

@[simp] theorem holdS2_mem (s : State) (k i va ipa kind : Nat) (src : Src) (need : Need) (rd : Bool) :
    (holdS2 s k i va ipa kind src need rd).mem = s.mem := rfl

@[simp] theorem noteTlb_mem (s : State) (k va : Nat) (need : Need) : (noteTlb s k va need).mem = s.mem := by simp [noteTlb]
@[simp] theorem unitStop_mem (s : State) (e : Stop) : (unitStop s e).1.mem = s.mem := rfl

@[simp] theorem endTransfer_mem (s : State) (k i w : Nat) (e : Option AccErr) : (endTransfer s k i w e).mem = s.mem := by
  dsimp only [endTransfer]
  split <;> simp

@[simp] theorem failTransfer_mem (s : State) (k i c : Nat) (x : Int) :
    (failTransfer s k i c x).mem = s.mem := by simp [failTransfer]

@[simp] theorem bulkFail_mem (s : State) (k i : Nat) (a : Access) (c x : Nat) :
    (bulkFail s k i a c x).mem = s.mem := by simp [bulkFail]

@[simp] theorem binPut_mem (s : State) (wing n : Nat) (bytes : List Byte) (tags : List Bool) :
    (binPut s wing n bytes tags).mem = s.mem := by
  dsimp only [binPut]
  split <;> simp

theorem performEnq_mem {s t : State} {k i node level : Nat} {bytes : List Byte} {tags : List Bool}
    (e : performEnq s k i node level bytes tags = some t) : t.mem = s.mem := by
  rw [performEnq] at e
  (repeat' split at e) <;> cases e <;> simp

-- Page tables and invalidation.

@[simp] theorem lockPages_mem (s : State) (wing : Nat) (ps : List Nat) : (lockPages s wing ps).mem = s.mem := by simp [lockPages]
@[simp] theorem unlockPages_mem (s : State) (wing : Nat) (ps : List Nat) : (unlockPages s wing ps).mem = s.mem := by simp [unlockPages]

@[simp] theorem endScan_mem (s : State) (wing : Nat) (q : Option Scan) (keep : Bool) : (endScan s wing q keep).mem = s.mem := by
  dsimp only [endScan]
  split <;> simp

@[simp] theorem startScan_mem (s : State) (wing : Nat) (q : Scan) : (startScan s wing q).mem = s.mem := by simp [startScan]
@[simp] theorem tendScans_mem (s : State) (wing : Nat) : (tendScans s wing).mem = s.mem := by simp [tendScans]

@[simp] theorem freeAfterTlbi_mem (s : State) (wing lo hi : Nat) :
    (freeAfterTlbi s wing lo hi).mem = s.mem := by simp [freeAfterTlbi]

@[simp] theorem relocate_mem (s : State) (k i : Nat) (a : Access) : (relocate s k i a).mem = s.mem := by
  dsimp only [relocate]
  split <;> simp

-- Units as they start and end.

@[simp] theorem putUnit_mem (s : State) (wing : Nat) (r : UnitReq) (slots : List Nat) : (putUnit s wing r slots).1.mem = s.mem := by simp [putUnit]
@[simp] theorem nodeMiss_mem (s : State) (m va ipa kind : Nat) : (nodeMiss s m va ipa kind).mem = s.mem := rfl
@[simp] theorem freeUnit_mem (s : State) (n : Nat) : (freeUnit s n).mem = s.mem := by simp [freeUnit]

@[simp] theorem retireUnit_mem (s : State) (n : Nat) : (retireUnit s n).mem = s.mem := by
  dsimp only [retireUnit]
  split <;> simp

@[simp] theorem faultUnit_mem (s : State) (n : Nat) : (faultUnit s n).mem = s.mem := by
  dsimp only [faultUnit]
  split <;> simp

-- Wings, images and restores.

@[simp] theorem stopNowWave_mem (s : State) (k : Nat) : (stopNowWave s k).mem = s.mem := by
  dsimp only [stopNowWave]
  split <;> simp

@[simp] theorem stopWing_mem (s : State) (wing : Nat) : (stopWing s wing).mem = s.mem := by simp [stopWing]
@[simp] theorem placeWindows_mem (s : State) (wing : Nat) : (placeWindows s wing).mem = s.mem := by simp [placeWindows]
@[simp] theorem resumeWing_mem (s : State) (wing : Nat) : (resumeWing s wing).mem = s.mem := by simp [resumeWing]

@[simp] theorem pauseWing_mem (s : State) (wing : Nat) : (pauseWing s wing).mem = s.mem := by
  dsimp only [pauseWing]
  split <;> simp

@[simp] theorem setAssoc_mem (s : State) (n : Nat) (a : Assoc) : (setAssoc s n a).mem = s.mem := rfl
@[simp] theorem mapGateOps_mem (s : State) (f : GateOp → GateOp) : (mapGateOps s f).mem = s.mem := rfl
@[simp] theorem saveGateOps_mem (s : State) (ks : List Nat) (no : Nat) : (saveGateOps s ks no).mem = s.mem := rfl
@[simp] theorem loadGateOps_mem (s : State) (f : Nat → Nat) (no : Nat) : (loadGateOps s f no).mem = s.mem := rfl
@[simp] theorem leaveWing_mem (s : State) (wing : Nat) : (leaveWing s wing).mem = s.mem := by simp [leaveWing]
@[simp] theorem freshImage_mem (s : State) (im : CtxImage) : (freshImage s im).1.mem = s.mem := rfl

@[simp] theorem bringImage_mem (s : State) (im : CtxImage) (key : Option (BitVec 512)) : (bringImage s im key).mem = s.mem := by
  dsimp only [bringImage]
  split <;> simp

@[simp] theorem dropSaved_mem (s : State) (wing : Nat) (count : Bool) : (dropSaved s wing count).mem = s.mem := by simp [dropSaved]

@[simp] theorem endLevels_mem (s : State) (wing : Nat) (reset : Bool) :
    (endLevels s wing reset).mem = s.mem := by simp [endLevels]

@[simp] theorem zeroWing_mem (s : State) (wing : Nat) : (zeroWing s wing).mem = s.mem := by simp [zeroWing]
@[simp] theorem clearBuilds_mem (s : State) (wing : Nat) : (clearBuilds s wing).mem = s.mem := rfl

-- The host link.

@[simp] theorem completeReq_mem (s : State) (assoc : Nat) (r : HostReq) (status val : Nat) :
    (completeReq s assoc r status val).mem = s.mem := rfl

@[simp] theorem failReqs_mem (s : State) (wing : Nat) : (failReqs s wing).mem = s.mem := by simp [failReqs]

@[simp] theorem endWing_mem (s : State) (wing : Nat) : (endWing s wing).mem = s.mem := by
  have hbanks (left : Nat → Bool) (world : Nat) : KeepsMem fun (t : State) c =>
      if left c then t else { t with banks := tdel t.banks (c * 16 + world) } := fun t c => by simp
  dsimp only [endWing]
  split <;>
  · dsimp only
    rw [foldl_mem (hbanks _ _)]
    simp

@[simp] theorem endWings_mem (s : State) : (endWings s).mem = s.mem := by simp [endWings]

@[simp] theorem reply_mem (s : State) (h : HostHdr) (op status val : Nat) (bytes : List Byte) :
    (reply s h op status val bytes).mem = s.mem := by
  dsimp only [reply]
  split <;> simp

@[simp] theorem await_mem (s : State) (h : HostHdr) (op arg : Nat) (hold : Hold) (got : Nat) (part : List Byte) :
    (await s h op arg hold got part).mem = s.mem := rfl

@[simp] theorem uncorrHost_mem (s : State) (h : HostHdr) (status : Nat) : (uncorrHost s h status).mem = s.mem := by
  dsimp only [uncorrHost]
  split <;> simp

@[simp] theorem noteHostFail_mem (s : State) (wing va n : Nat) : (noteHostFail s wing va n).mem = s.mem := by simp [noteHostFail]

@[simp] theorem tendPort_mem (s : State) (n : Nat) : (tendPort s n).mem = s.mem := by
  dsimp only [tendPort]
  split <;> simp

@[simp] theorem tendPorts_mem (s : State) : (tendPorts s).mem = s.mem := by simp [tendPorts]

-- The host's commands.

theorem takeBanks_mem {s t : State} {world n : Nat} {cs : List Nat} (e : takeBanks s world n cs = some t) : t.mem = s.mem := by
  induction cs generalizing s with
  | nil =>
    cases e
    rfl
  | cons c cs ih =>
    rw [takeBanks] at e
    split at e
    · exact ih e
    · split at e
      · exact (ih e).trans rfl
      · cases e

@[simp] theorem slowDown_mem (s : State) : (slowDown s).mem = s.mem := by
  dsimp only [slowDown]
  split <;> simp

theorem createWing_mem {s : State} {bs : List Byte} {r : State × Nat} (e : createWing s bs = .ok r) : r.1.mem = s.mem := by
  dsimp only [createWing] at e
  split at e
  · cases e
  · split at e
    · cases e
    · split at e
      · cases e
      · split at e
        next hbanks _ =>
          rw [ite_eq_iff] at e
          obtain ⟨-, e⟩ | ⟨-, e⟩ := e
          · simp at e
          · rw [← Except.ok.inj e]
            simp [takeBanks_mem hbanks]
        next => cases e

theorem allotNodes_mem {s : State} {graph : Nat} {ns : List (NodeSpec × LaunchInfo)} {r : State × List Nat}
    (e : allotNodes s graph ns = some r) : r.1.mem = s.mem := by
  induction ns generalizing s r with
  | nil =>
    cases e
    rfl
  | cons n ns ih =>
    dsimp only [allotNodes] at e
    split at e
    next => cases e
    next =>
      split at e
      next => cases e
      next hrest =>
        cases e
        exact (ih hrest).trans rfl

@[simp] theorem resumeHeld_mem (s : State) (n _k : Nat) : (resumeHeld s n _k).mem = s.mem := by simp [resumeHeld]

@[simp] theorem mapWaits_mem (s : State) (h : HostHdr) (wing va : Nat) (ans : MapAns) :
    (mapWaits s h wing va ans).mem = s.mem := by
  dsimp only [mapWaits]
  split <;> simp

@[simp] theorem mapCaps_mem (s : State) (f : Cap → Cap) : (mapCaps s f).mem = s.mem := rfl

@[simp] theorem sweepMiss_mem (s : State) (q : SweepReq) (va ipa kind : Nat) (wr : Bool) :
    (sweepMiss s q va ipa kind wr).1.mem = s.mem := rfl

@[simp] theorem hostTick_mem (s : State) : (hostTick s).mem = s.mem := by simp [hostTick]
@[simp] theorem gateRelease_mem (s : State) (b : Nat) : (gateRelease s b).mem = s.mem := by simp [gateRelease]

@[simp] theorem voidPeer_mem (s : State) (b ch p : Nat) : (voidPeer s b ch p).mem = s.mem := by
  dsimp only [voidPeer]
  split <;> simp

-- Around the step.

@[simp] theorem moveCore_mem (s : State) (core : Nat) : (moveCore s core).mem = s.mem := by simp [moveCore]
@[simp] theorem reportFrame_mem (s : State) (frame : Nat) : (reportFrame s frame).mem = s.mem := by simp [reportFrame]
@[simp] theorem countCorrected_mem (s : State) (kind : SpareKind) (elem : Nat) : (countCorrected s kind elem).mem = s.mem := rfl

@[simp] theorem serveDram_mem (s : State) (use : DramUse) (pa bursts acts turns : Nat) :
    (serveDram s use pa bursts acts turns).mem = s.mem := by
  dsimp only [serveDram]
  (repeat' split) <;> simp

@[simp] theorem fetchMiss_mem (s : State) (k : Nat) (src : Src) (ipa kind : Nat) : (fetchMiss s k src ipa kind).mem = s.mem := rfl

@[simp] theorem afterIssue_mem (s : State) (k : Nat) (src : Src) (h : Hold) (i : Instr) :
    (afterIssue k src h i s).mem = s.mem := by
  dsimp only [afterIssue]
  split <;> simp

@[simp] theorem outOfHandler_mem (s : State) (k : Nat) : (outOfHandler s k).mem = s.mem := by
  dsimp only [outOfHandler]
  split <;> simp

@[simp] theorem intoHandler_mem (s : State) (k : Nat) (src : Src) (old : Wave) : (intoHandler s k src old).mem = s.mem := by
  dsimp only [intoHandler]
  split <;> simp

end Sys2Proof.Proofs.MemoryKept
end

section
/-! What writes memory keeps its canonical form (the model's choice, log 2): of every operation on the state that can write a byte, that
the addresses listed rise strictly and no byte listed is 0 afterwards where they did before. Laws/Memory.lean says it of the writes
themselves; here it is said of what the model builds from them, in the order of its files. -/
namespace Sys2Proof.Proofs.MemoryCanonical
open Sys2Proof Sys2Proof.Machine Sys2Proof.Laws.Tables Sys2Proof.Laws.Mem Sys2Proof.Laws.State Sys2Proof.Laws.Ops
open Sys2Proof.Proofs.MemoryKept

/-- An operation on the state keeps the canonical form of memory. -/
def KeepsWf (f : State → State) : Prop := ∀ s, Memory.wf s.mem = true → Memory.wf (f s).mem = true

/-- A step of a fold keeps the canonical form of memory. -/
def FoldKeepsWf {β : Type} (f : State → β → State) : Prop := ∀ s b, Memory.wf s.mem = true → Memory.wf (f s b).mem = true

@[simp] theorem keepsWf_iff (f : State → State) :
    KeepsWf f ↔ ∀ s, Memory.wf s.mem = true → Memory.wf (f s).mem = true := by rw [KeepsWf]

@[simp] theorem foldKeepsWf_iff {β : Type} (f : State → β → State) :
    FoldKeepsWf f ↔ ∀ s b, Memory.wf s.mem = true → Memory.wf (f s b).mem = true := by rw [FoldKeepsWf]

@[simp] theorem wf_foldl_state {β : Type} {f : State → β → State} (hf : FoldKeepsWf f) (l : List β) {s : State}
    (h : Memory.wf s.mem = true) : Memory.wf (l.foldl f s).mem = true := wf_fold f hf l h

/-- The canonical form after a choice. -/
theorem wf_ite {c : Prop} [Decidable c] {s t : State} (hs : Memory.wf s.mem = true) (ht : Memory.wf t.mem = true) :
    Memory.wf (if c then s else t).mem = true := by split <;> assumption

/-- The form of a memory that is that of another state. -/
theorem wf_of_mem {s t : State} (e : t.mem = s.mem) (h : Memory.wf s.mem = true) : Memory.wf t.mem = true := e ▸ h

/-- The form of the state that an operation with a result gives. -/
theorem wf_of_fst {α : Type} {r : State × α} {t : State} {x : α} (e : r = (t, x)) (h : Memory.wf r.1.mem = true) :
    Memory.wf t.mem = true := by
  rw [e] at h
  exact h

section
variable {s : State} (h : Memory.wf s.mem = true)
include h

-- The words and records of the launch.

theorem wf_writeWord (w : Wing) (va word : Nat) (d : Hold) {t : State} (e : writeWord s w va word d = .ok t) :
    Memory.wf t.mem = true := by
  simp only [writeWord] at e
  split at e
  · rw [← Except.ok.inj e]
    exact wf_writePieces w _ h va _
  · rw [← Except.ok.inj e, uncorrDev_mem]
    exact h
  · cases e

theorem wf_refuseLaunch (wing : Nat) (done : Cap) (code : Nat) (d : Hold) {t : State}
    (e : refuseLaunch s wing done code d = .ok t) : Memory.wf t.mem = true := by
  simp only [refuseLaunch] at e
  split at e
  · rw [← Except.ok.inj e]
    exact h
  · exact wf_writeWord h _ _ _ _ e

theorem wf_signalLevel (slot : Nat) {t : State} (e : signalLevel s slot = .ok t) : Memory.wf t.mem = true := by
  simp only [signalLevel] at e
  split at e
  · rw [← Except.ok.inj e]
    exact h
  · exact wf_writeWord h _ _ _ _ e

@[simp] theorem wf_completeLevel (slot : Nat) : Memory.wf (completeLevel s slot).mem = true := by
  dsimp only [completeLevel]
  split
  next e => simpa using wf_signalLevel h slot e
  next => simpa using h

@[simp] theorem wf_postNext (slot : Nat) : Memory.wf (postNext s slot).mem = true := by
  dsimp only [postNext]
  split
  · split
    · simpa using h
    · simpa using h
    · split
      · split
        · simpa using wf_refuseLaunch h _ _ _ _ ‹_›
        · simpa using h
      · split
        next e => simpa using wf_of_mem (enterLaunch_mem e) h
        next => exact h
  · exact h

@[simp] theorem wf_tendPost (slot : Nat) : Memory.wf (tendPost s slot).mem = true := by
  rw [tendPost]
  exact wf_ite h (wf_postNext h slot)

@[simp] theorem wf_tendPosts : Memory.wf (tendPosts s).mem = true :=
  wf_fold _ (fun _ _ hs => wf_ite (wf_tendPost hs _) hs) _ h

-- The recipes' tiles.

@[simp] theorem wf_dropLine (line : Nat) : Memory.wf (dropLine s line).mem = true := by
  dsimp only [dropLine]
  split
  · exact h
  · exact wf_restoreLine (s := forgetStrong s line) h _ _

@[simp] theorem wf_dropTile (wing id : Nat) : Memory.wf (dropTile s wing id).mem = true := by
  rw [dropTile, setRecipe_mem]
  exact wf_fold _ (fun _ _ hs => wf_fold _ (fun _ _ hs => wf_dropLine hs _) _ hs) _ h

@[simp] theorem wf_launchBuild (wing id : Nat) : Memory.wf (launchBuild s wing id).mem = true := by
  dsimp only [launchBuild]
  split
  next => exact h
  next e =>
    rw [setRecipe_mem]
    refine wf_fold _ (fun _ _ hs => wf_writeMem hs _ _) _ ?_
    simpa using wf_of_mem (newLevel_mem e) h

omit h in
@[simp] theorem wf_goNeed {s : State} (h : Memory.wf s.mem = true) (wing n id : Nat) : Memory.wf (goNeed s wing n id).mem = true := by
  induction n generalizing s id with
  | zero => simpa [goNeed] using h
  | succ n ih =>
    dsimp only [goNeed]
    (repeat' split) <;> simp [h, ih]

@[simp] theorem wf_tendBuilds (wing : Nat) : Memory.wf (tendBuilds s wing).mem = true :=
  wf_fold _ (fun _ _ hs => wf_goNeed hs _ _ _) _ h

@[simp] theorem wf_startNeed (wing id : Nat) : Memory.wf (startNeed s wing id).mem = true := by
  dsimp only [startNeed]
  split <;> simp [h]

@[simp] theorem wf_buildDone (wing id : Nat) : Memory.wf (buildDone s wing id).mem = true := by simp [buildDone, h]

@[simp] theorem wf_parkAcc (k i id : Nat) : Memory.wf (parkAcc s k i id).mem = true := by simp [parkAcc, h]

@[simp] theorem wf_backBytes (wing ipa : Nat) (bs : List Byte) : Memory.wf (backBytes s wing ipa bs).mem = true := by
  dsimp only [backBytes]
  (repeat' split) <;> simp [h, wf_writeMem]

@[simp] theorem wf_backState (wing id : Nat) : Memory.wf (backState s wing id).mem = true := by simp [backState, h]

@[simp] theorem wf_backBlock (wing id : Nat) (b : RecipeBlock) : Memory.wf (backBlock s wing id b).mem = true := by
  dsimp only [backBlock]
  split <;> simp [h]

@[simp] theorem wf_backRecords (wing : Nat) : Memory.wf (backRecords s wing).mem = true :=
  wf_fold _ (fun _ _ hs => wf_backState hs _ _) _ h

@[simp] theorem wf_defineRecipe (wing : Nat) (b : RecipeBlock) (build : Bool) :
    Memory.wf (defineRecipe s wing b build).1.mem = true := by
  dsimp only [defineRecipe]
  split
  · have hs : Memory.wf (backBlock (setRecipe s wing (tfree 0 (wingAt s wing).recipes) (parseRecipe s wing b).2) wing
        (tfree 0 (wingAt s wing).recipes) b).mem = true := by simp [h]
    refine wf_ite (wf_startNeed (wf_backState hs _ _) _ _) (wf_backState hs _ _)
  · exact h

-- What a race leaves in memory, and the landings.

@[simp] theorem wf_scramble (k : Nat) (rs : List (Bool × Nat × Nat)) : Memory.wf (scramble s k rs).mem = true :=
  wf_fold _ (fun t _ hs => wf_of_mem (tick_mem _) (wf_ite (wf_of_mem (putScr_mem t ..) hs) (wf_writeMem hs _ _))) _ h

@[simp] theorem wf_landing {f : State → State} (hf : KeepsWf f) (k : Nat) (a : Access) (rs : List (Bool × Nat × Nat)) :
    Memory.wf (landing s k a rs f).mem = true := wf_scramble (hf _ (wf_of_mem (races_mem ..) h)) _ _

@[simp] theorem wf_hostLands {f : State → State} (hf : KeepsWf f) (pa n : Nat) : Memory.wf (hostLands s pa n f).mem = true :=
  wf_landing h hf _ _ _

omit h in
@[simp] theorem wf_writeSegs {s : State} (h : Memory.wf s.mem = true) (k : Nat) (l : List (Loc × Nat)) (bs : List Byte) :
    Memory.wf (writeSegs s k l bs).mem = true := by
  induction l generalizing s bs with
  | nil => exact h
  | cons p l ih => exact ih (wf_writeLoc h _ _ _) _

@[simp] theorem wf_landSegs (k : Nat) (a : Access) (l : List (Loc × Nat)) (bs : List Byte) :
    Memory.wf (landSegs s k a l bs).mem = true := wf_landing h (fun _ hs => wf_writeSegs hs _ _ _) _ _ _

@[simp] theorem wf_landCap (k : Nat) (a : Access) (l : Loc) (c : Cap) : Memory.wf (landCap s k a l c).mem = true :=
  wf_landing h (fun _ hs => wf_writeCapLoc hs _ _ _) _ _ _

@[simp] theorem wf_landVia (k : Nat) (a : Access) (cap : Cap) (y : Nat) (bs : List Byte) (need : Need) :
    Memory.wf (landVia s k a cap y bs need).1.mem = true := by
  dsimp only [landVia]
  split <;> simp [h]

-- Loads, stores and atomics of a wave as they perform.

theorem wf_performLoad (k i m : Nat) (a : Access) (n : Nat) (ls : List (Nat × Loc)) (kind : List (Nat × Loc) → AccKind)
    (f : State → Nat → Loc → List LandCell) {t : State} (e : performLoad s k i m a n ls kind f = some t) :
    Memory.wf t.mem = true := by
  simp only [performLoad] at e
  split at e
  · cases e
  · split at e
    · rw [← Option.some.inj e]
      simp [h]
    · rw [← Option.some.inj e]
      simp [h]

theorem wf_performStore {α : Type} (k i m : Nat) (a : Access) (n : Nat) (ls : List (Nat × Loc × α))
    (kind : List (Nat × Loc × α) → AccKind) {f : State → Loc → α → State}
    (hf : ∀ s l x, Memory.wf s.mem = true → Memory.wf (f s l x).mem = true) {t : State}
    (e : performStore s k i m a n ls kind f = some t) : Memory.wf t.mem = true := by
  simp only [performStore] at e
  split at e
  · cases e
  · rw [← Option.some.inj e, goOn_mem]
    refine wf_scramble (wf_fold _ (fun _ _ hs => hf _ _ _ hs) _ ?_) _ _
    simpa using h

/-- A fold over the groups of an atomic's lanes, each of which keeps the form. -/
theorem wf_groups {α : Type} {f : State → Loc → List (Nat × α) → State × List LandCell}
    (hf : ∀ s l g, Memory.wf s.mem = true → Memory.wf (f s l g).1.mem = true) (gs : List (Loc × List (Nat × α))) (cs : List LandCell) :
    Memory.wf (gs.foldl (fun (q : State × List LandCell) g => ((f q.1 g.1 g.2).1, q.2 ++ (f q.1 g.1 g.2).2)) (s, cs)).1.mem = true := by
  induction gs generalizing s cs with
  | nil => exact h
  | cons g gs ih => exact ih (hf _ _ _ h) _

theorem wf_performAtomic {α : Type} (k i m : Nat) (a : Access) (wr : Bool) (n : Nat) (ls : List (Nat × Loc × α))
    (kind : List (Nat × Loc × α) → AccKind) {f : State → Loc → List (Nat × α) → State × List LandCell}
    (hf : ∀ s l g, Memory.wf s.mem = true → Memory.wf (f s l g).1.mem = true) {t : State}
    (e : performAtomic s k i m a wr n ls kind f = some t) : Memory.wf t.mem = true := by
  simp only [performAtomic] at e
  split at e
  · cases e
  · split at e
    · rw [← Option.some.inj e]
      exact wf_parkAcc h _ _ _
    · split at e
      · rw [← Option.some.inj e, goOn_mem, landCells_mem]
        refine wf_scramble (wf_groups ?_ hf _ _) _ _
        simp [h]
      · rw [← Option.some.inj e]
        simpa using h

@[simp] theorem wf_rmwGroup (k : Nat) (op : AtomOp) (ety n t : Nat) (l : Loc) (g : List (Nat × Nat)) :
    Memory.wf (rmwGroup k op ety n t s l g).1.mem = true := by simp [rmwGroup, h, wf_writeLoc]

@[simp] theorem wf_casGroup (k n t : Nat) (l : Loc) (g : List (Nat × Nat × Nat)) :
    Memory.wf (casGroup k n t s l g).1.mem = true := by
  dsimp only [casGroup]
  (repeat' split) <;> simp [h, wf_writeLoc]

@[simp] theorem wf_axaddGroup (k ety : Nat) (l : Loc) (g : List (Nat × Nat)) :
    Memory.wf (axaddGroup k ety s l g).1.mem = true := by simp [axaddGroup, h, wf_writeLoc]

@[simp] theorem wf_performBar (k i : Nat) (a : Access) (op : BarOp) (t off : Nat) (val : DWord) :
    Memory.wf (performBar s k i a op t off val).mem = true := by
  dsimp only [performBar]
  (repeat' split) <;> simp [h, wf_writeLoc]

@[simp] theorem wf_performDeque (k i : Nat) (a : Access) (op : DequeOp) (t va : Nat) (hd : Loc) (val : DWord) (cap : Cap) :
    Memory.wf (performDeque s k i a op t va hd val cap).mem = true := by
  dsimp only [performDeque]
  split
  · exact wf_parkAcc h _ _ _
  · simpa using h
  split
  · simpa using h
  split
  · (repeat' split) <;> simpa using h
  split
  · simpa using h
  split
  · simpa using h
  · simpa using h
  split
  · exact wf_parkAcc h _ _ _
  · simpa using h
  · rw [goOn_mem]
    refine wf_ite ?_ (wf_of_mem (landCells_mem ..) ?_) <;>
      refine wf_scramble (wf_writeLoc (wf_ite (wf_writeLoc ?_ _ _ _) ?_) _ _ _) _ _ <;> simp [h]

-- The engines: transfers that move unit after unit.

/-- A unit of a transfer keeps the canonical form of memory. -/
def UnitKeepsWf (f : UnitStep) : Prop := ∀ s i, Memory.wf s.mem = true → Memory.wf (f s i).1.mem = true

@[simp] theorem wf_stopAt (k i prog w : Nat) (e : Stop) : Memory.wf (stopAt s k i prog w e).mem = true := by
  dsimp only [stopAt]
  split <;> simp [h]

omit h in
theorem wf_runUnits {s : State} (h : Memory.wf s.mem = true) {f : UnitStep} (hf : UnitKeepsWf f) (n i w : Nat) :
    Memory.wf (runUnits f n i s w).1.mem = true := by
  induction n generalizing s i w with
  | zero => exact h
  | succ n ih =>
    simp only [runUnits]
    split
    next e => exact ih (wf_of_fst e (hf s i h)) _ _
    next e => exact wf_of_fst e (hf s i h)

omit h in
theorem wf_strayUnits {s : State} (h : Memory.wf s.mem = true) {f : UnitStep} (hf : UnitKeepsWf f) (pick n i w : Nat) :
    Memory.wf (strayUnits f pick n i s w).1.mem = true := by
  induction n generalizing s i w with
  | zero => exact h
  | succ n ih =>
    simp only [strayUnits]
    split
    · split
      next e => exact ih (wf_of_fst e (hf s i h)) _ _
      next => exact ih h _ _
    · exact ih h _ _

theorem wf_moveUnits {f : UnitStep} (hf : UnitKeepsWf f) (k i n : Nat) (a : Access) (total : Nat) (pix : Nat → Nat) (stray : Bool) :
    Memory.wf (moveUnits s k i n a total pix stray f).mem = true := by
  dsimp only [moveUnits]
  have hr := wf_runUnits h hf (if n = 0 then total - a.prog else min n (total - a.prog)) a.prog 0
  split
  · exact wf_ite (wf_of_mem (setAcc_mem ..) hr) (wf_of_mem (endTransfer_mem ..) hr)
  · rw [endTransfer_mem, tick_mem, noteFails_mem]
    split
    · exact wf_strayUnits (s := tick _) hr hf _ _ _ _
    · exact hr
  · exact wf_stopAt (s := tick _) hr _ _ _ _ _

omit h in
theorem rowStep_keepsWf {k : Nat} {a : Access} {gather : Bool} {len dest : Nat} {base : Int} {m z : Cap} {idx : List Int} :
    UnitKeepsWf (rowStep k a gather len dest base m z idx) := by
  intro s i h
  dsimp only [rowStep]
  split
  · exact h
  · split <;> exact wf_landVia h _ _ _ _ _ _

omit h in
theorem tensorStep_keepsWf {s0 : State} {k : Nat} {a : Access} {dst src : Cap} {d : TensorDesc} :
    UnitKeepsWf (tensorStep s0 k a dst src d) := by
  intro s i h
  dsimp only [tensorStep]
  split
  · split
    · exact h
    · exact h
    · split
      · exact wf_landCap (by simpa using h) _ _ _ _
      · exact wf_landSegs (by simpa using h) _ _ _ _
  · split
    · exact h
    · exact wf_landVia h _ _ _ _ _ _

omit h in
theorem byteStep_keepsWf {k i : Nat} {a : Access} {dst src : Cap} {len : Nat} : UnitKeepsWf (byteStep k i a dst src len) := by
  intro s j h
  dsimp only [byteStep]
  split
  · exact h
  · exact h
  · split
    · exact wf_landCap (by simpa using h) _ _ _ _
    · rw [setAcc_mem]
      exact wf_landSegs (by simpa using h) _ _ _ _

@[simp] theorem wf_performRows (k i n : Nat) (a : Access) (gather : Bool) (word : DWord) (base : Int) (m z : Cap)
    (idx : Option (List Int)) : Memory.wf (performRows s k i n a gather word base m z idx).mem = true := by
  dsimp only [performRows]
  split
  · exact wf_moveUnits h rowStep_keepsWf _ _ _ _ _ _ _
  split
  · simpa using h
  split
  · simpa using h
  split
  · simpa using h
  · exact wf_stopAt h _ _ _ _ _
  split
  · simpa using h
  · exact wf_moveUnits (by simpa using h) rowStep_keepsWf _ _ _ _ _ _ _

@[simp] theorem wf_performTcpy (k i n : Nat) (a : Access) (dst src desc : Cap) (daddr : Nat) (d : Option TensorDesc) :
    Memory.wf (performTcpy s k i n a dst src desc daddr d).mem = true := by
  dsimp only [performTcpy]
  split
  · exact wf_moveUnits h tensorStep_keepsWf _ _ _ _ _ _ _
  split
  · simpa using h
  · exact wf_stopAt h _ _ _ _ _
  · simpa using h
  split
  · simpa using h
  · exact wf_moveUnits (by simpa using h) tensorStep_keepsWf _ _ _ _ _ _ _

@[simp] theorem wf_performBcpy (k i n : Nat) (a : Access) (dst src : Cap) (len : Nat) :
    Memory.wf (performBcpy s k i n a dst src len).mem = true := by
  dsimp only [performBcpy]
  split
  · simpa using h
  · exact wf_moveUnits h byteStep_keepsWf _ _ _ _ _ _ _

@[simp] theorem wf_performPubl (k i : Nat) (a : Access) (scr : Bool) (x len : Nat) :
    Memory.wf (performPubl s k i a scr x len).mem = true := by
  dsimp only [performPubl]
  split
  · simpa using h
  split
  · simpa using h
  · exact wf_stopAt h _ _ _ _ _
  · rw [endTransfer_mem, invalidate_mem]
    refine wf_fold _ (fun _ _ hs => ?_) _ h
    split
    · exact wf_writeMem hs _ _
    · exact hs

@[simp] theorem wf_performSlot (k i : Nat) (a : Access) (o base : Nat) (segs : List (Nat × Loc)) :
    Memory.wf (performSlot s k i a o base segs).mem = true := by
  dsimp only [performSlot]
  split <;> simp [h]

/-- The cabinet's image, line by line, is read only. -/
theorem wf_performCabinet (k i n : Nat) (a : Access) (cap : Cap) (x : Nat) :
    Memory.wf (performCabinet s k i n a cap x).mem = true := by
  dsimp only [performCabinet]
  generalize hr : runUnits _ _ _ _ _ = r
  have hw : Memory.wf r.1.mem = true := by
    rw [← hr]
    refine wf_runUnits h (fun s j hs => ?_) _ _ _
    split <;> exact hs
  split
  · exact wf_ite (wf_of_mem (setAcc_mem ..) hw) (wf_of_mem (goOn_mem ..) hw)
  · simpa using hw
  · exact wf_stopAt hw _ _ _ _ _

@[simp] theorem wf_performTail (k i : Nat) (a : Access) (n : Nat) (cap : Cap) (x : Nat) :
    Memory.wf (performTail s k i a n cap x).mem = true := by
  dsimp only [performTail]
  (repeat' split) <;> simp [h]

@[simp] theorem wf_performTile (k i : Nat) (a : Access) (t : Nat) (cap : Cap) (x : Nat) :
    Memory.wf (performTile s k i a t cap x).mem = true := by
  dsimp only [performTile]
  split <;> simp [h]

@[simp] theorem wf_performDrain (k i n : Nat) (a : Access) (cap : Cap) (rows : List (Nat × DWord × Nat × List Byte)) :
    Memory.wf (performDrain s k i n a cap rows).mem = true := by
  dsimp only [performDrain]
  generalize hr : runUnits _ _ _ _ _ = r
  have hw : Memory.wf r.1.mem = true := by
    rw [← hr]
    refine wf_runUnits h (fun s j hs => ?_) _ _ _
    exact wf_landVia hs _ _ _ _ _ _
  split
  · simpa using hw
  · simpa using hw
  · exact wf_stopAt (s := setAcc ..) (by simpa using hw) _ _ _ _ _

-- The shares' records.

omit h in
@[simp] theorem wf_writeRecord {s : State} (h : Memory.wf s.mem = true) (w : Wing) (x : Pool) (kind id : Nat) (bs : List Byte) :
    Memory.wf (writeRecord s w x kind id bs).1.mem = true := by
  dsimp only [writeRecord]
  generalize cutAt _ _ _ = l
  generalize hr : (s, (none : Option Nat)) = r
  replace h : Memory.wf r.1.mem = true := hr ▸ h
  clear hr
  induction l generalizing r with
  | nil => exact h
  | cons p l ih =>
    refine ih _ ?_
    dsimp only
    split
    · exact h
    · split
      · exact wf_writeMem h _ _
      · exact h

@[simp] theorem wf_dealRecord (wave : Nat) (a : Access) (k : Cap) (bs : List Byte) :
    Memory.wf (dealRecord s wave a k bs).1.mem = true := by
  dsimp only [dealRecord]
  split
  · exact h
  split
  · exact h
  split
  · exact h
  generalize hr : writeRecord _ _ _ _ _ _ = r
  have hw : Memory.wf r.1.mem = true := by
    rw [← hr]
    exact wf_writeRecord (wf_of_mem (races_mem ..) h) _ _ _ _ _
  split
  · exact wf_scramble hw _ _
  · rw [setBind_mem]
    exact wf_scramble hw _ _

omit h in
/-- Dealing by an operation of its own name, so that the kernel, which would run it on the pools' counts of 2^40, leaves it closed. -/
theorem exists_dealRecord : ∃ g, g = @dealRecord ∧ ∀ {s : State}, Memory.wf s.mem = true → ∀ (wave : Nat) (a : Access) (k : Cap)
    (bs : List Byte), Memory.wf (g s wave a k bs).1.mem = true := ⟨_, rfl, wf_dealRecord⟩

omit h in
@[simp] theorem wf_dealAll {s : State} (h : Memory.wf s.mem = true) (k : Cap) (bs : List Byte) (n j : Nat) :
    Memory.wf (dealAll k bs n j s).1.mem = true := by
  obtain ⟨g, hg, hd⟩ := exists_dealRecord
  delta dealAll dealAll._f
  rw [← hg]
  induction n generalizing s j with
  | zero => exact h
  | succ n ih =>
    dsimp only
    split
    next e => exact ih (wf_of_fst e (hd h _ _ _ _)) _
    next e => exact wf_of_fst e (hd h _ _ _ _)

@[simp] theorem wf_performDeal (k i n : Nat) (a : Access) (t x : Nat) (cap : Cap) :
    Memory.wf (performDeal s k i n a t x cap).mem = true := by
  obtain ⟨g, hg, hd⟩ := exists_dealRecord
  rw [performDeal, ← hg]
  dsimp only
  split
  · simpa using h
  split
  · simpa using h
  · exact wf_stopAt h _ _ _ _ _
  split
  · simpa using h
  split
  · simpa using h
  generalize hr : runUnits _ _ _ _ _ = r
  have hw : Memory.wf r.1.mem = true := by
    rw [← hr]
    refine wf_runUnits h (fun s j hs => ?_) _ _ _
    split
    · exact hs
    · split
      next e => exact wf_of_fst e (hd hs _ _ _ _)
      next e => exact wf_of_fst e (hd hs _ _ _ _)
  split
  · exact wf_ite (wf_of_mem (setAcc_mem ..) hw) (by simpa using hw)
  · (repeat' split) <;> simpa using hw
  · exact wf_stopAt hw _ _ _ _ _

@[simp] theorem wf_performFlush (k i n : Nat) (a : Access) (inv gone : Bool) (x len : Nat) :
    Memory.wf (performFlush s k i n a inv gone x len).mem = true := by
  dsimp only [performFlush]
  refine wf_moveUnits h (fun s j hs => ?_) _ _ _ _ _ _ _
  split
  · exact hs
  split
  · split
    · exact wf_tendBuilds (wf_dropTile hs _ _) _
    · exact wf_discardLine hs _
  · simpa using hs

/-- An access that performs one of its parts, of whatever kind it is. -/
theorem wf_performKind (k i n : Nat) (a : Access) {t : State} (e : performKind s k i n a = some t) : Memory.wf t.mem = true := by
  dsimp only [performKind] at e
  split at e
  · exact wf_performLoad h _ _ _ _ _ _ _ _ e
  · exact wf_performLoad h _ _ _ _ _ _ _ _ e
  · exact wf_performLoad h _ _ _ _ _ _ _ _ e
  · exact wf_performLoad h _ _ _ _ _ _ _ _ e
  · exact wf_performStore h _ _ _ _ _ _ _ (fun _ _ _ hs => wf_writeLoc hs _ _ _) e
  · exact wf_performStore h _ _ _ _ _ _ _ (fun _ _ _ hs => wf_writeCapLoc hs _ _ _) e
  · exact wf_performAtomic h _ _ _ _ _ _ _ _ (fun _ _ _ hs => wf_rmwGroup hs _ _ _ _ _ _ _) e
  · exact wf_performAtomic h _ _ _ _ _ _ _ _ (fun _ _ _ hs => wf_casGroup hs _ _ _ _ _) e
  · exact wf_performAtomic h _ _ _ _ _ _ _ _ (fun _ _ _ hs => wf_axaddGroup hs _ _ _ _) e
  · exact wf_performAtomic h _ _ _ _ _ _ _ _ (fun s _ _ hs => wf_of_mem (axrdGroup_mem ..) hs) e
  · exact Option.some.inj e ▸ wf_performDeque h _ _ _ _ _ _ _ _ _
  · exact Option.some.inj e ▸ wf_performBar h _ _ _ _ _ _ _
  · exact Option.some.inj e ▸ wf_performRows h _ _ _ _ _ _ _ _ _ _
  · exact Option.some.inj e ▸ wf_performTcpy h _ _ _ _ _ _ _ _ _
  · exact Option.some.inj e ▸ wf_performBcpy h _ _ _ _ _ _ _
  · exact Option.some.inj e ▸ wf_performPubl h _ _ _ _ _ _
  · exact Option.some.inj e ▸ wf_performSlot h _ _ _ _ _ _
  · exact Option.some.inj e ▸ wf_performCabinet h _ _ _ _ _ _
  · split at e
    · cases e
    · exact Option.some.inj e ▸ wf_performTail h _ _ _ _ _ _
  · exact Option.some.inj e ▸ wf_performTile h _ _ _ _ _ _
  · exact Option.some.inj e ▸ wf_performDrain h _ _ _ _ _ _
  · exact Option.some.inj e ▸ wf_performDeal h _ _ _ _ _ _ _
  · cases e
  · split at e
    · cases e
    · exact wf_of_mem (performEnq_mem e) h
  · exact Option.some.inj e ▸ wf_performFlush h _ _ _ _ _ _ _ _
  · exact Option.some.inj e ▸ wf_performFlush h _ _ _ _ _ _ _ _

theorem wf_perform (k i n : Nat) {t : State} (e : perform s k i n = some t) : Memory.wf t.mem = true := by
  dsimp only [perform] at e
  split at e
  · cases e
  split at e
  · cases e
  split at e
  · exact Option.some.inj e ▸ wf_of_mem (relocate_mem ..) h
  · exact wf_performKind h _ _ _ _ e

/-- A move that performs a part, where it can. -/
theorem wf_perform_getD (k i n : Nat) : Memory.wf ((perform s k i n).getD s).mem = true := by
  cases e : perform s k i n with
  | none => exact h
  | some t => exact wf_perform h _ _ _ e

-- Scrubbing.

omit h in
@[simp] theorem wf_scrubLines {s : State} (h : Memory.wf s.mem = true) (frame owner n i rep : Nat) :
    Memory.wf (scrubLines s frame owner n i rep).1.mem = true := by
  induction n generalizing s i rep with
  | zero => exact h
  | succ n ih =>
    simp only [scrubLines]
    split
    · split
      · exact h
      · exact ih (wf_scrubLine (s := tick s) h _ _) _ _
    · exact ih (wf_scrubLine h _ _) _ _

omit h in
@[simp] theorem wf_scrubPage {s : State} (h : Memory.wf s.mem = true) (fs : List (Nat × Nat)) (r : Receipt) :
    Memory.wf (scrubPage s fs r).1.mem = true := by
  dsimp only [scrubPage]
  generalize hr : (s, r.rep, (none : Option Nat)) = a
  replace h : Memory.wf a.1.mem = true := hr ▸ h
  clear hr
  induction fs generalizing a with
  | nil => exact h
  | cons f fs ih =>
    refine ih _ ?_
    dsimp only
    split
    · exact h
    · exact wf_scrubLines (wf_logWrite h _) _ _ _ _ _

omit h in
@[simp] theorem wf_hostScrubGo {s : State} (h : Memory.wf s.mem = true) (g : Wing) (phys : Bool) (owner base n i : Nat) (r : Receipt) :
    Memory.wf (hostScrubGo g phys owner base n i r s).1.mem = true := by
  induction n generalizing s i r with
  | zero => exact h
  | succ n ih =>
    simp only [hostScrubGo]
    split
    · exact h
    next fs _ =>
      split
      · exact h
      · split
        next e => exact wf_of_fst e (wf_scrubPage (s := tick s) h _ _)
        next e => exact ih (wf_of_fst e (wf_scrubPage (s := tick s) h _ _)) _ _

-- Units, levels and wings.

@[simp] theorem wf_bootUnit (n : Nat) : Memory.wf (bootUnit s n).mem = true := by
  dsimp only [bootUnit]
  split <;> simp [h]

@[simp] theorem wf_bootWaiters : Memory.wf (bootWaiters s).mem = true :=
  wf_fold _ (fun _ _ hs => wf_ite (wf_bootUnit hs _) hs) _ h

@[simp] theorem wf_putRecord (g : Wing) (va : Nat) (r : BinRecord) : Memory.wf (putRecord s g va r).mem = true := by
  refine wf_of_mem (foldl_mem (fun t i => ?_) _ _) (wf_devWrite h g va r.bytes)
  (repeat' split) <;> rfl

@[simp] theorem wf_startCand (wing : Nat) (c : Cand) (slots : List Nat) : Memory.wf (startCand s wing c slots).mem = true := by
  dsimp only [startCand]
  split
  · exact wf_bootUnit (by simpa using h) _
  · split
    · simpa using h
    · refine wf_bootUnit ?_ _
      rw [setNode_mem]
      exact wf_fold _ (fun _ _ hs => wf_putRecord hs _ _ _) _ (by simpa using h)

@[simp] theorem wf_swapWing (wing : Nat) : Memory.wf (swapWing s wing).mem = true := by simp [swapWing, h]

theorem wf_onContext {f : State → State} (hf : KeepsWf f) (wing : Nat) : Memory.wf (onContext s wing f).mem = true := by
  dsimp only [onContext]
  split
  · simpa using hf _ (wf_of_mem (shadowIn_mem ..) h)
  · exact hf _ h

@[simp] theorem wf_answerToken (tok : Nat) (a : Answer) : Memory.wf (answerToken s tok a).mem = true := by
  dsimp only [answerToken]
  split
  · exact h
  split
  · exact h
  split
  · simpa using h
  split
  · simpa using h
  · simpa using h
  · split
    · exact wf_onContext (by simpa using h) (fun _ hs => wf_bootUnit (by simpa using hs) _) _
    · exact h
  · exact wf_of_mem (onWave_mem _ (by simp) _) h

@[simp] theorem wf_loadWing (wing : Nat) (im : CtxImage) : Memory.wf (loadWing s wing im).mem = true := by
  dsimp only [loadWing]
  split
  · exact h
  · refine wf_backRecords ?_ _
    rw [setWing_mem, foldl_mem (by simp)]
    exact wf_ite (by simpa using h) h

@[simp] theorem wf_loadImage (wing : Nat) (im : CtxImage) : Memory.wf (loadImage s wing im).mem = true := by
  dsimp only [loadImage]
  refine wf_fold _ (fun _ _ hs => wf_answerToken hs _ _) _ (wf_of_mem rfl (wf_loadWing ?_ wing im))
  rw [loadGateOps_mem]
  dsimp only
  rw [foldl_mem (by simp), foldl_mem (by simp)]
  exact h

@[simp] theorem wf_restoreWing (wing image : Nat) (intact : Bool) : Memory.wf (restoreWing s wing image intact).1.mem = true := by
  dsimp only [restoreWing]
  split
  · split
    · simpa using h
    · exact h
  split
  · exact h
  · split
    · refine wf_tendBuilds (wf_of_mem (resumeWing_mem ..) (wf_loadImage ?_ _ _)) _
      split <;> simpa using h
    · exact h

@[simp] theorem wf_saveOut (wing : Nat) : Memory.wf (saveOut s wing).1.mem = true := by
  dsimp only [saveOut]
  simp [h]

omit h in
@[simp] theorem wf_completeAll {s : State} (h : Memory.wf s.mem = true) (wing n : Nat) : Memory.wf (completeAll s wing n).mem = true := by
  induction n generalizing s with
  | zero => exact h
  | succ n ih =>
    refine ih (wf_fold _ (fun s e hs => ?_) _ h)
    exact wf_ite (wf_of_mem (setLevel_mem ..) hs) (wf_completeLevel hs _)

@[simp] theorem wf_haltWholeWing (wing : Nat) (reset : Bool) : Memory.wf (haltWholeWing s wing reset).mem = true := by
  dsimp only [haltWholeWing]
  rw [setWing_mem]
  refine wf_completeAll ?_ _ _
  simp [h]

@[simp] theorem wf_resetWing (wing trigger : Nat) : Memory.wf (resetWing s wing trigger).mem = true := by
  dsimp only [resetWing]
  split
  · exact h
  · rw [emit_mem]
    exact wf_ite (by simp [h]) (by simp [h])

@[simp] theorem wf_destroyWing (wing : Nat) : Memory.wf (destroyWing s wing).mem = true := by
  dsimp only [destroyWing]
  exact wf_ite (by simp [h]) (by simp [h])

-- What the host writes.

omit h in
@[simp] theorem wf_hostPut {s : State} (h : Memory.wf s.mem = true) (w : Wing) (key : Option (BitVec 512)) (l : List (Loc × Nat))
    (bs : List Byte) : Memory.wf (hostPut s w key l bs).mem = true := by
  induction l generalizing s bs with
  | nil => simpa [hostPut] using h
  | cons p l ih =>
    obtain ⟨_ | _, n⟩ := p
    · exact ih (wf_hostLands h (fun _ hs => wf_writeVia hs _ _ _) _ _) _
    · exact ih h _

omit h in
@[simp] theorem wf_capwPut {s : State} (h : Memory.wf s.mem = true) (w : Wing) (segs : List (Loc × Nat)) (o : Nat) (cs : List Cap) :
    Memory.wf (capwPut w segs o cs s).mem = true := by
  induction cs generalizing s o with
  | nil => exact h
  | cons c cs ih =>
    refine ih ?_ _
    split
    · exact wf_hostLands h (fun _ hs => wf_writeCapVia hs _ _ _ _) _ _
    · exact h

theorem wf_deliverBinding (wing : Nat) (args : Cap) (x : Option (Nat × Nat)) {t : State}
    (e : deliverBinding s wing args x = .ok t) : Memory.wf t.mem = true := by
  dsimp only [deliverBinding] at e
  split at e
  · exact Except.ok.inj e ▸ h
  split at e
  · cases e
  split at e
  · cases e
  split at e
  · exact Except.ok.inj e ▸ wf_writeCapVia h _ _ _ _
  · cases e

-- Caches, sweeps and spares.

@[simp] theorem wf_evictLine (line : Nat) : Memory.wf (evictLine s line).mem = true := by
  dsimp only [evictLine]
  (repeat' split) <;> simp [h]

@[simp] theorem wf_leaveWays (world : Nat) (q : QuotaSpec) : Memory.wf (leaveWays s world q).mem = true :=
  wf_fold _ (fun _ _ hs => wf_ite (wf_evictLine hs _) hs) _ h

@[simp] theorem wf_clearBit (g : Wing) (l : DirtyLog) (p : Nat) : Memory.wf (clearBit s g l p).mem = true := by
  dsimp only [clearBit]
  split
  · exact wf_ite (wf_pokeMem h _ _) h
  · exact h

@[simp] theorem wf_dropDead (wing : Nat) : Memory.wf (dropDead s wing).mem = true :=
  wf_tendBuilds (wf_fold _ (fun _ _ hs => wf_dropTile hs _ _) _ h) _

@[simp] theorem wf_backWorld (world : Nat) : Memory.wf (backWorld s world).mem = true :=
  wf_fold _ (fun _ _ hs => wf_ite (wf_backRecords hs _) hs) _ h

@[simp] theorem wf_endSweep : Memory.wf (endSweep s).mem = true := by
  refine wf_backWorld (wf_fold _ (fun _ _ hs => wf_dropDead hs _) _ ?_) _
  simp [h]

@[simp] theorem wf_moveSlice (slice : Nat) : Memory.wf (moveSlice s slice).mem = true :=
  wf_fold _ (fun _ _ hs => wf_evictLine hs _) _ h

@[simp] theorem wf_retireElem (kind : SpareKind) (elem : Nat) : Memory.wf (retireElem s kind elem).mem = true := by
  dsimp only [retireElem]
  split
  · rw [foldl_mem (by simp)]
    exact wf_fold _ (fun _ _ hs => wf_resetWing hs _ _) _ h
  · simpa using h
  · exact h

-- The page tables.

@[simp] theorem wf_zeroFrame (w : Wing) (ipa : Nat) : Memory.wf (zeroFrame s w ipa).mem = true := by
  dsimp only [zeroFrame]
  split
  · exact wf_ite h (wf_scrubFrame h _ _)
  · exact h

@[simp] theorem wf_writeTable (w : Wing) (ipa v : Nat) : Memory.wf (writeTable s w ipa v).mem = true := by
  dsimp only [writeTable]
  split
  · exact wf_writeMem h _ _
  · exact h

omit h in
@[simp] theorem wf_linkTables {s : State} (h : Memory.wf s.mem = true) (w : Wing) (va entry level : Nat) (ts : List Nat) :
    Memory.wf (linkTables s w va entry level ts).1.mem = true := by
  induction ts generalizing s entry level with
  | nil => exact h
  | cons t ts ih => exact ih (wf_writeTable h _ _ _) _ _

@[simp] theorem wf_installLeaf (wing va : Nat) (r : MapReq) (frame : Nat) (pool : List Nat) (level entry : Nat) (news : List Nat) :
    Memory.wf (installLeaf s wing va r frame pool level entry news).mem = true := by
  dsimp only [installLeaf]
  split
  · exact h
  · exact wf_writeTable (wf_linkTables (wf_fold _ (fun _ _ hs => wf_zeroFrame hs _ _) _ (by simpa using h)) _ _ _ _ _) _ _ _

@[simp] theorem wf_reapTables (wing : Nat) : Memory.wf (reapTables s wing).mem = true := by
  rw [reapTables, setWing_mem]
  exact wf_fold _ (fun _ _ hs => wf_ite (wf_writeTable hs _ _ _) hs) _ h

/-- The state of an answer of the page mapping has its memory in the canonical form. -/
def AnsWf : MapAns → Prop
  | .status s _ => Memory.wf s.mem = true
  | .scan s _ _ => Memory.wf s.mem = true
  | _ => True

omit h in
theorem wf_of_status {a : MapAns} {t : State} {v : DWord} (ha : AnsWf a) (e : a = .status t v) : Memory.wf t.mem = true := by
  subst e
  exact ha

omit h in
theorem wf_of_scan {a : MapAns} {t : State} {pages got : List Nat} (ha : AnsWf a) (e : a = .scan t pages got) :
    Memory.wf t.mem = true := by
  subst e
  exact ha

@[simp] theorem ansWf_mapOld (wing va : Nat) (r : MapReq) (scanned : Bool) : AnsWf (mapOld s wing va r scanned) := by
  have hw (a v : Nat) : Memory.wf (writeTable s (wingAt s wing) a v).mem = true := wf_writeTable h _ _ _
  dsimp only [mapOld]
  (repeat' split) <;> simp [AnsWf, h, hw]

@[simp] theorem ansWf_mapNew (wing va : Nat) (r : MapReq) (arg : Nat) (scanned : Bool) (got : List Nat) :
    AnsWf (mapNew s wing va r arg scanned got) := by
  dsimp only [mapNew]
  (repeat' split) <;> simp [AnsWf, h]

@[simp] theorem ansWf_mapRun (wing va : Nat) (r : MapReq) (arg : Nat) (scanned : Bool) (got : List Nat) :
    AnsWf (mapRun s wing va r arg scanned got) := by
  dsimp only [mapRun]
  split
  · exact h
  split
  · exact h
  · split
    · exact ansWf_mapNew h _ _ _ _ _ _
    · exact ansWf_mapOld h _ _ _ _

-- What follows every step.

theorem wf_portsUp : Memory.wf (portsUp s).mem = true := by
  dsimp only [portsUp]
  split
  · exact h
  · rfl

@[simp] theorem wf_tendBoots : Memory.wf (tendBoots s).mem = true := wf_ite h (wf_bootWaiters h)

@[simp] theorem wf_tend : Memory.wf (tend s).mem = true := by
  dsimp only [tend]
  rw [tick_mem, hostTick_mem]
  exact wf_tendBoots (wf_of_mem (foldl_mem (by simp) _ _) (wf_tendPosts (by simpa using h)))

omit h in
theorem wf_afterMove {before after : State} (hb : Memory.wf before.mem = true) (ha : Memory.wf after.mem = true) :
    Memory.wf (afterMove before after).mem = true := wf_ite hb (wf_tend ha)

end
end Sys2Proof.Proofs.MemoryCanonical
end

section
/-! The canonical form of memory through instructions and events: what each answers with, where it answers with a state, keeps it. The
shared shapes of the instructions come first (an instruction of a wave, of an engine, of the supervisor; a message of the host), then
the instructions and the events one by one. -/
namespace Sys2Proof.Proofs.MemoryOfInstrs
open Sys2Proof Sys2Proof.Machine Sys2Proof.Laws.Tables Sys2Proof.Laws.Mem Sys2Proof.Laws.State Sys2Proof.Laws.Ops
open Sys2Proof.Proofs.MemoryKept Sys2Proof.Proofs.MemoryCanonical

/-- An answer's state, where there is one, has its memory in the canonical form. -/
def OutWf (o : Out) : Prop := ∀ t, o = .next t → Memory.wf t.mem = true

/-- The state that a meaning may give, where it does not trap, has its memory in the canonical form. -/
def OkWf {ε : Type} (x : Except ε State) : Prop := ∀ t, x = .ok t → Memory.wf t.mem = true

@[simp] theorem outWf_next (s : State) : OutWf (.next s) ↔ Memory.wf s.mem = true := by simp [OutWf]
@[simp] theorem outWf_fault (r : Fault) : OutWf (.fault r) := by simp [OutWf]
@[simp] theorem outWf_refused (r : Refusal) : OutWf (.refused r) := by simp [OutWf]
@[simp] theorem okWf_ok {ε : Type} (s : State) : OkWf (.ok s : Except ε State) ↔ Memory.wf s.mem = true := by simp [OkWf]
@[simp] theorem okWf_error {ε : Type} (e : ε) : OkWf (.error e : Except ε State) := by simp [OkWf]

/-- A meaning after a check or a reading: it need hold only where that succeeds. -/
@[simp] theorem okWf_bind {ε α : Type} {x : Except ε α} {f : α → Except ε State} (hf : ∀ a, x = .ok a → OkWf (f a)) :
    OkWf (x >>= f) := by
  cases x with
  | error e => exact okWf_error e
  | ok a => exact hf a rfl

theorem okWf_ite {ε : Type} {c : Prop} [Decidable c] {x y : Except ε State} (hx : OkWf x) (hy : OkWf y) :
    OkWf (if c then x else y) := by split <;> assumption

section
variable {s : State} (h : Memory.wf s.mem = true)
include h

-- Instructions of a wave and of the supervisor.

theorem outWf_runState (a : Where) {f : Ctx → Except Trap State} (hf : ∀ c, OkWf (f c)) : OutWf (runState s a f) := by
  dsimp only [runState]
  split
  · split
    · simpa using h
    next e => exact (outWf_next _).mpr (hf _ _ e)
  · simpa using h

theorem outWf_runSys {f : Ctx → Except Trap State} (hf : ∀ c, OkWf (f c)) : OutWf (runSys s f) := by
  dsimp only [runSys]
  split
  · exact outWf_runState h .wave hf
  · simpa using h

@[simp] theorem outWf_runFlow (a : Where) (f : Ctx → Except Trap (DWord × Wave)) : OutWf (runFlow s a f) :=
  outWf_runState h a fun c => okWf_bind fun p _ => by simpa using h

@[simp] theorem outWf_jumpVia (a : BitVec 7) (link : Option Nat) : OutWf (jumpVia s a link) := outWf_runFlow h _ _

theorem okWf_unheld (c : Ctx) {x : Except Trap State} (hx : OkWf x) : OkWf (unheld s c x) := okWf_ite (by simpa using h) hx

-- Translations before an access.

theorem okWf_withPages (c : Ctx) (cap : Cap) (x n : Nat) (need : Need) {f : State → Table PageTr → Except Trap State}
    (hf : ∀ t p, t.mem = s.mem → OkWf (f t p)) : OkWf (withPages s c cap x n need f) := by
  dsimp only [withPages]
  have hb := bulkTrs_mem s c x need (bulkPages cap x n)
  split
  next e =>
    rw [e] at hb
    exact hf _ _ hb
  next e =>
    rw [e] at hb
    simpa using wf_of_mem hb h

/-- The state after the checks of an access's lanes. -/
theorem wf_checkLanes (c : Ctx) (q : AccReq) (ls : List LaneReq) {r : State × Option Located} (e : checkLanes s c q ls = .ok r) :
    Memory.wf r.1.mem = true := by
  dsimp only [checkLanes] at e
  split at e
  · cases e
  · generalize hs : (if capHas q.cap pSCRATCH = true then _ else _ : State) = s1 at e
    have h1 : Memory.wf s1.mem = true := by
      rw [← hs]
      exact wf_ite (wf_ite h h) (wf_of_mem (foldl_mem (by simp) _ _) (wf_ite h h))
    split at e
    · obtain rfl := Except.ok.inj e
      exact h1
    · obtain rfl := Except.ok.inj e
      simpa using h1
    · split at e
      · obtain rfl := Except.ok.inj e
        exact h1
      · obtain rfl := Except.ok.inj e
        simp [h1]
      · obtain rfl := Except.ok.inj e
        exact h1

theorem outWf_counted (sw : Bool) (a : Where) (path : Ctx → Nat) (acq rel : Bool) (prep : Ctx → Except Trap (AccReq × List LaneReq))
    (kind : Ctx → List (Nat × Loc) → AccKind) : OutWf (counted s sw a path acq rel prep kind) := by
  refine outWf_runState h a fun c => okWf_unheld h c (okWf_bind fun q _ => okWf_bind fun r e => ?_)
  have hr := wf_checkLanes h _ _ _ e
  dsimp only
  split <;> simpa using hr

theorem outWf_engineIssue (sw : Bool) (q : Src) (path : Nat) (kind : Ctx → Except Trap AccKind) :
    OutWf (engineIssue s sw q path kind) :=
  outWf_runState h _ fun c => okWf_unheld h c (okWf_bind fun k _ => by simpa using h)

-- The matrix unit and the gate.

theorem outWf_accInstr (a : Where) (rowwise : Bool) (bad : Ctx → Bool) (need : Ctx → List Nat) (u : Ctx → MatUse)
    {f : Ctx → State → Except Trap State} (hf : ∀ c t, Memory.wf t.mem = true → OkWf (f c t)) :
    OutWf (accInstr s a rowwise bad need u f) := by
  refine outWf_runState h a fun c => okWf_bind fun _ _ => okWf_bind fun _ _ => okWf_bind fun _ _ => okWf_ite ?_ (hf _ _ ?_)
  · simpa using h
  · simpa using h

@[simp] theorem okWf_matEffect (sw : Bool) (f : Ctx → Matrix → Matrix) (c : Ctx) : OkWf (matEffect sw f c s) := by
  simpa [matEffect] using h

@[simp] theorem okWf_recordMiss (c : Ctx) (wr : Bool) (m : RecordMiss) : OkWf (recordMiss s c wr m) := by
  cases m with
  | dev r d => cases d <;> simp [recordMiss, h]
  | held => simp [recordMiss, h]

@[simp] theorem okWf_resolveInto (c : Ctx) (w : Wave) : OkWf (resolveInto s c w) := by
  dsimp only [resolveInto]
  split <;> simp [h]

@[simp] theorem okWf_stopNow (c : Ctx) (e : Stop) : OkWf (stopNow s c e) := by
  cases e <;> simp [stopNow, h]

theorem outWf_exchangeOp (sw : Bool) (ok : Nat → Bool) (fs : List (BitVec 7)) (breg : Nat) (pre : Ctx → Except Trap Bool)
    (done : Ctx → Bool) (kind : GateKind) (ety : Nat → Nat) (d : Nat) (x y : Ctx → List Nat) {take : Ctx → State → State}
    (ht : ∀ c t, (take c t).mem = t.mem) : OutWf (exchangeOp s sw ok fs breg pre done kind ety d x y take) := by
  refine outWf_runState h _ fun c => ?_
  dsimp only
  split
  · simp
  · refine okWf_bind fun _ _ => okWf_bind fun _ _ => ?_
    (repeat' split) <;> simp [h, ht]

-- Recipes, levels, pages.

theorem okWf_flushIssue (sw : Bool) (rights : List Nat) (al : Nat) (kind : Nat → Nat → AccKind) (t : BitVec 7) (cr : BitVec 5)
    (o : BitVec 7) (c : Ctx) : OkWf (flushIssue sw rights al kind t cr o s c) := by
  refine okWf_bind fun _ _ => okWf_ite (okWf_error _) (okWf_unheld h c ?_)
  simpa using h

theorem outWf_recipeOp (sw : Bool) (d a : BitVec 7) (w : DWord) {f : State → Nat → Nat → Recipe → State × DWord}
    (hf : ∀ n id r, Memory.wf (f s n id r).1.mem = true) : OutWf (recipeOp s sw d a w f) := by
  refine outWf_runState h _ fun c => okWf_bind fun _ _ => ?_
  dsimp only
  split <;> simp [h, hf]

theorem outWf_levelOp (sw : Bool) (d a : BitVec 7) {f : State → Nat → State} (hf : ∀ n, Memory.wf (f s n).mem = true) :
    OutWf (levelOp s sw d a f) := by
  refine outWf_runState h _ fun c => ?_
  split <;> simp [h, hf]

@[simp] theorem okWf_tlbiRange (sw : Bool) (lo hi : Nat) (c : Ctx) : OkWf (tlbiRange sw lo hi s c) := by
  dsimp only [tlbiRange]
  (repeat' split) <;> simp [h]

omit h in
theorem okWf_scrubGo {s : State} (h : Memory.wf s.mem = true) (sw : Bool) (t : BitVec 7) (c : Ctx) (x pages n done : Nat) (r : Receipt) :
    OkWf (scrubGo sw t c x pages n done r s) := by
  induction n generalizing s done r with
  | zero => simp [scrubGo, h]
  | succ n ih =>
    dsimp only [scrubGo]
    split
    · simp
    · simpa using h
    split
    · simp
    split
    · simpa using h
    generalize hz : races _ _ _ _ = z
    have h2 : Memory.wf z.2.mem = true := by simpa [← hz] using h
    split
    next e => simpa using wf_of_fst e (wf_scrubPage h2 _ _)
    next e =>
      have h3 := wf_scramble (wf_of_fst e (wf_scrubPage h2 _ _)) c.k z.1
      exact okWf_ite (ih h3 _ _) (by simpa using h3)

theorem okWf_pgmapGo (c : Ctx) (sw : Bool) (t : BitVec 7) (va : Nat) (r : MapReq) (arg : Nat) {ans : MapAns} (ha : AnsWf ans) :
    OkWf (pgmapGo s c sw t va r arg ans) := by
  cases ans with
  | status s' v => simpa [pgmapGo, AnsWf] using ha
  | bad e => simpa [pgmapGo] using h
  | s2 ipa kind => simpa [pgmapGo] using h
  | short n => simpa [pgmapGo] using h
  | scan s' pages got =>
    dsimp only [pgmapGo]
    split
    · split
      · split
        next e => simpa using wf_of_status (ansWf_mapRun (by simpa using h) _ _ _ _ _ _) e
        next => simpa using h
      · simpa [AnsWf] using ha
    split
    · simpa using h
    split
    · simpa using h
    split
    · simpa using h
    split
    · simpa using h
    · simpa using h
    · split
      · split
        next e => simpa using wf_of_status (ansWf_mapRun h _ _ _ _ _ _) e
        next => simpa using h
      · simpa using h

-- Messages of the host.

@[simp] theorem outWf_refuse (d : HostHdr) (op status : Nat) : OutWf (refuse s d op status) := by simpa [refuse] using h

theorem outWf_takeMsg (d : HostHdr) (op : Nat) {f : State → Out} (hf : OutWf (f s)) : OutWf (takeMsg s d op f) := by
  dsimp only [takeMsg]
  (repeat' split) <;> simp [h, hf]

theorem outWf_takeBytes (d : HostHdr) (op : Nat) (bs : List Byte) {f : State → Out} (hf : OutWf (f s)) :
    OutWf (takeBytes s d op bs f) := by
  refine outWf_takeMsg h _ _ ?_
  split
  · exact outWf_refuse h _ _ _
  · exact hf

theorem outWf_takeForWing (d : HostHdr) (op : Nat) {f : State → Nat → Out} (hf : ∀ n, OutWf (f s n)) : OutWf (takeForWing s d op f) := by
  refine outWf_takeMsg h _ _ ?_
  split
  · exact hf _
  · exact outWf_refuse h _ _ _

theorem outWf_takeForBind (d : HostHdr) (op b : Nat) {f : State → Out} (hf : OutWf (f s)) : OutWf (takeForBind s d op b f) := by
  refine outWf_takeMsg h _ _ ?_
  split
  · exact hf
  · exact outWf_refuse h _ _ _

theorem outWf_heldUnit (d : HostHdr) (op : Nat) (i : BitVec 32) {f : State → Nat → Nat → State}
    (hf : ∀ n k, KeepsWf fun t => f t n k) : OutWf (heldUnit s d op i f) := by
  refine outWf_takeForWing h _ _ fun n => ?_
  split
  · exact outWf_refuse h _ _ _
  · split
    · exact outWf_refuse h _ _ _
    · rw [outWf_next, reply_mem]
      exact wf_onContext h (hf _ _) _

@[simp] theorem outWf_mapFin (d : HostHdr) (wing : Nat) (q : Option Scan) (v : DWord) : OutWf (mapFin s d wing q v) := by
  simp [mapFin, h]

omit h in
@[simp] theorem outWf_mapDoneWith (s : State) {s' : State} (h : Memory.wf s'.mem = true) (d : HostHdr) (wing va : Nat) (r : MapReq)
    (q : Option Scan) (v : DWord) : OutWf (mapDoneWith s s' d wing va r q v) := by
  dsimp only [mapDoneWith]
  (repeat' split) <;> simp [h]

@[simp] theorem outWf_mapScan (d : HostHdr) (wing va : Nat) (r : MapReq) (arg : Nat) (q : Scan) : OutWf (mapScan s d wing va r arg q) := by
  dsimp only [mapScan]
  split
  · simpa using h
  split
  · simpa using h
  · exact outWf_mapFin h _ _ _ _
  · split
    next e => exact outWf_mapDoneWith s (wf_of_status (ansWf_mapRun h _ _ _ _ _ _) e) _ _ _ _ _ _
    next => exact outWf_mapFin h _ _ _ _

-- Shared by a few instructions.

@[simp] theorem outWf_atomIssue (sw : Bool) (op : AtomOp) (acc : Nat → Bool) (t : BitVec 7) (cr : BitVec 5) (o : BitVec 7) (q : Bool) :
    OutWf (atomIssue s sw op acc t cr o q) := outWf_counted h _ _ _ _ _ _ _

@[simp] theorem outWf_dequeIssue (sw : Bool) (op : DequeOp) (t : BitVec 7) (cr : BitVec 5) (o : BitVec 7) (q : Bool) :
    OutWf (dequeIssue s sw op t cr o q) := outWf_counted h _ _ _ _ _ _ _

@[simp] theorem outWf_barIssue (sw : Bool) (op : BarOp) (rel : Bool) (t : BitVec 7) (cr : BitVec 5) (o : BitVec 7) :
    OutWf (barIssue s sw op rel t cr o) := outWf_counted h _ _ _ _ _ _ _

@[simp] theorem outWf_rowsIssue (sw gather : Bool) (t : BitVec 7) (cr : BitVec 5) (o : BitVec 7) (i : BitVec 4) :
    OutWf (rowsIssue s sw gather t cr o i) := outWf_engineIssue h _ _ _ _

-- Divergence, waits and the matrix unit.

theorem outWf_execBrp (sw : Bool) (p : BitVec 3) (n : Bool) (j : BitVec 19) : OutWf (execBrp sw p n j s) := by
  refine outWf_runState h _ fun c => ?_
  dsimp only
  (repeat' split) <;> simp [h, wf_writePieces]

theorem outWf_execBari (sw : Bool) (t : BitVec 7) (cr : BitVec 5) (o : BitVec 7) : OutWf (execBari sw t cr o s) := by
  have hb := outWf_barIssue h sw .init false t cr o
  dsimp only [execBari]
  split
  next e => split <;> simpa using hb _ e
  next => exact hb

theorem outWf_execBarw (sw : Bool) (t : BitVec 7) (cr : BitVec 5) (o : BitVec 7) : OutWf (execBarw sw t cr o s) := by
  refine outWf_runState h _ fun c => okWf_ite (by simpa using h) (okWf_unheld h c (okWf_bind fun r e => ?_))
  have hr := wf_checkLanes h _ _ _ e
  dsimp only
  (repeat' split) <;> simp [hr]

theorem outWf_execMldo (sw : Bool) (t : BitVec 7) (cr : BitVec 5) (o : BitVec 7) (b : Bool) : OutWf (execMldo sw t cr o b s) := by
  refine outWf_runState h _ fun c => okWf_bind fun _ _ => okWf_bind fun _ _ => okWf_unheld h c (okWf_bind fun r e => ?_)
  have hr := wf_checkLanes h _ _ _ e
  dsimp only
  (repeat' split) <;> simp [h, hr]

theorem outWf_execMdrn (sw : Bool) (n : BitVec 3) (a : BitVec 4) (r : BitVec 7) (z f : Bool) : OutWf (execMdrn sw n a r z f s) := by
  refine outWf_runState h _ fun c => okWf_bind fun _ _ => ?_
  dsimp only
  split
  · simpa using h
  refine okWf_bind fun _ _ => okWf_bind fun _ _ => okWf_ite (by simpa using h) (okWf_ite ?_ ?_)
  · exact (okWf_ok _).mpr (wf_of_mem (drainStep_mem _ _ _ _ _ _ _ _ _ _ rfl) h)
  · exact okWf_withPages h _ _ _ _ _ fun t p e =>
      (okWf_ok _).mpr (wf_of_mem ((drainStep_mem _ _ _ _ _ _ _ _ _ _ e.symm).trans e) h)

theorem outWf_execTldp (sw : Bool) (t : BitVec 7) (cr : BitVec 5) (o : BitVec 7) (i : BitVec 4) : OutWf (execTldp sw t cr o i s) := by
  dsimp only [execTldp]
  refine outWf_runState h _ fun c => okWf_bind fun _ _ => okWf_bind fun _ _ => okWf_unheld h c ?_
  split
  · simpa using h
  · exact okWf_withPages h _ _ _ _ _ fun t _ e => by simpa using wf_of_mem e h

theorem outWf_execMcab (sw : Bool) (cr : BitVec 5) (o : BitVec 7) (i : BitVec 4) : OutWf (execMcab sw cr o i s) :=
  outWf_runState h _ fun c => okWf_bind fun _ _ => okWf_unheld h c
    (okWf_ite (by simpa using h) (okWf_withPages h _ _ _ _ _ fun t _ ht => by simpa using wf_of_mem ht h))

theorem outWf_execAccsv (sw : Bool) (t : BitVec 7) (cr : BitVec 5) (o : BitVec 7) (i : BitVec 4) : OutWf (execAccsv sw t cr o i s) :=
  outWf_runState h _ fun c => okWf_bind fun _ _ => okWf_unheld h c
    (okWf_ite (by simpa using h) (okWf_withPages h _ _ _ _ _ fun t _ ht => by simpa using wf_of_mem ht h))

theorem outWf_execAccrs (sw : Bool) (t : BitVec 7) (cr : BitVec 5) (o : BitVec 7) (i : BitVec 4) : OutWf (execAccrs sw t cr o i s) :=
  outWf_runState h _ fun c => okWf_bind fun _ _ => okWf_unheld h c
    (okWf_ite (by simpa using h) (okWf_withPages h _ _ _ _ _ fun t _ ht => by simpa using wf_of_mem ht h))

theorem outWf_execMma (sw : Bool) (n : BitVec 3) (a b : BitVec 4) (k : BitVec 3) (g : BitVec 2) : OutWf (execMma sw n a b k g s) := by
  dsimp only [execMma]
  refine outWf_accInstr h _ _ _ _ _ fun c t ht => ?_
  (repeat' split) <;> simp [ht]

theorem outWf_execMrda (sw : Bool) (n : BitVec 3) (r : BitVec 7) (q : BitVec 2) : OutWf (execMrda sw n r q s) :=
  outWf_accInstr h _ _ _ _ _ fun c t ht => by simpa using ht

theorem outWf_execShmma (sw : Bool) (n : BitVec 3) (a b : BitVec 4) (r : BitVec 7) : OutWf (execShmma sw n a b r s) := by
  dsimp only [execShmma]
  exact outWf_exchangeOp h _ _ _ _ _ _ _ _ _ _ _ fun _ _ => accTake_mem _ _

theorem outWf_execShdeal (sw : Bool) (t : BitVec 7) (cr : BitVec 5) (o : BitVec 7) : OutWf (execShdeal sw t cr o s) := by
  refine outWf_runState h _ fun c => okWf_bind fun _ _ => ?_
  dsimp only
  split
  · exact okWf_error _
  · exact okWf_unheld h c (by simpa using h)

-- Recipes and levels.

theorem outWf_execRcpdef (sw : Bool) (t : BitVec 7) (cr : BitVec 5) (o : BitVec 7) (b : Bool) : OutWf (execRcpdef sw t cr o b s) := by
  refine outWf_runState h _ fun c => okWf_bind fun _ _ => okWf_unheld h c ?_
  split
  · exact okWf_stopNow h _ _
  · exact okWf_ite ((okWf_ok _).mpr h) ((okWf_ok _).mpr (wf_of_mem (finishRegs_mem ..) (wf_defineRecipe h _ _ _)))

theorem outWf_execRcpdrpR (sw : Bool) (d a : BitVec 7) : OutWf (execRcpdrpR sw d a s) := by
  refine outWf_recipeOp h _ _ _ _ fun n id r => ?_
  dsimp only
  split
  · exact h
  split
  · exact h
  · rw [setWing_mem]
    exact wf_backBytes h _ _ _

theorem outWf_execRcpqry (sw : Bool) (d a : BitVec 7) : OutWf (execRcpqry sw d a s) := outWf_recipeOp h _ _ _ _ fun _ _ _ => h

theorem outWf_execEnq (sw : Bool) (t : BitVec 7) (cr : BitVec 5) (o : BitVec 7) (i : BitVec 4) : OutWf (execEnq sw t cr o i s) := by
  refine outWf_runState h _ fun c => ?_
  dsimp only
  split
  · exact okWf_error _
  · refine okWf_unheld h c ?_
    (repeat' split) <;> simp [h]

theorem outWf_execEnqa (sw : Bool) (t : BitVec 7) (cr : BitVec 5) (o : BitVec 7) : OutWf (execEnqa sw t cr o s) := by
  refine outWf_runState h _ fun c => ?_
  dsimp only
  split
  · exact okWf_error _
  refine okWf_unheld h c ?_
  split
  · exact okWf_stopNow h _ _
  split
  · simpa using h
  split
  · split
    next e => simpa using wf_refuseLaunch h _ _ _ _ e
    next => exact okWf_stopNow h _ _
  · split
    next => simpa using h
    next e => simpa using wf_of_mem (enterLaunch_mem e) h

-- The supervisor.

theorem outWf_execMfsr (sw : Bool) (d : BitVec 7) (r : BitVec 16) : OutWf (execMfsr sw d r s) := by
  dsimp only [execMfsr]
  split
  · exact outWf_runSys h fun c => by simpa using h
  · exact outWf_runState h _ fun c => by simpa using h

theorem outWf_execMtsr (sw : Bool) (d : BitVec 7) (r : BitVec 16) : OutWf (execMtsr sw d r s) := by
  dsimp only [execMtsr]
  split
  · dsimp only [runLocal]
    split <;> simp [h]
  · exact outWf_runSys h fun c => by simpa using h

theorem outWf_execPgmap (sw : Bool) (t : BitVec 7) (cr : BitVec 5) (o : BitVec 7) : OutWf (execPgmap sw t cr o s) := by
  refine outWf_runSys h fun c => ?_
  dsimp only
  split
  · exact okWf_error _
  split
  · simpa using h
  · split <;> simp [h]
  · split
    · simpa using h
    · have ht : Memory.wf (tendScans s (wingNoOf s c.k)).mem = true := by simpa using h
      exact okWf_pgmapGo ht _ _ _ _ _ _ (ansWf_mapRun ht _ _ _ _ _ _)

theorem outWf_execCflsh (sw : Bool) (t : BitVec 7) (cr : BitVec 5) (o : BitVec 7) (i : Bool) : OutWf (execCflsh sw t cr o i s) :=
  outWf_runState h _ fun _ => okWf_flushIssue h _ _ _ _ _ _ _ _

theorem outWf_execCinv (sw : Bool) (t : BitVec 7) (cr : BitVec 5) (o : BitVec 7) : OutWf (execCinv sw t cr o s) :=
  outWf_runSys h fun _ => okWf_flushIssue h _ _ _ _ _ _ _ _

theorem outWf_execScrub (sw : Bool) (t : BitVec 7) (cr : BitVec 5) (o : BitVec 7) : OutWf (execScrub sw t cr o s) := by
  refine outWf_runSys h fun c => ?_
  dsimp only
  split
  · exact okWf_error _
  · split
    · simpa using h
    · exact okWf_unheld h c (okWf_scrubGo h _ _ _ _ _ _ _ _)

-- Events.

/-- Power-on starts from an empty memory. -/
theorem outWf_execPowerOn (fail : Option (Nat × Nat)) : OutWf (execPowerOn fail s) := by
  dsimp only [execPowerOn]
  split
  · exact (outWf_next s).mpr h
  · split <;> exact (outWf_next _).mpr rfl

theorem outWf_execCountedAccessComplete (k : Nat) (path : BitVec 3) : OutWf (execCountedAccessComplete k path s) := by
  dsimp only [execCountedAccessComplete]
  split
  · simpa using h
  · rw [outWf_next, settle_mem]
    exact wf_perform_getD h _ _ _

theorem outWf_execBarrierDelivery (k : Nat) (path : BitVec 3) (n : Nat) : OutWf (execBarrierDelivery k path n s) := by
  dsimp only [execBarrierDelivery]
  (repeat' split) <;> simp [h, wf_writeLoc]

theorem outWf_execPublFlip (k : Nat) : OutWf (execPublFlip k s) := by
  dsimp only [execPublFlip]
  split
  · simpa using h
  split
  · split
    · rw [outWf_next, settle_mem]
      exact wf_perform_getD h _ _ _
    · simpa using h
  · simpa using h

theorem outWf_execRevocationSweepComplete : OutWf (execRevocationSweepComplete s) := by
  dsimp only [execRevocationSweepComplete]
  (repeat' split) <;> simp [h, wf_writePieces]

theorem outWf_execDieOverTemperature : OutWf (execDieOverTemperature s) :=
  (outWf_next _).mpr (wf_fold _ (fun _ _ hs => wf_resetWing hs _ _) _ h)

-- Messages of the host.

theorem outWf_execHostEnqa (d : HostHdr) (rec : List Byte) (bind : Option (Nat × Nat)) : OutWf (execHostEnqa d rec bind s) := by
  refine outWf_takeBytes h _ _ _ ?_
  dsimp only
  split
  · exact outWf_refuse h _ _ _
  split
  · exact outWf_refuse h _ _ _
  split
  · split
    · split
      · simpa using h
      · split
        next e => simpa using wf_refuseLaunch h _ _ _ _ e
        next => simpa using h
    · split
      next => exact outWf_refuse h _ _ _
      next e =>
        split
        next => exact outWf_refuse h _ _ _
        next e' => simpa using wf_deliverBinding (wf_of_mem (enterLaunch_mem e) h) _ _ _ e'
  · exact outWf_refuse h _ _ _

theorem outWf_execHostOpcodeUnassigned (d : HostHdr) (op : BitVec 8) : OutWf (execHostOpcodeUnassigned d op s) := by
  dsimp only [execHostOpcodeUnassigned]
  split
  · exact outWf_takeMsg h _ _ (outWf_refuse h _ _ _)
  · simpa using h

theorem outWf_execWingCreate (d : HostHdr) (block : List Byte) : OutWf (execWingCreate d block s) := by
  refine outWf_takeBytes h _ _ _ ?_
  split
  next e => simpa using wf_of_mem (createWing_mem e) h
  next => exact outWf_refuse h _ _ _

theorem outWf_execStage2TableWrite (d : HostHdr) (ipa : BitVec 48) (level : Nat) (entry : BitVec 64) :
    OutWf (execStage2TableWrite d ipa level entry s) := by
  refine outWf_takeForWing h _ _ fun n => ?_
  dsimp only
  (repeat' split) <;> simp [h, wf_writeMem]

theorem outWf_execGraphCreate (d : HostHdr) (done : BitVec 128) (parent : BitVec 32) (nodes : List NodeSpec) :
    OutWf (execGraphCreate d done parent nodes s) := by
  refine outWf_takeForWing h _ _ fun n => ?_
  dsimp only
  split
  · exact outWf_refuse h _ _ _
  split
  · exact outWf_refuse h _ _ _
  · exact outWf_refuse h _ _ _
  split
  · exact outWf_refuse h _ _ _
  split
  · exact outWf_refuse h _ _ _
  split
  next => exact outWf_refuse h _ _ _
  next e =>
    split
    next => exact outWf_refuse h _ _ _
    next e' => simpa using wf_of_mem (allotNodes_mem e') (wf_of_mem (newLevel_mem e) h)

theorem outWf_execJobCreate (d : HostHdr) (desc : List Byte) : OutWf (execJobCreate d desc s) := by
  refine outWf_takeForWing h _ _ fun n => ?_
  dsimp only
  split
  · exact outWf_refuse h _ _ _
  split
  · exact outWf_refuse h _ _ _
  split
  · split
    · exact outWf_refuse h _ _ _
    · split
      next => exact outWf_refuse h _ _ _
      next e => simpa using wf_of_mem (newLevel_mem e) h
  · exact outWf_refuse h _ _ _

theorem outWf_execHaltResume (d : HostHdr) (i : BitVec 32) : OutWf (execHaltResume d i s) :=
  outWf_heldUnit h _ _ _ fun _ _ _ ht => by simpa using ht

theorem outWf_execHaltEnd (d : HostHdr) (i : BitVec 32) : OutWf (execHaltEnd d i s) :=
  outWf_heldUnit h _ _ _ fun _ _ _ ht => by simpa using ht

theorem outWf_execHostScrub (d : HostHdr) (phys : Bool) (base len : Nat) (owner : BitVec 4) :
    OutWf (execHostScrub d phys base len owner s) := by
  refine outWf_takeMsg h _ _ ?_
  dsimp only
  split
  · exact outWf_refuse h _ _ _
  split
  · exact outWf_refuse h _ _ _
  split
  next e => simpa using wf_of_fst e (wf_hostScrubGo h _ _ _ _ _ _ _)
  next e => exact outWf_refuse (wf_of_fst e (wf_hostScrubGo h _ _ _ _ _ _ _)) _ _ _
  next e => simpa using wf_of_fst e (wf_hostScrubGo h _ _ _ _ _ _ _)

theorem outWf_execHarvest (d : HostHdr) (first count : Nat) : OutWf (execHarvest d first count s) := by
  refine outWf_takeForWing h _ _ fun n => ?_
  dsimp only
  split
  · exact outWf_refuse h _ _ _
  split
  · exact outWf_refuse h _ _ _
  · rw [outWf_next, reply_mem]
    exact wf_fold _ (fun _ _ hs => wf_clearBit hs _ _ _) _ h

theorem outWf_execStage1Map (d : HostHdr) (va req frame : BitVec 64) : OutWf (execStage1Map d va req frame s) := by
  refine outWf_takeForWing h _ _ fun n => ?_
  dsimp only
  split
  · split <;> simp [h]
  split
  · simpa using h
  · simpa using h
  · exact outWf_mapFin h _ _ _ _
  · split <;> simp [h]
  split
  · exact outWf_mapFin h _ _ _ _
  split
  · simpa using h
  have hs : Memory.wf (tendScans s n).mem = true := by simpa using h
  generalize tendScans s n = s1 at hs ⊢
  split
  next e => exact outWf_mapDoneWith _ (wf_of_status (ansWf_mapRun hs _ _ _ _ _ _) e) _ _ _ _ _ _
  next => simpa using h
  next e =>
    have hs' := wf_of_scan (ansWf_mapRun hs _ _ _ _ _ _) e
    split
    · split
      next e' => exact outWf_mapDoneWith _ (wf_of_status (ansWf_mapRun (by simpa using hs) _ _ _ _ _ _) e') _ _ _ _ _ _
      next => exact outWf_mapFin hs _ _ _ _
    · split
      · split
        · exact outWf_mapScan hs _ _ _ _ _ _
        · simpa using hs
      · exact outWf_mapScan (by simpa using hs') _ _ _ _ _ _
  next => simpa using hs

end
end Sys2Proof.Proofs.MemoryOfInstrs
end

section
/-! O59. The canonical form of memory through a step: every instruction and every event, every move, and so every step. -/
namespace Sys2Proof.Proofs.MemoryStaysCanonical
open Sys2Proof Sys2Proof.Machine Sys2Proof.Safety Sys2Proof.Laws.Tables Sys2Proof.Laws.Mem Sys2Proof.Laws.State Sys2Proof.Laws.Ops
open Sys2Proof.Proofs.RegisterOnly Sys2Proof.Proofs.MemoryKept Sys2Proof.Proofs.MemoryCanonical Sys2Proof.Proofs.MemoryOfInstrs

section
variable {s : State} (h : Memory.wf s.mem = true)
include h

/-- An instruction on registers alone leaves memory as it is. -/
theorem outWf_exec_registerOnly {i : Instr} (hr : registerOnly i = true) : OutWf (exec i s) := by
  obtain ⟨t, e, hk, -⟩ := exec_registerOnly_kept s hr
  rw [e, outWf_next, hk.mem]
  exact h

/-- Every other instruction and every event, by its shape. -/
theorem outWf_exec_other {i : Instr} (hr : registerOnly i = false) : OutWf (exec i s) := by
  cases i
  case bra | call =>
    dsimp only [exec]
    exact outWf_runFlow h _ _
  case brp sw p n j => exact outWf_execBrp h sw p n j
  case bari => exact outWf_execBari h _ _ _ _
  case barw => exact outWf_execBarw h _ _ _ _
  case mldo => exact outWf_execMldo h _ _ _ _ _
  case mma => exact outWf_execMma h _ _ _ _ _ _
  case mrda => exact outWf_execMrda h _ _ _ _
  case mdrn => exact outWf_execMdrn h _ _ _ _ _ _
  case tldp => exact outWf_execTldp h _ _ _ _ _
  case mcab => exact outWf_execMcab h _ _ _ _
  case accsv => exact outWf_execAccsv h _ _ _ _ _
  case accrs => exact outWf_execAccrs h _ _ _ _ _
  case shdeal => exact outWf_execShdeal h _ _ _ _
  case shmma => exact outWf_execShmma h _ _ _ _ _
  case rcpdef => exact outWf_execRcpdef h _ _ _ _ _
  case rcpdrpR => exact outWf_execRcpdrpR h _ _ _
  case rcpqry => exact outWf_execRcpqry h _ _ _
  case enq => exact outWf_execEnq h _ _ _ _ _
  case enqa => exact outWf_execEnqa h _ _ _ _
  case mfsr => exact outWf_execMfsr h _ _ _
  case mtsr => exact outWf_execMtsr h _ _ _
  case pgmap => exact outWf_execPgmap h _ _ _ _
  case cflsh => exact outWf_execCflsh h _ _ _ _ _
  case cinv => exact outWf_execCinv h _ _ _ _
  case scrub => exact outWf_execScrub h _ _ _ _
  case powerOn => exact outWf_execPowerOn h _
  case countedAccessComplete => exact outWf_execCountedAccessComplete h _ _
  case barrierDelivery => exact outWf_execBarrierDelivery h _ _ _
  case publFlip => exact outWf_execPublFlip h _
  case revocationSweepComplete => exact outWf_execRevocationSweepComplete h
  case hostEnqa => exact outWf_execHostEnqa h _ _ _
  case hostOpcodeUnassigned => exact outWf_execHostOpcodeUnassigned h _ _
  case wingCreate => exact outWf_execWingCreate h _ _
  case stage2TableWrite => exact outWf_execStage2TableWrite h _ _ _ _
  case graphCreate => exact outWf_execGraphCreate h _ _ _ _
  case jobCreate => exact outWf_execJobCreate h _ _
  case haltResume => exact outWf_execHaltResume h _ _
  case haltEnd => exact outWf_execHaltEnd h _ _
  case hostScrub => exact outWf_execHostScrub h _ _ _ _ _
  case harvest => exact outWf_execHarvest h _ _ _
  case stage1Map => exact outWf_execStage1Map h _ _ _ _
  case dieOverTemperature => exact outWf_execDieOverTemperature h
  case sjoin | yield | mclmT | trap =>
    dsimp only [exec]
    refine outWf_runState h _ fun c => ?_
    simp [h]
  case join | ret | exit | fork | mclm | mrls | shopn | shsta | shdsc | qpsh | prio | phset | snap | pixrd =>
    dsimp only [exec]
    refine outWf_runState h _ fun c => ?_
    dsimp only
    (repeat' split) <;> simp [h]
  case jmpc | jmpcLink =>
    dsimp only [exec]
    exact outWf_jumpVia h _ _
  case cmovS =>
    dsimp only [exec]
    exact outWf_runSys h fun c => by simp [h]
  case cldc | cstc | vcld | vcst | ld | st | ldu | stu | lds | sts | ldac | strl | acas | amxix | axadd | axrd =>
    dsimp only [exec]
    exact outWf_counted h _ _ _ _ _ _ _
  case gath | scat =>
    dsimp only [exec]
    exact outWf_rowsIssue h _ _ _ _ _ _
  case waitc | ende | unitStart | unitRetirement | levelCompletion | phaseStart | nodeTimerExpiry | agingThreshold | contextSwap |
      stopTimeout | shadowOrHubError | matrixUncorrectableError | registerUncorrectableError | unitRelaunch | gateExchangeComplete
      | turnstileTimeout | revocationSweepStart | recipeBuildComplete | recipeBuildFailure | vitrineLatch |
      clockChangeoverComplete | gateUncorrectableError | deadGenerationPacket | kgenRequestTimeout | ballastExchange =>
    dsimp only [exec, execWaitc, execEnde, execUnitStart, execUnitRetirement, execLevelCompletion, execPhaseStart,
      execNodeTimerExpiry, execAgingThreshold, execContextSwap, execStopTimeout, execShadowOrHubError,
      execMatrixUncorrectableError, execRegisterUncorrectableError, execUnitRelaunch, execGateExchangeComplete,
      execTurnstileTimeout, execRevocationSweepStart, execRecipeBuildComplete, execRecipeBuildFailure, execVitrineLatch,
      execClockChangeoverComplete, execGateUncorrectableError, execDeadGenerationPacket, execKgenRequestTimeout,
      execBallastExchange]
    (repeat' split) <;> simp [h]
  case tcpy | bcpy | publ =>
    dsimp only [exec]
    exact outWf_engineIssue h _ _ _ _
  case rdvz | mstat | shtrp | shrcv | teth | qpop =>
    dsimp only [exec]
    refine outWf_runState h _ fun c => ?_
    (repeat' split) <;> simp [h]
  case aadd | amin | amax | aand | aor | axor | axchg =>
    dsimp only [exec]
    exact outWf_atomIssue h _ _ _ _ _ _ _
  case dqpsh | dqpop | dqstl =>
    dsimp only [exec]
    exact outWf_dequeIssue h _ _ _ _ _ _
  case bara | barx =>
    dsimp only [exec]
    exact outWf_barIssue h _ _ _ _ _ _
  case mzero | mzeroF | mzeroT | mwra | mscl =>
    dsimp only [exec]
    exact outWf_accInstr h _ _ _ _ _ fun c t ht => okWf_matEffect ht _ _ _
  case shmul | shbtr | shcmp | shrvl | shrvlR =>
    dsimp only [exec]
    exact outWf_exchangeOp h _ _ _ _ _ _ _ _ _ _ _ fun _ _ => rfl
  case rcppin | rcpunp | rcpdrp =>
    dsimp only [exec]
    refine outWf_recipeOp h _ _ _ _ fun n id r => ?_
    (repeat' split) <;> simp [h]
  case cancl | compl =>
    dsimp only [exec]
    exact outWf_levelOp h _ _ _ fun n => by simp [h]
  case sret | mtsrTrapcause | pixwr =>
    dsimp only [exec]
    refine outWf_runSys h fun c => ?_
    dsimp only
    (repeat' split) <;> simp [h]
  case mtsrAccown =>
    dsimp only [exec]
    refine outWf_runSys h fun c => ?_
    (repeat' split) <;> simp [h]
  case mtsrPix | lpinv | lpinvW | tlbi | tlbiW | halt =>
    dsimp only [exec]
    refine outWf_runSys h fun c => ?_
    simp [h]
  case budgetWindow | lidTemperatureNormal | unsupportedOptionPacket | lidOverTemperature =>
    dsimp only [exec]
    exact (outWf_next _).mpr (by simp [h])
  case hostEnq | hostWrite | deal =>
    dsimp only [exec]
    refine outWf_takeBytes h _ _ _ ?_
    dsimp only
    (repeat' split) <;> simp [h]
  case hostRead | capw | quota | bind | keyRoll =>
    dsimp only [exec]
    refine outWf_takeMsg h _ _ ?_
    dsimp only
    (repeat' split) <;> simp [h]
  case wingDestroy | hostCancel | clockRaise | powerCap | snapshotReadout | hostAssociationCreate | hostAssociationRemove |
      levelClose =>
    dsimp only [exec]
    refine outWf_takeMsg h _ _ ?_
    (repeat' split) <;> simp [h]
  case unbind | resumeBinding =>
    dsimp only [exec]
    refine outWf_takeForBind h _ _ _ ?_
    simp [h]
  case suspendBinding =>
    dsimp only [exec]
    refine outWf_takeForBind h _ _ _ ?_
    dsimp only
    (repeat' split) <;> simp [h]
  case preEmptWing | restoreWing | unitPreEmpt | poolRefill =>
    dsimp only [exec]
    refine outWf_takeForWing h _ _ fun n => ?_
    dsimp only
    (repeat' split) <;> simp [h]
  case saveOut | logEnable =>
    dsimp only [exec]
    refine outWf_takeForWing h _ _ fun n => ?_
    (repeat' split) <;> simp [h]
  case stage2Answer | snapshotTrigger =>
    dsimp only [exec]
    refine outWf_takeMsg h _ _ ?_
    simp [h]
  case wingReset | logDisable | snapshotArm =>
    dsimp only [exec]
    refine outWf_takeForWing h _ _ fun n => ?_
    simp [h]
  case hostRevocationSweep =>
    dsimp only [exec]
    refine outWf_takeBytes h _ _ _ ?_
    (repeat' split) <;> simp [h]
  all_goals cases hr

theorem outWf_exec (i : Instr) : OutWf (exec i s) := by
  cases hr : registerOnly i with
  | true => exact outWf_exec_registerOnly h hr
  | false => exact outWf_exec_other h hr

-- The moves.

theorem outWf_closeMove {o : Out} (ho : OutWf o) {f : State → State} (hf : ∀ t, (f t).mem = t.mem) : OutWf (closeMove s f o) := by
  cases o with
  | next t =>
    rw [outWf_next] at ho
    exact (outWf_next _).mpr (wf_afterMove h (wf_of_mem (hf t) ho))
  | fault r => exact outWf_fault r
  | refused r => exact outWf_refused r

/-- A fetch may note a translation, and writes no byte. -/
theorem wf_of_fetch {k : Nat} {src : Src} {w : Word} {t : State} (e : fetch s k src = .word w t) : Memory.wf t.mem = true := by
  dsimp only [fetch] at e
  split at e
  · cases e
  split at e
  · cases e
  split at e
  · cases e
  · cases e
  split at e
  · cases e
  split at e
  · cases e
  · cases e
    simpa [noteFetch] using h

theorem outWf_issueStep (k : Nat) (src : Src) : OutWf (issueStep k src s) := by
  dsimp only [issueStep]
  split
  · exact (outWf_next _).mpr (wf_afterMove h (by simpa using h))
  · exact (outWf_next _).mpr (wf_afterMove h (by simpa using h))
  next e =>
    split
    · exact outWf_refused _
    · refine outWf_closeMove h (outWf_exec ?_ _) fun _ => afterIssue_mem ..
      exact (wf_of_fetch h e :)

theorem outWf_settleWith (k : Nat) (src : Src) : OutWf (settleWith issueStep k src s) := by
  dsimp only [settleWith]
  have hi : OutWf (issueStep k src (outOfHandler s k)) := outWf_issueStep (by simpa using h) k src
  split
  next e =>
    rw [e, outWf_next] at hi
    exact (outWf_next _).mpr (wf_ite (wf_afterMove h h) (by simpa using hi))
  next => exact hi

theorem outWf_readPart (d : HostHdr) (cap : BitVec 128) (off len n : Nat) : OutWf (readPart d cap off len n s) := by
  refine outWf_takeMsg h _ _ ?_
  dsimp only
  (repeat' split) <;> simp [h]

theorem wf_quietMove (m : Move) : Memory.wf (quietMove s m).mem = true := by
  cases m with
  | perform w k n => exact wf_perform_getD h _ _ _
  | stop w => simpa [quietMove] using h
  | evict line => exact wf_evictLine h _
  | decay line => exact h
  | decayScr unit chunk => exact wf_ite (by simpa using h) h
  | loadMixed wing => exact wf_ite (by simpa using h) h
  | part i n =>
    dsimp only [quietMove]
    split
    · split
      next e => exact outWf_readPart h _ _ _ _ _ _ e
      next => exact h
    · exact h
  | portsUp => exact wf_portsUp h
  | corrected kind elem => exact h
  | sense sensor reading => exact h
  | gateStep b ch => simpa [quietMove] using h
  | bring im key => simpa [quietMove] using h
  | dram use pa bursts acts turns => simpa [quietMove] using h
  | settle k src => exact h
  | issue k src => exact h
  | event i => exact h

end

/-- Settles O59: the step runs a move, which every instruction, event and quiet move keeps in the form. -/
theorem memoryStaysCanonical : Obligations.MemoryStaysCanonical := by
  intro s t h hstep
  have hs : Memory.wf { s with script := s.script.tail }.mem = true := h
  obtain rfl | ⟨m, -, rfl | ⟨k, src, -, ht⟩ | ⟨k, src, -, ht⟩ | ⟨i, u, -, hu, rfl⟩ | rfl⟩ := step_next hstep
  · exact h
  · exact hs
  · exact outWf_issueStep hs _ _ _ ht
  · exact outWf_settleWith hs _ _ _ ht
  · exact wf_afterMove hs (outWf_exec hs i u hu)
  · exact wf_afterMove hs (wf_quietMove hs m)

end Sys2Proof.Proofs.MemoryStaysCanonical
end
